-- ==== Sys2Proof/Word.lean ====
section
/-! DEFINITION. The word types of the KX9 and their plainest arithmetic (R8, R9). -/

namespace Sys2Proof

/-- One byte of any memory (R9). -/
abbrev Byte := BitVec 8
/-- A 32-bit scalar (C, V and M; R45). -/
abbrev W32 := BitVec 32
/-- A 64-bit scalar (A; R45). -/
abbrev W64 := BitVec 64
/-- A program-counter value or virtual byte address (R30). -/
abbrev VAddr := BitVec 48
/-- A 128-byte row; element 0 lies in its lowest bits (R9, R162). -/
abbrev Row := BitVec 1024
/-- A mask-stack entry; bit j belongs to byte j of a row (R228). -/
abbrev Mask := BitVec 128

/-- The natural number that `w` bits of `x` from bit `lo` up hold (R8). -/
def bitsAt (x lo w : Nat) : Nat := (x >>> lo) % 2 ^ w

/-- Byte `i` of a bit vector, counted from its least significant byte (R9). -/
def byteOf {n : Nat} (x : BitVec n) (i : Nat) : Byte := BitVec.ofNat 8 (x.toNat >>> (8 * i))

/-- The bytes of the low `n` bytes of a natural number, lowest first (R9). -/
def bytesOfNat : Nat → Nat → List Byte
  | 0, _ => []
  | n + 1, x => BitVec.ofNat 8 x :: bytesOfNat n (x / 256)

/-- The natural number whose bytes, lowest first, are given (R9). -/
def natOfBytes : List Byte → Nat
  | [] => 0
  | b :: bs => b.toNat + 256 * natOfBytes bs

/-- The lesser of two naturals, where a count saturates (R109). -/
def satTo (top x : Nat) : Nat := if x ≤ top then x else top

end Sys2Proof
end

