-- ==== Sys2Proof/Config.lean ====
section
/-! DEFINITION. Values that the spec leaves open. Each is an opaque constant: nothing in Lean can evaluate it or prove a
value of it, so a statement about it holds for every value. `n` is the count that the machine draws fresh values with
(State.fresh). -/

namespace Sys2Proof.Config

/-- The byte of a row whose contents are lost (R141, R442, R455), by the stamp of the loss and its address (log 3). -/
opaque lostByte (n addr : Nat) : BitVec 8
/-- A byte of a save image whose place the spec does not give an item, by the stamp of the save and its address (log 21). -/
opaque imageByte (n addr : Nat) : BitVec 8
/-- The way of a translation or cache set that an installation replaces (R154, R373) (log 11). -/
opaque replaceWay (n ways : Nat) : Nat
/-- The energy that an operation of a kind adds to a task's joule counter, in 1/64 uJ (R110, R295) (log 10). -/
opaque energy (kind n : Nat) : Nat
/-- Bytes of a response whose content the spec leaves to the package: versions, capabilities, measurements, signatures (R458)
(log 15). -/
opaque message (kind : Nat) (n : Nat) : List (BitVec 8)
/-- TRAPVAL of a CAP_SHORT at PHASE, to which the spec gives no value (R115) (log 16). -/
opaque freeWord (n : Nat) : BitVec 64
/-- The link key that a port derives with its neighbour, and the IV and additional data of a flit's encryption, by a stamp (R463)
(log 7). -/
opaque linkKey (port n : Nat) : BitVec 256
opaque linkIv (n : Nat) : BitVec 96
opaque linkAad (n : Nat) : List (BitVec 8)
/-- The payload of a flit that carries a request or a response with these fields (R463), which the spec does not lay out (log 25). -/
opaque payload (fields : List Nat) : BitVec 1856

/-- The digest of the architectural state of C at a take boundary (R286), whose function the spec does not give (log 79). -/
opaque digest (state : List Nat) : BitVec 64
/-- What TCHK's tests 0 to 2 find in the physical array and its checkers (R275), by the test and a stamp (log 82). -/
opaque checkResult (test n : Nat) : Nat
/-- The serial number, the qualified levels and the fused security version of the identity block (R456) (log 80). -/
opaque serial : BitVec 64
opaque qualified : BitVec 15
opaque securityVersion : BitVec 64
/-- The byte of the identity certificate chain at an offset (R456) (log 80). -/
opaque certByte (o : Nat) : BitVec 8
/-- Which copy of a line an uncorrectable error stands in, where the cache holds a staged and a committed one (R434) (log 22). -/
opaque stagedCopy (n : Nat) : Bool
/-- The device's signature of a transcript (R458): 0 RSASSA-3072, 1 SLH-DSA-SHA2-192s (log 15). -/
opaque sign (alg : Nat) (text : List (BitVec 8)) : List (BitVec 8)
/-- The length of the identity certificate chain (R456) (log 80). -/
opaque certLen : Nat
/-- The fused hashes of the public keys of the two signature algorithms (R457), first byte highest (log 86). -/
opaque rsaKeyHash : BitVec 384
opaque slhKeyHash : BitVec 384
/-- The .N8 element of a sample of 10 bits, which R459 does not state (log 24). -/
opaque narrow (code : BitVec 10) : BitVec 8

/-- The dispatcher that a packet core gives a card to, among those of its partition with room (log 23). -/
opaque homePick (n : Nat) : Nat

end Sys2Proof.Config
end

