-- ==== Sys2Proof/Machine/Crypto.lean ====
section
/-! DEFINITION. The two standard algorithms that the spec names for sealing: AES-256-GCM (R407) and SHA-384 (R468). The
manual names them and leaves their text to FIPS 197, SP 800-38D and FIPS 180-4 (log 77). -/

namespace Sys2Proof.Machine

/-! ## AES-256 on lists of 16 bytes -/

/-- Twice an element of GF(2^8). -/
def gfTwice (x : Nat) : Nat := if x < 128 then 2 * x else (2 * x) ^^^ 0x11B

/-- The product of two elements of GF(2^8), over `n` bits of the second. -/
def gfMul (x : Nat) : Nat → Nat → Nat
  | 0, _ => 0
  | n + 1, y => (if y % 2 = 1 then x else 0) ^^^ gfTwice (gfMul x n (y / 2))

/-- The product of two bytes in GF(2^8). -/
def gf (x y : Nat) : Nat := gfMul x 8 y

/-- The 254th power, which is the inverse of an element other than 0. -/
def gfInv (x : Nat) : Nat :=
  let sq := fun y => gf y y
  let x3 := gf (sq x) x
  let x63 := gf (gf (sq (sq (sq (sq x3)))) (sq (sq x3))) x3
  sq (gf (sq x63) x)

/-- Rotation of a byte to the left. -/
def rotl8 (x n : Nat) : Nat := (x * 2 ^ n) % 256 ||| x / 2 ^ (8 - n)

/-- The substitution of a byte. -/
def aesSub (x : Nat) : Nat :=
  let y := gfInv x
  y ^^^ rotl8 y 1 ^^^ rotl8 y 2 ^^^ rotl8 y 3 ^^^ rotl8 y 4 ^^^ 0x63

/-- Bytewise exclusive or. -/
def xorBytes (a b : List Nat) : List Nat := List.zipWith (· ^^^ ·) a b

/-- One more word of the key schedule, from the words so far, latest first; `i` is its index. -/
def keyWord (ws : List (List Nat)) (i : Nat) : List Nat :=
  let prev := ws.headD []
  let old := ws.getD 7 []
  let t :=
    if i % 8 = 0 then
      let r := (prev.drop 1 ++ prev.take 1).map aesSub
      xorBytes r [(List.range (i / 8 - 1)).foldl (fun x _ => gfTwice x) 1, 0, 0, 0]
    else if i % 8 = 4 then prev.map aesSub
    else prev
  xorBytes old t

/-- The 60 words of the key schedule of a 256-bit key of 32 bytes. -/
def keySchedule (key : List Nat) : List (List Nat) :=
  let first := ((List.range 8).map fun i => (key.drop (4 * i)).take 4).reverse
  ((List.range 52).foldl (fun ws k => keyWord ws (k + 8) :: ws) first).reverse

/-- ShiftRows on 16 bytes that hold the state column by column. -/
def shiftRows (s : List Nat) : List Nat := (List.range 16).map fun i => s.getD ((i + 4 * (i % 4)) % 16) 0

/-- MixColumns of one column. -/
def mixColumn (c : List Nat) : List Nat :=
  let g := fun i => c.getD (i % 4) 0
  (List.range 4).map fun i => gfTwice (g i) ^^^ (gfTwice (g (i + 1)) ^^^ g (i + 1)) ^^^ g (i + 2) ^^^ g (i + 3)

/-- MixColumns. -/
def mixColumns (s : List Nat) : List Nat := (List.range 4).flatMap fun i => mixColumn ((s.drop (4 * i)).take 4)

/-- AES-256 of one block under a key schedule. -/
def aesBlock (ws : List (List Nat)) (block : List Nat) : List Nat :=
  let rk := fun r => ((ws.drop (4 * r)).take 4).flatten
  let s := (List.range 13).foldl (fun st r => xorBytes (mixColumns (shiftRows (st.map aesSub))) (rk (r + 1)))
    (xorBytes block (rk 0))
  xorBytes (shiftRows (s.map aesSub)) (rk 14)

/-! ## GCM -/

/-- The number whose bytes, highest first, are given. -/
def natOfBe (l : List Nat) : Nat := l.foldl (fun x b => 256 * x + b) 0

/-- `n` bytes of a number, highest first. -/
def beOfNat (n x : Nat) : List Nat := ((List.range n).map fun i => x / 256 ^ i % 256).reverse

/-- The product of two blocks in GF(2^128), whose first bit is the coefficient of 1; `n` bits of `x` are left. -/
def ghashMul (x : Nat) : Nat → Nat → Nat → Nat
  | 0, _, z => z
  | n + 1, v, z =>
    ghashMul x n (if v % 2 = 1 then (v / 2) ^^^ (0xE1 * 2 ^ 120) else v / 2) (if x.testBit n then z ^^^ v else z)

/-- Cuts bytes into blocks of 16, the last filled with zeros. -/
def blocks16 : Nat → List Nat → List (List Nat)
  | 0, _ => []
  | n + 1, bs => if bs = [] then [] else (bs.take 16 ++ List.replicate (16 - bs.length) 0) :: blocks16 n (bs.drop 16)

/-- GHASH of blocks under the hash key `h`. -/
def ghash (h : Nat) (l : List (List Nat)) : Nat := l.foldl (fun y b => ghashMul (y ^^^ natOfBe b) 128 h 0) 0

/-- AES-256-GCM with a 96-bit IV: the cipher text and the 16 bytes of the tag. -/
def aesGcm (key iv aad text : List Nat) : List Nat × List Nat :=
  let ws := keySchedule key
  let enc := aesBlock ws
  let h := natOfBe (enc (List.replicate 16 0))
  let out := ((blocks16 text.length text).zipIdx.flatMap fun b => xorBytes b.1 (enc (iv ++ beOfNat 4 (b.2 + 2)))).take text.length
  let y := ghash h (blocks16 aad.length aad ++ blocks16 out.length out
    ++ [beOfNat 8 (8 * aad.length) ++ beOfNat 8 (8 * out.length)])
  (out, xorBytes (beOfNat 16 y) (enc (iv ++ beOfNat 4 1)))

/-! ## SHA-384 -/

/-- The 80 round constants. -/
def shaK : List (BitVec 64) :=
  [0x428a2f98d728ae22, 0x7137449123ef65cd, 0xb5c0fbcfec4d3b2f, 0xe9b5dba58189dbbc]
  ++ [0x3956c25bf348b538, 0x59f111f1b605d019, 0x923f82a4af194f9b, 0xab1c5ed5da6d8118]
  ++ [0xd807aa98a3030242, 0x12835b0145706fbe, 0x243185be4ee4b28c, 0x550c7dc3d5ffb4e2]
  ++ [0x72be5d74f27b896f, 0x80deb1fe3b1696b1, 0x9bdc06a725c71235, 0xc19bf174cf692694]
  ++ [0xe49b69c19ef14ad2, 0xefbe4786384f25e3, 0x0fc19dc68b8cd5b5, 0x240ca1cc77ac9c65]
  ++ [0x2de92c6f592b0275, 0x4a7484aa6ea6e483, 0x5cb0a9dcbd41fbd4, 0x76f988da831153b5]
  ++ [0x983e5152ee66dfab, 0xa831c66d2db43210, 0xb00327c898fb213f, 0xbf597fc7beef0ee4]
  ++ [0xc6e00bf33da88fc2, 0xd5a79147930aa725, 0x06ca6351e003826f, 0x142929670a0e6e70]
  ++ [0x27b70a8546d22ffc, 0x2e1b21385c26c926, 0x4d2c6dfc5ac42aed, 0x53380d139d95b3df]
  ++ [0x650a73548baf63de, 0x766a0abb3c77b2a8, 0x81c2c92e47edaee6, 0x92722c851482353b]
  ++ [0xa2bfe8a14cf10364, 0xa81a664bbc423001, 0xc24b8b70d0f89791, 0xc76c51a30654be30]
  ++ [0xd192e819d6ef5218, 0xd69906245565a910, 0xf40e35855771202a, 0x106aa07032bbd1b8]
  ++ [0x19a4c116b8d2d0c8, 0x1e376c085141ab53, 0x2748774cdf8eeb99, 0x34b0bcb5e19b48a8]
  ++ [0x391c0cb3c5c95a63, 0x4ed8aa4ae3418acb, 0x5b9cca4f7763e373, 0x682e6ff3d6b2b8a3]
  ++ [0x748f82ee5defb2fc, 0x78a5636f43172f60, 0x84c87814a1f0ab72, 0x8cc702081a6439ec]
  ++ [0x90befffa23631e28, 0xa4506cebde82bde9, 0xbef9a3f7b2c67915, 0xc67178f2e372532b]
  ++ [0xca273eceea26619c, 0xd186b8c721c0c207, 0xeada7dd6cde0eb1e, 0xf57d4f7fee6ed178]
  ++ [0x06f067aa72176fba, 0x0a637dc5a2c898a6, 0x113f9804bef90dae, 0x1b710b35131c471b]
  ++ [0x28db77f523047d84, 0x32caab7b40c72493, 0x3c9ebe0a15c9bebc, 0x431d67c49c100d4c]
  ++ [0x4cc5d4becb3e42b6, 0x597f299cfc657e2a, 0x5fcb6fab3ad6faec, 0x6c44198c4a475817]

/-- The initial hash value of SHA-384. -/
def shaInit : List (BitVec 64) :=
  [0xcbbb9d5dc1059ed8, 0x629a292a367cd507, 0x9159015a3070dd17, 0x152fecd8f70e5939]
  ++ [0x67332667ffc00b31, 0x8eb44a8768581511, 0xdb0c2e0d64f98fa7, 0x47b5481dbefa4fa4]

/-- One more word of the message schedule, from the words so far, latest first. -/
def shaWord (ws : List (BitVec 64)) : BitVec 64 :=
  let w := fun k => ws.getD (k - 1) 0
  let a := w 15
  let b := w 2
  ((b.rotateRight 19) ^^^ (b.rotateRight 61) ^^^ (b >>> 6)) + w 7
    + ((a.rotateRight 1) ^^^ (a.rotateRight 8) ^^^ (a >>> 7)) + w 16

/-- One round on the eight working variables. -/
def shaRound (v : List (BitVec 64)) (k w : BitVec 64) : List (BitVec 64) :=
  let g := fun i => v.getD i 0
  let a := g 0
  let e := g 4
  let t1 := g 7 + ((e.rotateRight 14) ^^^ (e.rotateRight 18) ^^^ (e.rotateRight 41)) + ((e &&& g 5) ^^^ (~~~e &&& g 6)) + k + w
  let t2 := ((a.rotateRight 28) ^^^ (a.rotateRight 34) ^^^ (a.rotateRight 39)) + ((a &&& g 1) ^^^ (a &&& g 2) ^^^ (g 1 &&& g 2))
  [t1 + t2, a, g 1, g 2, g 3 + t1, e, g 5, g 6]

/-- The hash value after one block of 128 bytes. -/
def shaBlock (h : List (BitVec 64)) (b : List Nat) : List (BitVec 64) :=
  let first := ((List.range 16).map fun i => BitVec.ofNat 64 (natOfBe ((b.drop (8 * i)).take 8))).reverse
  let ws := ((List.range 64).foldl (fun l _ => shaWord l :: l) first).reverse
  List.zipWith (· + ·) h ((shaK.zip ws).foldl (fun v kw => shaRound v kw.1 kw.2) h)

/-- Cuts bytes into blocks of `k`. -/
def blocksBy (k : Nat) : Nat → List Nat → List (List Nat)
  | 0, _ => []
  | n + 1, bs => if bs = [] then [] else bs.take k :: blocksBy k n (bs.drop k)

/-- The 64 bytes of the hash of SHA-384 or SHA-512 from an initial value. -/
def shaFrom (h : List (BitVec 64)) (m : List Nat) : List Nat :=
  let pad := m ++ [0x80] ++ List.replicate ((239 - m.length % 128) % 128) 0 ++ beOfNat 16 (8 * m.length)
  ((blocksBy 128 pad.length pad).foldl shaBlock h).flatMap fun w => beOfNat 8 w.toNat

/-- The 48 bytes of SHA-384. -/
def sha384 (m : List Nat) : List Nat := (shaFrom shaInit m).take 48

/-! ## Their uses -/

/-- The 32 bytes of a key, byte 0 lowest (R9). -/
def keyBytes (k : BitVec 256) : List Nat := (bytesOfNat 32 k.toNat).map BitVec.toNat

/-- The 96-bit IV of a seal, highest byte first: KGEN, VER, frame number and 24 zero bits (R407). -/
def sealIv (kgen ver frame : Nat) : List Nat := beOfNat 12 ((kgen % 256) * 2 ^ 88 + (ver % 2 ^ 28) * 2 ^ 60 + (frame % 2 ^ 36) * 2 ^ 24)

/-- A block sealed under a key: its cipher text and TAG, the leftmost 64 bits of the GCM tag (R405, R407). -/
def sealText (key : BitVec 256) (kgen ver frame ctx : Nat) (text : List Byte) : List Nat × BitVec 64 :=
  let r := aesGcm (keyBytes key) (sealIv kgen ver frame) [ctx % 256, ctx / 256 % 256] (text.map BitVec.toNat)
  (r.1, BitVec.ofNat 64 (natOfBytes ((r.2.take 8).map (BitVec.ofNat 8))))

/-- KID of a sealing key: the leftmost 64 bits of SHA-384 over "KXKID" and the key (R468). -/
def kidOf (key : BitVec 256) : BitVec 64 := BitVec.ofNat 64 (natOfBe ((sha384 ([0x4B, 0x58, 0x4B, 0x49, 0x44] ++ keyBytes key)).take 8))

end Sys2Proof.Machine
end

