-- ==== Sys2Proof/Syntax.lean ====
section
/-! DEFINITION. The instructions and steps of the KX9: one constructor per row of spec/opcode_table.json.
Rows with a word (R53-R65) carry the fields of their encoding; rows without a word are steps of the device and
carry the data that the step is about. -/

namespace Sys2Proof

/-- The four engines of a core (R30, R37). -/
inductive Eng | c | a | v | m
  deriving DecidableEq, Repr

/-- A 6-bit operand code (R56): a register 0-31, a stream 32-47, or one of the codes 48-63 that name nothing. -/
inductive Opnd | reg (n : Fin 32) | q (n : Fin 16) | bad (n : Fin 16)
  deriving DecidableEq, Repr

/-- Bits [25:22] of a word in V and M: the idle count and the wait bit (R53). Both are 0 in C and A. -/
structure Tm where
  idl : Fin 8
  w : Bool
  deriving DecidableEq, Repr

/-- Element types in the T coding (R63, R162). -/
inductive ElemT | s8 | n8 | s16 | n16 | s32 | n32 | h | bf | f | e4 | e5 | t2 | b1
  deriving DecidableEq, Repr

/-- Access sizes of the A engine (R61, R191). -/
inductive Size | s8 | n8 | s16 | n16 | w32 | w64
  deriving DecidableEq, Repr

/-- Atomic operations (R61, R211). -/
inductive AtomOp | add | and | or | xor | min | max | minn | maxn
  deriving DecidableEq, Repr

/-- Scopes (R62, R320), narrow to wide. -/
inductive Scope | engine | job | cluster | island | die | device | system
  deriving DecidableEq, Repr

/-- Orders of an atomic (R62). -/
inductive Order | rlx | acq | rel | acqrel
  deriving DecidableEq, Repr

/-- Compare conditions of PCMP and PCMPI (R99). -/
inductive Cond | eq | ne | lt | ge | ltn | gen
  deriving DecidableEq, Repr

/-- Operations of PLOG (R100). -/
inductive PLogOp | and | or | xor | andn | orn
  deriving DecidableEq, Repr

/-- Answers of THRACK (R116). -/
inductive FlagAns | accept | downgrade | yield
  deriving DecidableEq, Repr

/-- Conditions of VCMP (R234). -/
inductive VCond | eq | ne | lt | le | gt | ge | un
  deriving DecidableEq, Repr

/-- Operations of VRED and VSCAN (R240). -/
inductive RedOp | add | min | max | and | or | xor
  deriving DecidableEq, Repr

/-- Rounding field of VCVT, FMTn.RND and TCFG1.ORND (R64, R145, R262). -/
inductive CvtRnd | rne | rz | stoch | rna
  deriving DecidableEq, Repr

/-- Trap causes (R126). PAGE_FAULT (0x10) is a hold cause and HALT (0x1F) stands in stop records only. -/
inductive Cause
  | illegalOpcode | illegalEncoding | illegalOperand | illegalInTimed | privilege | streamBind | streamKind
  | rasOverflow | rasEmpty | loopDepth | schedMiss | bankConflict | rowRange | walkFault | align | pageFault
  | pageDenied | protection | sealTag | sealExhausted | eccUe | residue | checksum | divergenceUnresolved | flag
  | capShort | maskDepth | trapSw | preempt | wrap | halt
  deriving DecidableEq, Repr

/-- A core of the die: ISL × 16 + CLU × 4 + CORE, the low 7 bits of COREID (R136). -/
abbrev CoreId := Fin 128
/-- An island (R343). -/
abbrev IslId := Fin 8
/-- A cluster of the die: ISL × 4 + CLU (R136). -/
abbrev CluId := Fin 32
/-- A partition (R387). -/
abbrev PartId := Fin 24
/-- A context or its key slot: 0-383 the VF contexts, 384 + p the steward context 0x0400 + p (R388, R413). -/
abbrev CtxId := Fin 408
/-- A card slot of a dispatcher (R309). -/
abbrev SlotId := Fin 512
/-- A queue of a context (R389). -/
abbrev QueueId := Fin 64
/-- A copy engine of a cluster (R303). -/
abbrev CopyId := Fin 2
/-- A core within its cluster (R136). -/
abbrev CoreIx := Fin 4

/-- What an error-correcting read finds (R142, R404, R433). -/
inductive EccRead | clean | corrected | uncorrectable
  deriving DecidableEq, Repr

/-- What the seal engine finds when it fills a block (R404, R408, R416): `corrected` verifies after a correction. -/
inductive FillResult | verified | corrected | dataUncorrectable | metaUncorrectable | tagMismatch
  deriving DecidableEq, Repr

/-- A unit that a scrubber reads (R433). -/
inductive ScrubUnit
  | row (core : CoreId) (bank : Fin 32) (phys : Nat)
  | line (number : Nat)
  | frame (number : Nat)
  deriving DecidableEq, Repr

/-- Host snoops of a host-memory line (R367): the host shares it, or takes it for itself and may write it. -/
inductive Snoop | share | invalidate (wr : Option Row)
  deriving DecidableEq, Repr

/-- TDISP requests that move a TDI (R384). -/
inductive TdMsg | lock | start | stop
  deriving DecidableEq, Repr

/-- A CXL.mem requester: the VF whose TDI it is bound to, and whether its IDE stream is keyed for that TDI (R418). -/
structure HostReq where
  vf : Fin 384
  keyed : Bool
  deriving DecidableEq, Repr

/-- A cell of C's control path beside the scalar registers (R285, R432), with the change that a fault makes there: the program
counter, a predicate, an address of an active loop level or its count, the return-address store, INH. -/
inductive CCell
  | pc (flip : BitVec 48)
  | pred (n : Fin 8)
  | loopFirst (level : Fin 4) (flip : BitVec 48)
  | loopLast (level : Fin 4) (flip : BitVec 48)
  | loopLeft (level : Fin 4) (flip : BitVec 24)
  | ras (entry : Fin 16) (flip : W64)
  | held (flip : BitVec 5)
  | spilled (flip : BitVec 16)
  | window (flip : W32)
  | inh
  deriving DecidableEq, Repr

/-- Single faults of R432 that change state by themselves. -/
inductive FaultKind
  | scratchCell (core : CoreId) (addr : BitVec 21)
  | primaryC (core : CoreId) (reg : Fin 32) (flip : W32)
  | checkerC (core : CoreId) (reg : Fin 32) (flip : W32)
  | thirdC (core : CoreId) (reg : Fin 32) (flip : W32)
  /-- A cell of C's control path, in the primary (0), the checker (1) or a third run (2). -/
  | controlC (core : CoreId) (copy : Fin 3) (cell : CCell)
  | accElement (core : CoreId) (acc : Fin 8) (elem : Fin 4096) (flip : W32)
  /-- Storage cells of an accumulator and of an engine's register file, which correction masks. -/
  | accCell (core : CoreId) (acc : Fin 8) (elem : Fin 4096)
  | regCell (core : CoreId) (eng : Eng) (reg : Fin 32)
  /-- The epilogue's arithmetic. -/
  | epilogue (core : CoreId)
  | storePath (core : CoreId)
  | addressAdder (core : CoreId)
  | lineCell (number : Nat)
  | frameCell (number : Nat)
  deriving DecidableEq, Repr

/-- Readings that the governor takes of one island at a boundary: hottest sensor, regulator energy, overhead (R352). -/
structure IslSense where
  temp : Nat
  meas : Nat
  ovh : Nat
  deriving DecidableEq, Repr

/-- What a peer request asks for (R468). -/
inductive PeerOp
  | read (len : Nat)
  | write (bytes : List Byte)
  /-- One masked write of a sector or row (R195): bytes at offsets from the request's address. -/
  | masked (parts : List (Nat × List Byte))
  | atomic (op : AtomOp) (wide : Bool) (operand : W64)
  | swap (wide : Bool) (operand : W64)
  | cas (wide : Bool) (expected new : W64)
  deriving DecidableEq, Repr

/-- A request to the memory of a peer (R467, R468); the tag of the requester names its response. -/
structure PeerReq where
  tag : Nat
  srcDev : Fin 32
  srcCtx : BitVec 16
  kid : W64
  addr : Nat
  op : PeerOp
  deriving DecidableEq, Repr

/-- A partition that firmware forms, with the fields of its descriptor (R387). -/
structure PartForm where
  part : PartId
  clmask : BitVec 32
  vfbase : Nat
  vfn : Nat
  ctxtab : Nat
  stopbase : Nat
  prqbase : Nat
  prqn : Nat
  replaylim : Byte
  deriving DecidableEq, Repr

/-- What an invalidation covers (R376): everything, a context, or a page of a context. -/
inductive ShootForm | all | ctx (num : Nat) | page (num va : Nat)
  deriving DecidableEq, Repr

/-- What firmware sets up, where the spec gives no register for it: partitions (R387), the tables that it keeps in physical memory and
a steward's frames (R418), owners of semaphores (R306), intake descriptors (R459), logged frames that it takes back into use (R435),
and its invalidations (R376). -/
structure Setup where
  parts : List PartForm
  tables : List (Nat × List Byte)
  owners : List (Nat × Nat)
  intake : List (Fin 48 × BitVec 512)
  lifted : List Nat
  shoots : List (Fin 24 × ShootForm)
  deriving DecidableEq, Repr

/-- The objects that bring-up verifies (R457): the firmware image, the configuration, which may be unsigned, and the identity
certificate. -/
structure BootObjects where
  firmware : List Byte
  config : List Byte
  cert : List Byte
  deriving DecidableEq, Repr

/-- How a bring-up stage ends (R456). -/
inductive StageEnd | ok (objects : BootObjects) (setup : Setup) | failed (err : Fin 6)
  deriving DecidableEq, Repr

/-- The profile of a bitstream (R459); every one that the spec does not list is `other`. -/
inductive VideoProfile | av1Main | hevcMain | hevcMain10 | h264High | other
  deriving DecidableEq, Repr

/-- A decoded frame (R459): its bitstream's profile and frame rate, its size, whether its samples have 10 bits or 8, and their codes,
plane by plane and row by row, with chroma upsampled. -/
structure Pixels where
  profile : VideoProfile
  rate : Nat
  width : Nat
  height : Nat
  deep : Bool
  codes : List (BitVec 10)
  deriving DecidableEq, Repr

/-- A key that KEYSET installs (R413, R458). -/
inductive KeyKind | sealing | ide
  deriving DecidableEq, Repr

/-- The rows of spec/opcode_table.json. -/
inductive Instr
  /-- NOP (R79) -/
  | nop (t : Tm)
  /-- IDLE (R79) -/
  | idle (t : Tm) (n : BitVec 16)
  /-- AT (R80) -/
  | atTake (t : Tm) (d : Opnd) (n : BitVec 16)
  /-- SLATE (R40) -/
  | slate (t : Tm) (g : Bool) (k : BitVec 9)
  /-- RDV (R84) -/
  | rdv (t : Tm) (m : BitVec 4) (k : BitVec 6)
  /-- LOOP (R86) -/
  | loop (t : Tm) (l : Fin 4) (b : BitVec 10) (c : BitVec 10)
  /-- LOOPR (R87) -/
  | loopr (t : Tm) (l : Fin 4) (b : BitVec 10) (r : Opnd)
  /-- BR (R89) -/
  | br (o : BitVec 23)
  /-- BZ (R89) -/
  | bz (a : Opnd) (o : BitVec 16)
  /-- BNZ (R89) -/
  | bnz (a : Opnd) (o : BitVec 16)
  /-- CALL (R90) -/
  | call (o : BitVec 23)
  /-- CALLR (R90) -/
  | callr (a : Opnd)
  /-- RET (R91) -/
  | ret
  /-- LBRK (R88) -/
  | lbrk
  /-- ADD (R92) -/
  | add (t : Tm) (d : Opnd) (a : Opnd) (b : Opnd)
  /-- SUB (R92) -/
  | sub (t : Tm) (d : Opnd) (a : Opnd) (b : Opnd)
  /-- MUL (R92) -/
  | mul (t : Tm) (d : Opnd) (a : Opnd) (b : Opnd)
  /-- MULH (R92) -/
  | mulh (t : Tm) (d : Opnd) (a : Opnd) (b : Opnd)
  /-- MULHN (R92) -/
  | mulhn (t : Tm) (d : Opnd) (a : Opnd) (b : Opnd)
  /-- AND (R92) -/
  | and (t : Tm) (d : Opnd) (a : Opnd) (b : Opnd)
  /-- OR (R92) -/
  | or (t : Tm) (d : Opnd) (a : Opnd) (b : Opnd)
  /-- XOR (R92) -/
  | xor (t : Tm) (d : Opnd) (a : Opnd) (b : Opnd)
  /-- SHL (R92) -/
  | shl (t : Tm) (d : Opnd) (a : Opnd) (b : Opnd)
  /-- SHR (R92) -/
  | shr (t : Tm) (d : Opnd) (a : Opnd) (b : Opnd)
  /-- SRA (R92) -/
  | sra (t : Tm) (d : Opnd) (a : Opnd) (b : Opnd)
  /-- MIN (R92) -/
  | min (t : Tm) (d : Opnd) (a : Opnd) (b : Opnd)
  /-- MAX (R92) -/
  | max (t : Tm) (d : Opnd) (a : Opnd) (b : Opnd)
  /-- MINN (R92) -/
  | minn (t : Tm) (d : Opnd) (a : Opnd) (b : Opnd)
  /-- MAXN (R92) -/
  | maxn (t : Tm) (d : Opnd) (a : Opnd) (b : Opnd)
  /-- MAD (R92) -/
  | mad (t : Tm) (d : Opnd) (a : Opnd) (b : Opnd)
  /-- SLT (R92) -/
  | slt (t : Tm) (d : Opnd) (a : Opnd) (b : Opnd)
  /-- SLTN (R92) -/
  | sltn (t : Tm) (d : Opnd) (a : Opnd) (b : Opnd)
  /-- SEQ (R92) -/
  | seq (t : Tm) (d : Opnd) (a : Opnd) (b : Opnd)
  /-- SEL (R92) -/
  | sel (t : Tm) (d : Opnd) (a : Opnd) (b : Opnd)
  /-- CLZ (R92) -/
  | clz (t : Tm) (d : Opnd) (a : Opnd)
  /-- POPC (R92) -/
  | popc (t : Tm) (d : Opnd) (a : Opnd)
  /-- MOV (R92) -/
  | mov (t : Tm) (d : Opnd) (a : Opnd)
  /-- ADDI (R93) -/
  | addi (t : Tm) (d : Opnd) (a : Opnd) (k : BitVec 10)
  /-- ANDI (R93) -/
  | andi (t : Tm) (d : Opnd) (a : Opnd) (k : BitVec 10)
  /-- ORI (R93) -/
  | ori (t : Tm) (d : Opnd) (a : Opnd) (k : BitVec 10)
  /-- XORI (R93) -/
  | xori (t : Tm) (d : Opnd) (a : Opnd) (k : BitVec 10)
  /-- SHLI (R94) -/
  | shli (t : Tm) (d : Opnd) (a : Opnd) (s : BitVec 6)
  /-- SHRI (R94) -/
  | shri (t : Tm) (d : Opnd) (a : Opnd) (s : BitVec 6)
  /-- SRAI (R94) -/
  | srai (t : Tm) (d : Opnd) (a : Opnd) (s : BitVec 6)
  /-- MOVI (R95) -/
  | movi (t : Tm) (d : Opnd) (k : BitVec 16)
  /-- MOVHI (R95) -/
  | movhi (t : Tm) (d : Opnd) (k : BitVec 16)
  /-- MFS (R96) -/
  | mfs (t : Tm) (d : Opnd) (n : BitVec 10)
  /-- MTS (R98) -/
  | mts (t : Tm) (a : Opnd) (n : BitVec 10)
  /-- PCMP (R99) -/
  | pcmp (p : Fin 8) (a : Opnd) (b : Opnd) (c : Cond)
  /-- PCMPI (R99) -/
  | pcmpi (c : Cond) (p : Fin 8) (a : Opnd) (k : BitVec 10)
  /-- PLOG (R100) -/
  | plog (d : Fin 8) (a : Fin 8) (b : Fin 8) (f : PLogOp)
  /-- PMOV_TO_PRED (R101) -/
  | pmovToPred (p : Fin 8) (a : Opnd)
  /-- PMOV_FROM_PRED (R101) -/
  | pmovFromPred (d : Opnd) (p : Fin 8)
  /-- BP (R102) -/
  | bp (p : Fin 8) (o : BitVec 16)
  /-- BNP (R102) -/
  | bnp (p : Fin 8) (o : BitVec 16)
  /-- SELP (R103) -/
  | selp (d : Opnd) (a : Opnd) (b : Opnd) (p : Fin 8)
  /-- SIG (R104) -/
  | sig (a : Opnd) (e : Fin 64)
  /-- END (R106) -/
  | endJob (s : BitVec 16)
  /-- TRAP (R107) -/
  | trap (k : BitVec 16)
  /-- ERET (R108) -/
  | eret
  /-- BQRY (R109) -/
  | bqry (d : Opnd) (k : Fin 4)
  /-- JOULE (R110) -/
  | joule (d : Opnd) (k : Bool)
  /-- VARREG (R112) -/
  | varreg (q : Fin 16) (s : Fin 8)
  /-- THRACK (R116) -/
  | thrack (a : FlagAns)
  /-- ECLASS (R111) -/
  | eclass (d : Opnd) (c : Fin 16)
  /-- PHASE (R115) -/
  | phase (k : BitVec 10)
  /-- PREEMPT (R120) -/
  | preempt (d : Opnd) (a : Opnd)
  /-- QSUSP (R121) -/
  | qsusp (d : Opnd) (a : Opnd)
  /-- QRES (R121) -/
  | qres (d : Opnd) (a : Opnd)
  /-- SEMMAP (R122) -/
  | semmap (a : Opnd) (b : Opnd)
  /-- DRAINM (R123) -/
  | drainm (d : Opnd) (a : Opnd)
  /-- RSEED (R124) -/
  | rseed (a : Opnd) (b : Opnd)
  /-- YIELD (R117) -/
  | yield
  /-- ALD (R200) -/
  | ald (z : Size) (d : Opnd) (a : Opnd) (k : BitVec 10)
  /-- AST (R200) -/
  | ast (z : Size) (d : Opnd) (a : Opnd) (k : BitVec 10)
  /-- ARD (R200) -/
  | ard (q : Fin 16) (a : Opnd) (k : BitVec 10)
  /-- AWR (R200) -/
  | awr (q : Fin 16) (a : Opnd) (k : BitVec 10)
  /-- AFILL (R203) -/
  | afill (q : Fin 16) (a : Opnd) (w : Fin 8)
  /-- ADRAIN (R203) -/
  | adrain (q : Fin 16) (a : Opnd) (w : Fin 8)
  /-- WSET (R203) -/
  | wset (w : Fin 8) (a : Opnd) (k : BitVec 10)
  /-- WADV (R203) -/
  | wadv (w : Fin 8) (n : BitVec 10)
  /-- GLD (R208) -/
  | gld (z : Size) (d : Opnd) (a : Opnd) (b : Opnd) (c : Fin 16)
  /-- GST (R208) -/
  | gst (z : Size) (d : Opnd) (a : Opnd) (b : Opnd) (c : Fin 16)
  /-- GGATH (R210) -/
  | ggath (z : Size) (q : Fin 16) (a : Opnd) (b : Opnd) (c : Fin 16)
  /-- GSCAT (R210) -/
  | gscat (z : Size) (q : Fin 16) (a : Opnd) (b : Opnd) (c : Fin 16)
  /-- AAMO (R211) -/
  | aamo (o : AtomOp) (d : Opnd) (a : Opnd) (s : Scope) (r : Order) (w : Bool) (c : Fin 16)
  /-- ACAS (R211) -/
  | acas (d : Opnd) (a : Opnd) (s : Scope) (r : Order) (w : Bool) (c : Fin 16)
  /-- ASWP (R211) -/
  | aswp (d : Opnd) (a : Opnd) (s : Scope) (r : Order) (w : Bool) (c : Fin 16)
  /-- SAMO (R213) -/
  | samo (o : AtomOp) (d : Opnd) (a : Opnd) (s : Scope) (r : Order) (w : Bool)
  /-- RST (R201) -/
  | rst (z : Size) (d : Opnd) (a : Opnd) (k : BitVec 10)
  /-- RLD (R201) -/
  | rld (z : Size) (d : Opnd) (a : Opnd) (k : BitVec 10)
  /-- BINIT (R214) -/
  | binit (d : Opnd) (a : Opnd) (k : BitVec 10)
  /-- BARR (R214) -/
  | barr (a : Opnd) (k : BitVec 10)
  /-- BWAIT (R214) -/
  | bwait (d : Opnd) (a : Opnd) (k : BitVec 10)
  /-- BTEST (R214) -/
  | btest (d : Opnd) (a : Opnd) (k : BitVec 10)
  /-- FENCE_ACQ (R216) -/
  | fenceAcq (s : Scope) (m : BitVec 16)
  /-- FENCE_REL (R216) -/
  | fenceRel (s : Scope) (m : BitVec 16)
  /-- FENCE_FULL (R216) -/
  | fenceFull (s : Scope) (m : BitVec 16)
  /-- FENCE_ASYNC (R216) -/
  | fenceAsync (s : Scope) (m : BitVec 16)
  /-- TLBP (R218) -/
  | tlbp (d : Opnd) (a : Opnd)
  /-- TLBINV_PAGE (R219) -/
  | tlbinvPage (a : Opnd) (b : Opnd)
  /-- TLBINV_CTX (R219) -/
  | tlbinvCtx (a : Opnd) (b : Opnd)
  /-- TLBINV_ALL (R219) -/
  | tlbinvAll (a : Opnd) (b : Opnd)
  /-- L1OP_LINE (R220) -/
  | l1opLine (a : Opnd)
  /-- L1OP_ALL (R220) -/
  | l1opAll (a : Opnd)
  /-- PREF (R221) -/
  | pref (h : Bool) (a : Opnd) (b : Opnd) (c : Fin 16)
  /-- VADD (R231) -/
  | vadd (t : Tm) (d : Opnd) (a : Opnd) (b : Opnd) (ty : ElemT)
  /-- VSUB (R231) -/
  | vsub (t : Tm) (d : Opnd) (a : Opnd) (b : Opnd) (ty : ElemT)
  /-- VMUL (R231) -/
  | vmul (t : Tm) (d : Opnd) (a : Opnd) (b : Opnd) (ty : ElemT)
  /-- VMADD (R231) -/
  | vmadd (t : Tm) (d : Opnd) (a : Opnd) (b : Opnd) (ty : ElemT)
  /-- VMIN (R231) -/
  | vmin (t : Tm) (d : Opnd) (a : Opnd) (b : Opnd) (ty : ElemT)
  /-- VMAX (R231) -/
  | vmax (t : Tm) (d : Opnd) (a : Opnd) (b : Opnd) (ty : ElemT)
  /-- VADDS (R231) -/
  | vadds (t : Tm) (d : Opnd) (a : Opnd) (b : Opnd) (ty : ElemT)
  /-- VAND (R231) -/
  | vand (t : Tm) (d : Opnd) (a : Opnd) (b : Opnd) (ty : ElemT)
  /-- VOR (R231) -/
  | vor (t : Tm) (d : Opnd) (a : Opnd) (b : Opnd) (ty : ElemT)
  /-- VXOR (R231) -/
  | vxor (t : Tm) (d : Opnd) (a : Opnd) (b : Opnd) (ty : ElemT)
  /-- VSHL (R231) -/
  | vshl (t : Tm) (d : Opnd) (a : Opnd) (b : Opnd) (ty : ElemT)
  /-- VSHR (R231) -/
  | vshr (t : Tm) (d : Opnd) (a : Opnd) (b : Opnd) (ty : ElemT)
  /-- VABS (R232) -/
  | vabs (t : Tm) (d : Opnd) (a : Opnd) (ty : ElemT)
  /-- VNEG (R232) -/
  | vneg (t : Tm) (d : Opnd) (a : Opnd) (ty : ElemT)
  /-- VRCP (R233) -/
  | vrcp (t : Tm) (d : Opnd) (a : Opnd) (ty : ElemT)
  /-- VRSQ (R233) -/
  | vrsq (t : Tm) (d : Opnd) (a : Opnd) (ty : ElemT)
  /-- VEXP (R233) -/
  | vexp (t : Tm) (d : Opnd) (a : Opnd) (ty : ElemT)
  /-- VPOPC (R232) -/
  | vpopc (t : Tm) (d : Opnd) (a : Opnd) (ty : ElemT)
  /-- VNOT (R232) -/
  | vnot (t : Tm) (d : Opnd) (a : Opnd) (ty : ElemT)
  /-- VFMA (R231) -/
  | vfma (t : Tm) (d : Opnd) (a : Opnd) (b : Opnd) (ty : ElemT)
  /-- VCMP (R234) -/
  | vcmp (t : Tm) (d : Opnd) (a : Opnd) (u : VCond) (ty : ElemT)
  /-- VSEL (R235) -/
  | vsel (t : Tm) (d : Opnd) (a : Opnd) (b : Opnd) (ty : ElemT)
  /-- VCVT (R236) -/
  | vcvt (t : Tm) (d : Opnd) (a : Opnd) (s : ElemT) (r : CvtRnd) (ty : ElemT)
  /-- VQMX (R237) -/
  | vqmx (t : Tm) (d : Opnd) (a : Opnd) (b : Opnd) (ty : ElemT)
  /-- VDQMX (R238) -/
  | vdqmx (t : Tm) (d : Opnd) (a : Opnd) (b : Opnd) (ty : ElemT)
  /-- VSCL (R239) -/
  | vscl (t : Tm) (d : Opnd) (a : Opnd) (b : Opnd) (ty : ElemT)
  /-- VRED (R240) -/
  | vred (t : Tm) (d : Opnd) (a : Opnd) (u : RedOp) (ty : ElemT)
  /-- VSCAN (R241) -/
  | vscan (t : Tm) (d : Opnd) (a : Opnd) (u : RedOp) (ty : ElemT)
  /-- VPERM (R242) -/
  | vperm (t : Tm) (d : Opnd) (a : Opnd) (b : Opnd) (ty : ElemT)
  /-- VROTM (R243) -/
  | vrotm (t : Tm) (d : Opnd) (a : Opnd) (b : Opnd) (ty : ElemT)
  /-- VBCST (R244) -/
  | vbcst (t : Tm) (d : Opnd) (a : Opnd) (ty : ElemT)
  /-- VMPUSH (R245) -/
  | vmpush (t : Tm) (a : Opnd) (ty : ElemT)
  /-- VMINV (R245) -/
  | vminv (t : Tm)
  /-- VMPOP (R245) -/
  | vmpop (t : Tm)
  /-- VSKIP (R246) -/
  | vskip (t : Tm) (n : BitVec 16)
  /-- VIDXW (R248) -/
  | vidxw (t : Tm) (d : Opnd) (a : Opnd) (ty : ElemT)
  /-- VIDXR (R248) -/
  | vidxr (t : Tm) (d : Opnd) (a : Opnd) (ty : ElemT)
  /-- VBITT (R249) -/
  | vbitt (t : Tm) (d : Opnd) (a : Opnd) (ty : ElemT)
  /-- VBITS (R249) -/
  | vbits (t : Tm) (d : Opnd) (a : Opnd) (ty : ElemT)
  /-- VPOPM (R250) -/
  | vpopm (t : Tm) (d : Opnd) (a : Opnd)
  /-- VMATCH (R252) -/
  | vmatch (t : Tm) (d : Opnd) (a : Opnd) (b : Opnd) (ty : ElemT)
  /-- VLANE (R254) -/
  | vlane (t : Tm) (d : Opnd) (a : Opnd) (ty : ElemT)
  /-- VINS (R254) -/
  | vins (t : Tm) (d : Opnd) (a : Opnd) (ty : ElemT)
  /-- VMOV (R255) -/
  | vmov (t : Tm) (d : Opnd) (w : Fin 8)
  /-- TSHAPE (R261) -/
  | tshape (t : Tm) (d : Opnd) (a : Opnd) (b : Opnd)
  /-- TCFG (R262) -/
  | tcfg (t : Tm) (a : Opnd) (f : Fin 4)
  /-- TZERO (R268) -/
  | tzero (t : Tm) (c : Fin 8)
  /-- TMMA (R265) -/
  | tmma (t : Tm) (c : Fin 8) (a : Fin 8) (b : Fin 8) (n : Bool)
  /-- TMMAX (R265) -/
  | tmmax (t : Tm) (c : Fin 8) (a : Fin 8) (b : Fin 8) (n : Bool)
  /-- TMMAT (R265) -/
  | tmmat (t : Tm) (c : Fin 8) (a : Fin 8) (b : Fin 8) (n : Bool)
  /-- TMMAS (R266) -/
  | tmmas (t : Tm) (c : Fin 8) (a : Fin 8) (b : Fin 8) (m : Fin 8) (n : Bool)
  /-- TRET (R270) -/
  | tret (t : Tm) (c : Fin 8) (a : Fin 8) (k : Bool)
  /-- TRETQ (R270) -/
  | tretq (t : Tm) (c : Fin 8) (a : Fin 8) (k : Bool)
  /-- TSPILL (R269) -/
  | tspill (t : Tm) (c : Fin 8) (a : Fin 8)
  /-- TFILL (R269) -/
  | tfill (t : Tm) (c : Fin 8) (a : Fin 8)
  /-- TACC (R268) -/
  | tacc (t : Tm) (c : Fin 8) (s : Fin 8)
  /-- TSTAT (R274) -/
  | tstat (t : Tm) (d : Opnd) (f : Fin 4)
  /-- TCHK (R275) -/
  | tchk (t : Tm) (d : Opnd) (a : Opnd) (f : Fin 8)
  /-- HOLD_END (R43) -/
  | holdEnd (core : CoreId)
  /-- TRAP_ENTRY (R130) -/
  | trapEntry (core : CoreId)
  /-- HALT_LINE_ARRIVAL (R133) -/
  | haltLineArrival (core : CoreId)
  /-- DISPATCH_ROUND (R315) -/
  | dispatchRound (cluster : CluId)
  /-- CAPACITY_WAIT_TIMEOUT (R359) -/
  | capacityWaitTimeout (cluster : CluId) (slot : SlotId)
  /-- CARD_RETIRE (R310) -/
  | cardRetire (cluster : CluId) (slot : SlotId)
  /-- COPY_GO (R158): a store of `value` to GO of the window of engine `e` -/
  | copyGo (core : CoreId) (e : CopyId) (value : W64)
  /-- COPY_COMMAND_START (R303) -/
  | copyCommandStart (core : CoreId) (e : CopyId)
  /-- COPY_BURST_COMPLETE (R304) -/
  | copyBurstComplete (core : CoreId) (e : CopyId)
  /-- COPY_FAULT_TRAP (R472) -/
  | copyFaultTrap (core : CoreId)
  /-- COMPARED_COMMAND_ISSUE (R287) -/
  | comparedCommandIssue (core : CoreId)
  /-- THIRD_RUN_END (R288) -/
  | thirdRunEnd (core : CoreId)
  /-- GOVERNOR_INTERVAL (R352) -/
  | governorInterval (sense : Vector IslSense 8)
  /-- EVACUATION_TIMEOUT (R363) -/
  | evacuationTimeout (island : IslId)
  /-- LEVEL_CHANGE (R347) -/
  | levelChange (island : IslId)
  /-- PHASE_CAPWAIT_TIMEOUT (R360) -/
  | phaseCapwaitTimeout (core : CoreId)
  /-- DROOP_DETECT (R348) -/
  | droopDetect (island : IslId)
  /-- DROOP_RECOVER (R348), with the depth in mV that monitor 1 samples (R461) -/
  | droopRecover (island : IslId) (depth : Nat)
  /-- SCRUB_READ (R433) -/
  | scrubRead (unit : ScrubUnit) (found : EccRead)
  /-- PAGE_WALK_END (R376) of walk `walk` of a cluster -/
  | pageWalkEnd (cluster : CluId) (walk : Fin 16)
  /-- PAGE_REQUEST_ANSWER (R378): a write of PRA -/
  | pageRequestAnswer (part : PartId) (value : W64)
  /-- SHOOTDOWN_COMPLETE (R376) -/
  | shootdownComplete (part : PartId)
  /-- LAUNCH_RECORD_WALK (R380) -/
  | launchRecordWalk (cluster : CluId) (slot : SlotId)
  /-- LAUNCH_RECORD_TIMEOUT (R381) -/
  | launchRecordTimeout (cluster : CluId) (slot : SlotId)
  /-- SEAL_FILL_COMPLETE (R408) of the fill of a frame -/
  | sealFillComplete (frame : Nat) (found : FillResult)
  /-- RESEAL_COMPLETE (R411) -/
  | resealComplete (frame : Nat) (found : FillResult)
  /-- FRAME_ASSIGN (R406) -/
  | frameAssign (frame : Nat) (ctx : BitVec 16)
  /-- FLUSH_ORDER (R410) -/
  | flushOrder (frame : Nat)
  /-- BACK_INVALIDATE_RESPONSE (R367) -/
  | backInvalidateResponse (line : Nat)
  /-- HOST_SNOOP (R367) -/
  | hostSnoop (line : Nat) (kind : Snoop)
  /-- HOST_MEM_READ (R418) of the 64 bytes at a device address -/
  | hostMemRead (req : HostReq) (addr : Nat)
  /-- HOST_MEM_WRITE (R418) of 64 bytes at a device address -/
  | hostMemWrite (req : HostReq) (addr : Nat) (data : BitVec 512)
  /-- DOORBELL (R390): a 64-bit write of a VF's doorbell -/
  | doorbell (ctx : CtxId) (value : W64)
  /-- NOP_PACKET (R392) -/
  | nopPacket (ctx : CtxId) (queue : QueueId)
  /-- OPERATORS (R394) -/
  | operators (ctx : CtxId) (queue : QueueId)
  /-- INDIRECT (R393) -/
  | indirect (ctx : CtxId) (queue : QueueId)
  /-- SIGNAL (R392) -/
  | signal (ctx : CtxId) (queue : QueueId)
  /-- SIGNAL_PACKET_PERFORM (R392) -/
  | signalPacketPerform (ctx : CtxId) (queue : QueueId)
  /-- WAIT (R392) -/
  | wait (ctx : CtxId) (queue : QueueId)
  /-- WAIT_PACKET_RELEASE (R392) -/
  | waitPacketRelease (ctx : CtxId) (queue : QueueId)
  /-- STALE_REREAD (R392) -/
  | staleReread (ctx : CtxId) (queue : QueueId)
  /-- CASTLING (R394) -/
  | castling (ctx : CtxId) (queue : QueueId)
  /-- QUOTA_WAIT_RELEASE (R397) -/
  | quotaWaitRelease (ctx : CtxId) (queue : QueueId)
  /-- QCTL_RESET (R390): a write of QCTL -/
  | qctlReset (ctx : CtxId) (queue : QueueId) (value : W64)
  /-- FUNCTION_LEVEL_RESET (R385) -/
  | functionLevelReset (vf : Fin 384)
  /-- TDI_LEAVE_RUN (R385) -/
  | tdiLeaveRun (vf : Fin 384)
  /-- NEGOTIATE_ALGORITHMS (R458); `offered` says whether the requester offers the device's algorithms -/
  | negotiateAlgorithms (offered : Bool)
  /-- GET_CERTIFICATE (R458): `len` bytes from `offset` of the chain -/
  | getCertificate (offset len : BitVec 16)
  /-- CHALLENGE (R458) -/
  | challenge (nonce : BitVec 256)
  /-- GET_MEASUREMENTS (R458) -/
  | getMeasurements (nonce : BitVec 256)
  /-- KEY_EXCHANGE (R458) -/
  | keyExchange (session : BitVec 32)
  /-- FINISH (R458); `verified` says whether the requester's finish message verifies -/
  | finish (session : BitVec 32) (verified : Bool)
  /-- END_SESSION (R458) -/
  | endSession (session : BitVec 32)
  /-- KEYSET (R458) -/
  | keyset (session : BitVec 32) (ctx : CtxId) (kind : KeyKind) (key : BitVec 256)
  /-- JOB_STOP (R438) -/
  | jobStop (core : CoreId)
  /-- SAVE_COMPLETE (R441) -/
  | saveComplete (cluster : CluId) (slot : SlotId)
  /-- WRAP_POST (R447): a write of WRAPCTL -/
  | wrapPost (part : PartId) (value : W64)
  /-- WRAP_CUTOFF (R450) of one cluster of the partition -/
  | wrapCutoff (part : PartId) (cluster : CluId)
  /-- WRAP_STOP_DEADLINE (R450) for the job of one core -/
  | wrapStopDeadline (part : PartId) (core : CoreId)
  /-- CORERST (R455) -/
  | corerst (core : CoreId)
  /-- CORE_SELF_TEST_END (R455): what passed, bits 0 to 2 the tests 0 to 2 of TCHK and bit 3 the continuity self-test -/
  | coreSelfTestEnd (core : CoreId) (passed : BitVec 4)
  /-- BRINGUP_STAGE_ADVANCE (R456) -/
  | bringupStageAdvance (outcome : StageEnd)
  /-- FRAME_DECODED (R460): frame data of a stream, its status and presentation time -/
  | frameDecoded (stream : Fin 48) (data : Pixels) (status : BitVec 32) (pts : W64)
  /-- MONITOR_CLR (R461) -/
  | monitorClr (m : Fin 5)
  /-- FASTSET_COUNT_CLEAR (R462) -/
  | fastsetCountClear
  /-- FLIT_RECEIVE (R464) -/
  | flitReceive (port : Fin 4) (flit : BitVec 2048) (macOk : Bool)
  /-- FLIT_REPLAY (R464): a NAK of flit `seq` -/
  | flitReplay (port : Fin 4) (seq : BitVec 12)
  /-- PORT_RETRAIN_COMPLETE (R464) -/
  | portRetrainComplete (port : Fin 4)
  /-- PEER_REQUEST (R468) -/
  | peerRequest (req : PeerReq)
  /-- PEER_RESPONSE (R469): the response to outstanding request `tag`, with the bytes it carries -/
  | peerResponse (tag : Nat) (poisoned : Bool) (data : List Byte)
  /-- PEER_REQUEST_TIMEOUT (R470) -/
  | peerRequestTimeout (tag : Nat)
  /-- REGISTER_WRITE (R11): a write of `width` bytes at a physical register address -/
  | registerWrite (addr : Nat) (width : Nat) (value : W64)
  /-- ISLAND_CYCLE (R280) -/
  | islandCycle (island : IslId)
  /-- RESERVED_ENCODING (R66): a word that the engine in turn does not decode, with the cause of R66 -/
  | reservedEncoding (word : W32) (cause : Cause)
  /-- ACCESS_PERFORMS_AT_HOME (R190): posted access `n` of a core's A stream -/
  | accessPerformsAtHome (core : CoreId) (n : Nat)
  /-- BADPACKET (R392) -/
  | badpacket (ctx : CtxId) (queue : QueueId)
  /-- SINGLE_FAULT (R432) -/
  | singleFault (kind : FaultKind)
  /-- TDISP_MESSAGE (R384) -/
  | tdispMessage (vf : Fin 384) (msg : TdMsg)
  /-- KEY_SLOT_ERASE (R415) -/
  | keySlotErase (slot : CtxId)
  /-- GET_VERSION (R458) -/
  | getVersion
  /-- GET_CAPABILITIES (R458) -/
  | getCapabilities
  /-- GET_DIGESTS (R458) -/
  | getDigests
  /-- POWER_ON_RESET (R455) -/
  | powerOnReset
  /-- PCIE_HOT_RESET (R455) -/
  | pcieHotReset
  /-- DEVRST (R455) -/
  | devrst
  deriving DecidableEq, Repr

end Sys2Proof
end

