-- ==== Sys2Proof/Machine/Signature.lean ====
section
/-! DEFINITION. Signed objects (R457): RSASSA-PSS over RSA-3072 with SHA-384, and SLH-DSA-SHA2-192s. The manual names the two
algorithms and leaves their text to RFC 8017 and FIPS 205 (log 77). -/

namespace Sys2Proof.Machine

/-! ## SHA-256, SHA-512 and MGF1 -/

/-- The initial hash value of SHA-512. -/
def shaInit512 : List (BitVec 64) :=
  [0x6a09e667f3bcc908, 0xbb67ae8584caa73b, 0x3c6ef372fe94f82b, 0xa54ff53a5f1d36f1]
  ++ [0x510e527fade682d1, 0x9b05688c2b3e6c1f, 0x1f83d9abfb41bd6b, 0x5be0cd19137e2179]

/-- The 64 bytes of SHA-512, which differs from SHA-384 in where it starts. -/
def sha512 (m : List Nat) : List Nat := shaFrom shaInit512 m

/-- The round constants and the initial hash value of SHA-256 are the upper halves of those of SHA-512. -/
def upperHalf (x : BitVec 64) : BitVec 32 := (x >>> 32).setWidth 32

/-- One more word of the message schedule of SHA-256, from the words so far, latest first. -/
def sha256Word (ws : List (BitVec 32)) : BitVec 32 :=
  let w := fun k => ws.getD (k - 1) 0
  let a := w 15
  let b := w 2
  ((b.rotateRight 17) ^^^ (b.rotateRight 19) ^^^ (b >>> 10)) + w 7
    + ((a.rotateRight 7) ^^^ (a.rotateRight 18) ^^^ (a >>> 3)) + w 16

/-- One round of SHA-256 on the eight working variables. -/
def sha256Round (v : List (BitVec 32)) (k w : BitVec 32) : List (BitVec 32) :=
  let g := fun i => v.getD i 0
  let a := g 0
  let e := g 4
  let t1 := g 7 + ((e.rotateRight 6) ^^^ (e.rotateRight 11) ^^^ (e.rotateRight 25)) + ((e &&& g 5) ^^^ (~~~e &&& g 6)) + k + w
  let t2 := ((a.rotateRight 2) ^^^ (a.rotateRight 13) ^^^ (a.rotateRight 22)) + ((a &&& g 1) ^^^ (a &&& g 2) ^^^ (g 1 &&& g 2))
  [t1 + t2, a, g 1, g 2, g 3 + t1, e, g 5, g 6]

/-- The hash value after one block of 64 bytes. -/
def sha256Block (h : List (BitVec 32)) (b : List Nat) : List (BitVec 32) :=
  let first := ((List.range 16).map fun i => BitVec.ofNat 32 (natOfBe ((b.drop (4 * i)).take 4))).reverse
  let ws := ((List.range 48).foldl (fun l _ => sha256Word l :: l) first).reverse
  List.zipWith (· + ·) h (((shaK.map upperHalf).zip ws).foldl (fun v kw => sha256Round v kw.1 kw.2) h)

/-- The 32 bytes of SHA-256. -/
def sha256 (m : List Nat) : List Nat :=
  let pad := m ++ [0x80] ++ List.replicate ((119 - m.length % 64) % 64) 0 ++ beOfNat 8 (8 * m.length)
  ((blocksBy 64 pad.length pad).foldl sha256Block (shaInit512.map upperHalf)).flatMap fun w => beOfNat 4 w.toNat

/-- `n` bytes of the mask that a hash of `size` bytes makes of a seed. -/
def mgf1 (hash : List Nat → List Nat) (size n : Nat) (seed : List Nat) : List Nat :=
  ((List.range ((n + size - 1) / size)).flatMap fun k => hash (seed ++ beOfNat 4 k)).take n

/-! ## RSASSA-PSS (RFC 8017) -/

/-- `x` to the power 65537 modulo `n`. -/
def rsaPower (x n : Nat) : Nat := x * (List.range 16).foldl (fun y _ => y * y % n) x % n

/-- An encoded message of 384 bytes is that of a hashed message, with a salt of 48 bytes: its first bit, the zeros and the one before
the salt, and the hash over the salt. -/
def pssOk (em mHash : List Nat) : Bool :=
  let h := (em.drop 335).take 48
  let db := xorBytes (em.take 335) (mgf1 sha384 48 335 h)
  decide (em.getD 383 0 = 0xBC) && decide (em.headD 0 < 128)
    && decide ((db.headD 0 % 128 :: db.tail).take 287 = List.replicate 286 0 ++ [1])
    && decide (h = sha384 (List.replicate 8 0 ++ mHash ++ db.drop 287))

/-- A signature of 384 bytes verifies under a modulus of 384 bytes. -/
def rsaVerify (modulus m sig : List Nat) : Bool :=
  let n := natOfBe modulus
  let s := natOfBe sig
  decide (sig.length = 384 ∧ 2 ^ 3071 ≤ n ∧ s < n) && pssOk (beOfNat 384 (rsaPower s n)) (sha384 m)

/-! ## SLH-DSA-SHA2-192s (FIPS 205) -/

/-- An address, as the hash functions take it in. -/
structure SlhAdrs where
  layer : Nat
  tree : Nat
  type : Nat
  pair : Nat
  chain : Nat
  hash : Nat
  deriving DecidableEq, Repr

/-- The 22 bytes of a compressed address. -/
def SlhAdrs.bytes (a : SlhAdrs) : List Nat :=
  beOfNat 1 a.layer ++ beOfNat 8 a.tree ++ beOfNat 1 a.type ++ beOfNat 4 a.pair ++ beOfNat 4 a.chain ++ beOfNat 4 a.hash

/-- The function F, of one value. -/
def slhF (seed : List Nat) (a : SlhAdrs) (x : List Nat) : List Nat :=
  (sha256 (seed ++ List.replicate 40 0 ++ a.bytes ++ x)).take 24

/-- The functions H and T, of several values. -/
def slhT (seed : List Nat) (a : SlhAdrs) (x : List Nat) : List Nat :=
  (sha512 (seed ++ List.replicate 104 0 ++ a.bytes ++ x)).take 24

/-- The root over a leaf: `i` is the leaf's index, `k` its level; the address names a node by its level and index. -/
def slhClimb (seed : List Nat) (at_ : Nat → Nat → SlhAdrs) : List (List Nat) → Nat → Nat → List Nat → List Nat
  | [], _, _, node => node
  | sib :: rest, k, i, node =>
    slhClimb seed at_ rest (k + 1) (i / 2)
      (slhT seed (at_ (k + 1) (i / 2)) (if i % 2 = 0 then node ++ sib else sib ++ node))

/-- Cuts a signature into values of 24 bytes. -/
def slhCut (sig : List Nat) : List (List Nat) := blocksBy 24 sig.length sig

/-- `n` digits of `w` bits of bytes, highest first. -/
def slhDigits (w n : Nat) (bs : List Nat) : List Nat :=
  let x := natOfBe bs
  (List.range n).map fun i => x / 2 ^ (8 * bs.length - w * (i + 1)) % 2 ^ w

/-- The end of a chain: `s` steps from step `i` on. -/
def slhChain (seed : List Nat) (a : SlhAdrs) (x : List Nat) (i s : Nat) : List Nat :=
  (List.range s).foldl (fun y k => slhF seed { a with hash := i + k } y) x

/-- The one-time public key that a signature of 51 values gives for a value. -/
def slhWots (seed : List Nat) (a : SlhAdrs) (sig : List (List Nat)) (m : List Nat) : List Nat :=
  let d := slhDigits 4 48 m
  let sum := d.foldl (fun n x => n + (15 - x)) 0
  let all := d ++ slhDigits 4 3 (beOfNat 2 (16 * sum))
  slhT seed { a with type := 1 } ((all.zip sig).zipIdx.flatMap fun e =>
    slhChain seed { a with chain := e.2 } e.1.2 e.1.1 (15 - e.1.1))

/-- The root of one layer that its signature of 60 values gives for a value. -/
def slhLayer (seed : List Nat) (layer tree leaf : Nat) (sig : List (List Nat)) (m : List Nat) : List Nat :=
  let a : SlhAdrs := { layer, tree, type := 0, pair := leaf, chain := 0, hash := 0 }
  slhClimb seed (fun k i => { a with type := 2, pair := 0, chain := k, hash := i }) (sig.drop 51) 0 leaf
    (slhWots seed a (sig.take 51) m)

/-- The public key of the few-time signature of 17 values with their paths. -/
def slhFors (seed : List Nat) (tree leaf : Nat) (sig : List (List Nat)) (md : List Nat) : List Nat :=
  let a : SlhAdrs := { layer := 0, tree, type := 3, pair := leaf, chain := 0, hash := 0 }
  slhT seed { a with type := 4 } ((slhDigits 14 17 md).zipIdx.flatMap fun e =>
    let l := (sig.drop (15 * e.2)).take 15
    let i := e.2 * 2 ^ 14 + e.1
    slhClimb seed (fun k n => { a with chain := k, hash := n }) l.tail 0 i (slhF seed { a with hash := i } (l.headD [])))

/-- A signature of 16,224 bytes verifies under a public key of 48 bytes, with an empty context. -/
def slhVerify (key m sig : List Nat) : Bool :=
  let seed := key.take 24
  let root := key.drop 24
  let r := sig.take 24
  let digest := mgf1 sha512 64 39 (r ++ seed ++ sha512 (r ++ key ++ [0, 0] ++ m))
  let tree := natOfBe ((digest.drop 30).take 7) % 2 ^ 54
  let leaf := natOfBe (digest.drop 37) % 2 ^ 9
  let vals := (slhCut sig).drop 1
  let top := (List.range 7).foldl (fun (x : List Nat × Nat × Nat) j =>
      (slhLayer seed j x.2.1 x.2.2 ((vals.drop (255 + 60 * j)).take 60) x.1, x.2.1 / 2 ^ 9, x.2.1 % 2 ^ 9))
    (slhFors seed tree leaf (vals.take 255) (digest.take 30), tree, leaf)
  decide (sig.length = 16224) && decide (top.1 = root)

/-! ## Signed objects -/

/-- A field of a signed object, by its offset and length. -/
def objFld (o : List Byte) (off n : Nat) : Nat := natOfBytes ((o.drop off).take n)

/-- Bytes of a signed object. -/
def objBytes (o : List Byte) (off n : Nat) : List Nat := ((o.drop off).take n).map BitVec.toNat

/-- The header's MAGIC, KIND and reserved bytes. -/
def objHeader (o : List Byte) (kind : Nat) : Bool :=
  decide (64 ≤ o.length) && decide (objFld o 0 4 = 0x53584B44) && decide (objFld o 4 1 = kind) && decide (objFld o 5 3 = 0)
    && decide (objFld o 32 32 = 0)

/-- Both signatures verify over the header and the payload, under keys that hash to the fused values. -/
def objSigned (o : List Byte) : Bool :=
  let text := objBytes o 0 (64 + objFld o 16 4)
  let rsaKey := objBytes o (objFld o 28 4) 384
  let slhKey := objBytes o (objFld o 28 4 + 384) 48
  decide (text.length = 64 + objFld o 16 4) && decide (slhKey.length = 48)
    && decide (BitVec.ofNat 384 (natOfBe (sha384 rsaKey)) = Config.rsaKeyHash)
    && decide (BitVec.ofNat 384 (natOfBe (sha384 slhKey)) = Config.slhKeyHash)
    && rsaVerify rsaKey text (objBytes o (objFld o 20 4) 384) && slhVerify slhKey text (objBytes o (objFld o 24 4) 16224)

/-- What the check of a signed object of a kind finds (R457): 0 where it is accepted, else ERR: 1 for a signature, 2 for a rollback. -/
def objErr (o : List Byte) (kind : Nat) : Fin 6 :=
  if !objHeader o kind || !objSigned o then 1
  else if objFld o 8 8 < Config.securityVersion.toNat then 2
  else 0

/-- What VERIFY finds in the objects: the error of the firmware image or the identity certificate, which fails the stage; and the
error of the configuration, which leaves it unsigned. One without a header is unsigned and no error (R457; log 86). -/
def bootErr (x : BootObjects) : Fin 6 × Bool × Fin 6 :=
  let e := if objErr x.firmware 1 ≠ 0 then objErr x.firmware 1 else objErr x.cert 3
  (e, decide (objErr x.config 2 = 0), if objHeader x.config 2 then objErr x.config 2 else 0)

end Sys2Proof.Machine
end

