-- ==== Sys2Proof/WellFormed.lean ====
section
/-! DEFINITION. Well-formed instructions: which engine holds each instruction, and the field values that no engine
accepts (R37, R57-R66). Decoding answers well-formed instructions only. -/

namespace Sys2Proof

/-- INT: the types .S8 to .N32 (R63). -/
def ElemT.isInt : ElemT → Bool
  | .s8 | .n8 | .s16 | .n16 | .s32 | .n32 => true
  | _ => false

/-- S-INT: the types .S8, .S16 and .S32 (R63). -/
def ElemT.isSInt : ElemT → Bool
  | .s8 | .s16 | .s32 => true
  | _ => false

/-- FLT: the types .H, .BF and .F (R63). -/
def ElemT.isFlt : ElemT → Bool
  | .h | .bf | .f => true
  | _ => false

/-- The FP8 types .E4 and .E5. -/
def ElemT.isFp8 : ElemT → Bool
  | .e4 | .e5 => true
  | _ => false

/-- The elastic engines (R37). -/
def Eng.elastic : Eng → Bool
  | .c | .a => true
  | _ => false

/-- Bits [25:22] of a common-subset word: in C and A they are 0 (R53). -/
def Tm.wf (e : Eng) (t : Tm) : Bool := !e.elastic || (t == ⟨0, false⟩)

/-- The mask rules of RDV (R83): bit 3 of the field names C, bit 2 A, bit 1 V and bit 0 M. -/
def rdvWf (e : Eng) (m : BitVec 4) (k : BitVec 6) : Bool :=
  if k = 0 then m == 0 else
  match e with
  | .c => m.getLsbD 3
  | .a => m.getLsbD 2
  | .v => m.getLsbD 1
  | .m => m.getLsbD 0

/-- The type pairs of VCVT (R64): different, neither .B1. -/
def cvtWf (s d : ElemT) : Bool := s != d && s != .b1 && d != .b1

/-- `i` is an instruction of engine `e` with no reserved value in a field (R66 steps 1 to 3). -/
def Instr.wf (e : Eng) (i : Instr) : Bool :=
  match i with
  | .nop t | .idle t _ | .slate t _ _
  | .add t _ _ _ | .sub t _ _ _ | .mul t _ _ _ | .mulh t _ _ _ | .mulhn t _ _ _ | .and t _ _ _ | .or t _ _ _
  | .xor t _ _ _ | .shl t _ _ _ | .shr t _ _ _ | .sra t _ _ _ | .min t _ _ _ | .max t _ _ _ | .minn t _ _ _
  | .maxn t _ _ _ | .mad t _ _ _ | .slt t _ _ _ | .sltn t _ _ _ | .seq t _ _ _ | .sel t _ _ _ | .clz t _ _
  | .popc t _ _ | .mov t _ _ | .addi t _ _ _ | .andi t _ _ _ | .ori t _ _ _ | .xori t _ _ _ | .movi t _ _
  | .movhi t _ _ | .mfs t _ _ | .mts t _ _ => t.wf e
  | .atTake _ _ _ => !e.elastic
  | .rdv t m k => t.wf e && rdvWf e m k
  | .loop t _ b _ | .loopr t _ b _ => t.wf e && b != 0
  | .shli t _ _ s | .shri t _ _ s | .srai t _ _ s => t.wf e && (e == .a || s.toNat < 32)
  | .br _ | .bz _ _ | .bnz _ _ | .call _ | .callr _ | .ret | .lbrk => e.elastic
  | .endJob s => e == .c && s.toNat < 0xFF00
  | .pcmp _ _ _ _ | .pcmpi _ _ _ _ | .plog _ _ _ _ | .pmovToPred _ _ | .pmovFromPred _ _ | .bp _ _ | .bnp _ _
  | .selp _ _ _ _ | .sig _ _ | .trap _ | .eret | .bqry _ _ | .joule _ _ | .varreg _ _ | .thrack _
  | .eclass _ _ | .phase _ | .preempt _ _ | .qsusp _ _ | .qres _ _ | .semmap _ _ | .drainm _ _ | .rseed _ _
  | .yield => e == .c
  | .ald _ _ _ _ | .ast _ _ _ _ | .ard _ _ _ | .awr _ _ _ | .afill _ _ _ | .adrain _ _ _ | .wset _ _ _
  | .wadv _ _ | .gld _ _ _ _ _ | .gst _ _ _ _ _ | .ggath _ _ _ _ _ | .gscat _ _ _ _ _ | .aamo _ _ _ _ _ _ _
  | .acas _ _ _ _ _ _ | .aswp _ _ _ _ _ _ | .samo _ _ _ _ _ _ | .rst _ _ _ _ | .rld _ _ _ _ | .binit _ _ _
  | .barr _ _ | .bwait _ _ _ | .btest _ _ _ | .fenceAcq _ _ | .fenceRel _ _ | .fenceFull _ _ | .fenceAsync _ _
  | .tlbp _ _ | .tlbinvPage _ _ | .tlbinvCtx _ _ | .tlbinvAll _ _ | .l1opLine _ | .l1opAll _ | .pref _ _ _ _ =>
    e == .a
  | .vadd _ _ _ _ ty | .vsub _ _ _ _ ty | .vmul _ _ _ _ ty | .vmin _ _ _ _ ty | .vmax _ _ _ _ ty
  | .vcmp _ _ _ .eq ty | .vcmp _ _ _ .ne ty | .vcmp _ _ _ .lt ty | .vcmp _ _ _ .le ty | .vcmp _ _ _ .gt ty
  | .vcmp _ _ _ .ge ty
  | .vred _ _ _ .add ty | .vred _ _ _ .min ty | .vred _ _ _ .max ty
  | .vscan _ _ _ .add ty | .vscan _ _ _ .min ty | .vscan _ _ _ .max ty
  | .vidxw _ _ _ ty | .vidxr _ _ _ ty | .vlane _ _ _ ty | .vins _ _ _ ty => e == .v && (ty.isInt || ty.isFlt)
  | .vmadd _ _ _ _ ty | .vadds _ _ _ _ ty | .vshl _ _ _ _ ty | .vshr _ _ _ _ ty | .vpopc _ _ _ ty
  | .vmpush _ _ ty
  | .vred _ _ _ .and ty | .vred _ _ _ .or ty | .vred _ _ _ .xor ty
  | .vscan _ _ _ .and ty | .vscan _ _ _ .or ty | .vscan _ _ _ .xor ty => e == .v && ty.isInt
  | .vand _ _ _ _ ty | .vor _ _ _ _ ty | .vxor _ _ _ _ ty | .vnot _ _ _ ty => e == .v && (ty.isInt || ty == .b1)
  | .vabs _ _ _ ty | .vneg _ _ _ ty => e == .v && (ty.isSInt || ty.isFlt)
  | .vrcp _ _ _ ty | .vrsq _ _ _ ty | .vexp _ _ _ ty | .vfma _ _ _ _ ty | .vscl _ _ _ _ ty
  | .vcmp _ _ _ .un ty => e == .v && ty.isFlt
  | .vsel _ _ _ _ _ => e == .v
  | .vcvt _ _ _ s _ ty => e == .v && cvtWf s ty
  | .vqmx _ _ _ _ ty | .vdqmx _ _ _ _ ty => e == .v && ty.isFp8
  | .vperm _ _ _ _ ty | .vbcst _ _ _ ty => e == .v && (ty.isInt || ty.isFlt || ty.isFp8)
  | .vrotm _ _ _ _ ty => e == .v && ty == .n8
  | .vminv _ | .vmpop _ | .vpopm _ _ _ | .vmov _ _ _ => e == .v
  | .vskip _ n => e == .v && n != 0
  | .vbitt _ _ _ ty | .vbits _ _ _ ty | .vmatch _ _ _ _ ty => e == .v && (ty == .n16 || ty == .n32)
  | .tshape _ _ _ _ | .tcfg _ _ _ | .tzero _ _ | .tmma _ _ _ _ _ | .tmmax _ _ _ _ _ | .tmmat _ _ _ _ _
  | .tmmas _ _ _ _ _ _ | .tret _ _ _ _ | .tretq _ _ _ _ | .tspill _ _ _ | .tfill _ _ _ | .tacc _ _ _
  | .tstat _ _ _ | .tchk _ _ _ _ => e == .m
  -- the steps of the device that have no word
  | .holdEnd _ | .trapEntry _ | .haltLineArrival _ | .dispatchRound _ | .capacityWaitTimeout _ _ | .cardRetire _ _
  | .copyGo _ _ _ | .copyCommandStart _ _ | .copyBurstComplete _ _ | .copyFaultTrap _ | .comparedCommandIssue _
  | .thirdRunEnd _ | .governorInterval _ | .evacuationTimeout _ | .levelChange _ | .phaseCapwaitTimeout _
  | .droopDetect _ | .droopRecover _ _ | .scrubRead _ _ | .pageWalkEnd _ _ | .pageRequestAnswer _ _
  | .shootdownComplete _ | .launchRecordWalk _ _ | .launchRecordTimeout _ _ | .sealFillComplete _ _
  | .resealComplete _ _ | .frameAssign _ _ | .flushOrder _ | .backInvalidateResponse _ | .hostSnoop _ _
  | .hostMemRead _ _ | .hostMemWrite _ _ _ | .doorbell _ _ | .nopPacket _ _ | .operators _ _ | .indirect _ _
  | .signal _ _ | .signalPacketPerform _ _ | .wait _ _ | .waitPacketRelease _ _ | .staleReread _ _ | .castling _ _
  | .quotaWaitRelease _ _ | .qctlReset _ _ _ | .functionLevelReset _ | .tdiLeaveRun _ | .getVersion
  | .getCapabilities | .negotiateAlgorithms _ | .getDigests | .getCertificate _ _ | .challenge _
  | .getMeasurements _ | .keyExchange _ | .finish _ _ | .endSession _ | .keyset _ _ _ _ | .jobStop _
  | .saveComplete _ _ | .wrapPost _ _ | .wrapCutoff _ _ | .wrapStopDeadline _ _ | .powerOnReset | .pcieHotReset
  | .devrst | .corerst _ | .coreSelfTestEnd _ _ | .bringupStageAdvance _ | .frameDecoded _ _ _ _ | .monitorClr _
  | .fastsetCountClear | .flitReceive _ _ _ | .flitReplay _ _ | .portRetrainComplete _ | .peerRequest _
  | .peerResponse _ _ _ | .peerRequestTimeout _ | .registerWrite _ _ _ | .islandCycle _ | .reservedEncoding _ _
  | .accessPerformsAtHome _ _ | .badpacket _ _ | .singleFault _ | .tdispMessage _ _ | .keySlotErase _ => false

end Sys2Proof
end

