-- ==== Sys2Proof/Decode.lean ====
section
/-! DEFINITION. The decoder of the four opcode spaces (R53-R66 steps 1 to 3) and, after it, the encoder of the same
tables. A word is one 32-bit little-endian word; the engine that fetches it is an argument, because one opcode names
different instructions in different engines (R53). -/

namespace Sys2Proof

/-- T codes (R63). -/
def ElemT.code : ElemT → Nat
  | .s8 => 0 | .n8 => 1 | .s16 => 2 | .n16 => 3 | .s32 => 4 | .n32 => 5 | .h => 6 | .bf => 7 | .f => 8 | .e4 => 9
      | .e5 => 10 | .t2 => 11 | .b1 => 12

/-- T codes (R63), the reserved ones left out. -/
def ElemT.ofCode : Nat → Option ElemT
  | 0 => some .s8 | 1 => some .n8 | 2 => some .s16 | 3 => some .n16 | 4 => some .s32 | 5 => some .n32 | 6 =>
      some .h | 7 => some .bf | 8 => some .f | 9 => some .e4 | 10 => some .e5 | 11 => some .t2 | 12 => some .b1
      | _ => none

/-- XF size codes (R61). -/
def Size.code : Size → Nat
  | .s8 => 0 | .n8 => 1 | .s16 => 2 | .n16 => 3 | .w32 => 4 | .w64 => 5

/-- XF size codes (R61), the reserved ones left out. -/
def Size.ofCode : Nat → Option Size
  | 0 => some .s8 | 1 => some .n8 | 2 => some .s16 | 3 => some .n16 | 4 => some .w32 | 5 => some .w64 | _ => none

/-- XF codes of atomic operations (R61). -/
def AtomOp.code : AtomOp → Nat
  | .add => 0 | .and => 1 | .or => 2 | .xor => 3 | .min => 4 | .max => 5 | .minn => 6 | .maxn => 7

/-- XF codes of atomic operations (R61), the reserved ones left out. -/
def AtomOp.ofCode : Nat → Option AtomOp
  | 0 => some .add | 1 => some .and | 2 => some .or | 3 => some .xor | 4 => some .min | 5 => some .max | 6 =>
      some .minn | 7 => some .maxn | _ => none

/-- Scope codes (R62). -/
def Scope.code : Scope → Nat
  | .engine => 0 | .job => 1 | .cluster => 2 | .island => 3 | .die => 4 | .device => 5 | .system => 6

/-- Scope codes (R62), the reserved ones left out. -/
def Scope.ofCode : Nat → Option Scope
  | 0 => some .engine | 1 => some .job | 2 => some .cluster | 3 => some .island | 4 => some .die | 5 =>
      some .device | 6 => some .system | _ => none

/-- Order codes (R62). -/
def Order.code : Order → Nat
  | .rlx => 0 | .acq => 1 | .rel => 2 | .acqrel => 3

/-- Order codes (R62), the reserved ones left out. -/
def Order.ofCode : Nat → Option Order
  | 0 => some .rlx | 1 => some .acq | 2 => some .rel | 3 => some .acqrel | _ => none

/-- F codes of PCMP and XF codes of PCMPI (R60). -/
def Cond.code : Cond → Nat
  | .eq => 0 | .ne => 1 | .lt => 2 | .ge => 3 | .ltn => 4 | .gen => 5

/-- F codes of PCMP and XF codes of PCMPI (R60), the reserved ones left out. -/
def Cond.ofCode : Nat → Option Cond
  | 0 => some .eq | 1 => some .ne | 2 => some .lt | 3 => some .ge | 4 => some .ltn | 5 => some .gen | _ => none

/-- F codes of PLOG (R60). -/
def PLogOp.code : PLogOp → Nat
  | .and => 0 | .or => 1 | .xor => 2 | .andn => 3 | .orn => 4

/-- F codes of PLOG (R60), the reserved ones left out. -/
def PLogOp.ofCode : Nat → Option PLogOp
  | 0 => some .and | 1 => some .or | 2 => some .xor | 3 => some .andn | 4 => some .orn | _ => none

/-- Answers of THRACK (R60). -/
def FlagAns.code : FlagAns → Nat
  | .accept => 0 | .downgrade => 1 | .yield => 2

/-- Answers of THRACK (R60), the reserved ones left out. -/
def FlagAns.ofCode : Nat → Option FlagAns
  | 0 => some .accept | 1 => some .downgrade | 2 => some .yield | _ => none

/-- U codes of VCMP (R64). -/
def VCond.code : VCond → Nat
  | .eq => 0 | .ne => 1 | .lt => 2 | .le => 3 | .gt => 4 | .ge => 5 | .un => 6

/-- U codes of VCMP (R64), the reserved ones left out. -/
def VCond.ofCode : Nat → Option VCond
  | 0 => some .eq | 1 => some .ne | 2 => some .lt | 3 => some .le | 4 => some .gt | 5 => some .ge | 6 => some .un
      | _ => none

/-- U codes of VRED and VSCAN (R64). -/
def RedOp.code : RedOp → Nat
  | .add => 0 | .min => 1 | .max => 2 | .and => 3 | .or => 4 | .xor => 5

/-- U codes of VRED and VSCAN (R64), the reserved ones left out. -/
def RedOp.ofCode : Nat → Option RedOp
  | 0 => some .add | 1 => some .min | 2 => some .max | 3 => some .and | 4 => some .or | 5 => some .xor | _ => none

/-- Rounding codes of VCVT (R64). -/
def CvtRnd.code : CvtRnd → Nat
  | .rne => 0 | .rz => 1 | .stoch => 2 | .rna => 3

/-- Rounding codes of VCVT (R64), the reserved ones left out. -/
def CvtRnd.ofCode : Nat → Option CvtRnd
  | 0 => some .rne | 1 => some .rz | 2 => some .stoch | 3 => some .rna | _ => none

/-- The 6-bit code of an operand (R56). -/
def Opnd.code : Opnd → Nat
  | .reg n => n.val
  | .q n => 32 + n.val
  | .bad n => 48 + n.val

/-- Bits [25:22] of a word (R53). -/
def Tm.enc (t : Tm) : Nat := t.idl.val * 2 + t.w.toNat

/-- The `w` bits of `n` from bit `lo` up, as an index. -/
def finAt (n lo w : Nat) : Fin (2 ^ w) := ⟨bitsAt n lo w, Nat.mod_lt _ (Nat.two_pow_pos w)⟩

/-- The `w` bits of `n` from bit `lo` up, as a bit vector. -/
def bvAt (n lo w : Nat) : BitVec w := BitVec.ofNat w (bitsAt n lo w)

/-- Bit `lo` of `n`. -/
def flagAt (n lo : Nat) : Bool := bitsAt n lo 1 == 1

/-- The idle count and the wait bit of a word (R53). -/
def tmAt (n : Nat) : Tm := ⟨finAt n 23 3, flagAt n 22⟩

/-- The operand that a 6-bit code names (R56). -/
def opndOf (c : Fin 64) : Opnd :=
  if h : c.val < 32 then .reg ⟨c.val, h⟩ else
  if h' : c.val < 48 then .q ⟨c.val - 32, by omega⟩ else .bad ⟨c.val - 48, by omega⟩

/-- The operand in the 6-bit field from bit `lo` up. -/
def opndAt (n lo : Nat) : Opnd := opndOf (finAt n lo 6)

/-- Accepts a row whose fixed bits hold (`fixed`) and whose selectors are listed (`i`), if it is well-formed in this
engine; otherwise R66 step 3. -/
def accept (e : Eng) (fixed : Bool) (i : Option Instr) : Except Cause Instr :=
  match i with
  | some i => if fixed && i.wf e then .ok i else .error .illegalEncoding
  | none => .error .illegalEncoding

/-- As `accept`, for a row with a field that must name a stream: another code there is R66 step 4. -/
def acceptQ (e : Eng) (n lo : Nat) (fixed : Bool) (f : Option (Fin 16 → Instr)) : Except Cause Instr :=
  match f with
  | some f =>
    match opndAt n lo with
    | .q q => accept e fixed (some (f q))
    | _ => if fixed then .error .illegalOperand else .error .illegalEncoding
  | none => .error .illegalEncoding

/-- The operand in field D (R54, R56). -/
def opD (n : Nat) : Opnd := opndAt n 16
/-- The operand in field A (R54, R56). -/
def opA (n : Nat) : Opnd := opndAt n 10
/-- The operand in field B (R54, R56). -/
def opB (n : Nat) : Opnd := opndAt n 4

/-- An instruction of an element type T (R63). -/
def withT (n : Nat) (f : ElemT → Instr) : Option Instr := (ElemT.ofCode (bitsAt n 0 4)).map f

/-- The common subset (R58, R59): rows of opcodes 0x00-0x16. -/
def decodeWord (e : Eng) (n op : Nat) : Except Cause Instr :=
  match op with
  | 0 => accept e (bitsAt n 0 22 == 0) (some (.nop (tmAt n)))
  | 1 => accept e (bitsAt n 16 6 == 0) (some (.idle (tmAt n) (bvAt n 0 16)))
  | 2 => accept e true (some (.atTake (tmAt n) (opD n) (bvAt n 0 16)))
  | 3 => accept e (bitsAt n 10 12 == 0) (some (.slate (tmAt n) (flagAt n 9) (bvAt n 0 9)))
  | 4 => accept e (bitsAt n 10 12 == 0) (some (.rdv (tmAt n) (bvAt n 6 4) (bvAt n 0 6)))
  | 5 => accept e true (some (.loop (tmAt n) (finAt n 20 2) (bvAt n 10 10) (bvAt n 0 10)))
  | 6 => accept e (bitsAt n 0 4 == 0) (some (.loopr (tmAt n) (finAt n 20 2) (bvAt n 10 10) (opB n)))
  | 7 => accept e (bitsAt n 23 3 == 0) (some (.br (bvAt n 0 23)))
  | 8 => accept e (bitsAt n 22 4 == 0) (some (.bz (opD n) (bvAt n 0 16)))
  | 9 => accept e (bitsAt n 22 4 == 0) (some (.bnz (opD n) (bvAt n 0 16)))
  | 10 => accept e (bitsAt n 23 3 == 0) (some (.call (bvAt n 0 23)))
  | 11 =>
    if bitsAt n 0 4 = 0 then accept e (bitsAt n 0 10 == 0 && bitsAt n 16 10 == 0) (some (.callr (opA n))) else
    if bitsAt n 0 4 = 1 then accept e (bitsAt n 0 26 == 1) (some (.ret)) else
    if bitsAt n 0 4 = 2 then accept e (bitsAt n 0 26 == 2) (some (.lbrk)) else
    .error .illegalEncoding
  | 12 =>
    if bitsAt n 0 4 = 0 then accept e true (some (.add (tmAt n) (opD n) (opA n) (opB n))) else
    if bitsAt n 0 4 = 1 then accept e true (some (.sub (tmAt n) (opD n) (opA n) (opB n))) else
    if bitsAt n 0 4 = 2 then accept e true (some (.mul (tmAt n) (opD n) (opA n) (opB n))) else
    if bitsAt n 0 4 = 3 then accept e true (some (.mulh (tmAt n) (opD n) (opA n) (opB n))) else
    if bitsAt n 0 4 = 4 then accept e true (some (.mulhn (tmAt n) (opD n) (opA n) (opB n))) else
    if bitsAt n 0 4 = 5 then accept e true (some (.and (tmAt n) (opD n) (opA n) (opB n))) else
    if bitsAt n 0 4 = 6 then accept e true (some (.or (tmAt n) (opD n) (opA n) (opB n))) else
    if bitsAt n 0 4 = 7 then accept e true (some (.xor (tmAt n) (opD n) (opA n) (opB n))) else
    if bitsAt n 0 4 = 8 then accept e true (some (.shl (tmAt n) (opD n) (opA n) (opB n))) else
    if bitsAt n 0 4 = 9 then accept e true (some (.shr (tmAt n) (opD n) (opA n) (opB n))) else
    if bitsAt n 0 4 = 10 then accept e true (some (.sra (tmAt n) (opD n) (opA n) (opB n))) else
    if bitsAt n 0 4 = 11 then accept e true (some (.min (tmAt n) (opD n) (opA n) (opB n))) else
    if bitsAt n 0 4 = 12 then accept e true (some (.max (tmAt n) (opD n) (opA n) (opB n))) else
    if bitsAt n 0 4 = 13 then accept e true (some (.minn (tmAt n) (opD n) (opA n) (opB n))) else
    if bitsAt n 0 4 = 14 then accept e true (some (.maxn (tmAt n) (opD n) (opA n) (opB n))) else
    if bitsAt n 0 4 = 15 then accept e true (some (.mad (tmAt n) (opD n) (opA n) (opB n))) else
    .error .illegalEncoding
  | 13 =>
    if bitsAt n 0 4 = 0 then accept e true (some (.slt (tmAt n) (opD n) (opA n) (opB n))) else
    if bitsAt n 0 4 = 1 then accept e true (some (.sltn (tmAt n) (opD n) (opA n) (opB n))) else
    if bitsAt n 0 4 = 2 then accept e true (some (.seq (tmAt n) (opD n) (opA n) (opB n))) else
    if bitsAt n 0 4 = 3 then accept e true (some (.sel (tmAt n) (opD n) (opA n) (opB n))) else
    if bitsAt n 0 4 = 4 then accept e (bitsAt n 0 10 == 4) (some (.clz (tmAt n) (opD n) (opA n))) else
    if bitsAt n 0 4 = 5 then accept e (bitsAt n 0 10 == 5) (some (.popc (tmAt n) (opD n) (opA n))) else
    if bitsAt n 0 4 = 6 then accept e (bitsAt n 0 10 == 6) (some (.mov (tmAt n) (opD n) (opA n))) else
    .error .illegalEncoding
  | 14 => accept e true (some (.addi (tmAt n) (opD n) (opA n) (bvAt n 0 10)))
  | 15 => accept e true (some (.andi (tmAt n) (opD n) (opA n) (bvAt n 0 10)))
  | 16 => accept e true (some (.ori (tmAt n) (opD n) (opA n) (bvAt n 0 10)))
  | 17 => accept e true (some (.xori (tmAt n) (opD n) (opA n) (bvAt n 0 10)))
  | 18 =>
    if bitsAt n 8 2 = 0 then accept e (bitsAt n 6 4 == 0) (some (.shli (tmAt n) (opD n) (opA n) (bvAt n 0 6))) else
    if bitsAt n 8 2 = 1 then accept e (bitsAt n 6 4 == 4) (some (.shri (tmAt n) (opD n) (opA n) (bvAt n 0 6))) else
    if bitsAt n 8 2 = 2 then accept e (bitsAt n 6 4 == 8) (some (.srai (tmAt n) (opD n) (opA n) (bvAt n 0 6))) else
    .error .illegalEncoding
  | 19 => accept e true (some (.movi (tmAt n) (opD n) (bvAt n 0 16)))
  | 20 => accept e true (some (.movhi (tmAt n) (opD n) (bvAt n 0 16)))
  | 21 => accept e (bitsAt n 10 6 == 0) (some (.mfs (tmAt n) (opD n) (bvAt n 0 10)))
  | 22 => accept e (bitsAt n 16 6 == 0) (some (.mts (tmAt n) (opA n) (bvAt n 0 10)))
  | _ => .error .illegalOpcode

/-- Opcodes 0x20-0x37 of C (R60). -/
def decodeC (e : Eng) (n op : Nat) : Except Cause Instr :=
  match op with
  | 32 => accept e (bitsAt n 19 7 == 0) ((Cond.ofCode (bitsAt n 0 4)).bind fun c => some (.pcmp (finAt n 16 3)
      (opA n) (opB n) c))
  | 33 => accept e (bitsAt n 19 4 == 0) ((Cond.ofCode (bitsAt n 23 3)).bind fun c => some (.pcmpi c (finAt n 16 3)
      (opA n) (bvAt n 0 10)))
  | 34 => accept e (bitsAt n 7 3 == 0 && bitsAt n 13 3 == 0 && bitsAt n 19 7 == 0) ((PLogOp.ofCode
      (bitsAt n 0 4)).bind fun f => some (.plog (finAt n 16 3) (finAt n 10 3) (finAt n 4 3) f))
  | 35 =>
    if bitsAt n 0 4 = 0 then accept e (bitsAt n 0 10 == 0 && bitsAt n 19 7 == 0) (some (.pmovToPred (finAt n 16 3)
        (opA n))) else
    if bitsAt n 0 4 = 1 then accept e (bitsAt n 0 10 == 1 && bitsAt n 13 3 == 0 && bitsAt n 22 4 == 0) (some
        (.pmovFromPred (opD n) (finAt n 10 3))) else
    .error .illegalEncoding
  | 36 => accept e (bitsAt n 19 7 == 0) (some (.bp (finAt n 16 3) (bvAt n 0 16)))
  | 37 => accept e (bitsAt n 19 7 == 0) (some (.bnp (finAt n 16 3) (bvAt n 0 16)))
  | 38 => accept e (bitsAt n 3 1 == 0 && bitsAt n 22 4 == 0) (some (.selp (opD n) (opA n) (opB n) (finAt n 0 3)))
  | 39 => accept e (bitsAt n 6 4 == 0 && bitsAt n 16 10 == 0) (some (.sig (opA n) (finAt n 0 6)))
  | 40 => accept e (bitsAt n 16 10 == 0) (some (.endJob (bvAt n 0 16)))
  | 41 => accept e (bitsAt n 16 10 == 0) (some (.trap (bvAt n 0 16)))
  | 42 => accept e (bitsAt n 0 26 == 0) (some (.eret))
  | 43 => accept e (bitsAt n 10 6 == 0 && bitsAt n 22 4 == 0 && bitsAt n 2 8 == 0) (some (.bqry (opD n)
      (finAt n 0 2)))
  | 44 => accept e (bitsAt n 10 6 == 0 && bitsAt n 22 4 == 0 && bitsAt n 1 9 == 0) (some (.joule (opD n)
      (flagAt n 0)))
  | 45 => acceptQ e n 10 (bitsAt n 3 7 == 0 && bitsAt n 16 10 == 0) (some (fun q => .varreg q (finAt n 0 3)))
  | 46 => accept e (bitsAt n 2 24 == 0) ((FlagAns.ofCode (bitsAt n 0 2)).bind fun a => some (.thrack a))
  | 47 => accept e (bitsAt n 4 12 == 0 && bitsAt n 22 4 == 0) (some (.eclass (opD n) (finAt n 0 4)))
  | 48 => accept e (bitsAt n 10 16 == 0) (some (.phase (bvAt n 0 10)))
  | 49 => accept e (bitsAt n 0 10 == 0 && bitsAt n 22 4 == 0) (some (.preempt (opD n) (opA n)))
  | 50 => accept e (bitsAt n 0 10 == 0 && bitsAt n 22 4 == 0) (some (.qsusp (opD n) (opA n)))
  | 51 => accept e (bitsAt n 0 10 == 0 && bitsAt n 22 4 == 0) (some (.qres (opD n) (opA n)))
  | 52 => accept e (bitsAt n 0 4 == 0 && bitsAt n 16 10 == 0) (some (.semmap (opA n) (opB n)))
  | 53 => accept e (bitsAt n 0 10 == 0 && bitsAt n 22 4 == 0) (some (.drainm (opD n) (opA n)))
  | 54 => accept e (bitsAt n 0 4 == 0 && bitsAt n 16 10 == 0) (some (.rseed (opA n) (opB n)))
  | 55 => accept e (bitsAt n 0 26 == 0) (some (.yield))
  | _ => .error .illegalOpcode

/-- Opcodes 0x20-0x3A of A (R61, R62). -/
def decodeA (e : Eng) (n op : Nat) : Except Cause Instr :=
  match op with
  | 32 => accept e (bitsAt n 22 1 == 0) ((Size.ofCode (bitsAt n 23 3)).bind fun z => some (.ald z (opD n) (opA n)
      (bvAt n 0 10)))
  | 33 => accept e (bitsAt n 22 1 == 0) ((Size.ofCode (bitsAt n 23 3)).bind fun z => some (.ast z (opD n) (opA n)
      (bvAt n 0 10)))
  | 34 => acceptQ e n 16 (bitsAt n 22 4 == 0) (some (fun q => .ard q (opA n) (bvAt n 0 10)))
  | 35 => acceptQ e n 16 (bitsAt n 22 4 == 0) (some (fun q => .awr q (opA n) (bvAt n 0 10)))
  | 36 => acceptQ e n 16 (bitsAt n 0 4 == 0 && bitsAt n 7 3 == 0 && bitsAt n 22 4 == 0) (some (fun q => .afill q
      (opA n) (finAt n 4 3)))
  | 37 => acceptQ e n 16 (bitsAt n 0 4 == 0 && bitsAt n 7 3 == 0 && bitsAt n 22 4 == 0) (some (fun q => .adrain q
      (opA n) (finAt n 4 3)))
  | 38 => accept e (bitsAt n 19 7 == 0) (some (.wset (finAt n 16 3) (opA n) (bvAt n 0 10)))
  | 39 => accept e (bitsAt n 10 6 == 0 && bitsAt n 19 7 == 0) (some (.wadv (finAt n 16 3) (bvAt n 0 10)))
  | 40 => accept e (bitsAt n 22 1 == 0) ((Size.ofCode (bitsAt n 23 3)).bind fun z => some (.gld z (opD n) (opA n)
      (opB n) (finAt n 0 4)))
  | 41 => accept e (bitsAt n 22 1 == 0) ((Size.ofCode (bitsAt n 23 3)).bind fun z => some (.gst z (opD n) (opA n)
      (opB n) (finAt n 0 4)))
  | 42 => acceptQ e n 16 (bitsAt n 22 1 == 0) ((Size.ofCode (bitsAt n 23 3)).bind fun z => some
      (fun q => .ggath z q (opA n) (opB n) (finAt n 0 4)))
  | 43 => acceptQ e n 16 (bitsAt n 22 1 == 0) ((Size.ofCode (bitsAt n 23 3)).bind fun z => some
      (fun q => .gscat z q (opA n) (opB n) (finAt n 0 4)))
  | 44 => accept e (bitsAt n 22 1 == 0) ((AtomOp.ofCode (bitsAt n 23 3)).bind fun o => (Scope.ofCode
      (bitsAt n 7 3)).bind fun s => (Order.ofCode (bitsAt n 5 2)).bind fun r => some (.aamo o (opD n) (opA n) s r
      (flagAt n 4) (finAt n 0 4)))
  | 45 => accept e (bitsAt n 22 4 == 0) ((Scope.ofCode (bitsAt n 7 3)).bind fun s => (Order.ofCode
      (bitsAt n 5 2)).bind fun r => some (.acas (opD n) (opA n) s r (flagAt n 4) (finAt n 0 4)))
  | 46 => accept e (bitsAt n 22 4 == 0) ((Scope.ofCode (bitsAt n 7 3)).bind fun s => (Order.ofCode
      (bitsAt n 5 2)).bind fun r => some (.aswp (opD n) (opA n) s r (flagAt n 4) (finAt n 0 4)))
  | 47 => accept e (bitsAt n 0 4 == 0 && bitsAt n 22 1 == 0) ((AtomOp.ofCode (bitsAt n 23 3)).bind fun o =>
      (Scope.ofCode (bitsAt n 7 3)).bind fun s => (Order.ofCode (bitsAt n 5 2)).bind fun r => some (.samo o (opD n)
      (opA n) s r (flagAt n 4)))
  | 48 => accept e (bitsAt n 22 1 == 0) ((Size.ofCode (bitsAt n 23 3)).bind fun z => some (.rst z (opD n) (opA n)
      (bvAt n 0 10)))
  | 49 => accept e (bitsAt n 22 1 == 0) ((Size.ofCode (bitsAt n 23 3)).bind fun z => some (.rld z (opD n) (opA n)
      (bvAt n 0 10)))
  | 50 => accept e (bitsAt n 22 4 == 0) (some (.binit (opD n) (opA n) (bvAt n 0 10)))
  | 51 => accept e (bitsAt n 16 10 == 0) (some (.barr (opA n) (bvAt n 0 10)))
  | 52 => accept e (bitsAt n 22 4 == 0) (some (.bwait (opD n) (opA n) (bvAt n 0 10)))
  | 53 => accept e (bitsAt n 22 4 == 0) (some (.btest (opD n) (opA n) (bvAt n 0 10)))
  | 54 =>
    if bitsAt n 16 3 = 0 then accept e (bitsAt n 22 4 == 0) ((Scope.ofCode (bitsAt n 19 3)).bind fun s => some
        (.fenceAcq s (bvAt n 0 16))) else
    if bitsAt n 16 3 = 1 then accept e (bitsAt n 22 4 == 0) ((Scope.ofCode (bitsAt n 19 3)).bind fun s => some
        (.fenceRel s (bvAt n 0 16))) else
    if bitsAt n 16 3 = 2 then accept e (bitsAt n 22 4 == 0) ((Scope.ofCode (bitsAt n 19 3)).bind fun s => some
        (.fenceFull s (bvAt n 0 16))) else
    if bitsAt n 16 3 = 3 then accept e (bitsAt n 22 4 == 0) ((Scope.ofCode (bitsAt n 19 3)).bind fun s => some
        (.fenceAsync s (bvAt n 0 16))) else
    .error .illegalEncoding
  | 55 => accept e (bitsAt n 0 10 == 0 && bitsAt n 22 4 == 0) (some (.tlbp (opD n) (opA n)))
  | 56 =>
    if bitsAt n 0 4 = 0 then accept e (bitsAt n 16 10 == 0) (some (.tlbinvPage (opA n) (opB n))) else
    if bitsAt n 0 4 = 1 then accept e (bitsAt n 16 10 == 0) (some (.tlbinvCtx (opA n) (opB n))) else
    if bitsAt n 0 4 = 2 then accept e (bitsAt n 16 10 == 0) (some (.tlbinvAll (opA n) (opB n))) else
    .error .illegalEncoding
  | 57 =>
    if bitsAt n 0 4 = 0 then accept e (bitsAt n 0 10 == 0 && bitsAt n 16 10 == 0) (some (.l1opLine (opA n))) else
    if bitsAt n 0 4 = 1 then accept e (bitsAt n 0 10 == 1 && bitsAt n 16 10 == 0) (some (.l1opAll (opA n))) else
    .error .illegalEncoding
  | 58 => accept e (bitsAt n 16 7 == 0 && bitsAt n 24 2 == 0) (some (.pref (flagAt n 23) (opA n) (opB n)
      (finAt n 0 4)))
  | _ => .error .illegalOpcode

/-- Opcodes 0x20-0x3E of V (R63, R64). -/
def decodeV (e : Eng) (n op : Nat) : Except Cause Instr :=
  match op with
  | 32 => accept e true (withT n fun ty => .vadd (tmAt n) (opD n) (opA n) (opB n) ty)
  | 33 => accept e true (withT n fun ty => .vsub (tmAt n) (opD n) (opA n) (opB n) ty)
  | 34 => accept e true (withT n fun ty => .vmul (tmAt n) (opD n) (opA n) (opB n) ty)
  | 35 => accept e true (withT n fun ty => .vmadd (tmAt n) (opD n) (opA n) (opB n) ty)
  | 36 => accept e true (withT n fun ty => .vmin (tmAt n) (opD n) (opA n) (opB n) ty)
  | 37 => accept e true (withT n fun ty => .vmax (tmAt n) (opD n) (opA n) (opB n) ty)
  | 38 => accept e true (withT n fun ty => .vadds (tmAt n) (opD n) (opA n) (opB n) ty)
  | 39 => accept e true (withT n fun ty => .vand (tmAt n) (opD n) (opA n) (opB n) ty)
  | 40 => accept e true (withT n fun ty => .vor (tmAt n) (opD n) (opA n) (opB n) ty)
  | 41 => accept e true (withT n fun ty => .vxor (tmAt n) (opD n) (opA n) (opB n) ty)
  | 42 => accept e true (withT n fun ty => .vshl (tmAt n) (opD n) (opA n) (opB n) ty)
  | 43 => accept e true (withT n fun ty => .vshr (tmAt n) (opD n) (opA n) (opB n) ty)
  | 44 =>
    if bitsAt n 4 6 = 0 then accept e true (withT n fun ty => .vabs (tmAt n) (opD n) (opA n) ty) else
    if bitsAt n 4 6 = 1 then accept e true (withT n fun ty => .vneg (tmAt n) (opD n) (opA n) ty) else
    if bitsAt n 4 6 = 2 then accept e true (withT n fun ty => .vrcp (tmAt n) (opD n) (opA n) ty) else
    if bitsAt n 4 6 = 3 then accept e true (withT n fun ty => .vrsq (tmAt n) (opD n) (opA n) ty) else
    if bitsAt n 4 6 = 4 then accept e true (withT n fun ty => .vexp (tmAt n) (opD n) (opA n) ty) else
    if bitsAt n 4 6 = 5 then accept e true (withT n fun ty => .vpopc (tmAt n) (opD n) (opA n) ty) else
    if bitsAt n 4 6 = 6 then accept e true (withT n fun ty => .vnot (tmAt n) (opD n) (opA n) ty) else
    .error .illegalEncoding
  | 45 => accept e true (withT n fun ty => .vfma (tmAt n) (opD n) (opA n) (opB n) ty)
  | 46 => accept e true ((VCond.ofCode (bitsAt n 4 6)).bind fun u => (ElemT.ofCode (bitsAt n 0 4)).bind
      fun ty => some (.vcmp (tmAt n) (opD n) (opA n) u ty))
  | 47 => accept e true (withT n fun ty => .vsel (tmAt n) (opD n) (opA n) (opB n) ty)
  | 48 => accept e true ((ElemT.ofCode (bitsAt n 6 4)).bind fun s => (CvtRnd.ofCode (bitsAt n 4 2)).bind fun r =>
      (ElemT.ofCode (bitsAt n 0 4)).bind fun ty => some (.vcvt (tmAt n) (opD n) (opA n) s r ty))
  | 49 => accept e true (withT n fun ty => .vqmx (tmAt n) (opD n) (opA n) (opB n) ty)
  | 50 => accept e true (withT n fun ty => .vdqmx (tmAt n) (opD n) (opA n) (opB n) ty)
  | 51 => accept e true (withT n fun ty => .vscl (tmAt n) (opD n) (opA n) (opB n) ty)
  | 52 => accept e true ((RedOp.ofCode (bitsAt n 4 6)).bind fun u => (ElemT.ofCode (bitsAt n 0 4)).bind
      fun ty => some (.vred (tmAt n) (opD n) (opA n) u ty))
  | 53 => accept e true ((RedOp.ofCode (bitsAt n 4 6)).bind fun u => (ElemT.ofCode (bitsAt n 0 4)).bind
      fun ty => some (.vscan (tmAt n) (opD n) (opA n) u ty))
  | 54 => accept e true (withT n fun ty => .vperm (tmAt n) (opD n) (opA n) (opB n) ty)
  | 55 => accept e true (withT n fun ty => .vrotm (tmAt n) (opD n) (opA n) (opB n) ty)
  | 56 => accept e (bitsAt n 4 6 == 0) (withT n fun ty => .vbcst (tmAt n) (opD n) (opA n) ty)
  | 57 =>
    if bitsAt n 4 6 = 0 then accept e (bitsAt n 16 6 == 0) (withT n fun ty => .vmpush (tmAt n) (opA n) ty) else
    if bitsAt n 4 6 = 1 then accept e (bitsAt n 0 22 == 16) (some (.vminv (tmAt n))) else
    if bitsAt n 4 6 = 2 then accept e (bitsAt n 0 22 == 32) (some (.vmpop (tmAt n))) else
    .error .illegalEncoding
  | 58 => accept e (bitsAt n 16 6 == 0) (some (.vskip (tmAt n) (bvAt n 0 16)))
  | 59 =>
    if bitsAt n 4 6 = 0 then accept e true (withT n fun ty => .vidxw (tmAt n) (opD n) (opA n) ty) else
    if bitsAt n 4 6 = 1 then accept e true (withT n fun ty => .vidxr (tmAt n) (opD n) (opA n) ty) else
    .error .illegalEncoding
  | 60 =>
    if bitsAt n 4 6 = 0 then accept e true (withT n fun ty => .vbitt (tmAt n) (opD n) (opA n) ty) else
    if bitsAt n 4 6 = 1 then accept e true (withT n fun ty => .vbits (tmAt n) (opD n) (opA n) ty) else
    if bitsAt n 4 6 = 2 then accept e (bitsAt n 0 10 == 32) (some (.vpopm (tmAt n) (opD n) (opA n))) else
    .error .illegalEncoding
  | 61 => accept e true (withT n fun ty => .vmatch (tmAt n) (opD n) (opA n) (opB n) ty)
  | 62 =>
    if bitsAt n 4 6 = 0 then accept e true (withT n fun ty => .vlane (tmAt n) (opD n) (opA n) ty) else
    if bitsAt n 4 6 = 1 then accept e true (withT n fun ty => .vins (tmAt n) (opD n) (opA n) ty) else
    if bitsAt n 4 6 = 2 then accept e (bitsAt n 0 10 == 32 && bitsAt n 13 3 == 0) (some (.vmov (tmAt n) (opD n)
        (finAt n 10 3))) else
    .error .illegalEncoding
  | _ => .error .illegalOpcode

/-- Opcodes 0x20-0x2C of M (R65). -/
def decodeM (e : Eng) (n op : Nat) : Except Cause Instr :=
  match op with
  | 32 => accept e (bitsAt n 0 4 == 0) (some (.tshape (tmAt n) (opD n) (opA n) (opB n)))
  | 33 => accept e (bitsAt n 4 6 == 0 && bitsAt n 16 6 == 0 && bitsAt n 2 2 == 0) (some (.tcfg (tmAt n) (opA n)
      (finAt n 0 2)))
  | 34 => accept e (bitsAt n 0 19 == 0) (some (.tzero (tmAt n) (finAt n 19 3)))
  | 35 =>
    if bitsAt n 0 4 = 0 then accept e (bitsAt n 5 8 == 0) (some (.tmma (tmAt n) (finAt n 19 3) (finAt n 16 3)
        (finAt n 13 3) (flagAt n 4))) else
    if bitsAt n 0 4 = 1 then accept e (bitsAt n 5 8 == 0) (some (.tmmax (tmAt n) (finAt n 19 3) (finAt n 16 3)
        (finAt n 13 3) (flagAt n 4))) else
    .error .illegalEncoding
  | 36 => accept e (bitsAt n 0 4 == 0 && bitsAt n 5 8 == 0) (some (.tmmat (tmAt n) (finAt n 19 3) (finAt n 16 3)
      (finAt n 13 3) (flagAt n 4)))
  | 37 => accept e (bitsAt n 0 4 == 0 && bitsAt n 5 5 == 0) (some (.tmmas (tmAt n) (finAt n 19 3) (finAt n 16 3)
      (finAt n 13 3) (finAt n 10 3) (flagAt n 4)))
  | 38 =>
    if bitsAt n 0 4 = 0 then accept e (bitsAt n 5 11 == 0) (some (.tret (tmAt n) (finAt n 19 3) (finAt n 16 3)
        (flagAt n 4))) else
    if bitsAt n 0 4 = 1 then accept e (bitsAt n 5 11 == 0) (some (.tretq (tmAt n) (finAt n 19 3) (finAt n 16 3)
        (flagAt n 4))) else
    .error .illegalEncoding
  | 39 => accept e (bitsAt n 0 16 == 0) (some (.tspill (tmAt n) (finAt n 19 3) (finAt n 16 3)))
  | 40 => accept e (bitsAt n 0 16 == 0) (some (.tfill (tmAt n) (finAt n 19 3) (finAt n 16 3)))
  | 41 => accept e (bitsAt n 0 16 == 0) (some (.tacc (tmAt n) (finAt n 19 3) (finAt n 16 3)))
  | 43 => accept e (bitsAt n 4 12 == 0 && bitsAt n 2 2 == 0) (some (.tstat (tmAt n) (opD n) (finAt n 0 2)))
  | 44 => accept e (bitsAt n 4 6 == 0 && bitsAt n 3 1 == 0) (some (.tchk (tmAt n) (opD n) (opA n) (finAt n 0 3)))
  | _ => .error .illegalOpcode

/-- What engine `e` reads in the word `w`: an instruction, or the cause of R66 steps 1 to 3 (step 4 for a field that
must name a stream). Every other check of R66 is made where the instruction issues (R67). -/
def decode (e : Eng) (w : W32) : Except Cause Instr :=
  let n := w.toNat
  let op := bitsAt n 26 6
  if op < 32 then
    if op = 2 ∧ e.elastic then .error .illegalOpcode else
    if 7 ≤ op ∧ op ≤ 11 ∧ !e.elastic ∧ (op = 11 → bitsAt n 0 4 < 3) then .error .illegalInTimed else decodeWord e n op
  else
    match e with
    | .c => decodeC e n op
    | .a => decodeA e n op
    | .v => decodeV e n op
    | .m => decodeM e n op

/-- Format R and the vector formats: D, A, B and F or T (R54). `t` is bits [25:22]. -/
def encR (op t d a b f : Nat) : Nat := op * 67108864 + t * 4194304 + d * 65536 + a * 1024 + b * 16 + f
/-- Format I (R54). -/
def encI (op t d a k : Nat) : Nat := op * 67108864 + t * 4194304 + d * 65536 + a * 1024 + k
/-- Formats L and B (R54). -/
def encL (op t d k : Nat) : Nat := op * 67108864 + t * 4194304 + d * 65536 + k
/-- Format J (R54). -/
def encJ (op o : Nat) : Nat := op * 67108864 + o
/-- Format T: ACC, WA, WB, MOD, F (R54). -/
def encT (op t c wa wb mod f : Nat) : Nat :=
  op * 67108864 + t * 4194304 + c * 524288 + wa * 65536 + wb * 8192 + mod * 16 + f
/-- Formats LOOP and LOOPR (R54). -/
def encLoop (op t l b c : Nat) : Nat := op * 67108864 + t * 4194304 + l * 1048576 + b * 1024 + c

/-- The word of an instruction, from the tables of R54-R65; none for a step of the device, which has no word. -/
def encodeNat (i : Instr) : Option Nat :=
  match i with
  | .nop t => some (encR 0 t.enc 0 0 0 0)
  | .idle t n => some (encL 1 t.enc 0 n.toNat)
  | .atTake t d n => some (encL 2 t.enc d.code n.toNat)
  | .slate t g k => some (encI 3 t.enc 0 0 (g.toNat * 512 + k.toNat))
  | .rdv t m k => some (encI 4 t.enc 0 0 (m.toNat * 64 + k.toNat))
  | .loop t l b c => some (encLoop 5 t.enc l.val b.toNat c.toNat)
  | .loopr t l b r => some (encLoop 6 t.enc l.val b.toNat (r.code * 16))
  | .br o => some (encJ 7 o.toNat)
  | .bz a o => some (encL 8 0 a.code o.toNat)
  | .bnz a o => some (encL 9 0 a.code o.toNat)
  | .call o => some (encJ 10 o.toNat)
  | .callr a => some (encR 11 0 0 a.code 0 0)
  | .ret => some (encR 11 0 0 0 0 1)
  | .lbrk => some (encR 11 0 0 0 0 2)
  | .add t d a b => some (encR 12 t.enc d.code a.code b.code 0)
  | .sub t d a b => some (encR 12 t.enc d.code a.code b.code 1)
  | .mul t d a b => some (encR 12 t.enc d.code a.code b.code 2)
  | .mulh t d a b => some (encR 12 t.enc d.code a.code b.code 3)
  | .mulhn t d a b => some (encR 12 t.enc d.code a.code b.code 4)
  | .and t d a b => some (encR 12 t.enc d.code a.code b.code 5)
  | .or t d a b => some (encR 12 t.enc d.code a.code b.code 6)
  | .xor t d a b => some (encR 12 t.enc d.code a.code b.code 7)
  | .shl t d a b => some (encR 12 t.enc d.code a.code b.code 8)
  | .shr t d a b => some (encR 12 t.enc d.code a.code b.code 9)
  | .sra t d a b => some (encR 12 t.enc d.code a.code b.code 10)
  | .min t d a b => some (encR 12 t.enc d.code a.code b.code 11)
  | .max t d a b => some (encR 12 t.enc d.code a.code b.code 12)
  | .minn t d a b => some (encR 12 t.enc d.code a.code b.code 13)
  | .maxn t d a b => some (encR 12 t.enc d.code a.code b.code 14)
  | .mad t d a b => some (encR 12 t.enc d.code a.code b.code 15)
  | .slt t d a b => some (encR 13 t.enc d.code a.code b.code 0)
  | .sltn t d a b => some (encR 13 t.enc d.code a.code b.code 1)
  | .seq t d a b => some (encR 13 t.enc d.code a.code b.code 2)
  | .sel t d a b => some (encR 13 t.enc d.code a.code b.code 3)
  | .clz t d a => some (encR 13 t.enc d.code a.code 0 4)
  | .popc t d a => some (encR 13 t.enc d.code a.code 0 5)
  | .mov t d a => some (encR 13 t.enc d.code a.code 0 6)
  | .addi t d a k => some (encI 14 t.enc d.code a.code k.toNat)
  | .andi t d a k => some (encI 15 t.enc d.code a.code k.toNat)
  | .ori t d a k => some (encI 16 t.enc d.code a.code k.toNat)
  | .xori t d a k => some (encI 17 t.enc d.code a.code k.toNat)
  | .shli t d a s => some (encI 18 t.enc d.code a.code s.toNat)
  | .shri t d a s => some (encI 18 t.enc d.code a.code (s.toNat + 256))
  | .srai t d a s => some (encI 18 t.enc d.code a.code (s.toNat + 512))
  | .movi t d k => some (encL 19 t.enc d.code k.toNat)
  | .movhi t d k => some (encL 20 t.enc d.code k.toNat)
  | .mfs t d n => some (encI 21 t.enc d.code 0 n.toNat)
  | .mts t a n => some (encI 22 t.enc 0 a.code n.toNat)
  | .pcmp p a b c => some (encR 32 0 p.val a.code b.code c.code)
  | .pcmpi c p a k => some (encI 33 (c.code * 2) p.val a.code k.toNat)
  | .plog d a b f => some (encR 34 0 d.val a.val b.val f.code)
  | .pmovToPred p a => some (encR 35 0 p.val a.code 0 0)
  | .pmovFromPred d p => some (encR 35 0 d.code p.val 0 1)
  | .bp p o => some (encL 36 0 p.val o.toNat)
  | .bnp p o => some (encL 37 0 p.val o.toNat)
  | .selp d a b p => some (encR 38 0 d.code a.code b.code p.val)
  | .sig a e => some (encI 39 0 0 a.code e.val)
  | .endJob s => some (encL 40 0 0 s.toNat)
  | .trap k => some (encL 41 0 0 k.toNat)
  | .eret => some (encR 42 0 0 0 0 0)
  | .bqry d k => some (encI 43 0 d.code 0 k.val)
  | .joule d k => some (encI 44 0 d.code 0 k.toNat)
  | .varreg q s => some (encI 45 0 0 (32 + q.val) s.val)
  | .thrack a => some (encI 46 0 0 0 a.code)
  | .eclass d c => some (encI 47 0 d.code 0 c.val)
  | .phase k => some (encI 48 0 0 0 k.toNat)
  | .preempt d a => some (encR 49 0 d.code a.code 0 0)
  | .qsusp d a => some (encR 50 0 d.code a.code 0 0)
  | .qres d a => some (encR 51 0 d.code a.code 0 0)
  | .semmap a b => some (encR 52 0 0 a.code b.code 0)
  | .drainm d a => some (encR 53 0 d.code a.code 0 0)
  | .rseed a b => some (encR 54 0 0 a.code b.code 0)
  | .yield => some (encL 55 0 0 0)
  | .ald z d a k => some (encI 32 (z.code * 2) d.code a.code k.toNat)
  | .ast z d a k => some (encI 33 (z.code * 2) d.code a.code k.toNat)
  | .ard q a k => some (encI 34 0 (32 + q.val) a.code k.toNat)
  | .awr q a k => some (encI 35 0 (32 + q.val) a.code k.toNat)
  | .afill q a w => some (encR 36 0 (32 + q.val) a.code w.val 0)
  | .adrain q a w => some (encR 37 0 (32 + q.val) a.code w.val 0)
  | .wset w a k => some (encI 38 0 w.val a.code k.toNat)
  | .wadv w n => some (encI 39 0 w.val 0 n.toNat)
  | .gld z d a b c => some (encR 40 (z.code * 2) d.code a.code b.code c.val)
  | .gst z d a b c => some (encR 41 (z.code * 2) d.code a.code b.code c.val)
  | .ggath z q a b c => some (encR 42 (z.code * 2) (32 + q.val) a.code b.code c.val)
  | .gscat z q a b c => some (encR 43 (z.code * 2) (32 + q.val) a.code b.code c.val)
  | .aamo o d a s r w c => some (encR 44 (o.code * 2) d.code a.code (s.code * 8 + r.code * 2 + w.toNat) c.val)
  | .acas d a s r w c => some (encR 45 0 d.code a.code (s.code * 8 + r.code * 2 + w.toNat) c.val)
  | .aswp d a s r w c => some (encR 46 0 d.code a.code (s.code * 8 + r.code * 2 + w.toNat) c.val)
  | .samo o d a s r w => some (encR 47 (o.code * 2) d.code a.code (s.code * 8 + r.code * 2 + w.toNat) 0)
  | .rst z d a k => some (encI 48 (z.code * 2) d.code a.code k.toNat)
  | .rld z d a k => some (encI 49 (z.code * 2) d.code a.code k.toNat)
  | .binit d a k => some (encI 50 0 d.code a.code k.toNat)
  | .barr a k => some (encI 51 0 0 a.code k.toNat)
  | .bwait d a k => some (encI 52 0 d.code a.code k.toNat)
  | .btest d a k => some (encI 53 0 d.code a.code k.toNat)
  | .fenceAcq s m => some (encL 54 0 (s.code * 8) m.toNat)
  | .fenceRel s m => some (encL 54 0 (s.code * 8 + 1) m.toNat)
  | .fenceFull s m => some (encL 54 0 (s.code * 8 + 2) m.toNat)
  | .fenceAsync s m => some (encL 54 0 (s.code * 8 + 3) m.toNat)
  | .tlbp d a => some (encR 55 0 d.code a.code 0 0)
  | .tlbinvPage a b => some (encR 56 0 0 a.code b.code 0)
  | .tlbinvCtx a b => some (encR 56 0 0 a.code b.code 1)
  | .tlbinvAll a b => some (encR 56 0 0 a.code b.code 2)
  | .l1opLine a => some (encR 57 0 0 a.code 0 0)
  | .l1opAll a => some (encR 57 0 0 a.code 0 1)
  | .pref h a b c => some (encR 58 (h.toNat * 2) 0 a.code b.code c.val)
  | .vadd t d a b ty => some (encR 32 t.enc d.code a.code b.code ty.code)
  | .vsub t d a b ty => some (encR 33 t.enc d.code a.code b.code ty.code)
  | .vmul t d a b ty => some (encR 34 t.enc d.code a.code b.code ty.code)
  | .vmadd t d a b ty => some (encR 35 t.enc d.code a.code b.code ty.code)
  | .vmin t d a b ty => some (encR 36 t.enc d.code a.code b.code ty.code)
  | .vmax t d a b ty => some (encR 37 t.enc d.code a.code b.code ty.code)
  | .vadds t d a b ty => some (encR 38 t.enc d.code a.code b.code ty.code)
  | .vand t d a b ty => some (encR 39 t.enc d.code a.code b.code ty.code)
  | .vor t d a b ty => some (encR 40 t.enc d.code a.code b.code ty.code)
  | .vxor t d a b ty => some (encR 41 t.enc d.code a.code b.code ty.code)
  | .vshl t d a b ty => some (encR 42 t.enc d.code a.code b.code ty.code)
  | .vshr t d a b ty => some (encR 43 t.enc d.code a.code b.code ty.code)
  | .vabs t d a ty => some (encR 44 t.enc d.code a.code 0 ty.code)
  | .vneg t d a ty => some (encR 44 t.enc d.code a.code 1 ty.code)
  | .vrcp t d a ty => some (encR 44 t.enc d.code a.code 2 ty.code)
  | .vrsq t d a ty => some (encR 44 t.enc d.code a.code 3 ty.code)
  | .vexp t d a ty => some (encR 44 t.enc d.code a.code 4 ty.code)
  | .vpopc t d a ty => some (encR 44 t.enc d.code a.code 5 ty.code)
  | .vnot t d a ty => some (encR 44 t.enc d.code a.code 6 ty.code)
  | .vfma t d a b ty => some (encR 45 t.enc d.code a.code b.code ty.code)
  | .vcmp t d a u ty => some (encR 46 t.enc d.code a.code u.code ty.code)
  | .vsel t d a b ty => some (encR 47 t.enc d.code a.code b.code ty.code)
  | .vcvt t d a s r ty => some (encR 48 t.enc d.code a.code (s.code * 4 + r.code) ty.code)
  | .vqmx t d a b ty => some (encR 49 t.enc d.code a.code b.code ty.code)
  | .vdqmx t d a b ty => some (encR 50 t.enc d.code a.code b.code ty.code)
  | .vscl t d a b ty => some (encR 51 t.enc d.code a.code b.code ty.code)
  | .vred t d a u ty => some (encR 52 t.enc d.code a.code u.code ty.code)
  | .vscan t d a u ty => some (encR 53 t.enc d.code a.code u.code ty.code)
  | .vperm t d a b ty => some (encR 54 t.enc d.code a.code b.code ty.code)
  | .vrotm t d a b ty => some (encR 55 t.enc d.code a.code b.code ty.code)
  | .vbcst t d a ty => some (encR 56 t.enc d.code a.code 0 ty.code)
  | .vmpush t a ty => some (encR 57 t.enc 0 a.code 0 ty.code)
  | .vminv t => some (encR 57 t.enc 0 0 1 0)
  | .vmpop t => some (encR 57 t.enc 0 0 2 0)
  | .vskip t n => some (encL 58 t.enc 0 n.toNat)
  | .vidxw t d a ty => some (encR 59 t.enc d.code a.code 0 ty.code)
  | .vidxr t d a ty => some (encR 59 t.enc d.code a.code 1 ty.code)
  | .vbitt t d a ty => some (encR 60 t.enc d.code a.code 0 ty.code)
  | .vbits t d a ty => some (encR 60 t.enc d.code a.code 1 ty.code)
  | .vpopm t d a => some (encR 60 t.enc d.code a.code 2 0)
  | .vmatch t d a b ty => some (encR 61 t.enc d.code a.code b.code ty.code)
  | .vlane t d a ty => some (encR 62 t.enc d.code a.code 0 ty.code)
  | .vins t d a ty => some (encR 62 t.enc d.code a.code 1 ty.code)
  | .vmov t d w => some (encR 62 t.enc d.code w.val 2 0)
  | .tshape t d a b => some (encR 32 t.enc d.code a.code b.code 0)
  | .tcfg t a f => some (encR 33 t.enc 0 a.code 0 f.val)
  | .tzero t c => some (encT 34 t.enc c.val 0 0 0 0)
  | .tmma t c a b n => some (encT 35 t.enc c.val a.val b.val n.toNat 0)
  | .tmmax t c a b n => some (encT 35 t.enc c.val a.val b.val n.toNat 1)
  | .tmmat t c a b n => some (encT 36 t.enc c.val a.val b.val n.toNat 0)
  | .tmmas t c a b m n => some (encT 37 t.enc c.val a.val b.val (m.val * 64 + n.toNat) 0)
  | .tret t c a k => some (encT 38 t.enc c.val a.val 0 k.toNat 0)
  | .tretq t c a k => some (encT 38 t.enc c.val a.val 0 k.toNat 1)
  | .tspill t c a => some (encT 39 t.enc c.val a.val 0 0 0)
  | .tfill t c a => some (encT 40 t.enc c.val a.val 0 0 0)
  | .tacc t c s => some (encT 41 t.enc c.val s.val 0 0 0)
  | .tstat t d f => some (encR 43 t.enc d.code 0 0 f.val)
  | .tchk t d a f => some (encR 44 t.enc d.code a.code 0 f.val)
  -- the steps of the device that have no word
  | .holdEnd _ | .trapEntry _ | .haltLineArrival _ | .dispatchRound _ | .capacityWaitTimeout _ _ | .cardRetire _ _
  | .copyGo _ _ _ | .copyCommandStart _ _ | .copyBurstComplete _ _ | .copyFaultTrap _ | .comparedCommandIssue _
  | .thirdRunEnd _ | .governorInterval _ | .evacuationTimeout _ | .levelChange _ | .phaseCapwaitTimeout _
  | .droopDetect _ | .droopRecover _ _ | .scrubRead _ _ | .pageWalkEnd _ _ | .pageRequestAnswer _ _
  | .shootdownComplete _ | .launchRecordWalk _ _ | .launchRecordTimeout _ _ | .sealFillComplete _ _
  | .resealComplete _ _ | .frameAssign _ _ | .flushOrder _ | .backInvalidateResponse _ | .hostSnoop _ _
  | .hostMemRead _ _ | .hostMemWrite _ _ _ | .doorbell _ _ | .nopPacket _ _ | .operators _ _ | .indirect _ _
  | .signal _ _ | .signalPacketPerform _ _ | .wait _ _ | .waitPacketRelease _ _ | .staleReread _ _ | .castling _ _
  | .quotaWaitRelease _ _ | .qctlReset _ _ _ | .functionLevelReset _ | .tdiLeaveRun _ | .getVersion
  | .getCapabilities | .negotiateAlgorithms _ | .getDigests | .getCertificate _ _ | .challenge _
  | .getMeasurements _ | .keyExchange _ | .finish _ _ | .endSession _ | .keyset _ _ _ _ | .jobStop _
  | .saveComplete _ _ | .wrapPost _ _ | .wrapCutoff _ _ | .wrapStopDeadline _ _ | .powerOnReset | .pcieHotReset
  | .devrst | .corerst _ | .coreSelfTestEnd _ _ | .bringupStageAdvance _ | .frameDecoded _ _ _ _ | .monitorClr _
  | .fastsetCountClear | .flitReceive _ _ _ | .flitReplay _ _ | .portRetrainComplete _ | .peerRequest _
  | .peerResponse _ _ _ | .peerRequestTimeout _ | .registerWrite _ _ _ | .islandCycle _ | .reservedEncoding _ _
  | .accessPerformsAtHome _ _ | .badpacket _ _ | .singleFault _ | .tdispMessage _ _ | .keySlotErase _ => none

/-- The word of an instruction as 32 bits. -/
def encode (i : Instr) : Option W32 := (encodeNat i).map (BitVec.ofNat 32)

/-- The word of an instruction as TRAPVAL holds it (R66); 0 for a step of the device. -/
def wordOf (i : Instr) : W32 := (encode i).getD 0

/-- The four bytes of a word as memory holds them (R9). -/
def wordBytes (w : Nat) : List Byte := bytesOfNat 4 w

/-- The instruction that engine `e` reads from four bytes of memory, lowest address first. -/
def decodeBytes (e : Eng) (bs : List Byte) : Except Cause Instr := decode e (BitVec.ofNat 32 (natOfBytes bs))

/-- The engine that `decodeTableWord` and `withFetchWord` choose for a word: the first of C, M, A and V that accepts it
(log 13). -/
def tableEng (w : Nat) : Option (Eng × Instr) :=
  match decodeBytes .c (wordBytes w) with
  | .ok i => some (.c, i)
  | .error _ =>
    match decodeBytes .m (wordBytes w) with
    | .ok i => some (.m, i)
    | .error _ =>
      match decodeBytes .a (wordBytes w) with
      | .ok i => some (.a, i)
      | .error _ =>
        match decodeBytes .v (wordBytes w) with
        | .ok i => some (.v, i)
        | .error _ => none

/-- The instruction that the decoder reads from a word of the opcode table. Every instruction is one 32-bit word, so
bits above the 32nd are no part of it. -/
def decodeTableWord (nbits w : Nat) : Option Instr :=
  if nbits = 0 then none else (tableEng w).map Prod.snd

end Sys2Proof
end

