-- ==== Sys2Proof/Machine/Sparse.lean ====
section
/-! DEFINITION. Sparse maps: lists of (key, value) pairs with strictly rising keys and no entry equal to what an
unlisted key reads as, so that equal maps are equal lists. Memory is the sparse map of bytes. -/

namespace Sys2Proof.Machine

/-- A sparse map with natural keys. -/
abbrev SMap (α : Type) := List (Nat × α)

/-- The value at key `k`; `d` where none is listed. -/
def SMap.get {α : Type} (d : α) : SMap α → Nat → α
  | [], _ => d
  | (j, x) :: m, k => if k = j then x else if k < j then d else SMap.get d m k

/-- The map without key `k`. -/
def SMap.erase {α : Type} : SMap α → Nat → SMap α
  | [], _ => []
  | (j, x) :: m, k => if k = j then m else if k < j then (j, x) :: m else (j, x) :: SMap.erase m k

/-- The map with `x` listed at key `k`. -/
def SMap.insert {α : Type} : SMap α → Nat → α → SMap α
  | [], k, x => [(k, x)]
  | (j, y) :: m, k, x =>
    if k = j then (k, x) :: m else if k < j then (k, x) :: (j, y) :: m else (j, y) :: SMap.insert m k x

/-- The map that reads `x` at key `k`; writing `d` removes the entry. -/
def SMap.set {α : Type} [DecidableEq α] (d : α) (m : SMap α) (k : Nat) (x : α) : SMap α :=
  if x = d then m.erase k else m.insert k x

/-- Every key of the map is above `k`. -/
def SMap.above {α : Type} (k : Nat) (m : SMap α) : Bool := m.all fun e => decide (k < e.1)

/-- The canonical form: keys strictly rising, no entry equal to `d`. -/
def SMap.wf {α : Type} [DecidableEq α] (d : α) : SMap α → Bool
  | [] => true
  | (j, x) :: m => decide (x ≠ d) && SMap.above j m && SMap.wf d m

/-- The optional entry at key `k`. -/
def SMap.find {α : Type} : SMap α → Nat → Option α
  | [], _ => none
  | (j, x) :: m, k => if k = j then some x else if k < j then none else SMap.find m k

/-- A byte memory: a list of cells in canonical form, in which an unlisted address reads 0 (log 2). -/
abbrev Memory := List Host.Cell

/-- The byte at an address. -/
def Memory.read (m : Memory) (a : Nat) : Byte := SMap.get (0 : Byte) m a

/-- The memory with one byte written. -/
def Memory.write (m : Memory) (a : Nat) (b : Byte) : Memory := SMap.set (0 : Byte) m a b

/-- The canonical form of a memory. -/
def Memory.wf (m : Memory) : Bool := SMap.wf (0 : Byte) m

/-- `n` bytes from address `a` up, lowest first (R9). -/
def Memory.readBytes (m : Memory) (a : Nat) : Nat → List Byte
  | 0 => []
  | n + 1 => m.read a :: m.readBytes (a + 1) n

/-- Writes bytes from address `a` up, lowest first (R9). -/
def Memory.writeBytes (m : Memory) (a : Nat) : List Byte → Memory
  | [] => m
  | b :: bs => (m.write a b).writeBytes (a + 1) bs

end Sys2Proof.Machine
end

