-- ==== Sys2Proof/Machine/State.lean ====
section
/-! DEFINITION. The state of the machine: every piece of state that the spec gives the KX9, as plain data, and the
state after reset. -/

namespace Sys2Proof.Machine

/-! ## The streams of a job (R30-R50) -/

/-- One active loop level (R86). -/
structure LoopLvl where
  first : VAddr
  last : VAddr
  left : Nat
  deriving DecidableEq, Repr

/-- A return-address store with its counts and its spill window RASWIN (R48-R50). -/
structure Ras where
  pos : Vector W64 16
  held : Nat
  spilled : Nat
  win : W32
  deriving DecidableEq, Repr

/-- The architectural state of C that the continuity core copies (R285). -/
structure CArch where
  s : Vector W32 32
  p : Vector Bool 8
  pc : VAddr
  loops : List LoopLvl
  ras : Ras
  inh : Bool
  deriving DecidableEq, Repr

/-- What a stream waits for (R33, R40, R79); `since` is the job cycle of its arrival. -/
inductive Wait
  | run
  | idle (left : Nat)
  | slate (group : Bool) (id : BitVec 9) (since : Nat)
  | rdv (id : BitVec 6) (mask : BitVec 4) (since : Nat)
  /-- At its final rendezvous (R34): RDV 0 in A, V and M, END in C. -/
  | final
  /-- C at a PHASE that waits for capacity, with the time of the PHASE and its identifier (R360). -/
  | phase (since : Nat) (id : BitVec 10)
  /-- C after a YIELD, until its job has stopped (R117). -/
  | yielded
  /-- At an instruction that has issued and stalls until an operation of the device completes (R120-R124, R219), with
  the operand values that it read. -/
  | op (args : List W64)
  deriving DecidableEq, Repr

/-- A trap that an engine has raised and the cycle's end resolves (R132, R280). `origin` is false for HALT. -/
structure Raised where
  eng : Eng
  cause : Cause
  val : W32
  pc : VAddr
  /-- A class T cause that escalates to class C (R131), or a node-fatal one that has escalated. -/
  classC : Bool
  /-- The full faulting address, for ENGSTATE of an A stop record (R134); 0 for a cause that has none. -/
  addr : Nat
  deriving DecidableEq, Repr

/-- A compared command of C (R78, R287): the cycle in which the primary first reached it, whether it then waits for a
stream, and whether the copies agree. -/
structure Compared where
  reach : Nat
  stalled : Bool
  agreed : Bool
  deriving DecidableEq, Repr

/-- A value that has entered C from outside (R285); one popped from a stream names it. -/
structure CIn where
  from_ : Option (Fin 16)
  val : Row
  deriving DecidableEq, Repr

/-- What C has done at one address: an instruction, or a transfer that the outside made, a trap entry or the return from
one (R285). A compared command whose operation goes on after its issue is two steps (R286). -/
inductive CAct
  | instr (i : Instr)
  /-- A compared command has issued, and has taken its operands. -/
  | issue (i : Instr)
  /-- It has come to its end. -/
  | finish (i : Instr)
  | jump (dest : VAddr) (inh : Bool)
  deriving DecidableEq, Repr

/-- One step of the primary C, with its address and the job cycle in which the checker makes it: 8 later (R285). -/
structure CStep where
  pc : VAddr
  act : CAct
  due : Nat
  deriving DecidableEq, Repr

/-- The digest of a boundary that awaits the checker (R286): the primary's state there, the steps that the checker has still
to make before it, and the span that ended there: the checkpoint at its start, its steps and its outside values; then the
outside values since. -/
structure CDigest where
  state : CArch
  left : Nat
  base : CArch
  span : List CStep
  ins : List CIn
  later : List CIn
  deriving DecidableEq, Repr

/-- A third run (R288): cycles left of the restore, the steps to make again, its state, the logged values it has still to take,
and whether it resolves a command. -/
structure ThirdRun where
  wait : Nat
  todo : List CStep
  arch : CArch
  ins : List CIn
  command : Bool
  deriving DecidableEq, Repr

/-- The control engine with its continuity core (R285-R289). -/
structure CEng where
  /-- The primary's state. -/
  arch : CArch
  /-- The checker's state, and the primary's at the last take boundary. -/
  chk : CArch
  ckpt : CArch
  /-- The step that C makes, with its address, and whether it is a compared command. -/
  cur : Option (VAddr × CAct × Bool)
  /-- Steps that the checker has still to make, and the values that it has still to take. -/
  trail : List CStep
  chkIn : List CIn
  /-- The steps and the outside values since the last take boundary. -/
  span : List CStep
  spanIn : List CIn
  digest : Option CDigest
  third : Option ThirdRun
  wait : Wait
  tshadow : Option W32
  acted : Bool
  cmp : Option Compared
  /-- TRAPVEC, TRAPCAUSE.CODE, the pending bits PWRAP, PPRE and PFLAG, TRAPPC and TRAPVAL (R128, R129). -/
  vec : W32
  code : BitVec 5
  pwrap : Bool
  ppre : Bool
  pflag : Bool
  tpc : W32
  tval : W32
  deriving DecidableEq, Repr

/-- A part of a posted store: its bytes at a physical address, with the virtual address of the first. -/
structure StorePart where
  pa : Nat
  va : Nat
  bytes : List Byte
  deriving DecidableEq, Repr

/-- A posted access of A that has not performed at its home (R190, R194, R201), with the address of its instruction (R134). -/
inductive Posted
  /-- Bytes for a scratchpad of the cluster, by an RST (R201), with the JOBID of the job that it was issued to (R190). -/
  | scratch (core : CoreId) (addr : Nat) (bytes : List Byte) (cls : Fin 16) (target : W32) (pc : VAddr)
  /-- Bytes for physical addresses within one sector or row, which perform as one write (R194, R195, R333): a GST, or the
  elements of a GSCAT, each part with its virtual address. -/
  | store (kind : Fin 3) (parts : List StorePart) (cls : Fin 16) (pc : VAddr)
  /-- A store to a peer's memory that has been sent and awaits its response (R469), with its parts. -/
  | peer (tag : Nat) (parts : List StorePart) (cls : Fin 16) (pc : VAddr)
  /-- A fence that later stores perform after (R216). -/
  | fence (mask : BitVec 16) (scope : Scope)
  deriving DecidableEq, Repr

/-- One request of an access to a peer's memory: its tag, its virtual address, and its response once it has come, with the poison
indicator and the bytes (R469). -/
structure PeerPart where
  tag : Nat
  va : Nat
  reply : Option (Bool × List Byte)
  deriving DecidableEq, Repr

/-- An access to peers' memory that awaits the responses to its requests, in ascending order of its elements (R469). -/
structure PeerWait where
  parts : List PeerPart
  /-- A copy burst's writes, not its reads. -/
  wr : Bool
  deriving DecidableEq, Repr

/-- A copy command's fault (R472): the copy engine, the cause and the address of the first byte that failed. -/
structure CopyFault where
  e : CopyId
  cause : Cause
  addr : Nat
  deriving DecidableEq, Repr

/-- The access engine. -/
structure AEng where
  x : Vector W64 32
  pc : VAddr
  loops : List LoopLvl
  ras : Ras
  wait : Wait
  tshadow : Option W32
  acted : Bool
  /-- The ordering class register ACLS (R193). -/
  acls : Fin 16
  /-- Accesses not yet performed, oldest first. -/
  posted : List Posted
  /-- How many of them were issued before the latest rendezvous with C (R105). -/
  beforeMeet : Nat
  /-- A copy command's fault that A takes at its next boundary (R472). -/
  copyFault : Option CopyFault
  /-- The peer access of the instruction at which A stands. -/
  peer : Option PeerWait
  /-- The page at which the walk of the PREF or L1OP where A stands found no leaf that serves it (R220, R221). -/
  probed : Option Nat
  deriving DecidableEq, Repr

/-- Where a timed result goes. -/
inductive Dst
  | s (n : Fin 32)
  | v (n : Fin 32)
  | vmst
  deriving DecidableEq, Repr

/-- A register result that has not landed (R226): unheld cycles left, the destination, the value and the bytes that
the mask lets it write. -/
structure Pend where
  left : Nat
  dst : Dst
  val : Row
  mask : Mask
  deriving DecidableEq, Repr

/-- A result in flight to a stream or to FPFLAGS, which time alone delays (R176, R226). -/
structure Flight where
  left : Nat
  push : Option (Fin 16 × Row)
  flags : BitVec 6
  deriving DecidableEq, Repr

/-- A row write of a VMOV that lands at the end of a coming cycle (R255), with the address of the VMOV. -/
structure VStore where
  left : Nat
  pc : VAddr
  walk : Fin 8
  addr : Nat
  mask : Mask
  row : Row
  deriving DecidableEq, Repr

/-- The vector engine. -/
structure VEng where
  s : Vector W32 32
  v : Vector Row 32
  pc : VAddr
  loops : List LoopLvl
  wait : Wait
  tshadow : Option W32
  /-- The take from which the next instruction's idle count runs: T + OCC (R39). -/
  base : W32
  acted : Bool
  /-- The mask stack, top first (R228). -/
  masks : List Mask
  /-- Words left of a skipped region (R246). -/
  skip : Nat
  vmst : W32
  fpflags : BitVec 6
  fpmode : W32
  pend : List Pend
  flights : List Flight
  /-- Row writes of VMOV that have not landed. -/
  stores : List VStore
  deriving DecidableEq, Repr

/-- What an accumulator holds (R258). -/
inductive AccKind | none | flt | int
  deriving DecidableEq, Repr

/-- One accumulator: its 64 x 64 elements row by row, its KIND (R258), and its residues and checksums, each held as its
difference from what the contents give, so that an accumulator that no fault has struck lists none (R291, R292). -/
structure Acc where
  e : Vector W32 4096
  kind : AccKind
  /-- Residues modulo 7 by element: the element's significand less the residue beside it. -/
  res : SMap Nat
  /-- Checksums by row: the row's sum less CK, modulo 2^32. -/
  ck : SMap Nat
  deriving DecidableEq, Repr

/-- A row access of an issued M instruction that falls due later (R259, R267, R276). -/
structure RowAcc where
  left : Nat
  walk : Option (Fin 8)
  addr : Nat
  /-- The row to write; none for a read. -/
  wr : Option Row
  /-- The row as it was read or written, once the access has been made. -/
  got : Option Row
  deriving DecidableEq, Repr

/-- An issued M instruction with row accesses still to make, and what it then does with the rows it read. -/
structure MFlight where
  /-- The instruction. -/
  instr : Instr
  pc : VAddr
  /-- Unheld cycles until it completes. -/
  left : Nat
  accs : List RowAcc
  /-- The shape, configuration words and bank formats as the instruction took them at issue. -/
  shape : Nat × Nat × Nat
  cfg : Vector W32 4
  fmts : Vector W32 32
  /-- Flags to be ORed into FPFLAGS when it completes (R265, R270). -/
  flags : BitVec 6
  /-- The check of a retirement that fails, RESIDUE or CHECKSUM (R273). -/
  bad : Option Cause
  deriving DecidableEq, Repr

/-- The matrix engine. -/
structure MEng where
  s : Vector W32 32
  pc : VAddr
  loops : List LoopLvl
  wait : Wait
  tshadow : Option W32
  base : W32
  acted : Bool
  acc : Vector Acc 8
  shapeM : Nat
  shapeN : Nat
  shapeK : Nat
  tcfg : Vector W32 4
  retcnt : W32
  /-- Accumulators whose latest retirement was unchecked (R273). -/
  unchk : BitVec 8
  rdepth : Nat
  depthMax : Nat
  rsvw : Bool
  csw : W32
  fpflags : BitVec 6
  fpmode : W32
  /-- Scalar results that have not landed (R76, R259). -/
  pend : List Pend
  flights : List MFlight
  flagFlights : List Flight
  deriving DecidableEq, Repr

/-! ## Stream registers, walks, copy commands -/

/-- The binding of a stream register (R35, R41). -/
structure Binding where
  prod : Eng
  cons : Eng
  row : Bool
  deriving DecidableEq, Repr

/-- A stream register: entries visible at this cycle's start that have not been popped (oldest first), entries pushed
in this cycle, slots that this cycle's pops free at its end, and slots that results in flight hold (R41, R42, R226). A
word entry stands in the low 64 bits. -/
structure Stream where
  bind : Option Binding
  q : List Row
  incoming : List Row
  popped : Nat
  reserved : Nat
  deriving DecidableEq, Repr

/-- The timed engine that consumes a walk (R35). -/
inductive WalkUser | unused | v | m
  deriving DecidableEq, Repr

/-- The record of a walk (R151). -/
structure WalkRec where
  base : Nat
  dir : Bool
  track : Bool
  cyclic : Bool
  levels : Nat
  window : Nat
  count : Vector Nat 4
  stride : Vector Int 4
  lo : Nat
  hi : Nat
  deriving DecidableEq, Repr

/-- A walk: its consumer, its record once it is set, STEP, FSTEP and CREDIT (R152, R202), and the credit that this
cycle's fills add at its end (R207). -/
structure Walk where
  user : WalkUser
  record : Option WalkRec
  step : Nat
  fstep : Nat
  credit : Nat
  creditIn : Nat
  deriving DecidableEq, Repr

/-- The command window registers of one copy engine (R156). -/
structure CmdWin where
  cmd : Vector W64 4
  tag : BitVec 16
  err : BitVec 8
  rej : Nat
  deriving DecidableEq, Repr

/-- A cached translation: one leaf of any size, tagged by context (R370, R373). -/
structure TlbEnt where
  ctx : CtxId
  vpage : Nat
  frame : Nat
  /-- TLBP SIZE: 0 4 KiB, 1 64 KiB, 2 2 MiB, 3 32 MiB, 4 512 MiB, 5 1 GiB. -/
  size : Fin 6
  kind : Fin 3
  rd : Bool
  wr : Bool
  ex : Bool
  deriving DecidableEq, Repr

/-- A copy command that GO accepted (R157, R158): its registers, TAG, the FMT values captured for its two ends, CUR,
whether it has started, and the translations that its start made (R304). -/
structure CopyCmd where
  cmd : Vector W64 4
  tag : BitVec 16
  srcFmt : W32
  dstFmt : W32
  /-- The seed that governed GO (R124, R175), and the JOBIDs of the cluster's cores at GO (R159). -/
  seed : W32
  jobs : Vector (Option W32) 4
  /-- It was queued behind another command of its job on its engine (R305; log 85). -/
  behind : Bool
  cur : Nat
  started : Bool
  /-- It has started before, whether or not a stop has since taken its translations from it (R305, R444). -/
  begun : Bool
  xl : List TlbEnt
  /-- The peer access that its burst awaits. -/
  peer : Option PeerWait
  deriving DecidableEq, Repr

/-- A variant record (R113): the least and greatest shapes, class, tier, approximation, quality, bank profile. -/
structure Variant where
  dmin : Vector Nat 4
  dmax : Vector Nat 4
  ecl : Fin 16
  tier : Fin 6
  approx : Nat
  qual : Nat
  prof : W32
  deriving DecidableEq, Repr

/-- FLAGSTAT without STRK, which the island gives (R358). -/
structure FlagStat where
  pend : Bool
  ans : BitVec 2
  dgreq : Bool
  yreq : Bool
  cause : BitVec 2
  count : Nat
  leadus : Nat
  deriving DecidableEq, Repr

/-- VARIANT (R361). -/
structure VarSel where
  phase : BitVec 16
  tier : BitVec 4
  ecl : Fin 16
  approx : Nat
  dg : Bool
  valid : Bool
  slot : Fin 8
  deriving DecidableEq, Repr

/-- Whose page request it is: a stream's access or fetch, or a copy command (R377). -/
inductive PageUser
  | eng (e : Eng)
  | copy (e : CopyId)
  deriving DecidableEq, Repr

/-- A count of page faults of one access (R378) and the request it waits for (R377, R379). -/
structure PageWait where
  user : PageUser
  va : Nat
  tag : Option Nat
  fails : Nat
  /-- What the access is to raise: PAGE_DENIED after a deny, or what its walk met in a table (R378, R408, R416). -/
  denied : Option Cause
  deriving DecidableEq, Repr

/-- One job on a core (R31). -/
structure Job where
  jobid : W32
  nodeid : W32
  domain : W32
  part : PartId
  ctx : CtxId
  steward : Bool
  /-- The card: its home cluster, its slot there, and the member index of this job (R312). -/
  cluster : CluId
  slot : SlotId
  member : Fin 16
  hasA : Bool
  hasV : Bool
  hasM : Bool
  c : CEng
  a : AEng
  v : VEng
  m : MEng
  take : W32
  holdcyc : W32
  /-- Cycles since the job started, held or not. -/
  cyc : Nat
  /-- A hold cause that was in force when the cycle began (R280 step 2). -/
  hold : Bool
  /-- A slate released in this cycle: TAKE is 0 in the next (R40). -/
  zeroed : Bool
  rseed : W32
  nseed : Option W32
  /-- ATOMMODE.ROW (R324). -/
  rowMode : Bool
  fmt : Vector W32 32
  /-- The formats that govern timed decoding until the next slate (R147). -/
  tfmt : Vector W32 32
  streams : Vector Stream 16
  walks : Vector Walk 8
  win : Vector CmdWin 2
  copies : Vector (List CopyCmd) 2
  flag : FlagStat
  var : VarSel
  slots : Vector (Option Variant) 8
  /-- The shape of the card (R308), which PHASE selects for, and its capacity wait. -/
  dims : Vector Nat 4
  capwait : Nat
  /-- The bank profile in force: the launch variant's, then that of the latest PHASE (R141, R360). -/
  bankprof : W32
  jshadow : W32
  progress : BitVec 10
  /-- The time of that PHASE (R449). -/
  progressAt : Nat
  save : W64
  comp : W64
  /-- Row accesses that claim a bank group: cycles left, group, engine (R150). -/
  claims : List (Nat × Fin 4 × Eng)
  raised : List Raised
  pages : List PageWait
  endStatus : BitVec 16
  /-- Stopping for pre-emption, YIELD or a wrap (R438): the stream stops at its pre-emption point. -/
  stopping : Bool
  /-- It stands at its stop take with its engines stopped (R438). -/
  stopped : Bool
  /-- The profile and staging limit of this run (R430). -/
  prof : Fin 3
  stageMax : Nat
  /-- RESLIM at the launch of this run (R430). -/
  resLim : Nat
  /-- Timed decoding or a launch on a twin waits for the island to leave it (R262, R344). -/
  twinWait : Bool
  deriving DecidableEq, Repr

/-! ## Cores -/

/-- A core (R24, R135-R156). -/
structure Core where
  job : Option Job
  /-- The scratchpad's bytes, by 21-bit address. -/
  scr : Memory
  /-- Rows that other accesses than timed ones have written in this cycle, as they were before (R284), by address / 128. -/
  olds : SMap Row
  /-- Grades of physical rows, by bank x 544 + row (R138). -/
  grades : SMap Nat
  /-- The row map, by bank x 512 + logical row, as physical row + 1; unlisted rows map to themselves (R141). -/
  rowmap : SMap Nat
  /-- Deferred demotions: bank x 544 + row and the new grade (R142). -/
  pendDem : List (Nat × Nat)
  /-- Side-cache lines by physical line number (R154). -/
  side : SMap Row
  tlb : List TlbEnt
  quarantined : Bool
  /-- Times of the RESIDUE and CHECKSUM traps of the last second (R435). -/
  faultTimes : List Nat
  /-- Single faults that no check has met yet (R432). -/
  latent : List FaultKind
  /-- The core runs its self-test after a core reset (R455). -/
  selfTest : Bool
  deriving DecidableEq, Repr

/-! ## Nodes, clusters, islands -/

/-- A staged write of a node (R333, R421): its bytes at a physical address, with the virtual address of the first, in the
order of issue. -/
structure Staged where
  pa : Nat
  va : Nat
  bytes : List Byte
  deriving DecidableEq, Repr

/-- Where a card stands in its life (R309-R317, R425, R444). -/
inductive CardPhase
  | queued
  /-- Returned after a stop, ready once its queue runs (R444). -/
  | stopped
  | running
  /-- Its jobs have stopped and their images are being written (R441). -/
  | saving
  /-- It failed after an escape, and its compensator stands for it (R428). -/
  | compensating
  deriving DecidableEq, Repr

/-- An entry of a launch record (R380): what is left of its range, and its action. -/
structure RecEnt where
  base : Nat
  pages : Nat
  action : Nat
  deriving DecidableEq, Repr

/-- A task card in a dispatcher (R308) with its life. -/
structure Card where
  /-- The 128 bytes, as a natural number (byte 0 lowest). -/
  raw : Nat
  /-- Its home cluster, which holds its counters and semaphores, and to which a replay returns (R317, R425). -/
  home : CluId
  ctx : CtxId
  queue : Nat
  steward : Bool
  /-- Physical semaphores that expansion translated (R395); none where the card names none. -/
  wsem : Option Nat
  ssem : Option Nat
  /-- Argument words castling fixed (R394). -/
  args : Option (Vector W64 8)
  phase : CardPhase
  age : Nat
  rounds : Nat
  promoted : Bool
  stolen : Bool
  /-- The charge in force and the metered sum in 1/64 BU, and the joule count of the latest settlement (R354). -/
  metered : Nat
  settled : Nat
  /-- The variant records as the card's first consideration read them (R359). -/
  vars : Option (Vector (Option Variant) 8)
  /-- It has launched before, so that the test of R309 is not made again. -/
  launched : Bool
  /-- When the first round found no variant that fits (R359). -/
  capSince : Option Nat
  /-- When it became ready, for its launch record (R381); ranges translated, and tags of migrations outstanding. -/
  readySince : Option Nat
  recordDone : Bool
  /-- Its launch record once it has been read: the entries still to be worked through (R380). -/
  recEnts : Option (List RecEnt)
  migrations : List Nat
  /-- A page request of its descriptor or tables (R35). -/
  page : Option Nat
  /-- Consecutive failures of the walk of each page that it asked for (R378). -/
  pageFails : SMap Nat
  cores : List CoreId
  charge : Nat
  escaped : Bool
  escapedAt : Nat
  staged : List Staged
  /-- Staged SIGs: virtual semaphore and bit (R105). -/
  sigs : List (Nat × Fin 64)
  replays : Nat
  lastCause : Nat
  faults : Nat
  joule : Nat
  start : Nat
  levlo : Nat
  levhi : Nat
  jobid : Nat
  sel : VarSel
  status : BitVec 16
  /-- When its last stream ended, among the cards that have finished: they retire in this order (R310). -/
  ended : Option Nat
  sigdrop : Bool
  /-- For a compensator, the slot of the card in its home dispatcher that it stands for (R428). -/
  comp : Option Nat
  /-- Its compensator is still to be read: COMP, and STOPCNT before the stop records of the node (R428). -/
  compDue : Option (Nat × Nat)
  /-- Its completion record has been written or waits in the device's record writes (R310). -/
  recorded : Bool
  /-- The jobs of stopped members, in member order, as their images hold them (R441, log 21); the stop cause 1, 2 or 3. -/
  images : List Job
  stopCause : Nat
  /-- The save area of its jobs (R440). -/
  save : Nat
  /-- The seed of its first run, which a replay keeps (R425). -/
  seed : Option W32
  /-- It is on its way to its home dispatcher, which has had no free slot for it (R425, R444; log 88). -/
  away : Bool
  deriving DecidableEq, Repr

/-- Which access a walk serves (R377); a PREF or L1OP posts no page request (R220, R221). -/
inductive WalkFor
  | probe (core : CoreId)
  | access (core : CoreId) (eng : Eng) (kind : Nat)
  | copy (core : CoreId) (e : CopyId) (kind : Nat)
  deriving DecidableEq, Repr

/-- A page walk in flight (R374-R376). -/
structure WalkFlight where
  ctx : CtxId
  va : Nat
  use : WalkFor
  seq : Nat
  killed : Bool
  deriving DecidableEq, Repr

/-- A cluster: dispatcher, semaphores, counters, second-level TLB, walkers (R302-R318, R373). -/
structure Cluster where
  sems : SMap W64
  semOwner : SMap Nat
  ctrs : SMap Nat
  errlog : Nat
  cards : SMap Card
  idleSince : Option Nat
  tlb2 : List TlbEnt
  walks : Vector (Option WalkFlight) 16
  /-- The core that each copy engine served last, and the one whose burst is in progress (R303). -/
  served : Vector CoreIx 2
  serving : Vector (Option CoreIx) 2
  deriving DecidableEq, Repr

/-- A change of level under way (R346): the level it goes to. -/
structure LevelStep where
  target : Nat
  since : Nat
  deriving DecidableEq, Repr

/-- An island with its governor account (R343-R363). -/
structure Island where
  level : Nat
  step : Option LevelStep
  /-- A step down that the evacuation refused or abandoned (R353, R363). -/
  pendingDown : Bool
  evacSince : Option Nat
  stretch : Nat
  droop : Bool
  /-- The cycles that the present droop, or the latest one, has lengthened (R348). -/
  droopLen : Nat
  flagged : Bool
  flagCause : BitVec 2
  /-- Balance and reserve in 1/64 BU, the increment in BU (R352, R354). -/
  bal : Int
  inc : Nat
  res : Nat
  /-- N and the two conditions of R353 at the boundaries before: N was 12; B was at least 3 x inc. -/
  was12 : Bool
  rich : Nat
  -- GOVISL
  rsvtgt : Nat
  tlim : Nat
  weight : Nat
  twinen : Bool
  lmax : Nat
  lmin : Nat
  /-- The class table, by 16 x level + class (R351). -/
  classes : SMap W32
  cycles : Nat
  deriving DecidableEq, Repr

/-! ## Partitions, contexts and queues -/

/-- A partition as its descriptor forms it (R387). -/
structure PartDesc where
  clmask : BitVec 32
  vfbase : Nat
  vfn : Nat
  ctxtab : Nat
  stopbase : Nat
  prqbase : Nat
  prqn : Nat
  replaylim : Nat
  deriving DecidableEq, Repr

/-- Whom the answer of a page request serves: a job's access or fetch or copy command, a queue's fetcher, a card's
descriptor, or a migration (R35, R377, R380, R401). -/
inductive ReqOwner
  | job (core : CoreId) (user : PageUser)
  | queue (ctx : CtxId) (q : Nat)
  | card (cluster : CluId) (slot : SlotId)
  | migrate (cluster : CluId) (slot : SlotId)
  deriving DecidableEq, Repr

/-- A page request outstanding (R377). -/
structure PageReq where
  tag : Nat
  ctx : CtxId
  gen : Nat
  kind : Nat
  reason : Nat
  level : Nat
  engine : Nat
  va : Nat
  coreid : Nat
  owner : ReqOwner
  /-- It is in the ring; false while the ring is full (R401). -/
  posted : Bool
  deriving DecidableEq, Repr

/-- A shoot-down that waits for walks older than it (R376). -/
structure Shoot where
  s : Nat
  core : CoreId
  deriving DecidableEq, Repr

/-- Where a partition's wrap stands (R449, R450). -/
inductive WrapPhase | none | vacating | vacated
  deriving DecidableEq, Repr

/-- A partition. -/
structure Part where
  desc : Option PartDesc
  launches : Nat
  seq : Nat
  shoots : List Shoot
  reqs : List PageReq
  nextTag : Nat
  late : Nat
  prqWr : Nat
  prqRd : Nat
  -- RELCFG (R430)
  stageMax : Nat
  resLim : Nat
  prof : Fin 3
  -- WRAPDL and WRAPCTL (R447)
  wrapDl : W64
  wrapStatus : Nat
  wrapVft : Bool
  wrapVf : Nat
  /-- The wrap in force: none, vacating or vacated; its target; the nodes chosen to run with their cut-offs (R449, R450). -/
  wrapPhase : WrapPhase
  wrapTVft : Bool
  wrapTVf : Nat
  wrapRun : List (CluId × SlotId × Nat)
  deriving DecidableEq, Repr

/-- Queue states (R390). -/
inductive QState | idle | fetching | waiting | fetchFault | suspended | parked | halted
  deriving DecidableEq, Repr

/-- A level of an indirect buffer being read (R393). -/
structure Indirect where
  addr : Nat
  count : Nat
  next : Nat
  deriving DecidableEq, Repr

/-- An operator that waits for castling (R394): its held cards, ARGBANK, and whether it has castled and its cards wait for the
quota (R397). -/
structure QPend where
  cards : List Card
  argbank : Bool
  castled : Bool
  deriving DecidableEq, Repr

/-- A SIGNAL or WAIT packet in hand (R392): event bits, physical semaphore, counter and counter value. -/
structure QHeld where
  wait : Bool
  bits : W64
  sem : Option Nat
  ctr : Option Nat
  value : Nat
  deriving DecidableEq, Repr

/-- A task-card queue (R389-R394). -/
structure Queue where
  qbase : W64
  qerr : W64
  head : Nat
  tail : Nat
  state : QState
  /-- The state that a suspension left (R390). -/
  prev : QState
  /-- QSUSP found it parked or halted: it keeps that state, and no card of it launches (R121, R390). -/
  frozen : Bool
  err : Nat
  stalecnt : Nat
  /-- Stale reads of the present packet (R392). -/
  stale : Nat
  levels : List Indirect
  active : Vector W64 8
  shadow : Vector W64 8
  pending : Option QPend
  held : Option QHeld
  /-- Operator records of the packet in hand still to expand. -/
  opsLeft : Nat
  opsAddr : Nat
  /-- A QSUSP that takes effect at the next packet boundary (R121, R394). -/
  stopping : Bool
  /-- Consecutive failures of the walk of each page that the fetch of the packet in hand reads (R378, R401). -/
  fails : SMap Nat
  deriving DecidableEq, Repr

/-- TDI states (R384). -/
inductive Tdi | unlocked | locked | run | error
  deriving DecidableEq, Repr

/-- A key slot (R413, R414). -/
structure KeySlot where
  cur : Option (BitVec 256)
  prev : Option (BitVec 256)
  curGen : Nat
  prevGen : Nat
  sweep : Bool
  swept : Nat
  /-- The frame that the sweep visits next. -/
  sweepAt : Nat
  /-- An IDE key of the context is installed (R418, R458). -/
  ide : Option (BitVec 256)
  deriving DecidableEq, Repr

/-- A context: its VF or steward identity, queues, semaphore map and key slot. -/
structure Ctx where
  killed : Bool
  tdi : Tdi
  queues : SMap Queue
  /-- Physical semaphore + 1 of each mapped virtual semaphore (R446). -/
  semmap : SMap Nat
  /-- VFQUOTA and VFSTAT (R396). -/
  cardq : Nat
  budget : Nat
  ctrn : Nat
  ctrbase : Nat
  rem : Int
  ncards : Nat
  stopcnt : W32
  /-- The core and the JOBID of the steward job whose PREEMPT of the context is in progress (R120). -/
  preempting : Option (CoreId × W32)
  key : KeySlot
  deriving DecidableEq, Repr

/-! ## Memory, cache and package -/

/-- MESI state of a system-cache line of host memory (R367). -/
inductive Mesi | m | e | s | i
  deriving DecidableEq, Repr

/-- A line of the system cache (R364-R367). -/
structure Line where
  data : Row
  dirty : Bool
  /-- The cause that a consumer of a poisoned line takes: SEAL_TAG or ECC_UE (R404, R416). -/
  poison : Option Cause
  ctx : CtxId
  mesi : Mesi
  /-- The count at its last use, for least-recently-used order. -/
  age : Nat
  /-- The task that last dirtied it, or whose fill poisoned it, by core and JOBID (R416, R419). -/
  writer : Option (CoreId × W32)
  /-- The count of uses at its last write, which orders the writes of a block's lines (R419). -/
  wrote : Nat
  deriving DecidableEq, Repr

/-- Block states as STATE holds them (R406): 0 EMPTY, 1 SEALED, 2 EXHAUSTED, 3 SUSPECT. -/
structure Meta where
  tag : BitVec 64
  ver : BitVec 28
  state : BitVec 4
  kgen : BitVec 8
  ctx : BitVec 16
  deriving DecidableEq, Repr

/-- A fill in flight (R408): the requesting context and the core charged for it. -/
structure Fill where
  frame : Nat
  ctx : CtxId
  core : Option CoreId
  /-- A prefetch or record fill raises nothing (R221). -/
  quiet : Bool
  /-- Its block is metered in a card already (R380). -/
  prepaid : Bool := false
  /-- Lines of it that PREFs bring on into the side caches of cores, for the jobs with these JOBIDs (R221). -/
  side : List (CoreId × W32 × Nat) := []
  /-- JOBID of the task that the fill serves, on that core (R419). -/
  task : Option W32 := none
  /-- When it began. -/
  since : Nat := 0
  deriving DecidableEq, Repr

/-- A reseal in flight (R411): the victim line that leaves, and whether the rekey sweep ordered it. -/
structure Reseal where
  frame : Nat
  victim : Option Nat
  sweep : Bool
  deriving DecidableEq, Repr

/-- Where a record of the device goes: to a virtual address of a context; or to a physical address, the next place of the
seal event ring (R417), or that of a page-request ring (R401), in the context of whose frame it is written. -/
inductive RecDst
  | virt (ctx : CtxId) (va : Nat)
  | phys (pa : Nat)
  | sev
  | prq (p : PartId)
  deriving DecidableEq, Repr

/-- A write of the device's own that has not performed (R408-R411), within one line, and the message that announces it
(R386). -/
structure RecWrite where
  dst : RecDst
  bytes : List Byte
  msg : Option (Option (Fin 384) × Nat)
  deriving DecidableEq, Repr

/-- An entry of an MSI-X table with its pending bit (R386), as the PCIe base specification lays it out. -/
structure MsixEnt where
  addr : W64
  data : W32
  mask : Bool
  pending : Bool
  deriving DecidableEq, Repr

/-- An effect of hardware at the present instant, which a software write or the dispatcher's clear of the same cycle does not
undo (R12, R307). -/
inductive NowMark
  /-- Bits ORed into an event word, and those of them that were 0 before. -/
  | sem (n : Nat) (bits fresh : W64)
  /-- A launch clear of an event word. -/
  | semClr (n : Nat) (mask : W64)
  /-- A decrement of a counter, and whether it found the counter at 0. -/
  | ctr (n : Nat) (under : Bool)
  | sevLost (n : Nat)
  | replays (p : Fin 4) (n : Nat)
  | retrains (p : Fin 4) (n : Nat)
  | sample (k : Fin 5) (x : Int)
  | fastOut (n : Nat)
  /-- A suspension of a queue whose operator could castle (R394). -/
  | suspend (c : CtxId) (q : Nat)
  /-- A launch by the dispatcher that holds the card, as it stood before (R318). -/
  | launch (k : CluId) (n : SlotId) (x : Card)
  deriving DecidableEq, Repr

/-- The register blocks that count writes which R14 drops (R456). -/
inductive RegBlock
  | identity | status | gov | cache | firmware | monitors
  | queues (c : CtxId)
  deriving DecidableEq, Repr

/-- A TAMPER event that waits for room in the ring (R417). -/
structure SealEvent where
  kind : Nat
  ctx : Nat
  frame : Nat
  deriving DecidableEq, Repr

/-- A monitor (R461). -/
structure Monitor where
  sel : Nat
  frz : Bool
  min : Int
  max : Int
  edge : Vector (BitVec 32) 15
  bin : Vector Nat 16
  deriving DecidableEq, Repr

/-- Bring-up stages (R456). -/
inductive Stage | rom | verify | train | firmware | ready | failed
  deriving DecidableEq, Repr

/-- An SPDM session (R458). -/
structure Spdm where
  version : Bool
  caps : Bool
  algs : Bool
  sessions : List (BitVec 32 × Bool)
  deriving DecidableEq, Repr

/-- An intake stream (R459): its descriptor bytes as a number, the next frame, frames dropped, and how many blocks of the frame in
hand have been written. -/
structure Intake where
  desc : Option Nat
  frame : Nat
  dropped : Nat
  written : Nat
  deriving DecidableEq, Repr

/-- A peer port (R464-R466). -/
structure Port where
  state : Fin 4
  replays : Nat
  retrains : Nat
  /-- The sequence numbers of the next flit to arrive and of the next to send. -/
  rx : BitVec 12
  tx : BitVec 12
  /-- The replay buffer, oldest first, and the flits of each virtual channel that wait for the port to come up, each with its
  payload in plaintext (R465). -/
  replay : List (BitVec 2048)
  waiting : Vector (List (BitVec 2048)) 3
  /-- The link key that the two ports have derived (R463). -/
  key : Option (BitVec 256)
  /-- The flit NAKed last and how often in a row it has been replayed. -/
  nak : Option (BitVec 12 × Nat)
  /-- When the port retrained within the last second. -/
  times : List Nat
  /-- It went down by R464 and stays down until a device reset (log 25). -/
  dead : Bool
  deriving DecidableEq, Repr

/-- Whom a peer response serves: the instruction of A, a posted store, or a copy command. -/
inductive PeerUse
  | access
  | posted
  | copy (e : CopyId)
  deriving DecidableEq, Repr

/-- A request sent to a peer (R469): whom it serves, the port that it left by, and the time of sending. -/
structure PeerOut where
  tag : Nat
  core : CoreId
  use : PeerUse
  port : Fin 4
  sentAt : Nat
  deriving DecidableEq, Repr

/-- A response or message that the device has sent to the outside: MSI-X vectors, SPDM responses, CXL and peer data. -/
inductive Out
  /-- An MSI-X message of PF0 (none) or of a VF (R386), with the address and data of its table entry. -/
  | msix (fn : Option (Fin 384)) (vector : Nat) (addr : W64) (data : W32)
  /-- An SPDM response with its bytes (R458), or ERROR. -/
  | spdm (ok : Bool) (bytes : List Byte)
  /-- Data returned to the host, with the poison indicator (R418). -/
  | hostData (addr : Nat) (data : List Byte) (poison : Bool)
  /-- A back-invalidation snoop (R367). -/
  | backInvalidate (line : Nat)
  /-- Data written back to host memory on a snoop (R367). -/
  | writeBack (line : Nat)
  /-- A request to a peer that a port takes into its flits (R467, R468). -/
  | ask (dev : Fin 32) (req : PeerReq)
  /-- A response to a peer's request that a port takes into its flits (R468, R469), with its tag: data, and the poison indicator. -/
  | peer (dev : Fin 32) (tag : Nat) (data : List Byte) (poison : Bool)
  /-- A flit, an acknowledgement or a NAK on a peer port (R464). -/
  | flit (port : Fin 4) (flit : BitVec 2048)
  | ack (port : Fin 4) (seq : BitVec 12)
  | nak (port : Fin 4) (seq : BitVec 12)
  deriving DecidableEq, Repr

/-- Which engine, event or wait comes next (log 1). -/
inductive Turn
  | eng (core : CoreId) (e : Eng)
  | event (i : Instr)
  | wait (ns : Nat)
  /-- The time base passes one period of an island's clock. -/
  | period (isl : IslId)
  deriving DecidableEq, Repr

/-- The machine. -/
structure State where
  cores : Vector Core 128
  clusters : Vector Cluster 32
  islands : Vector Island 8
  parts : Vector Part 24
  ctxs : Vector Ctx 408
  /-- The time base in ns (R6), and the part of the present ns that cycles have passed, in units of 1/5544 ns (log 1). -/
  time : Nat
  frac : Nat
  -- the system cache (R364-R367)
  lines : SMap Line
  limits : SMap Nat
  wayErrs : List (Nat × Nat × Nat)
  lastUse : Nat
  snoop : List Nat
  backInv : List Nat
  -- memory
  /-- Device memory as last sealed, in plaintext, and host memory from 2^52 up (log 18), by physical address. -/
  mem : Memory
  sealMeta : SMap Meta
  fills : List Fill
  reseals : List Reseal
  /-- Frames that a scrub has logged (R434), frames and lines in the fast sets (R433), corrected errors by frame (R404), and rows whose
  contents an uncorrectable error has lost with no job to stop for it (R434). -/
  badFrames : List Nat
  fastFrames : List Nat
  fastLines : List Nat
  frameErrs : SMap Nat
  rowsLost : Nat
  -- package registers
  hallow : Nat
  ppkg : Nat
  penv : Nat
  hostAllow : Nat
  sevBase : Nat
  sevSize : Nat
  sevWr : W32
  sevRd : W32
  sevLost : W32
  tampers : List SealEvent
  pf0err : Nat
  stage : Stage
  stageErr : Fin 6
  cfgSigned : Bool
  drop : Nat
  /-- The reserved-write indication of each register block, as a count (R14). -/
  resv : SMap Nat
  /-- MSI-X table entries that the host has written, by 2048 x function + vector, PF0 being function 0 (R386). -/
  msix : SMap MsixEnt
  /-- Message Control of each function's MSI-X capability: Enable in bit 15 and Function Mask in bit 14; PF0 is function 0 (R386). -/
  msixCtl : SMap Nat
  /-- Record writes that wait for their blocks, oldest first. -/
  recs : List RecWrite
  monitors : Vector Monitor 5
  fastOut : Nat
  spdm : Spdm
  intake : Vector Intake 48
  -- fabric
  fto : Nat
  fabid : BitVec 5
  ports : Vector Port 4
  routes : SMap W64
  peerMap : SMap W64
  peerReqs : List PeerOut
  peerTag : Nat
  /-- Halt lines that have been asserted and have not reached every core: the context and the cores left (R133). -/
  halts : List (CtxId × List CoreId)
  outbox : List Out
  -- the model's own fields (log 1, log 3)
  agenda : List Turn
  turn : Turn
  fresh : Nat
  /-- Hardware effects of the present instant (log 78), and the count that numbers the cards that finish. -/
  now : List NowMark
  endSeq : Nat
  deriving DecidableEq, Repr

/-! ## The state after reset -/

/-- A queue at its reset values (R389, R394). -/
def Queue.init : Queue :=
  { qbase := 0, qerr := 0, head := 0, tail := 0, state := .idle, prev := .idle, frozen := false, err := 0,
    stalecnt := 0, stale := 0, levels := [], active := Vector.replicate 8 0, shadow := Vector.replicate 8 0, pending := none,
    held := none, opsLeft := 0, opsAddr := 0, stopping := false, fails := [] }

/-- An empty key slot (R413). -/
def KeySlot.init : KeySlot :=
  { cur := none, prev := none, curGen := 0, prevGen := 0, sweep := false, swept := 0, sweepAt := 0, ide := none }

/-- A context at reset (R384, R396, R446); TDI CONFIG_UNLOCKED (log 8). -/
def Ctx.init : Ctx :=
  { killed := false, tdi := .unlocked, queues := [], semmap := [], cardq := 0, budget := 0, ctrn := 0, ctrbase := 0,
    rem := 0, ncards := 0, stopcnt := 0, preempting := none, key := KeySlot.init }

/-- A core at power-on: no job, an empty scratchpad (log 2), grade 0 rows under the identity map (log 4). -/
def Core.init : Core :=
  { job := none, scr := [], olds := [], grades := [], rowmap := [], pendDem := [], side := [], tlb := [], quarantined := false,
    faultTimes := [], latent := [], selfTest := false }

/-- A cluster at reset: event words, owners and counters 0 (log 5). -/
def Cluster.init : Cluster :=
  { sems := [], semOwner := [], ctrs := [], errlog := 0, cards := [], idleSince := none, tlb2 := [],
    walks := Vector.replicate 16 none, served := Vector.replicate 2 0, serving := Vector.replicate 2 none }

/-- An island at reset (R343, R349, R351, R352). -/
def Island.init : Island :=
  { level := 6, step := none, pendingDown := false, evacSince := none, stretch := 0, droop := false, droopLen := 0, flagged := false,
    flagCause := 0, bal := 0, inc := 0, res := 0, was12 := false, rich := 0, rsvtgt := 1000, tlim := 95, weight := 1,
    twinen := false, lmax := 12, lmin := 0, classes := [], cycles := 0 }

/-- A partition at reset: not formed; RELCFG, WRAPDL and WRAPCTL at their values (R430, R447). -/
def Part.init : Part :=
  { desc := none, launches := 0, seq := 0, shoots := [], reqs := [], nextTag := 0, late := 0, prqWr := 0, prqRd := 0,
    stageMax := 256, resLim := 3, prof := 0, wrapDl := 0, wrapStatus := 0, wrapVft := false, wrapVf := 0,
    wrapPhase := .none, wrapTVft := false, wrapTVf := 0, wrapRun := [] }

/-- A monitor at reset: SEL 15, EDGE(i) = 2^i, MIN and MAX at their extremes, the rest 0 (R461). -/
def Monitor.init : Monitor :=
  { sel := 15, frz := false, min := 2 ^ 63 - 1, max := -2 ^ 63, edge := Vector.ofFn fun i => BitVec.ofNat 32 (2 ^ i.val),
    bin := Vector.replicate 16 0 }

/-- A peer port at reset (R466). -/
def Port.init : Port :=
  { state := 0, replays := 0, retrains := 0, rx := 0, tx := 0, replay := [], waiting := Vector.replicate 3 [], key := none, nak := none,
    times := [], dead := false }

/-- The metadata of a frame that firmware has not assigned: EMPTY of context 0 (log 7). -/
def Meta.init : Meta := { tag := 0, ver := 0, state := 0, kgen := 0, ctx := 0 }

/-- The limit of an occupancy group at reset (R366). -/
def limitInit : Nat := 0x200000

/-- The machine right after power-on reset (R13, R455): bring-up stands at stage ROM, no partition is formed and no
core runs a job. -/
def State.reset : State :=
  { cores := Vector.replicate 128 Core.init
    clusters := Vector.replicate 32 Cluster.init
    islands := Vector.replicate 8 Island.init
    parts := Vector.replicate 24 Part.init
    ctxs := Vector.replicate 408 Ctx.init
    time := 0, frac := 0
    lines := [], limits := [], wayErrs := [], lastUse := 0, snoop := [], backInv := []
    mem := [], sealMeta := [], fills := [], reseals := [], badFrames := [], fastFrames := [], fastLines := []
    frameErrs := [], rowsLost := 0
    hallow := 600, ppkg := 600, penv := 600, hostAllow := 600 * 64
    sevBase := 0, sevSize := 8, sevWr := 0, sevRd := 0, sevLost := 0, tampers := []
    pf0err := 0, stage := .rom, stageErr := 0, cfgSigned := false, drop := 0, resv := [], msix := [], msixCtl := [], recs := []
    monitors := Vector.replicate 5 Monitor.init, fastOut := 0
    spdm := { version := false, caps := false, algs := false, sessions := [] }
    intake := Vector.replicate 48 { desc := none, frame := 0, dropped := 0, written := 0 }
    fto := 1000, fabid := 0, ports := Vector.replicate 4 Port.init, routes := [], peerMap := [], peerReqs := []
    peerTag := 0, halts := [], outbox := []
    agenda := [], turn := .eng 0 .c, fresh := 0, now := [], endSeq := 0 }

/-! ## How a step stops -/

/-- The reasons for which a step stops the machine. -/
inductive Fault
  /-- Raised when an instruction is executed in an engine of a core that has no such running stream: the spec gives an
  instruction no effect outside a stream (R30, R31). Safe: no step of the machine itself raises it. -/
  | noStream
  deriving DecidableEq, Repr

/-- The reasons for which a step refuses an instruction. -/
inductive Refusal
  /-- Raised by an instruction that has no meaning yet, by its mnemonic. Safe. -/
  | notModelled (mnemonic : String)
  deriving DecidableEq, Repr

end Sys2Proof.Machine
end

