-- ==== Sys2Proof/Machine/Ops.lean ====
section
/-! DEFINITION. The named operations on a job and its streams: registers, stream registers, loops and the program
counter, raising a trap, entering and leaving the handler of class T traps. -/

namespace Sys2Proof.Machine

/-! ## Cores and jobs -/

/-- A core of the die. -/
def State.core (s : State) (c : CoreId) : Core := s.cores[c.val]'c.isLt

/-- The state with one core replaced. -/
def State.setCore (s : State) (c : CoreId) (x : Core) : State := { s with cores := s.cores.set c.val x c.isLt }

/-- The job of a core. -/
def State.job (s : State) (c : CoreId) : Option Job := (s.core c).job

/-- The state with the job of a core replaced. -/
def State.setJob (s : State) (c : CoreId) (j : Job) : State := s.setCore c { s.core c with job := some j }

/-- The core whose engine is in turn. -/
def State.turnCore (s : State) : CoreId :=
  match s.turn with
  | .eng c _ => c
  | _ => 0

/-- The engine in turn. -/
def State.turnEng (s : State) : Eng :=
  match s.turn with
  | .eng _ e => e
  | _ => .c

/-- The island of a core (R136). -/
def coreIsl (c : CoreId) : IslId := ⟨c.val / 16, by have := c.isLt; omega⟩

/-- The cluster of a core on the die (R136). -/
def coreClu (c : CoreId) : CluId := ⟨c.val / 4, by have := c.isLt; omega⟩

/-- Core `k` of the cluster that holds core `c`. -/
def corePeer (c : CoreId) (k : CoreIx) : CoreId := ⟨c.val / 4 * 4 + k.val, by have := c.isLt; have := k.isLt; omega⟩

/-- The island of a cluster. -/
def cluIsl (c : CluId) : IslId := ⟨c.val / 4, by have := c.isLt; omega⟩

/-- An island of the die. -/
def State.island (s : State) (i : IslId) : Island := s.islands[i.val]'i.isLt

/-- The state with one island replaced. -/
def State.setIsland (s : State) (i : IslId) (x : Island) : State := { s with islands := s.islands.set i.val x i.isLt }

/-- A cluster of the die. -/
def State.cluster (s : State) (c : CluId) : Cluster := s.clusters[c.val]'c.isLt

/-- The state with one cluster replaced. -/
def State.setCluster (s : State) (c : CluId) (x : Cluster) : State :=
  { s with clusters := s.clusters.set c.val x c.isLt }

/-- A context. -/
def State.ctx (s : State) (c : CtxId) : Ctx := s.ctxs[c.val]'c.isLt

/-- The state with one context replaced. -/
def State.setCtx (s : State) (c : CtxId) (x : Ctx) : State := { s with ctxs := s.ctxs.set c.val x c.isLt }

/-- A partition. -/
def State.part (s : State) (p : PartId) : Part := s.parts[p.val]'p.isLt

/-- The state with one partition replaced. -/
def State.setPart (s : State) (p : PartId) (x : Part) : State := { s with parts := s.parts.set p.val x p.isLt }

/-- The card of a job. -/
def State.card (s : State) (clu : CluId) (slot : SlotId) : Option Card := SMap.find (s.cluster clu).cards slot.val

/-- The state with a card written. -/
def State.setCard (s : State) (clu : CluId) (slot : SlotId) (x : Card) : State :=
  let c := s.cluster clu
  s.setCluster clu { c with cards := c.cards.insert slot.val x }

/-- The context number of R388: a VF's is its own, the steward's of partition p is 0x0400 + p. -/
def ctxNum (c : CtxId) : Nat := if c.val < 384 then c.val else 0x400 + (c.val - 384)

/-- The context of a context number, none for a number that names none. -/
def ctxOfNum (n : Nat) : Option CtxId :=
  if h : n < 384 then some ⟨n, by omega⟩
  else if h : 0x400 ≤ n ∧ n < 0x400 + 24 then some ⟨n - 0x400 + 384, by omega⟩ else none

/-! ## Register files -/

/-- A register of a file in which register 0 reads 0 (R45). -/
def regRead {w : Nat} (f : Vector (BitVec w) 32) (n : Fin 32) : BitVec w := if n = 0 then 0 else f[n.val]'n.isLt

/-- A write of a register file; a write to register 0 is discarded (R46). -/
def regWrite {w : Nat} (f : Vector (BitVec w) 32) (n : Fin 32) (x : BitVec w) : Vector (BitVec w) 32 :=
  if n = 0 then f else f.set n.val x n.isLt

/-- The operand width of an engine: 64 in A, 32 in C, V and M (R75). -/
def engWidth : Eng → Nat
  | .a => 64
  | _ => 32

/-- A predicate; p0 is true (R45). -/
def CArch.pred (a : CArch) (n : Fin 8) : Bool := n = 0 || a.p[n.val]'n.isLt

/-- A write of a predicate; a write to p0 is discarded (R46). -/
def CArch.setPred (a : CArch) (n : Fin 8) (b : Bool) : CArch :=
  if n = 0 then a else { a with p := a.p.set n.val b n.isLt }

/-- A scalar register of an engine, zero-extended to 64 bits. -/
def Job.reg (j : Job) (e : Eng) (n : Fin 32) : W64 :=
  match e with
  | .c => (regRead j.c.arch.s n).setWidth 64
  | .a => regRead j.a.x n
  | .v => (regRead j.v.s n).setWidth 64
  | .m => (regRead j.m.s n).setWidth 64

/-- One update of C's architectural state. -/
def CEng.upd (c : CEng) (f : CArch → CArch) : CEng := { c with arch := f c.arch }

/-- The scalar reader of a state of C. -/
def CArch.get (a : CArch) (n : Fin 32) : W64 := (regRead a.s n).setWidth 64

/-- A timed scalar result seen from the next take on (R76), or `lat` takes on. -/
def pendScalar (lat : Nat) (d : Fin 32) (x : W64) : Pend :=
  { left := lat, dst := .s d, val := x.setWidth 1024, mask := BitVec.allOnes 128 }

/-- Writes a scalar result; `f` computes it from the register reader. -/
def Job.write (j : Job) (e : Eng) (d : Fin 32) (f : (Fin 32 → W64) → W64) : Job :=
  match e with
  | .c => { j with c := j.c.upd fun a => { a with s := regWrite a.s d ((f a.get).setWidth 32) } }
  | .a => { j with a := { j.a with x := regWrite j.a.x d (f (j.reg .a)) } }
  | .v => { j with v := { j.v with pend := j.v.pend ++ [pendScalar 1 d ((f (j.reg .v)).setWidth 32 |>.setWidth 64)] } }
  | .m => { j with m := { j.m with pend := j.m.pend ++ [pendScalar 1 d ((f (j.reg .m)).setWidth 32 |>.setWidth 64)] } }

/-! ## Program counters and loops -/

/-- The engine's stream is part of the job (R31). -/
def Job.has (j : Job) : Eng → Bool
  | .c => true
  | .a => j.hasA
  | .v => j.hasV
  | .m => j.hasM

/-- The program counter of an engine. -/
def Job.pc (j : Job) : Eng → VAddr
  | .c => j.c.arch.pc
  | .a => j.a.pc
  | .v => j.v.pc
  | .m => j.m.pc

/-- The active loop levels of an engine, innermost first. -/
def Job.loops (j : Job) : Eng → List LoopLvl
  | .c => j.c.arch.loops
  | .a => j.a.loops
  | .v => j.v.loops
  | .m => j.m.loops

/-- What an engine waits for. -/
def Job.wait (j : Job) : Eng → Wait
  | .c => j.c.wait
  | .a => j.a.wait
  | .v => j.v.wait
  | .m => j.m.wait

/-- The job with an engine's wait replaced. -/
def Job.setWait (j : Job) (e : Eng) (w : Wait) : Job :=
  match e with
  | .c => { j with c := { j.c with wait := w } }
  | .a => { j with a := { j.a with wait := w } }
  | .v => { j with v := { j.v with wait := w } }
  | .m => { j with m := { j.m with wait := w } }

/-- The engine has issued, or left a wait, in this cycle. -/
def Job.acted (j : Job) : Eng → Bool
  | .c => j.c.acted
  | .a => j.a.acted
  | .v => j.v.acted
  | .m => j.m.acted

/-- Marks that the engine has issued, or left a wait, in this cycle. -/
def Job.act (j : Job) (e : Eng) : Job :=
  match e with
  | .c => { j with c := { j.c with acted := true } }
  | .a => { j with a := { j.a with acted := true } }
  | .v => { j with v := { j.v with acted := true } }
  | .m => { j with m := { j.m with acted := true } }

/-- The back-edge test when the instruction at `pc` completes without a taken transfer (R86): where the stream goes on,
and the levels left. -/
def backEdge (pc next : VAddr) : List LoopLvl → VAddr × List LoopLvl
  | [] => (next, [])
  | l :: ls =>
    if pc = l.last then
      if 1 < l.left then (l.first, { l with left := l.left - 1 } :: ls) else backEdge pc next ls
    else (next, l :: ls)

/-- Sets program counter and loop levels of a stream. -/
def Job.flow (j : Job) (e : Eng) (f : VAddr → List LoopLvl → VAddr × List LoopLvl) : Job :=
  match e with
  | .c => { j with c := j.c.upd fun a => { a with pc := (f a.pc a.loops).1, loops := (f a.pc a.loops).2 } }
  | .a => { j with a := { j.a with pc := (f j.a.pc j.a.loops).1, loops := (f j.a.pc j.a.loops).2 } }
  | .v => { j with v := { j.v with pc := (f j.v.pc j.v.loops).1, loops := (f j.v.pc j.v.loops).2 } }
  | .m => { j with m := { j.m with pc := (f j.m.pc j.m.loops).1, loops := (f j.m.pc j.m.loops).2 } }

/-- To the next instruction, by way of the back-edges that end here (R30, R86). -/
def Job.next (j : Job) (e : Eng) : Job := j.flow e fun pc ls => backEdge pc (pc + 4) ls

/-- The levels that a taken branch to `t` leaves active (R47). -/
def loopsAfter (t : VAddr) (ls : List LoopLvl) : List LoopLvl :=
  ls.filter fun l => decide (l.first ≤ t) && decide (t ≤ l.last)

/-- A taken branch (R47, R89). -/
def branchTo (t : VAddr) (ls : List LoopLvl) : VAddr × List LoopLvl := (t, loopsAfter t ls)

/-- The issue base of a timed engine: the take from which its next idle count runs (R39). -/
def Job.base (j : Job) : Eng → W32
  | .m => j.m.base
  | _ => j.v.base

/-- A step of C: it counts toward the next take boundary, and the checker makes it 8 cycles later (R285, R286). Only FULL keeps
the copies (R431). -/
def Job.traced (j : Job) (pc : VAddr) (act : CAct) : Job :=
  if j.prof = 0 then
    let x : CStep := { pc, act, due := j.cyc + 8 }
    { j with c := { j.c with cur := none, span := j.c.span ++ [x], trail := j.c.trail ++ [x] } }
  else j

/-- A take boundary of C (R286): the checkpoint is made and the input log starts anew. -/
def Job.boundary (j : Job) : Job := { j with c := { j.c with ckpt := j.c.arch, span := [], spanIn := [] } }

/-- The instruction that C executes has come to its end; a compared command ends its span (R286). -/
def Job.traceC (j : Job) : Job :=
  match j.c.cur with
  | none => j
  | some (pc, act, cmd) => if cmd then (j.traced pc act).boundary else j.traced pc act

/-- A compared command has issued and goes on: its issue is the take boundary, and its end a step after it (R286). -/
def Job.stand (j : Job) : Job :=
  match j.c.cur with
  | some (pc, .instr i, true) =>
    let j1 := (j.traced pc (.issue i)).boundary
    { j1 with c := { j1.c with cur := some (pc, .finish i, false) } }
  | _ => j

/-- After an instruction has issued: the next one of a timed stream issues `occ` takes and its idle count later (R39),
and a C instruction counts toward the next take boundary (R286). -/
def Job.issued (j : Job) (e : Eng) (occ : Nat) : Job :=
  match e with
  | .c => Job.traceC { j with c := { j.c with acted := true } }
  | .a => { j with a := { j.a with acted := true } }
  | .v => { j with v := { j.v with acted := true, base := j.take + BitVec.ofNat 32 occ } }
  | .m => { j with m := { j.m with acted := true, base := j.take + BitVec.ofNat 32 occ } }

/-- An instruction that is not a control transfer is done (R30, R39). -/
def Job.done (j : Job) (e : Eng) (occ : Nat) : Job := (j.next e).issued e occ

/-- A value from outside enters C's input log and is handed to the checker (R285). -/
def Job.logIn (j : Job) (x : CIn) : Job :=
  if j.prof = 0 then
    { j with c := { j.c with
      spanIn := j.c.spanIn ++ [x], chkIn := j.c.chkIn ++ [x], digest := j.c.digest.map fun d => { d with later := d.later ++ [x] } } }
  else j

/-- A value that an instruction takes from outside its engine, but from no stream, enters C's input log (R285). -/
def Job.log (j : Job) (e : Eng) (x : W64) : Job :=
  match e with
  | .c => j.logIn { from_ := none, val := x.setWidth 1024 }
  | _ => j

/-! ## Stream registers -/

/-- A stream register of the job. -/
def Job.stream (j : Job) (q : Fin 16) : Stream := j.streams[q.val]'q.isLt

/-- The job with a stream register replaced. -/
def Job.setStream (j : Job) (q : Fin 16) (x : Stream) : Job := { j with streams := j.streams.set q.val x q.isLt }

/-- `k` entries were there at the start of the cycle (R42). -/
def Stream.canPop (x : Stream) (k : Nat) : Bool := decide (k ≤ x.q.length)

/-- An entry was free at the start of the cycle (R42): slots popped in this cycle are not free yet. -/
def Stream.canPush (x : Stream) : Bool := decide (x.q.length + x.incoming.length + x.popped + x.reserved < 8)

/-- The oldest entry; 0 where there is none. -/
def Stream.head (x : Stream) : Row := x.q.headD 0

/-- Pops the oldest entry; its slot is free from the next cycle (R42). -/
def Stream.pop (x : Stream) : Stream :=
  match x.q with
  | [] => x
  | _ :: r => { x with q := r, popped := x.popped + 1 }

/-- Pushes an entry, seen from the next cycle (R42). -/
def Stream.push (x : Stream) (r : Row) : Stream := { x with incoming := x.incoming ++ [r] }

/-- The end of a cycle: this cycle's pushes are seen and its pops have freed their slots (R42, R280 step 6). -/
def Stream.tick (x : Stream) : Stream := { x with q := x.q ++ x.incoming, incoming := [], popped := 0 }

/-- Pushes an entry on stream `q` of the job. -/
def Job.push (j : Job) (q : Fin 16) (r : Row) : Job := j.setStream q ((j.stream q).push r)

/-- C consumes the stream register. -/
def Stream.forC (x : Stream) : Bool :=
  match x.bind with
  | some b => decide (b.cons = .c)
  | none => false

/-- Pops an entry of stream `q` of the job; what C pops enters its input log (R285). -/
def Job.pop (j : Job) (q : Fin 16) : Job :=
  let j1 := j.setStream q (j.stream q).pop
  if (j.stream q).forC then j1.logIn { from_ := some q, val := (j.stream q).head } else j1

/-! ## Traps -/

/-- The classes of R126. -/
inductive TrapClass | t | n | c
  deriving DecidableEq, Repr

/-- The code of a cause (R126). -/
def causeCode : Cause → Nat
  | .illegalOpcode => 0x01 | .illegalEncoding => 0x02 | .illegalOperand => 0x03 | .illegalInTimed => 0x04
  | .privilege => 0x05 | .streamBind => 0x06 | .streamKind => 0x07 | .rasOverflow => 0x08 | .rasEmpty => 0x09
  | .loopDepth => 0x0A | .schedMiss => 0x0B | .bankConflict => 0x0C | .rowRange => 0x0D | .walkFault => 0x0E
  | .align => 0x0F | .pageFault => 0x10 | .pageDenied => 0x11 | .protection => 0x12 | .sealTag => 0x13
  | .sealExhausted => 0x14 | .eccUe => 0x15 | .residue => 0x16 | .checksum => 0x17
  | .divergenceUnresolved => 0x18 | .flag => 0x19 | .capShort => 0x1A | .maskDepth => 0x1B | .trapSw => 0x1C
  | .preempt => 0x1D | .wrap => 0x1E | .halt => 0x1F

/-- The class of a cause (R126). HALT and PAGE_FAULT, which are no traps, stand with class N. -/
def causeClass : Cause → TrapClass
  | .flag | .trapSw | .preempt | .wrap => .t
  | .schedMiss | .rowRange | .sealTag | .sealExhausted | .eccUe | .residue | .checksum | .divergenceUnresolved
  | .capShort | .pageFault | .halt => .n
  | _ => .c

/-- A compared command waits for its comparison and for nothing else: it issues before C stops or takes a notice (R287, R289). -/
def CEng.committed (c : CEng) : Bool :=
  match c.cmp with
  | some x => !x.stalled
  | none => false

/-- A trap raised by an engine, which stops issuing; the end of the cycle resolves it (R132, R280). -/
def Job.raise (j : Job) (e : Eng) (cause : Cause) (val : W32) : Job :=
  { j with raised := j.raised ++
      [{ eng := e, cause, val, pc := j.pc e, classC := causeClass cause = .c, addr := 0 }] }

/-- A trap of A for an address: TRAPVAL holds its low 32 bits (R127), and a stop record all of it (R134). -/
def Job.raiseAt (j : Job) (cause : Cause) (addr : Nat) : Job :=
  { j with raised := j.raised ++
      [{ eng := .a, cause, val := BitVec.ofNat 32 addr, pc := j.pc .a, classC := causeClass cause = .c, addr }] }

/-- A trap of a stream for an address (R127). -/
def Job.raiseFor (j : Job) (e : Eng) (cause : Cause) (addr : Nat) : Job :=
  if e = .a then j.raiseAt cause addr else j.raise e cause (BitVec.ofNat 32 addr)

/-- A trap of C or A for an address that TRAPVAL holds whole. -/
def Job.raiseVal (j : Job) (e : Eng) (cause : Cause) (val : W32) : Job :=
  if e = .a then j.raiseAt cause val.toNat else j.raise e cause val

/-- The engine has raised a trap that no cycle end has resolved yet. -/
def Job.trapped (j : Job) (e : Eng) : Bool := j.raised.any fun r => r.eng = e

/-- TRAPVEC.EN (R128). -/
def CEng.en (c : CEng) : Bool := c.vec.getLsbD 0

/-- Where the handler of class T traps stands, for a C stream at `pc` (R128, R130). -/
def CEng.handler (c : CEng) (pc : VAddr) : VAddr := (pc.toNat / 2 ^ 32 * 2 ^ 32 + c.vec.toNat / 4 * 4 : Nat)

/-- Taking a class T trap (R130): TRAPPC and TRAPVAL are saved, CODE and INH are set, and C goes on at the handler. A
wait is abandoned. It enters the input log (R285), and it is a take boundary of C (R286). -/
def Job.enter (j : Job) (cause : Cause) (val : W32) (ret : VAddr) : Job :=
  let pc := j.c.arch.pc
  let h := j.c.handler pc
  let j1 := (j.log .c (h.setWidth 64)).traced pc (.jump h true)
  let c := j1.c.upd fun a => { a with pc := h, inh := true }
  Job.boundary { j1 with c := { c with
    tpc := ret.setWidth 32, tval := val, code := BitVec.ofNat 5 (causeCode cause), wait := .run, acted := true, cmp := none } }

/-- The return from the handler (R108, R130): C goes on at PC[47:32] :: TRAPPC, and INH is cleared if it was set. It is
a take boundary of C (R286). -/
def Job.leaveHandler (j : Job) : Job :=
  let pc := j.c.arch.pc
  let dest : VAddr := (pc.toNat / 2 ^ 32 * 2 ^ 32 + j.c.tpc.toNat : Nat)
  let j1 := j.traced pc (.jump dest false)
  let c := j1.c.upd fun a => { a with pc := dest, inh := false }
  Job.boundary { j1 with c := { c with acted := true } }

end Sys2Proof.Machine
end

