-- ==== Sys2Proof/Machine/Operands.lean ====
section
/-! DEFINITION. The operand fields of every instruction and their roles (R56, R223), the decode checks that remain at
issue (R66 steps 4 to 6), the readiness of stream operands (R42, R43) and how operands are read and results written
(R75). -/

namespace Sys2Proof.Machine

/-- The role of an operand field: a source or a destination, of scalars and word streams or of vectors and row streams
(`row`); `both` is read and written, so it names a register; `qsrc` and `qdst` name a stream. -/
inductive Role | src (row : Bool) | dst (row : Bool) | both
  deriving DecidableEq, Repr

/-- A field of a word: 0 D, 1 A, 2 B as R127 numbers them, its operand and its role. -/
structure Field where
  no : Nat
  opnd : Opnd
  role : Role
  deriving DecidableEq, Repr

/-- Scalar source in A. -/
def fA (a : Opnd) : Field := ⟨1, a, .src false⟩
/-- Scalar source in B. -/
def fB (b : Opnd) : Field := ⟨2, b, .src false⟩
/-- Scalar destination in D. -/
def fD (d : Opnd) : Field := ⟨0, d, .dst false⟩
/-- A register of D that is read and written, or must be a register. -/
def fX (d : Opnd) : Field := ⟨0, d, .both⟩
/-- Vector source in A. -/
def vA (a : Opnd) : Field := ⟨1, a, .src true⟩
/-- Vector source in B. -/
def vB (b : Opnd) : Field := ⟨2, b, .src true⟩
/-- Vector destination in D. -/
def vD (d : Opnd) : Field := ⟨0, d, .dst true⟩

/-- The fields of an instruction in the order A, B, D (R75), with the roles that its description gives. `dirW` says that
the walk of a VMOV writes the scratchpad (R255). The A field of L1OP .all is read as an operand, as the opcode map lists it, although
R220 names none for that form: the spec does not say which, and the choice is the model's (log 84). -/
def instrFields (i : Instr) (dirW : Bool) : List Field :=
  match i with
  | .add _ d a b | .sub _ d a b | .mul _ d a b | .mulh _ d a b | .mulhn _ d a b | .and _ d a b | .or _ d a b
  | .xor _ d a b | .shl _ d a b | .shr _ d a b | .sra _ d a b | .min _ d a b | .max _ d a b | .minn _ d a b
  | .maxn _ d a b | .slt _ d a b | .sltn _ d a b | .seq _ d a b => [fA a, fB b, fD d]
  | .mad _ d a b | .sel _ d a b => [fA a, fB b, fX d]
  | .clz _ d a | .popc _ d a | .mov _ d a => [fA a, fD d]
  | .addi _ d a _ | .andi _ d a _ | .ori _ d a _ | .xori _ d a _ => [fA a, fD d]
  | .shli _ d a _ | .shri _ d a _ | .srai _ d a _ => [fA a, fD d]
  | .movi _ d _ => [fD d]
  | .movhi _ d _ | .atTake _ d _ => [fX d]
  | .mfs _ d _ => [fD d]
  | .mts _ a _ => [fA a]
  | .loopr _ _ _ r => [⟨2, r, .both⟩]
  | .bz a _ | .bnz a _ | .callr a => [fA a]
  | .pcmp _ a b _ => [fA a, fB b]
  | .pcmpi _ _ a _ | .pmovToPred _ a => [fA a]
  | .pmovFromPred d _ => [fD d]
  | .selp d a b _ => [fA a, fB b, fD d]
  | .sig a _ => [fA a]
  | .bqry d _ | .joule d _ | .eclass d _ => [fD d]
  | .varreg q _ => [⟨1, .q q, .src true⟩]
  | .preempt d a | .qsusp d a | .qres d a | .drainm d a => [fA a, fD d]
  | .semmap a b | .rseed a b => [fA a, fB b]
  | .ald _ d a _ | .rld _ d a _ | .btest d a _ => [fA a, fD d]
  | .ast _ d a _ | .rst _ d a _ | .binit d a _ => [fA a, ⟨0, d, .src false⟩]
  | .ard q a _ => [fA a, ⟨0, .q q, .dst true⟩]
  | .awr q a _ => [fA a, ⟨0, .q q, .src true⟩]
  | .afill q a _ => [⟨1, a, .both⟩, ⟨0, .q q, .src true⟩]
  | .adrain q a _ => [⟨1, a, .both⟩, ⟨0, .q q, .dst true⟩]
  | .wset _ a _ | .barr a _ => [fA a]
  | .gld _ d a b _ => [fA a, fB b, fD d]
  | .gst _ d a b _ => [fA a, fB b, ⟨0, d, .src false⟩]
  | .ggath _ q a b _ => [fA a, vB b, ⟨0, .q q, .dst true⟩]
  | .gscat _ q a b _ => [fA a, vB b, ⟨0, .q q, .src true⟩]
  | .aamo _ d a _ _ _ _ | .acas d a _ _ _ _ | .aswp d a _ _ _ _ | .samo _ d a _ _ _ => [fA a, fX d]
  | .bwait d a _ => [fA a, fX d]
  | .tlbp d a => [fA a, fD d]
  | .tlbinvPage a b => [fA a, fB b]
  | .tlbinvCtx _ b => [fB b]
  | .tlbinvAll _ _ => []
  | .l1opLine a | .l1opAll a => [fA a]
  | .pref _ a b _ => [fA a, fB b]
  | .vadd _ d a b _ | .vsub _ d a b _ | .vmul _ d a b _ | .vmin _ d a b _ | .vmax _ d a b _ | .vadds _ d a b _
  | .vand _ d a b _ | .vor _ d a b _ | .vxor _ d a b _ | .vshl _ d a b _ | .vshr _ d a b _ | .vqmx _ d a b _
  | .vscl _ d a b _ => [vA a, vB b, vD d]
  | .vmadd _ d a b _ | .vfma _ d a b _ | .vsel _ d a b _ | .vperm _ d a b _ | .vrotm _ d a b _
  | .vmatch _ d a b _ => [vA a, vB b, fX d]
  | .vdqmx _ d a b _ => [vA a, fB b, vD d]
  | .vabs _ d a _ | .vneg _ d a _ | .vrcp _ d a _ | .vrsq _ d a _ | .vexp _ d a _ | .vpopc _ d a _ | .vnot _ d a _
  | .vcvt _ d a _ _ _ | .vred _ d a _ _ | .vscan _ d a _ _ => [vA a, vD d]
  | .vcmp _ d a _ _ | .vbitt _ d a _ | .vbits _ d a _ => [vA a, fX d]
  | .vbcst _ d a _ | .vidxw _ d a _ => [fA a, vD d]
  | .vins _ d a _ => [fA a, fX d]
  | .vidxr _ d a _ | .vpopm _ d a => [vA a, fD d]
  | .vlane _ d a _ => [vA a, fX d]
  | .vmpush _ a _ => [vA a]
  | .vmov _ d _ => if dirW then [⟨0, d, .src true⟩] else [vD d]
  | .tshape _ d a b => [fA a, fB b, ⟨0, d, .src false⟩]
  | .tcfg _ a _ => [fA a]
  | .tstat _ d _ => [fD d]
  | .tchk _ d a _ => [fA a, fD d]
  | _ => []

/-! ## The checks at issue -/

/-- R66 step 4 for the operand fields: a code 48-63 names nothing, a field that must name a register names one, and the
`row` operand of a GGATH or GSCAT index may be a register. -/
def fieldLegal (f : Field) : Bool :=
  match f.opnd, f.role with
  | .bad _, _ => false
  | .q _, .both => false
  | _, _ => true

/-- The operand code of a stream (R56). -/
def qCode (q : Fin 16) : Nat := 32 + q.val

/-- STREAM_BIND or STREAM_KIND of one field, with TRAPVAL (R41, R127). -/
def fieldFault (j : Job) (e : Eng) (f : Field) : Option (Cause × W32) :=
  match f.opnd with
  | .q q =>
    let val : W32 := BitVec.ofNat 32 (qCode q + f.no * 256)
    match (j.stream q).bind with
    | none => some (.streamBind, val)
    | some b =>
      let (side, row) := match f.role with
        | .src r => (b.cons, r)
        | .dst r => (b.prod, r)
        | .both => (b.cons, false)
      if side ≠ e then some (.streamBind, val)
      else if b.row ≠ row then some (.streamKind, val) else none
  | _ => none

/-- The first stream fault of the fields, in the order A, B, D (log 17). -/
def streamFault (j : Job) (e : Eng) : List Field → Option (Cause × W32)
  | [] => none
  | f :: fs =>
    match fieldFault j e f with
    | some x => some x
    | none => streamFault j e fs

/-- How many entries of `q` the fields pop; an index stream of GGATH or GSCAT pops `idx` rows (R42, R209). -/
def popsOf (idx : Nat) (q : Fin 16) : List Field → Nat
  | [] => 0
  | f :: fs =>
    (match f.opnd, f.role with
      | .q p, .src _ => if p = q then (if f.no = 2 then idx else 1) else 0
      | _, _ => 0) + popsOf idx q fs

/-- The first field, in the order A, B, D, whose stream is not ready at the start of the cycle (R42, R127). -/
def notReady (j : Job) (idx : Nat) (all : List Field) : List Field → Option Field
  | [] => none
  | f :: fs =>
    let ok := match f.opnd, f.role with
      | .q q, .src _ => (j.stream q).canPop (popsOf idx q all)
      | .q q, .dst _ => (j.stream q).canPush
      | _, _ => true
    if ok then notReady j idx all fs else some f

/-- The instruction pushes a stream (R78). -/
def pushes : List Field → Bool
  | [] => false
  | f :: fs =>
    (match f.opnd, f.role with
      | .q _, .dst _ => true
      | _, _ => false) || pushes fs

/-! ## Reading and writing operands -/

/-- An operand as it was read: a register, or the entry that was popped. -/
inductive Val
  | reg (n : Fin 32)
  | ent (r : Row)
  deriving DecidableEq, Repr

/-- The scalar value of an operand, at an engine's width (R41: a 32-bit engine takes bits [31:0] of an entry). -/
def Val.scalar (v : Val) (w : Nat) (get : Fin 32 → W64) : BitVec w :=
  match v with
  | .reg n => (get n).setWidth w
  | .ent r => r.setWidth w

/-- Reads one field: a register is named, a stream is popped. -/
def readField (j : Job) (f : Field) : Job × Val :=
  match f.opnd with
  | .reg n => (j, .reg n)
  | .q q => (j.pop q, .ent (j.stream q).head)
  | .bad _ => (j, .reg 0)

/-- Reads the sources in the order A, B, D and pops their streams (R75); a destination is not read. -/
def readFields (j : Job) : List Field → Job × List Val
  | [] => (j, [])
  | f :: fs =>
    match f.role with
    | .dst _ => readFields j fs
    | _ =>
      let (j1, v) := readField j f
      let (j2, vs) := readFields j1 fs
      (j2, v :: vs)

/-- Writes a scalar result to D: a register of the engine, or a push of its value zero-extended (R41, R75). -/
def Job.result (j : Job) (e : Eng) (d : Opnd) (f : (Fin 32 → W64) → W64) : Job :=
  match d with
  | .reg n => j.write e n f
  | .q q => j.push q (((f (j.reg e)).setWidth (engWidth e)).setWidth 1024)
  | .bad _ => j

end Sys2Proof.Machine
end

