-- ==== Sys2Proof/Machine/Access.lean ====
section
/-! DEFINITION. The paths to memory: the scratchpad's rows and their capacity (R137-R143), translation (R368-R376), the
system cache (R364-R367) with the bytes that a node has staged (R333), and instruction fetch (R373). -/

namespace Sys2Proof.Machine

/-! ## Rows of a scratchpad -/

/-- The elements of a list without repeats, in order of first use. -/
def dedup (l : List Nat) : List Nat := l.foldl (fun acc x => if x ∈ acc then acc else acc ++ [x]) []

/-- The row that 128 bytes make, byte 0 lowest (R9). -/
def rowOfBytes (bs : List Byte) : Row := BitVec.ofNat 1024 (natOfBytes bs)

/-- The 128 bytes of a row. -/
def bytesOfRow (r : Row) : List Byte := bytesOfNat 128 r.toNat

/-- The aligned row that holds address `a`. -/
def Memory.row (m : Memory) (a : Nat) : Row := rowOfBytes (m.readBytes (a / 128 * 128) 128)

/-- Writes the bytes of a row that `mask` lets through, from byte `k` on. -/
def writeMasked (m : Memory) (a : Nat) (mask : Mask) : Nat → List Byte → Memory
  | _, [] => m
  | k, b :: bs => writeMasked (if mask.getLsbD k then m.write (a + k) b else m) a mask (k + 1) bs

/-- Writes the bytes of a row at a 128-byte-aligned address under a mask (R230). -/
def Memory.writeRow (m : Memory) (a : Nat) (mask : Mask) (r : Row) : Memory := writeMasked m a mask 0 (bytesOfRow r)

/-- Physical rows of bank `b` whose grade is above `lvl` (R138). -/
def badRows (c : Core) (b lvl : Nat) : Nat := (c.grades.filter fun e => decide (e.1 / 544 = b ∧ lvl < e.2)).length

/-- U(b, L): usable rows of a bank at a level (R139). -/
def usable (c : Core) (b lvl : Nat) : Nat := Nat.min 512 (544 - badRows c b lvl)

/-- The level that governs a core (R138, R343). -/
def State.level (s : State) (c : CoreId) : Nat := (s.island (coreIsl c)).level

/-- The row that holds byte `a` of a core's scratchpad is usable (R137, R139). -/
def rowUsable (c : Core) (lvl a : Nat) : Bool := decide (a / 128 % 512 < usable c (a / 65536 % 32) lvl)

/-- As `rowUsable`, at the level now in force. -/
def State.rowUsable (s : State) (c : CoreId) (a : Nat) : Bool := Machine.rowUsable (s.core c) (s.level c) a

/-- Bytes of a core's scratchpad. -/
def State.scrRead (s : State) (c : CoreId) (a n : Nat) : List Byte := (s.core c).scr.readBytes a n

/-- Notes the row that holds address `a` before the first write of this cycle (R284). -/
def Core.keepOld (x : Core) (a : Nat) : Core :=
  match SMap.find x.olds (a / 128) with
  | some _ => x
  | none => { x with olds := x.olds.insert (a / 128) (x.scr.row a) }

/-- The row that holds address `a` as a timed access of this cycle reads it: a write made in the same cycle gives the
read the older row (R284). -/
def Core.timedRow (x : Core) (a : Nat) : Row :=
  match SMap.find x.olds (a / 128) with
  | some r => r
  | none => x.scr.row a

/-- Notes every row of a range of bytes. -/
def Core.keepOlds (x : Core) (a n : Nat) : Core :=
  (List.range ((a + n - 1) / 128 + 1 - a / 128)).foldl (fun y k => y.keepOld (a + 128 * k)) x

/-- Writes bytes of a core's scratchpad. -/
def State.scrWrite (s : State) (c : CoreId) (a : Nat) (bs : List Byte) : State :=
  let x := (s.core c).keepOlds a bs.length
  s.setCore c { x with scr := x.scr.writeBytes a bs }

/-! ## Translation -/

/-- The bytes of a page by its TLBP SIZE (R218, R370). -/
def pageBytes (size : Fin 6) : Nat :=
  match size with
  | 0 => 4096
  | 1 => 65536
  | 2 => 2097152
  | 3 => 33554432
  | 4 => 536870912
  | 5 => 1073741824

/-- The entry translates `va` of context `ctx`: no lookup matches another context (R373). -/
def TlbEnt.hit (e : TlbEnt) (ctx : CtxId) (va : Nat) : Bool :=
  decide (e.ctx = ctx) && decide (va / pageBytes e.size = e.vpage)

/-- Where the model keeps host memory: beyond every 52-bit device address (R369 KIND 1; log 18). -/
def hostBase : Nat := 2 ^ 52

/-- The physical address of `va` under an entry; host memory stands at its own base. -/
def TlbEnt.pa (e : TlbEnt) (va : Nat) : Nat :=
  (if e.kind = 1 then hostBase else 0) + e.frame * 4096 + va % pageBytes e.size

/-- What an access asks of a leaf (R375). -/
inductive Acc4 | read | write | atomic | fetch
  deriving DecidableEq, Repr

/-- The leaf permits the access (R375). -/
def TlbEnt.allows (e : TlbEnt) : Acc4 → Bool
  | .read => e.rd
  | .write => e.wr
  | .atomic => e.rd && e.wr
  | .fetch => e.rd && e.ex

/-- The entry of the first-level TLB of a core, else of its cluster's second-level TLB (R373). -/
def State.tlbFind (s : State) (c : CoreId) (ctx : CtxId) (va : Nat) : Option TlbEnt :=
  match (s.core c).tlb.find? fun e => e.hit ctx va with
  | some e => some e
  | none => (s.cluster (coreClu c)).tlb2.find? fun e => e.hit ctx va

/-- How a translation ends. -/
inductive Xlate
  | ok (pa : Nat) (kind : Fin 3)
  | forbidden
  | miss
  deriving DecidableEq, Repr

/-- Translates an access of a core (R373, R375). -/
def State.translate (s : State) (c : CoreId) (ctx : CtxId) (va : Nat) (a : Acc4) : Xlate :=
  match s.tlbFind c ctx va with
  | none => .miss
  | some e => if e.allows a then .ok (e.pa va) e.kind else .forbidden

/-- A TLB without the entry of a page. -/
def tlbWithout (l : List TlbEnt) (e : TlbEnt) : List TlbEnt :=
  l.filter fun x => !(x.ctx = e.ctx && x.size = e.size && x.vpage = e.vpage)

/-- Puts an entry into a TLB of `cap` entries; a full TLB loses one that the spec does not name (R373, log 11). -/
def tlbInsert (cap n : Nat) (l : List TlbEnt) (e : TlbEnt) : List TlbEnt :=
  let l1 := tlbWithout l e
  let l2 := if l1.length < cap then l1 else l1.eraseIdx (Config.replaceWay n cap % cap)
  e :: l2

/-- The set of an entry in a first-level TLB of 128 sets; the spec does not say which address bits choose it (R373, log 11). -/
def TlbEnt.set (e : TlbEnt) : Nat := e.vpage % 128

/-- Puts an entry into a first-level TLB: its set has four ways (R373). -/
def tlbInsert1 (n : Nat) (l : List TlbEnt) (e : TlbEnt) : List TlbEnt :=
  let l1 := tlbWithout l e
  e :: tlbInsertWay (l1.filter fun x => decide (x.set = e.set)) ++ l1.filter fun x => decide (x.set ≠ e.set)
where
  /-- A set that is full loses one way. -/
  tlbInsertWay (s : List TlbEnt) : List TlbEnt := if s.length < 4 then s else s.eraseIdx (Config.replaceWay n 4 % 4)

/-! ## The system cache -/

/-- The frame number of a physical address (R403). -/
def frameOf (pa : Nat) : Nat := pa / 4096

/-- The channel that holds a frame whole (R403); no rule lets a step depend on it. -/
def channelOf (frame : Nat) : Nat := frame % 96

/-- The frames of device memory: those that 765 GB hold whole (R5, R22, R403; log 80). -/
def frameCount : Nat := 765000000000 / 4096

/-- The line of a physical address that context `ctx` hits: address and context match (R365). -/
def State.lineOf (s : State) (ctx : CtxId) (pa : Nat) : Option Line :=
  match SMap.find s.lines (pa / 128) with
  | some l => if l.ctx = ctx then some l else none
  | none => none

/-- The metadata of a frame (R405). -/
def State.metaOf (s : State) (frame : Nat) : Meta := SMap.get Meta.init s.sealMeta frame

/-- The frame is another context's (R408), or the device has no such frame (log 80). -/
def State.foreign (s : State) (ctx : CtxId) (frame : Nat) : Bool :=
  decide (frameCount ≤ frame) || decide ((s.metaOf frame).ctx.toNat ≠ ctxNum ctx)

/-- The fill of a frame for a context cannot succeed: the owner differs (R408), or the block needs a key that the slot
does not hold (R415). -/
def State.fillBarred (s : State) (ctx : CtxId) (frame : Nat) : Bool :=
  s.foreign ctx frame || ((s.metaOf frame).state ≠ 0 && (s.ctx ctx).key.cur.isNone)

/-- The host allowance covers one more block (R356). -/
def State.hostCovers (s : State) : Bool := decide (8 ≤ s.hostAllow)

/-- An access to host memory that hits no line of the cache: it draws on the host allowance (R354, R365). -/
def State.hostTraffic (s : State) (ctx : CtxId) (kind : Fin 3) (pa : Nat) : Bool :=
  decide (kind = 1) && (s.lineOf ctx pa).isNone

/-- An access of the host's memory must wait for the host allowance (R356). -/
def State.hostWaits (s : State) (ctx : CtxId) (kind : Fin 3) (pa : Nat) : Bool := s.hostTraffic ctx kind pa && !s.hostCovers

/-- The 4 KiB blocks of host memory among places, by KIND and address, that hit no line of the cache: each draws on the host
allowance (R354). -/
def State.hostBlocks (s : State) (ctx : CtxId) (l : List (Fin 3 × Nat)) : Nat :=
  (dedup ((l.filter fun p => s.hostTraffic ctx p.1 p.2).map fun p => p.2 / 4096)).length

/-- What the system cache answers a read of one unit. -/
inductive PhysRead
  | data (bs : List Byte)
  | poison (cause : Cause)
  | barred
  | fill (frame : Nat)
  | peer
  deriving DecidableEq, Repr

/-- Bytes of a line's data from byte `o` on. -/
def lineBytes (r : Row) (o n : Nat) : List Byte := bytesOfNat n (r.toNat >>> (8 * o))

/-- Bytes of one line as the system cache and memory now hold them. -/
def State.peekMem (s : State) (pa n : Nat) : List Byte :=
  match SMap.find s.lines (pa / 128) with
  | some l => lineBytes l.data (pa % 128) n
  | none => s.mem.readBytes pa n

/-- Bytes of physical memory at the system cache, within one line (R364, R408). Host memory answers whether or not it
is cached (R367). -/
def State.physRead (s : State) (ctx : CtxId) (pa n : Nat) (kind : Fin 3) : PhysRead :=
  match kind with
  | 0 =>
    match s.lineOf ctx pa with
    | some l =>
      match l.poison with
      | some c => .poison c
      | none => .data (lineBytes l.data (pa % 128) n)
    | none => if s.fillBarred ctx (frameOf pa) then .barred else .fill (frameOf pa)
  | 1 => .data (s.peekMem pa n)
  | _ => .peer

/-- The byte that a node's staged writes give an address, the latest first (R333, R421). -/
def stagedByte (l : List Staged) (pa : Nat) : Option Byte :=
  l.foldl (fun acc w => if w.pa ≤ pa ∧ pa < w.pa + w.bytes.length then some (w.bytes.getD (pa - w.pa) 0) else acc) none

/-- Bytes from `pa` up as the node sees them: committed bytes under its staged writes. -/
def overlay (l : List Staged) (pa : Nat) : List Byte → List Byte
  | [] => []
  | b :: bs => (stagedByte l pa).getD b :: overlay l (pa + 1) bs

/-- The node's staged writes of a job (R333). -/
def State.stagedOf (s : State) (j : Job) : List Staged :=
  match s.card j.cluster j.slot with
  | some c => c.staged
  | none => []

/-- A read of a job at the system cache, with its node's staged bytes over it. -/
def State.nodeRead (s : State) (j : Job) (pa n : Nat) (kind : Fin 3) : PhysRead :=
  let st := s.stagedOf j
  -- a peer's addresses are none of the node's staged ones (R467)
  if st = [] ∨ kind = 2 then s.physRead j.ctx pa n kind else
  match s.physRead j.ctx pa n kind with
  | .data bs => .data (overlay st pa bs)
  | r =>
    -- bytes that the node has staged whole need no committed line
    let own := (List.range n).map fun k => stagedByte st (pa + k)
    if own.all Option.isSome then .data (own.map fun b => b.getD 0) else r

/-- The task on a core, by core and JOBID. -/
def State.taskOf (s : State) (c : CoreId) : Option (CoreId × W32) := (s.job c).map fun j => (c, j.jobid)

/-- The core of a task, while the task runs there (R419). -/
def State.taskCore (s : State) (t : Option (CoreId × W32)) : Option CoreId :=
  t.bind fun x => (s.job x.1).bind fun j => if j.jobid = x.2 then some x.1 else none

/-- The task that a fill serves. -/
def Fill.payer (f : Fill) : Option (CoreId × W32) := f.core.bind fun c => f.task.map fun t => (c, t)

/-- Asks for a fill of a block, once (R409); the task that runs on its core is charged for it (R419). -/
def State.needFill (s : State) (f : Fill) : State :=
  if s.fills.any fun x => x.frame = f.frame then s
  else { s with fills := s.fills ++ [{ f with since := s.time, task := (f.core.bind s.taskOf).map Prod.snd }] }

/-- The access is already being walked for. -/
def walking (c : Cluster) (u : WalkFor) (va : Nat) : Bool :=
  c.walks.toList.any fun w => match w with
    | some f => decide (f.use = u) && decide (f.va = va)
    | none => false

/-- Starts a page walk on a free walker of the cluster, once; a seventeenth waits (R374, R376). -/
def State.needWalk (s : State) (clu : CluId) (part : PartId) (ctx : CtxId) (va : Nat) (u : WalkFor) : State :=
  let c := s.cluster clu
  if walking c u va then s else
  match c.walks.toList.findIdx? fun w => w.isNone with
  | none => s
  | some k =>
    let f : WalkFlight := { ctx, va, use := u, seq := (s.part part).seq, killed := false }
    s.setCluster clu { c with walks := c.walks.setIfInBounds k (some f) }

/-! ## Instruction fetch -/

/-- What a fetch meets (R373, R375, R379, R467); `draw` is a wait for the host allowance (R356). -/
inductive Fetch
  | word (w : W32)
  | draw
  | walk
  | fill (frame : Nat)
  | forbidden
  | poison (cause : Cause)
  deriving DecidableEq, Repr

/-- The word at a virtual address of a job, through its core's TLB and the system cache (R9, R373). -/
def State.fetch (s : State) (c : CoreId) (j : Job) (va : VAddr) : Fetch :=
  match s.translate c j.ctx va.toNat .fetch with
  | .miss => .walk
  | .forbidden => .forbidden
  | .ok pa kind =>
    if s.hostWaits j.ctx kind pa then .draw else
    match s.nodeRead j pa 4 kind with
    | .data bs => .word (BitVec.ofNat 32 (natOfBytes bs))
    | .poison x => .poison x
    | .barred => .forbidden
    | .fill f => .fill f
    | .peer => .forbidden

end Sys2Proof.Machine
end

