-- ==== Sys2Proof/Machine/Cache.lean ====
section
/-! DEFINITION. The system cache's own work: contexts and their groups (R366, R372, R387, R388), sets and victims (R364-R366),
lines of device and host memory that are written (R367, R410). -/

namespace Sys2Proof.Machine

/-! ## Contexts and partitions -/

/-- The partition of a context (R387, R388). -/
def State.ctxPart (s : State) (c : CtxId) : Option PartId :=
  if h : 384 ≤ c.val then
    let p : PartId := ⟨c.val - 384, by have := c.isLt; omega⟩
    if (s.part p).desc.isSome then some p else none
  else
    (List.finRange 24).find? fun p => match (s.part p).desc with
      | some d => decide (d.vfbase ≤ c.val ∧ c.val < d.vfbase + d.vfn)
      | none => false

/-- The partition of a cluster (R387). -/
def State.cluPart (s : State) (c : CluId) : Option PartId :=
  (List.finRange 24).find? fun p => match (s.part p).desc with
    | some d => d.clmask.getLsbD c.val
    | none => false

/-- The steward context of a partition (R388). -/
def stewardCtx (p : PartId) : CtxId := ⟨384 + p.val, by have := p.isLt; omega⟩

/-- A natural number of `n` bytes at a physical address. -/
def State.peekNat (s : State) (pa n : Nat) : Nat := natOfBytes (s.peekMem pa n)

/-- The context's translation descriptor, as a number of 32 bytes (R372). It is read as it stands, without a fill: the spec
names no context that this read is made in (log 45). -/
def State.ctxDesc (s : State) (c : CtxId) : Option Nat :=
  match s.ctxPart c with
  | none => none
  | some p => ((s.part p).desc).map fun d => s.peekNat (d.ctxtab + 32 * ctxNum c) 32

/-- GEN of a context's descriptor (R372). -/
def State.ctxGen (s : State) (c : CtxId) : Nat := bitsAt ((s.ctxDesc c).getD 0) 64 16

/-- PRQ of a context's descriptor (R372, R377): the partition whose page-request ring its requests go to; the own partition's
where it names none that is formed (log 81). -/
def State.prqOf (s : State) (c : CtxId) (own : PartId) : PartId :=
  let n := bitsAt ((s.ctxDesc c).getD 0) 96 16
  if h : n < 24 then (if (s.part ⟨n, h⟩).desc.isSome then ⟨n, h⟩ else own) else own

/-- OGRP of a context's descriptor (R366, R372). -/
def State.ctxGroup (s : State) (c : CtxId) : Nat := bitsAt ((s.ctxDesc c).getD 0) 80 8

/-! ## Sets and victims (R364, R366) -/

/-- S(p) for a line number. -/
def sliceOf (line : Nat) : Nat :=
  let p := line * 128
  (List.range 8).foldl (fun x k => x ^^^ bitsAt p (12 + 5 * k) 5) 0

/-- A set of the system cache: its slice and its index p[18:7]. -/
def cacheSet (line : Nat) : Nat := sliceOf line * 4096 + line % 4096

/-- The ways of a set with two errors within 24 h, from its errors in the order of time. -/
def twiceBad : List (Nat × Nat × Nat) → List Nat
  | [] => []
  | e :: rest =>
    if rest.any fun f => decide (f.2.1 = e.2.1) && decide (f.2.2 ≤ e.2.2 + 86400000000000) then e.2.1 :: twiceBad rest else twiceBad rest

/-- Ways that have left a set: those with two uncorrectable errors within 24 h (R435). -/
def State.waysOut (s : State) (set : Nat) : Nat :=
  (dedup (twiceBad (s.wayErrs.filter fun e => decide (e.1 = set)))).length

/-- Lines that a group holds: OCC (R366). -/
def State.occ (s : State) (g : Nat) : Nat := (s.lines.filter fun e => decide (s.ctxGroup e.2.ctx = g)).length

/-- LIMIT of a group. -/
def State.limitOf (s : State) (g : Nat) : Nat := SMap.get limitInit s.limits g

/-- A group is over its limit. -/
def State.over (s : State) (g : Nat) : Bool := decide (s.limitOf g < s.occ g)

/-- The least recently used of a list of lines. -/
def oldestLine : List (Nat × Line) → Option (Nat × Line)
  | [] => none
  | x :: xs =>
    match oldestLine xs with
    | none => some x
    | some y => if y.2.age < x.2.age then some y else some x

/-- The line that a fill for a context must displace from the set of `line`; none where a way is free (R366). -/
def State.victimFor (s : State) (ctx : CtxId) (line : Nat) : Option (Nat × Line) :=
  let set := s.lines.filter fun e => decide (cacheSet e.1 = cacheSet line)
  if set.length < 16 - s.waysOut (cacheSet line) then none
  else
    let g := s.ctxGroup ctx
    let mine := if s.over g then oldestLine (set.filter fun e => decide (s.ctxGroup e.2.ctx = g)) else none
    match mine with
    | some v => some v
    | none =>
      match oldestLine (set.filter fun e => s.over (s.ctxGroup e.2.ctx)) with
      | some v => some v
      | none => oldestLine set

/-- A dirty line of host memory goes back to it, which draws on the host allowance (R354, R367). -/
def State.hostBack (s : State) (line : Nat) (l : Line) : State :=
  { s with
    mem := s.mem.writeBytes (line * 128) (bytesOfRow l.data), lines := s.lines.erase line, hostAllow := s.hostAllow - 8 }

/-- Asks for a reseal of a frame, once (R409). -/
def State.needReseal (s : State) (frame : Nat) (victim : Option Nat) (sweep : Bool) : State :=
  if s.reseals.any fun r => decide (r.frame = frame) then s
  else { s with reseals := s.reseals ++ [{ frame, victim, sweep }] }

/-- Makes room for one line: a clean victim leaves, a dirty one is first resealed, or goes back to the host once the host allowance covers
it (R356). -/
def State.makeRoom (s : State) (ctx : CtxId) (line : Nat) : State :=
  match SMap.find s.lines line with
  | some _ => s
  | none =>
    match s.victimFor ctx line with
    | none => s
    | some (v, l) =>
      if !l.dirty then { s with lines := s.lines.erase v }
      else if hostBase ≤ v * 128 then (if s.hostCovers then s.hostBack v l else s)
      else s.needReseal (v / 32) (some v) false

/-- Makes room for the absent lines of a block. -/
def State.makeRooms (s : State) (ctx : CtxId) (frame : Nat) : State :=
  (List.range 32).foldl (fun st k => st.makeRoom ctx (32 * frame + k)) s

/-- Every line of a block that is absent finds a free way. -/
def State.hasRoom (s : State) (ctx : CtxId) (frame : Nat) : Bool :=
  (List.range 32).all fun k =>
    (SMap.find s.lines (32 * frame + k)).isSome || (s.victimFor ctx (32 * frame + k)).isNone

/-! ## Committed memory -/

/-- The lines of a block that are absent become present, as a fill that succeeds installs them (R408). -/
def installLines (mem : Memory) (ctx : CtxId) (age : Nat) (poison : Option Cause) :
    Nat → Nat → SMap Line → SMap Line
  | 0, _, m => m
  | n + 1, line, m =>
    let m1 := match SMap.find m line with
      | some _ => m
      | none => m.insert line { data := mem.row (line * 128), dirty := false, poison, ctx, mesi := .i, age, writer := none, wrote := 0 }
    installLines mem ctx age poison n (line + 1) m1

/-- Installs a block in the system cache; lines that are present are kept. -/
def State.install (s : State) (ctx : CtxId) (frame : Nat) (poison : Option Cause) : State :=
  { s with
    lines := installLines s.mem ctx (s.lastUse + 1) poison 32 (frame * 32) s.lines
    lastUse := s.lastUse + 1 }

/-- The row of a line with some of its bytes replaced. -/
def patchRow (r : Row) (o : Nat) (bs : List Byte) : Row :=
  rowOfBytes ((bytesOfRow r).take o ++ bs ++ (bytesOfRow r).drop (o + bs.length))

/-- Writes bytes within one line of the system cache, which becomes dirty (R410). -/
def State.lineWrite (s : State) (core : Option CoreId) (pa : Nat) (bs : List Byte) : State :=
  match SMap.find s.lines (pa / 128) with
  | none => s
  | some l =>
    let l1 := { l with data := patchRow l.data (pa % 128) bs, dirty := true, age := s.lastUse + 1, wrote := s.lastUse + 1,
                       writer := core.bind s.taskOf
                       mesi := if hostBase ≤ pa then .m else l.mesi }
    { s with lines := s.lines.insert (pa / 128) l1, lastUse := s.lastUse + 1 }

/-- The line of an address has been used (R366). -/
def State.touch (s : State) (pa : Nat) : State :=
  match SMap.find s.lines (pa / 128) with
  | none => s
  | some l => { s with lines := s.lines.insert (pa / 128) { l with age := s.lastUse + 1 }, lastUse := s.lastUse + 1 }

/-- The line of a host-memory address is cached where a way is free for it, in a state that the host grants at once (R367). A
read that finds its way taken by a dirty victim is served uncached. A line that another context filled is filled anew for this one
(R365). -/
def State.hostCache (s : State) (ctx : CtxId) (pa : Nat) (mesi : Mesi) : State :=
  match SMap.find s.lines (pa / 128) with
  | some l =>
    if l.ctx = ctx then s
    else { s with lines := s.lines.insert (pa / 128) { l with ctx, age := s.lastUse + 1 }, lastUse := s.lastUse + 1 }
  | none =>
    let s1 := s.makeRoom ctx (pa / 128)
    if (s1.victimFor ctx (pa / 128)).isSome then s1
    else
      let l : Line := { data := s1.mem.row pa, dirty := false, poison := none, ctx, mesi, age := s1.lastUse + 1,
                        writer := none, wrote := 0 }
      { s1 with lines := s1.lines.insert (pa / 128) l, lastUse := s1.lastUse + 1 }

/-- A line of host memory finds no way until a dirty victim has been resealed, or the host allowance covers the victim's way back
beside the line's own fill. -/
def State.noWay (s : State) (ctx : CtxId) (pa : Nat) : Bool :=
  (SMap.find s.lines (pa / 128)).isNone && match s.victimFor ctx (pa / 128) with
    | some (v, l) => l.dirty && (decide (v * 128 < hostBase) || decide (s.hostAllow < 16))
    | none => false

/-- Writes committed bytes within one line: a line of host memory, which is first obtained in E (R367), or a line of device
memory that is present. The caller has made the checks of `writeGate`. A line of host memory that an earlier line of the same write
has left no way goes back to the host as soon as it is written. -/
def State.commit (s : State) (ctx : CtxId) (core : Option CoreId) (pa : Nat) (bs : List Byte) : State :=
  if hostBase ≤ pa then
    let s1 := s.hostCache ctx pa .e
    if (SMap.find s1.lines (pa / 128)).isSome then s1.lineWrite core pa bs else { s1 with mem := s1.mem.writeBytes pa bs }
  else s.lineWrite core pa bs

end Sys2Proof.Machine
end

