-- ==== Sys2Proof/Machine/Paging.lean ====
section
/-! DEFINITION. Translation tables (R368-R372), the device's own reads and writes of memory (descriptors, rings and
records), the error counter and interrupts (R386), and CRC-32. -/

namespace Sys2Proof.Machine

/-! ## Interrupts and the error counter (R386) -/

/-- Sends something to the outside. -/
def State.send (s : State) (o : Out) : State := { s with outbox := s.outbox ++ [o] }

/-- An MSI-X table entry that the host has not written: masked, as PCIe resets it (log 73). -/
def MsixEnt.init : MsixEnt := { addr := 0, data := 0, mask := true, pending := false }

/-- The key of a vector's entry: PF0 is function 0, VF v is function v + 1. -/
def msixKey (fn : Option (Fin 384)) (vector : Nat) : Nat :=
  2048 * (match fn with
    | none => 0
    | some v => v.val + 1) + vector

/-- The table entry of a vector. -/
def State.msixOf (s : State) (fn : Option (Fin 384)) (vector : Nat) : MsixEnt :=
  SMap.get MsixEnt.init s.msix (msixKey fn vector)

/-- The number of a function: PF0 is 0, VF v is v + 1. -/
def fnNo (fn : Option (Fin 384)) : Nat :=
  match fn with
  | none => 0
  | some v => v.val + 1

/-- The function sends messages: MSI-X is enabled and the function is not masked, as PCIe defines them (R386; log 73). -/
def State.msixOn (s : State) (fn : Option (Fin 384)) : Bool :=
  let x := SMap.get 0 s.msixCtl (fnNo fn)
  x.testBit 15 && !x.testBit 14

/-- Raises a vector (R386): a masked one becomes pending, and one that is pending already merges with it. -/
def State.irq (s : State) (fn : Option (Fin 384)) (vector : Nat) : State :=
  let e := s.msixOf fn vector
  if e.mask || !s.msixOn fn then { s with msix := SMap.set MsixEnt.init s.msix (msixKey fn vector) { e with pending := true } }
  else s.send (.msix fn vector e.addr e.data)

/-- Counts an error in PF0's counter and raises its vector. -/
def State.pf0Error (s : State) : State := State.irq { s with pf0err := s.pf0err + 1 } none 64

/-- An access dropped before READY (R456). -/
def State.dropEarly (s : State) : State := { s with drop := satTo 0xFFFF (s.drop + 1) }

/-- The VF of a context; none for a steward context. -/
def ctxVf (c : CtxId) : Option (Fin 384) := if h : c.val < 384 then some ⟨c.val, h⟩ else none

/-- Raises a vector after the records that still wait to be written (R386). -/
def State.announce (s : State) (fn : Option (Fin 384)) (vector : Nat) : State :=
  if s.recs.isEmpty then s.irq fn vector
  else { s with recs := s.recs ++ [{ dst := .phys 0, bytes := [], msg := some (fn, vector) }] }

/-- Raises a vector of a context's VF. A steward context has none. -/
def State.vfIrq (s : State) (c : CtxId) (vector : Nat) : State :=
  match ctxVf c with
  | some v => s.announce (some v) vector
  | none => s

/-! ## CRC-32 (IEEE 802.3) -/

/-- One bit of the CRC. -/
def crcBit (c : Nat) : Nat := if c % 2 = 1 then (c / 2) ^^^ 0xEDB88320 else c / 2

/-- One byte of the CRC. -/
def crcByte (c : Nat) (b : Byte) : Nat :=
  crcBit (crcBit (crcBit (crcBit (crcBit (crcBit (crcBit (crcBit (c ^^^ b.toNat))))))))

/-- CRC-32 of bytes. -/
def crc32 (bs : List Byte) : Nat := bs.foldl crcByte 0xFFFFFFFF ^^^ 0xFFFFFFFF

/-- A record with its CRC in the last four bytes. -/
def withCrc (bs : List Byte) : List Byte := bs ++ bytesOfNat 4 (crc32 bs)

/-- The record's last four bytes are the CRC of the others. -/
def crcOk (bs : List Byte) : Bool :=
  decide (crc32 (bs.take (bs.length - 4)) = natOfBytes (bs.drop (bs.length - 4)))

/-! ## Contexts and their tables -/

/-- A table entry (R369-R371). -/
inductive TabEnt
  | invalid
  | malformed
  | table (addr : Nat)
  | leaf (size : Fin 6) (frame : Nat) (kind : Fin 3) (rd wr ex : Bool)
  deriving DecidableEq, Repr

/-- The page size of a leaf at a level with a GROUP, and the low ADDR bits above bit 12 that must be 0 (R370). -/
def leafSize (lvl group : Nat) : Option (Fin 6 × Nat) :=
  match lvl, group with
  | 0, 0 => some (0, 0)
  | 0, 1 => some (1, 0)
  | 1, 0 => some (2, 9)
  | 1, 1 => some (3, 9)
  | 1, 2 => some (4, 9)
  | 2, 0 => some (5, 18)
  | _, _ => none

/-- Reads an entry of a table at a level (R369-R371). -/
def tabEnt (lvl e : Nat) : TabEnt :=
  let addr := bitsAt e 12 40
  if bitsAt e 0 1 = 0 then .invalid
  else if bitsAt e 52 12 ≠ 0 ∨ bitsAt e 10 2 ≠ 0 ∨ bitsAt e 7 1 ≠ 0 then .malformed
  else if bitsAt e 1 1 = 0 then
    if lvl = 0 ∨ bitsAt e 2 8 ≠ 0 then .malformed else .table (addr * 4096)
  else if lvl = 3 then .malformed
  else
    match leafSize lvl (bitsAt e 5 2) with
    | none => .malformed
    | some (size, low) =>
      let f := fun (k : Fin 3) => TabEnt.leaf size (addr * 4096 / pageBytes size * (pageBytes size / 4096)) k
        (bitsAt e 2 1 = 1) (bitsAt e 3 1 = 1) (bitsAt e 4 1 = 1)
      if bitsAt addr 0 low ≠ 0 then .malformed
      else
        match bitsAt e 8 2 with
        | 0 => f 0
        | 1 => f 1
        | 2 => f 2
        | _ => .malformed

/-- Where a walk stopped: REASON and LEVEL of its page request (R377). -/
structure WalkStop where
  reason : Nat
  level : Nat
  deriving DecidableEq, Repr

/-- How a walk ends, or what it waits for: a leaf; a stop, which posts a page request; a block of a table that is to be filled;
or a table that the walk's context may not read, or whose line is poisoned (R365, R374, R408, R416). -/
inductive Walked
  | leaf (e : TlbEnt)
  | stop (w : WalkStop)
  | fill (frame : Nat)
  | bad (cause : Cause)
  deriving DecidableEq, Repr

/-- A table entry as a walker of the context reads it at the system cache (R365, R374). -/
def State.tableRead (s : State) (ctx : CtxId) (pa : Nat) : Except Walked Nat :=
  match s.physRead ctx pa 8 0 with
  | .data bs => .ok (natOfBytes bs)
  | .fill f => .error (.fill f)
  | .poison c => .error (.bad c)
  | .barred | .peer => .error (.bad .protection)

/-- Walks the tables from a level down, with a reader of their entries (R368, R371). -/
def walkFrom (read : Nat → Except Walked Nat) (ctx : CtxId) (va : Nat) : Nat → Nat → Walked
  | lvl, base =>
    match read (base + 8 * (va / 2 ^ (12 + 9 * lvl) % 512)) with
    | .error w => w
    | .ok x =>
      match tabEnt lvl x with
      | .invalid => .stop ⟨0, lvl⟩
      | .malformed => .stop ⟨1, lvl⟩
      | .leaf size frame kind rd wr ex => .leaf { ctx, vpage := va / pageBytes size, frame, size, kind, rd, wr, ex }
      | .table addr =>
        match lvl with
        | 0 => .stop ⟨1, 0⟩
        | l + 1 => walkFrom read ctx va l addr

/-- A whole walk of a context's tables with a reader of their entries (R368, R372). -/
def State.walkWith (s : State) (read : Nat → Except Walked Nat) (ctx : CtxId) (va : Nat) : Walked :=
  match s.ctxDesc ctx with
  | none => .stop ⟨0, 3⟩
  | some d => if bitsAt d 88 1 = 0 then .stop ⟨0, 3⟩ else walkFrom read ctx va 3 (bitsAt d 12 40 * 4096)

/-- The addresses of the entries that a walk from a level down reads. -/
def walkReads (read : Nat → Except Walked Nat) (va : Nat) : Nat → Nat → List Nat
  | lvl, base =>
    let a := base + 8 * (va / 2 ^ (12 + 9 * lvl) % 512)
    a :: match read a with
      | .error _ => []
      | .ok x =>
        match tabEnt lvl x, lvl with
        | .table addr, l + 1 => walkReads read va l addr
        | _, _ => []

/-- The lines of the tables that a walk of a context has read have been used (R366, R374). -/
def State.walkUsed (s : State) (ctx : CtxId) (va : Nat) : State :=
  match s.ctxDesc ctx with
  | none => s
  | some d =>
    if bitsAt d 88 1 = 0 then s
    else (walkReads (s.tableRead ctx) va 3 (bitsAt d 12 40 * 4096)).foldl State.touch s

/-- A whole walk of a context's tables, at the system cache in that context (R365, R374). -/
def State.walkTables (s : State) (ctx : CtxId) (va : Nat) : Walked := s.walkWith (s.tableRead ctx) ctx va

/-- The leaf that the tables now hold for an address, whatever the cache holds of them. -/
def State.leafNow (s : State) (ctx : CtxId) (va : Nat) : Option TlbEnt :=
  match s.walkWith (fun pa => .ok (s.peekNat pa 8)) ctx va with
  | .leaf e => some e
  | _ => none

/-! ## Reads of the device itself -/

/-- How a read of the device itself ends, or what it waits for: a block to be filled, or the host allowance. -/
inductive DevRead
  | data (bs : List Byte)
  | noLeaf (at_ : WalkStop) (va : Nat)
  | forbidden
  | failed (cause : Cause)
  | fill (frame : Nat)
  | draw
  deriving DecidableEq, Repr

/-- Reads 64 bytes at a 64-byte-aligned virtual address through a context, as a request of that context (R365, R408). -/
def State.devRead64 (s : State) (ctx : CtxId) (va : Nat) : DevRead :=
  match s.walkTables ctx va with
  | .stop w => .noLeaf w va
  | .fill f => .fill f
  | .bad c => if c = .protection then .forbidden else .failed c
  | .leaf e =>
    if !e.rd then .forbidden
    else if s.hostWaits ctx e.kind (e.pa va) then .draw
    else
      match s.physRead ctx (e.pa va) 64 e.kind with
      | .data bs => .data bs
      | .poison c => .failed c
      | .barred | .peer => .forbidden
      | .fill f => .fill f

/-- Reads `n` blocks of 64 bytes one after the other. -/
def State.devParts (s : State) (ctx : CtxId) (va : Nat) : Nat → DevRead
  | 0 => .data []
  | n + 1 =>
    match s.devRead64 ctx va with
    | .data bs =>
      match s.devParts ctx (va + 64) n with
      | .data rest => .data (bs ++ rest)
      | r => r
    | r => r

/-- The places in memory of `n` blocks of 64 bytes, by KIND and address. -/
def State.devPlaces (s : State) (ctx : CtxId) (va n : Nat) : List (Fin 3 × Nat) :=
  (List.range n).filterMap fun k =>
    match s.walkTables ctx (va + 64 * k) with
    | .leaf e => some (e.kind, e.pa (va + 64 * k))
    | _ => none

/-- The blocks of host memory that a read of `n` times 64 bytes brings: each draws on the host allowance (R354). -/
def State.devDraws (s : State) (ctx : CtxId) (va n : Nat) : Nat := s.hostBlocks ctx (s.devPlaces ctx va n)

/-- Reads `n` blocks of 64 bytes, once the host allowance covers all that they draw on it (R354, R356). -/
def State.devRead (s : State) (ctx : CtxId) (va n : Nat) : DevRead :=
  match s.devParts ctx va n with
  | .data bs => if s.hostAllow < 8 * s.devDraws ctx va n then .draw else .data bs
  | r => r

/-- A read of the device itself has been made: it has drawn on the host allowance, and has used the lines of its tables and its data
(R354, R366). -/
def State.devDrawn (s : State) (ctx : CtxId) (va n : Nat) : State :=
  let s1 := { s with hostAllow := s.hostAllow - 8 * s.devDraws ctx va n }
  let s2 := (dedup ((List.range n).map fun k => (va + 64 * k) / 4096)).foldl (fun st p => st.walkUsed ctx (p * 4096)) s1
  (s.devPlaces ctx va n).foldl (fun st p => st.touch p.2) s2

/-- Asks for a block that an access of the device itself needs; the fill draws on the host allowance (R354, R356). -/
def State.ownFill (s : State) (ctx : CtxId) (frame : Nat) : State :=
  if s.hostCovers then s.needFill { frame, ctx, core := none, quiet := false } else s

/-- Does what a read of the device itself waits for. -/
def State.devWait (s : State) (ctx : CtxId) (r : DevRead) : State :=
  match r with
  | .fill f => s.ownFill ctx f
  | _ => s

/-- A read of the device itself waits. -/
def DevRead.waits : DevRead → Bool
  | .fill _ | .draw => true
  | _ => false

/-- Whose access a walk serves. -/
def WalkFor.user : WalkFor → CoreId × PageUser
  | .probe c => (c, .eng .a)
  | .access c e _ => (c, .eng e)
  | .copy c e _ => (c, .copy e)

/-- One more failure in a row of an access at an address, by page (R378). -/
def failAgain (m : SMap Nat) (va : Nat) : SMap Nat := SMap.set 0 m (va / 4096) (SMap.get 0 m (va / 4096) + 1)

end Sys2Proof.Machine
end

