-- ==== Sys2Proof/Machine/Walks.lean ====
section
/-! DEFINITION. Walks (R151-R153, R202), bank formats (R145, R146) and the claims of timed accesses on bank groups
(R149, R150). -/

namespace Sys2Proof.Machine

/-! ## Addresses of a walk -/

/-- TRAPVAL of an exhausted walk (R152). -/
def walkExhausted : W32 := 0xFFFFFFFF
/-- TRAPVAL of an unset walk (R202). -/
def walkUnset : W32 := 0xFFFFFFFC
/-- TRAPVAL of a walk that the other timed engine consumes (R256, R260). -/
def walkOther : W32 := 0xFFFFFFFB
/-- TRAPVAL of a walk of the wrong direction (R203, R260). -/
def walkDir : W32 := 0xFFFFFFFE
/-- TRAPVAL of a credit above 65,535 (R203). -/
def walkCredit : W32 := 0xFFFFFFFD

/-- The levels in use: their counts and strides. -/
def WalkRec.used (r : WalkRec) : List (Nat × Int) := (r.count.toList.zip r.stride.toList).take r.levels

/-- P, the product of the counts in use (R152). -/
def WalkRec.period (r : WalkRec) : Nat := r.used.foldl (fun p l => p * l.1) 1

/-- The loop of R152: the address so far and what is left of the step index. -/
def levelSum : List (Nat × Int) → Nat → Int → Int × Nat
  | [], s, a => (a, s)
  | (n, st) :: ls, s, a => levelSum ls (s / n) (a + (s % n : Nat) * st)

/-- Low 32 bits of an integer. -/
def low32 (x : Int) : W32 := BitVec.ofInt 32 x

/-- The row address of step index `k`, or the WALK_FAULT value (R152). A cyclic walk reduces the index first. -/
def WalkRec.addr (r : WalkRec) (k : Nat) : Except W32 Nat :=
  let k := if r.cyclic then k % r.period else k
  match levelSum r.used k (r.base : Int) with
  | (a, rest) =>
    if rest ≠ 0 then .error walkExhausted
    else if a < r.lo ∨ (r.hi : Int) < a + 128 then .error (low32 a) else .ok a.toNat

/-- Advances a step index (R152): a cyclic walk keeps it below P. -/
def WalkRec.advance (r : WalkRec) (k n : Nat) : Nat := if r.cyclic then (k + n) % r.period else k + n

/-- A walk of the job. -/
def Job.walk (j : Job) (w : Fin 8) : Walk := j.walks[w.val]'w.isLt

/-- The job with a walk replaced. -/
def Job.setWalk (j : Job) (w : Fin 8) (x : Walk) : Job := { j with walks := j.walks.set w.val x w.isLt }

/-- The walk of a VMOV writes the scratchpad (R255). One that is not set has no direction, and the check of D in a skipped region
(R66) takes it as a reading one: the spec does not say which, and the choice is the model's (log 84). -/
def Job.walkWrites (j : Job) (w : Fin 8) : Bool :=
  match (j.walk w).record with
  | some r => r.dir
  | none => false

/-! ## Rows and banks -/

/-- The bank of a scratchpad address (R137). -/
def bankOf (a : Nat) : Fin 32 := ⟨a / 65536 % 32, by omega⟩

/-- The bank group of a scratchpad address (R137). -/
def groupOf (a : Nat) : Fin 4 := ⟨a / 524288 % 4, by omega⟩

/-- The row of a walk at step index `k`, checked as R152 gives. -/
def walkRow (s : State) (c : CoreId) (r : WalkRec) (k : Nat) : Except (Cause × W32) Nat :=
  match r.addr k with
  | .error v => .error (.walkFault, v)
  | .ok a => if s.rowUsable c a then .ok a else .error (.rowRange, BitVec.ofNat 32 a)

/-- A timed row access in the window of an instruction: its take offset, its walk (none for a scale row), the address or
the trap that the checks of R152 give, and whether it writes. -/
structure Want where
  off : Nat
  walk : Option (Fin 8)
  addr : Except (Cause × W32) Nat
  wr : Bool

/-- `n` consecutive rows of a walk, at one offset each from `off` on. -/
def wantRows (s : State) (c : CoreId) (r : WalkRec) (w : Fin 8) (wr : Bool) (step off : Nat) : Nat → List Want
  | 0 => []
  | n + 1 => ⟨off, some w, walkRow s c r step, wr⟩ :: wantRows s c r w wr (step + 1) (off + 1) n

/-- The first trap among the row checks, in order. -/
def wantFault : List Want → Option (Cause × W32)
  | [] => none
  | x :: xs =>
    match x.addr with
    | .error t => some t
    | .ok _ => wantFault xs

/-- Offsets and addresses of rows that have passed their checks. -/
def wantAddrs (l : List Want) : List (Nat × Nat) := l.map fun x => (x.off, match x.addr with
  | .ok a => a
  | .error _ => 0)

/-! ## Bank groups -/

/-- The first BANK_CONFLICT of a window (R150): a group claimed twice by the window itself, or by an instruction that
issued before. -/
def bankConflict (claims : List (Nat × Fin 4 × Eng)) : List (Nat × Nat) → List (Nat × Nat) → Option W32
  | _, [] => none
  | seen, (o, a) :: rest =>
    if seen.any fun x => decide (x.1 = o) && decide (groupOf x.2 = groupOf a) then
      some (BitVec.ofNat 32 ((groupOf a).val + 16))
    else
      match claims.find? fun x => decide (x.1 = o) && decide (x.2.1 = groupOf a) with
      | some x => some (BitVec.ofNat 32 ((groupOf a).val + 256 * (if x.2.2 = .m then 3 else 2)))
      | none => bankConflict claims ((o, a) :: seen) rest

/-- The job with a window claimed. -/
def Job.claim (j : Job) (e : Eng) (l : List (Nat × Nat)) : Job :=
  { j with claims := j.claims ++ l.map fun x => (x.1, groupOf x.2, e) }

/-- The group of an address serves a timed access in this cycle, so that a yielding access waits (R149). -/
def Job.groupBusy (j : Job) (a : Nat) : Bool :=
  j.claims.any fun x => decide (x.1 = 0) && decide (x.2.1 = groupOf a)

/-! ## Bank formats -/

/-- TYPE of a bank format (R145). -/
def fmtType (w : W32) : Option ElemT := ElemT.ofCode (bitsAt w.toNat 0 4)

/-- MX of a bank format. -/
def fmtMx (w : W32) : Bool := w.getLsbD 7

/-- The format that governs timed decoding of the bank that holds an address (R147). -/
def Job.rowFmt (j : Job) (a : Nat) : W32 := j.tfmt[(bankOf a).val]'(bankOf a).isLt

/-- The byte address of the scale row of an MX operand row: bank SCB, row SCROW + (o >> 12) (R146). -/
def scaleRow (f : W32) (a : Nat) : Nat :=
  bitsAt f.toNat 15 5 * 65536 + (bitsAt f.toNat 20 9 + a % 65536 / 4096) * 128

/-- The byte of the scale row that holds the scale of the element at byte address `a` (R146). -/
def scaleByte (a : Nat) : Nat := a % 65536 / 32 % 128

/-! ## Accesses still to make -/

/-- An issued M instruction has no row access still to make. -/
def MFlight.idle (f : MFlight) : Bool := f.accs.all fun a => a.got.isSome

/-- Row accesses that issued timed instructions have still to make through a walk (R153, R204). -/
def Job.pendingRows (j : Job) (w : Fin 8) : Nat :=
  (j.m.flights.map fun f => (f.accs.filter fun a => decide (a.walk = some w) && a.got.isNone).length).foldl (· + ·) 0
    + (j.v.stores.filter fun x => decide (x.walk = w)).length

/-- A tracked walk holds credit for `n` rows beyond those in flight (R153). -/
def Job.walkReady (j : Job) (w : Fin 8) (n : Nat) : Bool :=
  match (j.walk w).record with
  | none => true
  | some r => !r.track || decide (n + j.pendingRows w ≤ (j.walk w).credit)

/-- STEP after an instruction that makes `n` accesses has issued (R152). -/
def Job.advanceWalk (j : Job) (w : Fin 8) (n : Nat) : Job :=
  match (j.walk w).record with
  | none => j
  | some r => j.setWalk w { j.walk w with step := r.advance (j.walk w).step n }

/-- CREDIT after a timed access through a tracked walk (R153). -/
def Job.spendCredit (j : Job) (w : Option (Fin 8)) : Job :=
  match w with
  | none => j
  | some w =>
    match (j.walk w).record with
    | none => j
    | some r => if r.track then j.setWalk w { j.walk w with credit := (j.walk w).credit - 1 } else j

end Sys2Proof.Machine
end

