-- ==== Sys2Proof/Machine/Window.lean ====
section
/-! DEFINITION. The access windows of the M instructions and the checks that M makes at issue (R260-R277). -/

namespace Sys2Proof.Machine

/-- The first condition that holds. -/
def firstOf {α : Type} : List (Option α) → Option α
  | [] => none
  | some x :: _ => some x
  | none :: xs => firstOf xs

/-- A trap when a condition holds. -/
def whenTrap (b : Bool) (c : Cause) (v : W32) : Option (Cause × W32) := if b then some (c, v) else none

/-! ## Windows -/

/-- Lines per row L of an operand type (R263). For a type to which the table gives no L, whose fault 0x102 comes after the row checks, it
is 1: the spec does not say how many rows are checked, and the choice is the model's (log 84). -/
def linesPerRow : Option ElemT → Nat
  | some .e4 | some .e5 | some .s8 | some .n8 => 2
  | some .t2 => 8
  | _ => 1

/-- The number of rows that `n` lines take. -/
def rowsFor (n lines : Nat) : Nat := (n + lines - 1) / lines

/-- The format of the bank that holds the first row of a walk. -/
def firstFmt (j : Job) (w : Fin 8) (r : WalkRec) : W32 :=
  match r.addr (j.walk w).step with
  | .ok a => j.rowFmt a
  | .error _ => 0

/-- The rows of an operand tile of `n` lines, from offset 0 on (R263). -/
def operandRows (s : State) (c : CoreId) (j : Job) (w : Fin 8) (n : Nat) : List Want :=
  match (j.walk w).record with
  | none => []
  | some r => wantRows s c r w false (j.walk w).step 0 (rowsFor n (linesPerRow (fmtType (firstFmt j w r))))

/-- The distinct scale rows of an operand's rows, in order of first use, one per offset from `off` on (R267). -/
def scaleWants (s : State) (c : CoreId) (j : Job) (rows : List Want) (off : Nat) : List Want :=
  let as := (wantAddrs rows).map Prod.snd
  let ss := dedup ((as.filter fun a => fmtMx (j.rowFmt a)).map fun a => scaleRow (j.rowFmt a) a)
  ss.zipIdx.map fun x =>
    ⟨off + x.2, none, if s.rowUsable c x.1 then .ok x.1 else .error (.rowRange, BitVec.ofNat 32 x.1), false⟩

/-- Two windows that begin at one offset, in offset order, the first operand's row first. -/
def interleave : List Want → List Want → List Want
  | [], bs => bs
  | a :: as, [] => a :: as
  | a :: as, b :: bs => a :: b :: interleave as bs

/-- TMMAT's window: one A row and two B rows at an offset (R267). -/
def interleave2 : List Want → List Want → List Want
  | [], bs => bs
  | a :: as, [] => a :: as
  | a :: as, [b] => a :: b :: as
  | a :: as, b :: b' :: bs => a :: b :: b' :: interleave2 as bs

/-- Two consecutive rows at each offset (R267). -/
def halveOffs (l : List Want) : List Want := l.map fun x => { x with off := x.off / 2 }

/-- N of a sparse group (R262 SPN). -/
def MEng.spn (m : MEng) : Nat := 8 * 2 ^ bitsAt m.tcfg[0].toNat 4 2

/-- The indices idx[0..N-1] of a TMMAS, read from its metadata row (R186, R266). -/
def sparseIdx (s : State) (c : CoreId) (j : Job) (w : Fin 8) : List Nat :=
  match (j.walk w).record with
  | none => []
  | some r =>
    match walkRow s c r (j.walk w).step with
    | .ok a =>
      let x := ((s.core c).timedRow a).toNat
      (List.range j.m.spn).map fun k => bitsAt x (7 * k) 7
    | .error _ => []

/-- The B rows of a TMMAS: for kept value `k` the row of step index STEP + idx[k], at offset 1 + k (R266, R267). -/
def sparseRows (s : State) (c : CoreId) (r : WalkRec) (w : Fin 8) (step : Nat) (idx : List Nat) : List Want :=
  idx.zipIdx.map fun x => ⟨1 + x.2, some w, walkRow s c r (step + x.1), false⟩

/-- Output rows of a retirement (R272): 2m, m or ⌈m / 2⌉ for TRET by the width of OTYPE. -/
def retRows (m : Nat) : Option ElemT → Nat
  | some .s32 | some .n32 | some .f => 2 * m
  | some .s8 | some .n8 | some .e4 | some .e5 => (m + 1) / 2
  | _ => m

/-- OTYPE of TCFG1 (R262). -/
def MEng.otype (m : MEng) : Option ElemT := ElemT.ofCode (bitsAt m.tcfg[1].toNat 0 4)

/-- Compute takes C of a reduction (R267). -/
def computeTakes (k : Nat) : Option ElemT → Nat
  | some .h | some .bf => k
  | some .t2 => (k + 3) / 4
  | _ => (k + 1) / 2

/-- The window of an M instruction: its row accesses in offset order, the rows it counts through each walk, OCC, and the
offset at which it completes. -/
structure MWin where
  wants : List Want
  needs : List (Fin 8 × Nat)
  occ : Nat
  fin : Nat

/-- The window of one dense reduction (R267). -/
def denseWin (s : State) (c : CoreId) (j : Job) (a b : Fin 8) (mx tern : Bool) : MWin :=
  let ra := operandRows s c j a j.m.shapeM
  let rb := operandRows s c j b j.m.shapeN
  let ta := match (j.walk a).record with
    | some r => fmtType (firstFmt j a r)
    | none => none
  let n := computeTakes j.m.shapeK ta
  let needs := [(a, ra.length), (b, rb.length)]
  if tern then
    let occ := Nat.max (Nat.max ra.length (rowsFor rb.length 2)) n
    ⟨interleave2 ra (halveOffs rb), needs, occ, occ⟩
  else if mx then
    let sa := scaleWants s c j ra ra.length
    let sb := scaleWants s c j rb rb.length
    let occ := Nat.max (Nat.max (ra.length + sa.length) (rb.length + sb.length)) n
    ⟨interleave (ra ++ sa) (rb ++ sb), needs, occ, occ⟩
  else
    let occ := Nat.max (Nat.max ra.length rb.length) n
    ⟨interleave ra rb, needs, occ, occ⟩

/-- The window of a write of `n` rows at offsets 72 on (R272, R276). -/
def outWin (s : State) (c : CoreId) (j : Job) (w : Fin 8) (n : Nat) : MWin :=
  match (j.walk w).record with
  | none => ⟨[], [], n, 72 + n⟩
  | some r => ⟨wantRows s c r w true (j.walk w).step 72 n, [(w, n)], n, 72 + n⟩

/-- The window of an M instruction (R267, R276); the others make no row access. Of the two rows of TMMAS at offset 0, row 0 of A and the
metadata, A's is checked first: the spec does not say which, and the choice is the model's (log 84). -/
def mWindow (s : State) (c : CoreId) (j : Job) (i : Instr) : MWin :=
  match i with
  | .tmma _ _ a b _ => denseWin s c j a b false false
  | .tmmax _ _ a b _ => denseWin s c j a b true false
  | .tmmat _ _ a b _ => denseWin s c j a b false true
  | .tmmas _ _ a b w _ =>
    let ra := match (j.walk a).record with
      | some r => wantRows s c r a false (j.walk a).step 0 j.m.shapeM
      | none => []
    let rm := match (j.walk w).record with
      | some r => wantRows s c r w false (j.walk w).step 0 1
      | none => []
    let rb := match (j.walk b).record with
      | some r => sparseRows s c r b (j.walk b).step (sparseIdx s c j w)
      | none => []
    let occ := Nat.max j.m.shapeM (j.m.spn + 1)
    ⟨ra.take 1 ++ rm ++ interleave (ra.drop 1) rb, [(a, ra.length), (b, 128), (w, 1)], occ, occ⟩
  | .tret _ _ w _ => outWin s c j w (retRows j.m.shapeM j.m.otype)
  | .tretq _ _ w _ => outWin s c j w j.m.shapeM
  | .tspill _ _ w => outWin s c j w 128
  | .tfill _ _ w =>
    match (j.walk w).record with
    | none => ⟨[], [], 128, 128⟩
    | some r => ⟨wantRows s c r w false (j.walk w).step 0 128, [(w, 128)], 128, 128⟩
  | .tacc _ _ _ => ⟨[], [], 64, 64⟩
  | .tchk _ _ _ f => let o := if f = 0 then 64 else if f = 1 ∨ f = 2 then 4 else 1; ⟨[], [], o, o⟩
  | _ => ⟨[], [], 1, 1⟩

/-! ## Types and kinds -/

/-- TYPE and MX that all rows of an operand share; none where they differ (R264). -/
def operandType (j : Job) (w : Fin 8) (wants : List Want) : Option (Option ElemT × Bool) :=
  match wantAddrs (wants.filter fun x => decide (x.walk = some w)) with
  | [] => some (none, false)
  | x :: xs =>
    let f := fun a => (fmtType (j.rowFmt a), fmtMx (j.rowFmt a))
    if xs.all fun y => decide (f y.2 = f x.2) then some (f x.2) else none

/-- The kind that a legal pair of operand types accumulates (R264); none for an illegal pair. -/
def pairKind (i : Instr) (a b : Option ElemT × Bool) : Option AccKind :=
  match i, a, b with
  | .tmmax _ _ _ _ _, (some x, true), (some y, true) => if x.isFp8 && y.isFp8 then some .flt else none
  | .tmmat _ _ _ _ _, (some .t2, _), (some .s8, _) => some .int
  | .tmmas _ _ _ _ _ _, (some .h, false), (some .h, false) => some .flt
  | .tmmas _ _ _ _ _ _, (some .bf, false), (some .bf, false) => some .flt
  | .tmma _ _ _ _ _, (some .h, false), (some .h, false) => some .flt
  | .tmma _ _ _ _ _, (some .bf, false), (some .bf, false) => some .flt
  | .tmma _ _ _ _ _, (some x, false), (some y, false) =>
    if x.isFp8 && y.isFp8 then some .flt
    else if (x = .s8 || x = .n8) && (y = .s8 || y = .n8) then some .int else none
  | _, _, _ => none

/-- Accumulator, operand walks and NEW of a reduction. -/
def reduction : Instr → Option (Fin 8 × Fin 8 × Fin 8 × Bool)
  | .tmma _ c a b n | .tmmax _ c a b n | .tmmat _ c a b n | .tmmas _ c a b _ n => some (c, a, b, n)
  | _ => none

/-- The kind that a reduction needs (R265), from the banks of its rows. -/
def needKind (j : Job) (i : Instr) (wants : List Want) : Option AccKind :=
  match reduction i with
  | none => none
  | some (_, a, b, _) =>
    match operandType j a wants, operandType j b wants with
    | some x, some y => pairKind i x y
    | _, _ => none

/-- An accumulator of M. -/
def MEng.accAt (m : MEng) (n : Fin 8) : Acc := m.acc[n.val]'n.isLt

/-! ## The checks of R260 -/

/-- The walks that an M instruction names, in the order WA, WB, metadata, and whether it writes through them. -/
def mWalks : Instr → List (Fin 8 × Bool)
  | .tmma _ _ a b _ | .tmmax _ _ a b _ | .tmmat _ _ a b _ => [(a, false), (b, false)]
  | .tmmas _ _ a b w _ => [(a, false), (b, false), (w, false)]
  | .tret _ _ w _ | .tretq _ _ w _ | .tspill _ _ w => [(w, true)]
  | .tfill _ _ w => [(w, false)]
  | _ => []

/-- Step 2 of R260 for one walk. -/
def mWalkFault (j : Job) (w : Fin 8) (wr : Bool) : Option (Cause × W32) :=
  match (j.walk w).record with
  | none => some (.walkFault, walkUnset)
  | some r =>
    if (j.walk w).user = .v then some (.walkFault, walkOther)
    else if r.dir ≠ wr then some (.walkFault, walkDir) else none

/-- The point before the next M instruction is a quiescent boundary (R277). -/
def MEng.quiescent (m : MEng) : Bool := decide (m.unchk = 0) && m.flights.all MFlight.idle

/-- RDEPTH as the next M instruction finds it (R277). -/
def MEng.depth (m : MEng) : Nat := if m.quiescent then 0 else m.rdepth

/-- Code 0x104: the instruction would take RDEPTH above TCFG0.MAXRED (R277). -/
def depthFault (m : MEng) : Option (Cause × W32) :=
  whenTrap (decide (bitsAt m.tcfg[0].toNat 24 8 < m.depth + 1)) .illegalOperand 0x104

/-- Code 0x105 (R260). -/
def quantFault (m : MEng) (i : Instr) : Option (Cause × W32) :=
  match i with
  | .tretq _ _ _ _ => whenTrap (match m.otype with
      | some t => !t.isFp8
      | none => true) .illegalOperand 0x105
  | _ => none

/-- Codes 0x102 and 0x103 (R260, R265, R268). -/
def kindFault (j : Job) (i : Instr) (wants : List Want) : Option (Cause × W32) :=
  match i with
  | .tacc _ d a =>
    let x := (j.m.accAt d).kind
    let y := (j.m.accAt a).kind
    whenTrap (decide (x ≠ .none ∧ y ≠ .none ∧ x ≠ y)) .illegalOperand 0x103
  | _ =>
    match reduction i with
    | none => none
    | some (d, _, _, new) =>
      match needKind j i wants with
      | none => some (.illegalOperand, 0x102)
      | some k =>
        let x := (j.m.accAt d).kind
        whenTrap (!new && decide (x ≠ .none ∧ x ≠ k)) .illegalOperand 0x103

/-- The checks 2 to 6 of R260. -/
def mCheck (s : State) (c : CoreId) (j : Job) (i : Instr) : Option (Cause × W32) :=
  let w := mWindow s c j i
  firstOf (((mWalks i).map fun x => mWalkFault j x.1 x.2) ++
    [depthFault j.m, quantFault j.m i, wantFault w.wants, kindFault j i w.wants,
     (bankConflict j.claims [] (wantAddrs w.wants)).map fun v => (.bankConflict, v)])

/-! ## V's row access -/

/-- The window of a VMOV (R256): offset 0 for a read walk, offset 1 for a write walk. -/
def vmovWants (s : State) (c : CoreId) (j : Job) (w : Fin 8) : List Want :=
  match (j.walk w).record with
  | none => []
  | some r => wantRows s c r w r.dir (j.walk w).step (if r.dir then 1 else 0) 1

/-- Checks 1 and 2 of R256. -/
def vmovWalkFault (j : Job) (w : Fin 8) : Option (Cause × W32) :=
  if (j.walk w).record.isNone then some (.walkFault, walkUnset)
  else if (j.walk w).user = .m then some (.walkFault, walkOther) else none

/-- Checks 3 and 4 of R256. -/
def vmovRowFault (s : State) (c : CoreId) (j : Job) (w : Fin 8) : Option (Cause × W32) :=
  firstOf [wantFault (vmovWants s c j w),
    (bankConflict j.claims [] (wantAddrs (vmovWants s c j w))).map fun v => (.bankConflict, v)]

end Sys2Proof.Machine
end

