-- ==== Sys2Proof/Machine/Node.lean ====
section
/-! DEFINITION. Task cards and nodes: the card's fields (R308), semaphores and counters (R306, R307), budget accounts
(R354), staged writes and escaping effects (R420-R424, R333). -/

namespace Sys2Proof.Machine

/-! ## The fields of a card (R308) -/

/-- Field of `n` bytes at byte `o` of a card. -/
def Card.fld (x : Card) (o n : Nat) : Nat := bitsAt x.raw (8 * o) (8 * n)

/-- VF. -/
def Card.vf (x : Card) : Nat := x.fld 0 2
/-- NODEID. -/
def Card.nodeid (x : Card) : Nat := x.fld 4 4
/-- WAITMASK. -/
def Card.waitMask (x : Card) : W64 := BitVec.ofNat 64 (x.fld 8 8)
/-- SIGMASK. -/
def Card.sigMask (x : Card) : W64 := BitVec.ofNat 64 (x.fld 16 8)
/-- WAITCTR; none for 0xFFFF_FFFF. -/
def Card.waitCtr (x : Card) : Option Nat := if x.fld 28 4 = 0xFFFFFFFF then none else some (x.fld 28 4)
/-- DECCTR; none for 0xFFFF_FFFF. -/
def Card.decCtr (x : Card) : Option Nat := if x.fld 32 4 = 0xFFFFFFFF then none else some (x.fld 32 4)
/-- Energy class of CLS. -/
def Card.cls (x : Card) : Fin 16 := ⟨x.fld 36 1 % 16, Nat.mod_lt _ (by decide)⟩
/-- Guest priority of CLS. -/
def Card.prio (x : Card) : Nat := x.fld 36 1 / 16
/-- Bit `n` of FLAGS. -/
def Card.flagBit (x : Card) (n : Nat) : Bool := (x.fld 37 1).testBit n
/-- STEAL. -/
def Card.steal (x : Card) : Bool := x.flagBit 0
/-- FUSE. -/
def Card.fuse (x : Card) : Bool := x.flagBit 1
/-- GANG. -/
def Card.gang (x : Card) : Bool := x.flagBit 2
/-- CLRW. -/
def Card.clrw (x : Card) : Bool := x.flagBit 3
/-- IRQ. -/
def Card.irq (x : Card) : Bool := x.flagBit 5
/-- The number of members. -/
def Card.members (x : Card) : Nat := if x.gang then x.fld 38 1 % 16 + 1 else 1
/-- An island-level gang. -/
def Card.islandGang (x : Card) : Bool := x.gang && decide (x.fld 38 1 / 128 = 1)
/-- VARN. -/
def Card.varn (x : Card) : Nat := x.fld 39 1
/-- BANKPROF. -/
def Card.bankProf (x : Card) : W32 := BitVec.ofNat 32 (x.fld 40 4)
/-- DIM0-DIM3; an unused dimension counts as 1 (R113). -/
def Card.dims (x : Card) : Vector Nat 4 :=
  Vector.ofFn fun i => if x.fld (44 + 2 * i.val) 2 = 0 then 1 else x.fld (44 + 2 * i.val) 2
/-- CYCEST. -/
def Card.cycEst (x : Card) : Nat := x.fld 68 4
/-- JOBDESC. -/
def Card.jobDesc (x : Card) : Nat := x.fld 72 8
/-- VARTAB. -/
def Card.varTab (x : Card) : Nat := x.fld 80 8
/-- LAUNCHREC. -/
def Card.launchRec (x : Card) : Nat := x.fld 88 8
/-- COMPREC. -/
def Card.compRec (x : Card) : Nat := x.fld 96 8
/-- CAPWAIT. -/
def Card.capWait (x : Card) : Nat := x.fld 104 2

/-! ## Semaphores and counters (R306, R307) -/

/-- The cluster of a die-wide semaphore number. -/
def semClu (n : Nat) : CluId := ⟨n / 256 % 32, by omega⟩

/-- The event word of a physical semaphore. -/
def State.semGet (s : State) (n : Nat) : W64 := SMap.get 0 (s.cluster (semClu n)).sems (n % 256)

/-- Writes an event word. -/
def State.semSet (s : State) (n : Nat) (x : W64) : State :=
  let c := s.cluster (semClu n)
  s.setCluster (semClu n) { c with sems := SMap.set 0 c.sems (n % 256) x }

/-- Notes an effect of hardware at the present instant (R12, R307; log 78). -/
def State.note (s : State) (m : NowMark) : State := { s with now := s.now ++ [m] }

/-- ORs bits into an event word, as a SIG does. -/
def State.semOr (s : State) (n : Nat) (x : W64) : State :=
  (s.semSet n (s.semGet n ||| x)).note (.sem n x (x &&& ~~~s.semGet n))

/-- The bits that SIGs have ORed into an event word at this instant. -/
def State.nowOred (s : State) (n : Nat) : W64 :=
  s.now.foldl (fun w m => match m with
    | .sem k x _ => if k = n then w ||| x else w
    | _ => w) 0

/-- Those of them that were 0 before. -/
def State.nowFresh (s : State) (n : Nat) : W64 :=
  s.now.foldl (fun w m => match m with
    | .sem k _ x => if k = n then w ||| x else w
    | _ => w) 0

/-- The bits that launches have cleared in an event word at this instant. -/
def State.nowCleared (s : State) (n : Nat) : W64 :=
  s.now.foldl (fun w m => match m with
    | .semClr k x => if k = n then w ||| x else w
    | _ => w) 0

/-- A launch clear (R309). SIG ORs of the same instant come after it (R307), unless the launch's own test saw them set a bit
that it waits for (log 78). -/
def State.semClear (s : State) (n : Nat) (mask : W64) : State :=
  let later := if s.nowFresh n &&& mask = 0 then s.nowOred n else 0
  (s.semSet n ((s.semGet n &&& ~~~mask) ||| later)).note (.semClr n mask)

/-- A packet-core write of an event word: launch clears and SIG ORs of the same instant come after it (R307, R392). -/
def State.semPacket (s : State) (n : Nat) (x : W64) : State :=
  s.semSet n (((s.semGet n ||| x) &&& ~~~s.nowCleared n) ||| s.nowOred n)

/-- The owner of a semaphore, a VF number (R306). -/
def State.semOwnerOf (s : State) (n : Nat) : Nat := SMap.get 0 (s.cluster (semClu n)).semOwner (n % 256)

/-- The cluster of a die-wide counter number. -/
def ctrClu (n : Nat) : CluId := ⟨n / 4096 % 32, by omega⟩

/-- A dependence counter. -/
def State.ctrGet (s : State) (n : Nat) : Nat := SMap.get 0 (s.cluster (ctrClu n)).ctrs (n % 4096)

/-- Writes a dependence counter. -/
def State.ctrSet (s : State) (n x : Nat) : State :=
  let c := s.cluster (ctrClu n)
  s.setCluster (ctrClu n) { c with ctrs := SMap.set 0 c.ctrs (n % 4096) x }

/-- Decrements a counter; one at 0 stays and counts an underflow. -/
def State.ctrDown (s : State) (n : Nat) : State :=
  if s.ctrGet n = 0 then
    let c := s.cluster (ctrClu n)
    s.setCluster (ctrClu n) { c with errlog := c.errlog + 1 }
  else s.ctrSet n (s.ctrGet n - 1)

/-- A decrement that arrives at a dispatcher. -/
def State.ctrDec (s : State) (n : Nat) : State := (s.ctrDown n).note (.ctr n (decide (s.ctrGet n = 0)))

/-- The decrements of a counter at this instant: whether each found the counter at 0. -/
def State.nowDecs (s : State) (n : Nat) : List Bool :=
  s.now.filterMap fun m => match m with
    | .ctr k u => if k = n then some u else none
    | _ => none

/-- A packet-core write of a counter: decrements of the same instant come after it (R307, R392). -/
def State.ctrPacket (s : State) (n x : Nat) : State :=
  let c := s.cluster (ctrClu n)
  let s1 := s.setCluster (ctrClu n) { c with errlog := c.errlog - ((s.nowDecs n).filter id).length }
  (s.nowDecs n).foldl (fun st _ => st.ctrDown n) (s1.ctrSet n x)

/-- The physical semaphore that a context's map gives a virtual number (R104, R122). -/
def State.semMapped (s : State) (c : CtxId) (v : Nat) : Option Nat :=
  let p := SMap.get 0 (s.ctx c).semmap v
  if p = 0 then none else some (p - 1)

/-! ## Accounts (R354) -/

/-- Adds to an island's balance, in 1/64 BU. -/
def State.addBal (s : State) (i : IslId) (x : Int) : State :=
  s.setIsland i { s.island i with bal := (s.island i).bal + x }

/-- Adds to a context's remaining budget, in 1/64 BU (R397). -/
def State.addRem (s : State) (c : CtxId) (x : Int) : State := s.setCtx c { s.ctx c with rem := (s.ctx c).rem + x }

/-- The class-table cost of a class at the island's level, in BU (R351). -/
def classCost (i : Island) (c : Fin 16) : Nat := (SMap.get 0 i.classes (16 * i.level + c.val)).toNat

/-- The context is vacating under a wrap (R447, R449). -/
def State.vacating (s : State) (c : CtxId) : Bool :=
  match s.ctxPart c with
  | none => false
  | some p =>
    let q := s.part p
    decide (q.wrapPhase ≠ .none) && (if q.wrapTVft then decide (c.val = q.wrapTVf) else decide (c.val < 384))

/-- The job stops, saves or drains in a wrap (R451). -/
def State.wrapSave (s : State) (j : Job) : Bool := (j.stopping || j.stopped) && s.vacating j.ctx

/-- Draws on an island's reserve first and then on its balance, which may fall below 0 (R354, R451), in 1/64 BU. -/
def State.drawReserve (s : State) (i : IslId) (x : Nat) : State :=
  let y := s.island i
  s.setIsland i { y with res := y.res - x, bal := y.bal - (x - y.res : Nat) }

/-- Adds to a task's joule counter the energy of an operation that it is charged for (R295), in 1/64 uJ. That of a stop in a wrap is
drawn at once, the reserve first, and stands in the metered sum (R354, R451). -/
def State.spend (s : State) (c : CoreId) (x : Nat) : State :=
  match s.job c with
  | none => s
  | some j =>
    match s.card j.cluster j.slot with
    | none => s
    | some k =>
      if s.wrapSave j then
        (s.setCard j.cluster j.slot { k with joule := k.joule + x, metered := k.metered + x }).drawReserve (coreIsl c) x
      else s.setCard j.cluster j.slot { k with joule := k.joule + x }

/-- The energy of a kind of operation (R295), which the spec does not give: 0 a cycle of the core, 1 a cycle in which a third run
goes on, without it, 2 a burst of a copy command, 3 an RST or RLD (log 10). -/
def State.spendKind (s : State) (c : CoreId) (kind : Nat) : State :=
  { s.spend c (Config.energy kind s.fresh) with fresh := s.fresh + 1 }

/-- A 4 KiB block moved for a task, or on the host allowance (R354, R419): 0.125 BU is 8 units, which are the block's energy in
the task's joule counter too (R295). A block of a wrap's checkpoint draws on the reserve first (R451). -/
def State.meterBlock (s : State) (core : Option CoreId) : State :=
  let host := { s with hostAllow := s.hostAllow - 8 }
  match core with
  | none => host
  | some c =>
    match s.job c with
    | none => host
    | some j =>
      match s.card j.cluster j.slot with
      | none => host
      | some x =>
        let s1 := s.setCard j.cluster j.slot { x with metered := x.metered + 8, joule := x.joule + 8 }
        if s.wrapSave j then s1.drawReserve (coreIsl c) 8 else s1.addBal (coreIsl c) (-8)

/-- Draws on the host allowance for an access that goes to the host. -/
def State.hostDraw (s : State) (ctx : CtxId) (kind : Fin 3) (pa : Nat) : State :=
  if s.hostTraffic ctx kind pa then s.meterBlock none else s

/-! ## Writes of device memory -/

/-- What stands in the way of a write within one line (R367, R408, R411, R412, R415, R416). -/
inductive WGate
  | ready
  | fill (frame : Nat)
  | reseal
  | snoop (line : Nat)
  | host
  | room (pa : Nat)
  | fail (cause : Cause)
  deriving DecidableEq, Repr

/-- The checks of a write that would make a line dirty. -/
def State.writeGate (s : State) (ctx : CtxId) (pa : Nat) : WGate :=
  if hostBase ≤ pa then (if s.hostWaits ctx 1 pa then .host else if s.noWay ctx pa then .room pa else .ready)
  else
    let m := s.metaOf (frameOf pa)
    if s.reseals.any fun r => r.frame = frameOf pa then .reseal
    else if s.foreign ctx (frameOf pa) || (s.ctx ctx).key.cur.isNone then .fail .protection
    else
      match SMap.find s.lines (pa / 128) with
      | some l =>
        match l.poison with
        | some c => .fail c
        | none =>
          if m.state = 2 then .fail .sealExhausted
          else if pa / 128 ∈ s.snoop then .snoop (pa / 128) else .ready
      | none => if m.state = 2 then .fail .sealExhausted else .fill (frameOf pa)

/-- Starts a back-invalidation of a line that the host may hold (R367), once. -/
def State.needSnoop (s : State) (line : Nat) : State :=
  if line ∈ s.backInv then s
  else State.send { s with backInv := s.backInv ++ [line] } (.backInvalidate line)

/-- Does what a write gate waits for. -/
def State.forGate (s : State) (ctx : CtxId) (core : Option CoreId) (g : WGate) : State :=
  match g with
  | .fill f =>
    match core with
    | some _ => s.needFill { frame := f, ctx, core, quiet := false }
    | none => s.ownFill ctx f
  | .snoop l => s.needSnoop l
  | .room pa => s.makeRoom ctx (pa / 128)
  | _ => s

/-! ## Records of the device: descriptors' answers, stop records, rings (R134, R398-R401, R417) -/

/-- Where a record goes: its context and physical address; or what it waits for; none where it cannot be written. -/
inductive RecAt
  | at_ (ctx : CtxId) (pa : Nat)
  | fill (ctx : CtxId) (frame : Nat)
  | none

/-- A physical address in the context of its frame. -/
def State.recPhys (s : State) (pa : Nat) : RecAt :=
  match ctxOfNum (s.metaOf (frameOf pa)).ctx.toNat with
  | some c => .at_ c pa
  | none => .none

/-- The place of a record. -/
def State.recAt (s : State) (d : RecDst) : RecAt :=
  match d with
  | .virt ctx va =>
    if 2 ^ 48 ≤ va then .none else
    match s.walkTables ctx va with
    | .leaf e => if e.wr && decide (e.kind ≠ 2) then .at_ ctx (e.pa va) else .none
    | .fill f => .fill ctx f
    | _ => .none
  | .phys pa => s.recPhys pa
  | .sev => if s.sevBase = 0 then .none else s.recPhys (s.sevBase * 4096 + 16 * (s.sevWr.toNat % 2 ^ s.sevSize))
  | .prq p =>
    match (s.part p).desc with
    | some d => s.recPhys (d.prqbase + 32 * ((s.part p).prqWr % d.prqn))
    | none => .none

/-- Counts a seal event that is lost (R12, R417). -/
def State.sevLose (s : State) : State :=
  State.note { s with sevLost := BitVec.ofNat 32 (satTo 0xFFFFFFFF (s.sevLost.toNat + 1)) } (.sevLost 1)

/-- A record has been written: its ring's index moves on (R401, R417), and its message follows it (R386). -/
def State.recDone (s : State) (r : RecWrite) : State :=
  let s1 := match r.dst with
    | .sev => { s with sevWr := s.sevWr + 1 }
    | .prq p => (s.setPart p { s.part p with prqWr := ((s.part p).prqWr + 1) % 2 ^ 64 }).irq none p.val
    | _ => s
  match r.msg with
  | some (fn, v) => s1.irq fn v
  | none => s1

/-- What becomes of the oldest record: it is written, or refused, which counts in PF0's counter (R386); or it waits. -/
inductive RecRes
  | done (s : State)
  | wait (s : State)

/-- The write of a record performs as a write of its context, once nothing stands in its way (R408-R416). A seal event whose ring is
gone is lost (R417). -/
def State.recTry (s : State) (r : RecWrite) : RecRes :=
  if r.bytes = [] then .done (s.recDone r) else
  match s.recAt r.dst with
  | .none => .done (if r.dst = .sev ∧ s.sevBase = 0 then s.sevLose else s.pf0Error)
  | .fill ctx f => .wait (s.ownFill ctx f)
  | .at_ ctx pa =>
    match s.writeGate ctx pa with
    | .ready => .done (((s.hostDraw ctx (if hostBase ≤ pa then 1 else 0) pa).commit ctx none pa r.bytes).recDone r)
    | .fail _ => .done s.pf0Error
    | g => .wait (s.forGate ctx none g)

/-- Record writes perform in order, as far as they can. -/
def State.recLoop : Nat → State → State
  | 0, s => s
  | n + 1, s =>
    match s.recs with
    | [] => s
    | r :: _ =>
      match s.recTry r with
      | .done s1 => State.recLoop n { s1 with recs := s1.recs.drop 1 }
      | .wait s1 => s1

/-- Record writes go on. -/
def State.drainRecs (s : State) : State := s.recLoop s.recs.length

/-- The device writes a record, after those that wait. -/
def State.record (s : State) (dst : RecDst) (bytes : List Byte) (msg : Option (Option (Fin 384) × Nat)) : State :=
  State.drainRecs { s with recs := s.recs ++ [{ dst, bytes, msg }] }

/-! ## Staging and escape (R333, R421-R424) -/

/-- The node's staged lines. -/
def stagedLines (l : List Staged) : Nat := (dedup (l.map fun w => w.pa / 128)).length

/-- One more write stays within the staging limit of the run (R421). -/
def stageFits (l : List Staged) (pa stageMax : Nat) : Bool :=
  decide (stagedLines (l ++ [⟨pa, 0, [0]⟩]) ≤ 128 * stageMax)

/-- The first pass of R423: the first staged write whose block is not ready, with its gate. -/
def State.firstUnready (s : State) (ctx : CtxId) : List Staged → Option (Staged × WGate)
  | [] => none
  | w :: ws =>
    match s.writeGate ctx w.pa with
    | .ready => s.firstUnready ctx ws
    | g => some (w, g)

/-- The second pass of R423: the writes perform in their order. -/
def State.commitAll (s : State) (ctx : CtxId) (core : Option CoreId) (l : List Staged) : State :=
  l.foldl (fun st w => st.commit ctx core w.pa w.bytes) s

/-- What becomes of an escaping effect (R422, R423). -/
inductive Escape
  /-- The node is escaped; the effect may perform. -/
  | go (s : State)
  /-- A block is still to be made ready. -/
  | stall (s : State)
  /-- The first pass failed at a virtual address. -/
  | fail (cause : Cause) (va : Nat)

/-- Before a node's first escaping effect every staged write performs; the node is then escaped. -/
def State.escape (s : State) (core : CoreId) (j : Job) : Escape :=
  match s.card j.cluster j.slot with
  | none => .go s
  | some x =>
    if x.escaped then .go s
    else
      match s.firstUnready j.ctx x.staged with
      | some (w, .fail c) => .fail c w.va
      | some (_, g) => .stall (s.forGate j.ctx (some core) g)
      | none =>
        .go ((s.commitAll j.ctx (some core) x.staged).setCard j.cluster j.slot
          { x with staged := [], escaped := true, escapedAt := s.time })

/-- The node's global writes are no longer staged (R333). -/
def State.nodeEscaped (s : State) (j : Job) : Bool :=
  match s.card j.cluster j.slot with
  | some x => x.escaped
  | none => true

/-- A context that is not halted: its escaping effects may perform (R133). -/
def State.live (s : State) (c : CtxId) : Bool := !(s.ctx c).killed

end Sys2Proof.Machine
end

