-- ==== Sys2Proof/Machine/Issue.lean ====
section
/-! DEFINITION. How an instruction issues: the decode checks that remain at issue (R66), the precise checks of the timed
engines (R227, R260), readiness (R42, R43, R77, R379), holds (R43, R132, R280), the comparison of commands (R78, R287),
and the shared frame of every meaning. -/

namespace Sys2Proof.Machine

/-! ## Special registers (R68) -/

/-- How an engine reaches a special register. -/
inductive SrAcc | no | ro | rw
  deriving DecidableEq, Repr

/-- The access of an engine to special register `n` (R68). -/
def srAcc (e : Eng) (n : Nat) : SrAcc :=
  if (1 ≤ n ∧ n ≤ 9) ∨ n = 0xB ∨ n = 0xC ∨ n = 0x16 ∨ n = 0x17 then .ro
  else if n = 0xA then (if e = .a then .rw else .no)
  else if n = 0xD ∨ n = 0xE then (if e = .v ∨ e = .m then .rw else .no)
  else if n = 0xF ∨ n = 0x10 then (if e = .c ∨ e = .a then .rw else .no)
  else if 0x11 ≤ n ∧ n ≤ 0x13 then (if e = .c then .rw else .no)
  else if n = 0x14 ∨ n = 0x15 then (if e = .c then .ro else .no)
  else if n = 0x18 then (if e = .v then .rw else .no)
  else if 0x20 ≤ n ∧ n ≤ 0x3F then (if e = .c then .rw else .ro)
  else .no

/-- Steps 4 and 5 of R66 for MFS and MTS. -/
def srFault (j : Job) (e : Eng) (n : Nat) (write : Bool) (w : W32) : Option (Cause × W32) :=
  if 0x100 ≤ n ∧ !j.steward then some (.privilege, w)
  else
    match srAcc e n, write with
    | .no, _ => some (.illegalOperand, w)
    | .ro, true => some (.illegalOperand, w)
    | _, _ => whenTrap (write && decide (n = 0xF) && !j.steward) .privilege w

/-! ## The decode checks of step 4 to 6 (R66) -/

/-- Step 4 and the loop rules (R66, R86): the level field, and an inner body that must end within the outer. The spec gives
TRAPVAL of LOOP_DEPTH nowhere; the model's, by a design choice (log 83), is the instruction word. -/
def loopFault (j : Job) (e : Eng) (l : Fin 4) (b : BitVec 10) (w : W32) : Option (Cause × W32) :=
  let ls := j.loops e
  if 4 ≤ ls.length then some (.loopDepth, w)
  else if l.val ≠ ls.length then some (.illegalOperand, w)
  else
    match ls with
    | [] => none
    | x :: _ => whenTrap (decide (x.last.toNat < (j.pc e).toNat + 4 * b.toNat)) .illegalOperand w

/-- R87: the count of a LOOPR. -/
def loopCount (j : Job) (e : Eng) (r : Opnd) : Nat :=
  match r with
  | .reg n => (j.reg e n).toNat
  | _ => 0

/-- The further operand checks of step 4 that an instruction has. A LOOPR whose level and count are both wrong reports the level:
the spec gives these checks no order, and the model's is a design choice (log 83). -/
def operandFault (j : Job) (e : Eng) (i : Instr) (w : W32) : Option (Cause × W32) :=
  match i with
  | .mfs _ _ n => srFault j e n.toNat false w
  | .mts _ _ n => srFault j e n.toNat true w
  | .rdv _ _ k => whenTrap (decide (e = .c) && decide (k = 0)) .illegalOperand w
  | .loop _ l b _ => loopFault j e l b w
  | .loopr _ l b r => firstOf [loopFault j e l b w,
      whenTrap (decide (2 ^ 24 < loopCount j e r)) .illegalOperand (BitVec.ofNat 32 (loopCount j e r))]
  | .acas d _ _ _ _ _ => whenTrap (match d with
      | .reg n => n.val % 2 = 1
      | _ => true) .illegalOperand w
  | .tmma _ _ a b _ | .tmmax _ _ a b _ | .tmmat _ _ a b _ => whenTrap (decide (a = b)) .illegalOperand w
  | .tmmas _ _ a b m _ => whenTrap (decide (a = b ∨ a = m ∨ b = m)) .illegalOperand w
  | .tacc _ d a => whenTrap (decide (d = a)) .illegalOperand w
  | .lbrk => whenTrap (j.loops e).isEmpty .illegalOperand w
  | _ => none

/-- Step 5: steward-only instructions in task mode (R52). -/
def privFault (j : Job) (i : Instr) (w : W32) : Option (Cause × W32) :=
  match i with
  | .preempt _ _ | .qsusp _ _ | .qres _ _ | .semmap _ _ | .tlbinvPage _ _ | .tlbinvCtx _ _ | .tlbinvAll _ _ =>
    whenTrap (!j.steward) .privilege w
  | .eret => whenTrap (!j.steward && !j.c.arch.inh) .privilege w
  | _ => none

/-- The fields of an instruction under the job's walks. -/
def fieldsOf (j : Job) (i : Instr) : List Field :=
  match i with
  | .vmov _ _ w => instrFields i (j.walkWrites w)
  | _ => instrFields i false

/-- Instructions of a skipped region have no effect (R247). -/
def Job.skipping (j : Job) (e : Eng) : Bool := decide (e = .v) && decide (0 < j.v.skip)

/-- The decode checks of R66 from step 4 on. A VMOV makes its walk checks before that of its stream; in a skipped region, where
R66's checks alone are made (R247), it makes none of them. -/
def decodeFault (j : Job) (e : Eng) (i : Instr) : Option (Cause × W32) :=
  let w := wordOf i
  let fs := fieldsOf j i
  firstOf [whenTrap (fs.any fun f => !fieldLegal f) .illegalOperand w, operandFault j e i w, privFault j i w,
    (match i with
      | .vmov _ _ k => if j.skipping e then none else vmovWalkFault j k
      | _ => none),
    streamFault j e fs]

/-! ## The other precise checks of a timed instruction -/

/-- The target take of an AT (R80). -/
def atTarget (j : Job) (e : Eng) (d : Opnd) (n : BitVec 16) : W32 :=
  match d with
  | .reg r => (j.reg e r).setWidth 32 + n.setWidth 32
  | _ => 0

/-- A word that no skipped region may hold: AT, SLATE, RDV, LOOP or LOOPR (R246). -/
def barredInRegion (w : W32) : Bool := decide (2 ≤ w.toNat / 67108864 ∧ w.toNat / 67108864 ≤ 6)

/-- The page wait of an engine's fetch or access at an address (R379). -/
def Job.pageAt (j : Job) (e : Eng) (va : Nat) : Option PageWait :=
  j.pages.find? fun p => decide (p.user = .eng e) && decide (p.va / 4096 = va / 4096)

/-- The fetch of an engine at an address: one whose page request has no answer waits, whatever the TLBs have come to hold
(R378, R379). -/
def State.fetchFor (s : State) (c : CoreId) (j : Job) (e : Eng) (pc : VAddr) : Fetch :=
  match j.pageAt e pc.toNat with
  | some p => if p.tag.isSome then .walk else s.fetch c j pc
  | none => s.fetch c j pc

/-- Scans the words of a region: a barred word was found, or a word is not at hand yet (R246). A word that its page forbids or
that is poisoned raises its trap when the skipped region reaches it. -/
def regionScan (s : State) (c : CoreId) (j : Job) : VAddr → Nat → Bool × Option (VAddr × Fetch)
  | _, 0 => (false, none)
  | pc, n + 1 =>
    match s.fetchFor c j .v pc with
    | .word w => if barredInRegion w then (true, none) else regionScan s c j (pc + 4) n
    | .walk => (false, some (pc, .walk))
    | .fill f => (false, some (pc, .fill f))
    | .draw => (false, some (pc, .draw))
    | _ => regionScan s c j (pc + 4) n

/-- The region check of VSKIP (R246). -/
def regionFault (s : State) (c : CoreId) (j : Job) (n : BitVec 16) : Option (Cause × W32) :=
  let leaves := match j.v.loops with
    | [] => false
    | l :: _ => decide (l.last.toNat < j.v.pc.toNat + 4 * n.toNat)
  whenTrap (leaves || (regionScan s c j (j.v.pc + 4) n.toNat).1) .illegalOperand (n.setWidth 32)

/-- The least count from take `b` on: `t` has reached `b`. -/
def reached (t b : W32) : Bool := decide ((t - b).toNat < 2 ^ 31)

/-- What a timed engine would issue in this cycle. -/
inductive Due
  | no
  | fetch
  | word (w : W32)
  deriving DecidableEq, Repr

/-- The engine may issue: it is present, runs, and has neither issued in this cycle nor raised a trap. -/
def Job.free (j : Job) (e : Eng) : Bool :=
  j.has e && decide (j.wait e = .run) && !j.acted e && !j.trapped e

/-- The timed instruction due in this cycle (R39). A word that is not at hand holds from take T + OCC on (R379). -/
def State.due (s : State) (c : CoreId) (j : Job) (e : Eng) : Due :=
  if !j.free e || !reached j.take (j.base e) then .no
  else
    match s.fetchFor c j e (j.pc e) with
    | .word w => if j.take = j.base e + BitVec.ofNat 32 (bitsAt w.toNat 23 3) then .word w else .no
    | .walk | .fill _ | .draw => .fetch
    | _ => .no

/-- The job with the claim of a VMOV of V that is due at the same take: V's instruction counts as having issued first, though it may
still be held (R150). -/
def State.withDue (s : State) (c : CoreId) (j : Job) : Job :=
  match s.due c j .v with
  | .word w =>
    match decode .v w with
    | .ok (.vmov _ _ k) => if j.skipping .v then j else j.claim .v (wantAddrs (vmovWants s c j k))
    | _ => j
  | _ => j

/-- The precise checks of a timed instruction beyond R66 (R80, R227 step 2, R260 steps 2 to 6). -/
def timedFault (s : State) (c : CoreId) (j : Job) (e : Eng) (i : Instr) : Option (Cause × W32) :=
  let passed := match i with
    | .atTake _ d n =>
      let x := atTarget j e d n
      whenTrap (decide (2 ^ 31 ≤ (x - j.take).toNat)) .schedMiss x
    | _ => none
  match e with
  | .v =>
    match i with
    | .vmpush _ _ _ => whenTrap (decide (8 ≤ j.v.masks.length)) .maskDepth (wordOf i)
    | .vskip _ n => regionFault s c j n
    | .vmov _ _ w => vmovRowFault s c j w
    | _ => passed
  | .m => firstOf [mCheck s c (s.withDue c j) i, passed]
  | _ => none

/-- The precise traps of an instruction, found before its readiness (R67, R132). -/
def preciseFault (s : State) (c : CoreId) (j : Job) (e : Eng) (i : Instr) : Option (Cause × W32) :=
  if j.skipping e then decodeFault j e i else firstOf [decodeFault j e i, timedFault s c j e i]

/-! ## Readiness -/

/-- The rows that an instruction counts through its walks, in the order of R127. -/
def walkNeeds (s : State) (c : CoreId) (j : Job) (i : Instr) : List (Fin 8 × Nat) :=
  match i with
  | .vmov _ _ w => [(w, 1)]
  | _ => if (mWalks i).isEmpty then [] else (mWindow s c j i).needs

/-- How many index rows a gather or scatter pops (R209). -/
def idxRows (i : Instr) : Nat :=
  match i with
  | .ggath z _ _ _ _ | .gscat z _ _ _ _ =>
    match z with
    | .s8 | .n8 => 4
    | .s16 | .n16 => 2
    | _ => 1
  | _ => 1

/-- What is not ready: a stream field or a walk. -/
inductive Unready
  | field (f : Field)
  | walk (w : Fin 8)
  deriving DecidableEq, Repr

/-- The first operand that is not ready (R42, R127, R153). -/
def unready (s : State) (c : CoreId) (j : Job) (i : Instr) : Option Unready :=
  let fs := match i with
    -- AFILL and ADRAIN test their stream row by row (R203)
    | .afill _ _ _ | .adrain _ _ _ => []
    | _ => fieldsOf j i
  match notReady j (idxRows i) fs fs with
  | some f => some (.field f)
  | none => ((walkNeeds s c j i).find? fun x => !j.walkReady x.1 x.2).map fun x => .walk x.1

/-- TRAPVAL of a SCHED_MISS for want of readiness (R127). -/
def unreadyVal : Unready → W32
  | .field f => match f.opnd with
    | .q q => BitVec.ofNat 32 (qCode q + 256 * f.no)
    | _ => 0
  | .walk w => BitVec.ofNat 32 (w.val + 256 * 3)

/-- A page request of a stream of the job is outstanding (R379); a copy command's holds only that command. -/
def Job.pageHold (j : Job) : Bool :=
  j.pages.any fun p => p.tag.isSome && match p.user with
    | .eng _ => true
    | .copy _ => false

/-- A stream that A produces, or a tracked walk that A fills, while a page request of the job is outstanding (R379). -/
def Job.affected (j : Job) (u : Unready) : Bool :=
  j.pageHold && match u with
    | .field f => match f.opnd with
      | .q q => match (j.stream q).bind with
        | some b => b.prod = .a
        | none => false
      | _ => false
    | .walk w => match (j.walk w).record with
      | some r => !r.dir
      | none => false

/-- The value of a scalar source before it is read. -/
def Job.peek (j : Job) (e : Eng) (a : Opnd) : W64 :=
  match a with
  | .reg n => j.reg e n
  | .q q => (j.stream q).head.setWidth 64
  | .bad _ => 0

/-- The level is an approximate twin (R344). -/
def isTwin (lvl : Nat) : Bool := lvl % 2 = 1

/-- A TCFG that waits for its island to leave the twin point (R262). -/
def twinHold (s : State) (c : CoreId) (j : Job) (i : Instr) : Bool :=
  match i with
  | .tcfg _ a f =>
    decide (f = 0) && isTwin (s.level c) && decide (bitsAt j.m.tcfg[0].toNat 0 2 ≠ 0)
      && decide (bitsAt (j.peek .m a).toNat 0 2 = 0)
  | _ => false

/-- A VSKIP whose region is not at hand waits as for its own word. -/
def regionHold (s : State) (c : CoreId) (j : Job) (i : Instr) : Bool :=
  match i with
  | .vskip _ n => (regionScan s c j (j.v.pc + 4) n.toNat).2.isSome
  | _ => false

/-- W of a timed word. -/
def waitBit (i : Instr) : Bool := bitsAt (wordOf i).toNat 22 1 = 1

/-- What readiness makes of a timed instruction (R43, R379): it may issue, it holds the job, or it misses. -/
inductive Ready
  | ok
  | hold
  | miss (val : W32)
  deriving DecidableEq, Repr

/-- Readiness of a timed instruction. -/
def timedReady (s : State) (c : CoreId) (j : Job) (i : Instr) : Ready :=
  if regionHold s c j i then .hold
  else
    match unready s c j i with
    | some u => if waitBit i || j.affected u then .hold else .miss (unreadyVal u)
    | none => if twinHold s c j i then .hold else .ok

/-! ## Holds -/

/-- M is at a pre-emption point (R278), or the job has none: a quiescent boundary, or a wait point. No issued M instruction has
a row access still to make. -/
def Job.mPoint (j : Job) : Bool :=
  !j.hasM ||
    (j.m.flights.all MFlight.idle &&
      (decide (j.m.wait = .final) || (match j.m.wait with
        | .slate _ _ _ | .rdv _ _ _ => true
        | _ => false)
      || (reached j.take j.m.base && decide (j.m.unchk = 0))
      || (!reached j.take j.m.base && decide (128 ≤ (j.m.base - j.take).toNat))))

/-- The stop take has been reached: the job is held and its elastic streams stop (R438). -/
def Job.atStop (j : Job) : Bool := j.stopping && j.mPoint

/-- The job waits at a slate or rendezvous with this engine. -/
def Job.meets (j : Job) (e : Eng) : Bool :=
  j.has e && match j.wait e with
    | .slate _ _ _ | .rdv _ _ _ => true
    | _ => false

/-- The bit of RDV's mask that names an engine (R83). -/
def maskHas (m : BitVec 4) : Eng → Bool
  | .c => m.getLsbD 3
  | .a => m.getLsbD 2
  | .v => m.getLsbD 1
  | .m => m.getLsbD 0

/-- Every engine named beside `e` that is present waits at the rendezvous (R84). -/
def rdvMet (j : Job) (e : Eng) (k : BitVec 6) (m : BitVec 4) : Bool :=
  [Eng.c, .a, .v, .m].all fun x =>
    decide (x = e) || !maskHas m x || !j.has x || match j.wait x with
      | .rdv k' m' _ => decide (k' = k ∧ m' = m)
      | _ => false

/-- The instruction meets other streams, so that their waits for it keep it from nothing (R40, R84). -/
def isMeet (i : Instr) : Bool :=
  match i with
  | .slate _ _ _ => true
  | .rdv _ _ k => decide (k ≠ 0)
  | _ => false

/-- The instruction waits at a slate or a rendezvous that is not complete with it. -/
def isSync (j : Job) (e : Eng) (i : Instr) : Bool :=
  match i with
  | .slate _ _ _ => true
  | .rdv _ m k => decide (k ≠ 0) && !rdvMet j e k m
  | _ => false

/-- A due instruction of the engine adds a hold in this cycle (R280 step 3); `sync` leaves out slates and
rendezvous, which instructions of their own kind reach together. -/
def State.adds (s : State) (c : CoreId) (j : Job) (e : Eng) (sync : Bool) : Bool :=
  (!sync && j.meets e) ||
  match s.due c j e with
  | .no => false
  | .fetch => true
  | .word w =>
    match decode e w with
    | .error _ => false
    | .ok i =>
      !j.skipping e && (preciseFault s c j e i).isNone &&
        (decide (timedReady s c j i = .hold) || (!sync && isSync j e i))

/-- The cores of the job's gang; the job's own core outside a gang (R311). -/
def State.members (s : State) (c : CoreId) (j : Job) : List CoreId :=
  match s.card j.cluster j.slot with
  | some x => if c ∈ x.cores then x.cores else [c]
  | none => [c]

/-- The job is at its stop take, or a hold of it, or of a member of its gang that has not stopped, is in force (R280 step 2,
R313, R438). -/
def State.holdOn (s : State) (c : CoreId) (j : Job) : Bool :=
  j.hold || j.atStop || (s.members c j).any fun d =>
    match s.job d with
    | none => false
    | some x => !x.atStop && x.hold

/-- A hold is in force for a timed engine of the job, or an instruction of the same take adds one (R132, R280, R313). -/
def State.heldFor (s : State) (c : CoreId) (j : Job) (e : Eng) (sync : Bool) : Bool :=
  s.holdOn c j ||
  (s.members c j).any fun d =>
    match s.job d with
    | none => false
    | some x => !x.atStop && ([Eng.v, .m].any fun y => !(decide (d = c) && decide (y = e)) && s.adds d x y sync)

/-- The job is held in this cycle: what its end counts (R38, R280 step 6). -/
def State.heldNow (s : State) (c : CoreId) (j : Job) : Bool :=
  s.holdOn c j ||
  (s.members c j).any fun d =>
    match s.job d with
    | none => false
    | some x => !x.atStop && ([Eng.v, .m].any fun y => s.adds d x y false)

/-- A row write of a VMOV lands in the group of an address in this cycle, held or not (R226, R255). -/
def Job.storeBusy (j : Job) (a : Nat) : Bool := j.v.stores.any fun x => decide (x.left = 0) && decide (groupOf x.addr = groupOf a)

/-- A yielding access of the core to an address waits in this cycle: its group serves a timed access (R149). A held job
makes none beside the landing writes of VMOV (R226, R259). -/
def State.yields (s : State) (c : CoreId) (j : Job) (a : Nat) : Bool := j.storeBusy a || (j.groupBusy a && !s.heldNow c j)

/-! ## Compared commands (R78, R287) -/

/-- The continuity core compares the instruction before it issues (R78). -/
def compared (i : Instr) (fs : List Field) : Bool :=
  match i with
  | .sig _ _ | .endJob _ | .phase _ | .varreg _ _ | .thrack _ | .yield | .preempt _ _ | .qsusp _ _ | .qres _ _
  | .semmap _ _ | .drainm _ _ | .rseed _ _ => true
  | _ => pushes fs

/-- The instruction waits for the continuity core; profiles other than FULL issue at once (R431). -/
def Job.waits (j : Job) (i : Instr) (fs : List Field) : Bool := decide (j.prof = 0) && compared i fs

/-- The comparison is still to come (R287). -/
def Job.uncompared (j : Job) (i : Instr) (fs : List Field) : Bool :=
  j.waits i fs && !(match j.c.cmp with
    | some x => x.agreed
    | none => false)

/-! ## The gate -/

/-- What becomes of an instruction in its turn. -/
inductive Gate
  | trap (cause : Cause) (val : W32)
  | stay
  | skip
  | compare
  | go
  deriving DecidableEq, Repr

/-- The operand values of TSHAPE and TCHK, which are tested once they are ready, whether or not the job is held (R260, R280). -/
def valueFault (j : Job) (i : Instr) : Option (Cause × W32) :=
  let x := fun n => ((readFields j (fieldsOf j i)).2.getD n (.reg 0)).scalar 32 (j.reg .m)
  match i with
  | .tshape _ _ _ _ =>
    whenTrap ([x 0, x 1, x 2].any fun v => decide (v.toNat = 0 ∨ 64 < v.toNat)) .illegalOperand 0x101
  | .tchk _ _ _ f => whenTrap (decide (f = 3 ∨ f = 7) && decide ((x 0).toNat / 32768 ≠ 0)) .illegalOperand 0x106
  | _ => none

/-- Decides whether an instruction issues in this cycle (R67, R77, R132, R227, R247, R260, R280, R287). A compared command waits
for its comparison from the cycle in which C first reaches it, ready or not. -/
def gate (s : State) (c : CoreId) (j : Job) (e : Eng) (i : Instr) : Gate :=
  match preciseFault s c j e i with
  | some (cause, val) => .trap cause val
  | none =>
    if e.elastic then
      if decide (e = .c) && j.waits i (fieldsOf j i) && ((unready s c j i).isSome || j.uncompared i (fieldsOf j i)) then .compare
      else if (unready s c j i).isSome then .stay
      else .go
    else if j.skipping e then (if s.heldFor c j e false then .stay else .skip)
    else
      match timedReady s c j i with
      | .miss v => .trap .schedMiss v
      | .hold => .stay
      | .ok =>
        match valueFault j i with
        | some (cause, val) => .trap cause val
        | none => if s.heldFor c j e (isMeet i) then .stay else .go

/-- C stands at a compared command, which reached the head of the outward queue when it first did so (R287); `stalled` says that
an operand of it is not ready. -/
def Job.reach (j : Job) (stalled : Bool) : Job :=
  { j with c := { j.c with cmp := some (match j.c.cmp with
    | some x => { x with stalled }
    | none => { reach := j.cyc, stalled, agreed := false }) } }

/-- An instruction of C issues: its comparison is over, and its step is recorded when it comes to its end (R285, R287). -/
def Job.begun (j : Job) (e : Eng) (i : Instr) : Job :=
  if decide (e = .c) && decide (j.prof = 0) then
    { j with c := { j.c with cur := some (j.c.arch.pc, .instr i, compared i (fieldsOf j i)), cmp := none } }
  else j

/-- An M instruction issues: RDEPTH and its greatest value (R275, R277). -/
def Job.deepen (j : Job) (e : Eng) : Job :=
  match e with
  | .m => { j with m := { j.m with rdepth := j.m.depth + 1, depthMax := Nat.max j.m.depthMax (j.m.depth + 1) } }
  | _ => j

/-- A skipped instruction keeps its issue take and its occupancy (R247). -/
def Job.skipOne (j : Job) (occ : Nat) : Job :=
  { j with v := { j.v with skip := j.v.skip - 1 } }.done .v occ

/-- Raises a trap of C for a fetch of any stream; its stop record carries the fetch address (R134, R379). -/
def Job.raiseFetch (j : Job) (cause : Cause) (pc : VAddr) : Job :=
  { j with raised := j.raised ++
      [{ eng := .c, cause, val := pc.setWidth 32, pc, classC := causeClass cause = .c, addr := 0 }] }

/-- A fetch at an address that found no word: it waits, or raises a trap (R373, R375, R379, R416). -/
def State.fetchMissAt (s : State) (c : CoreId) (j : Job) (e : Eng) (pc : VAddr) (f : Fetch) : State :=
  match f with
  | .word _ | .draw => s
  | .walk =>
    if (j.pageAt e pc.toNat).any fun p => p.tag.isSome then s
    else s.needWalk (coreClu c) j.part j.ctx pc.toNat (.access c e 3)
  | .fill frame => s.needFill { frame, ctx := j.ctx, core := some c, quiet := false }
  | .forbidden => s.setJob c (j.raiseFetch .protection pc)
  | .poison cause => s.setJob c (j.raiseFor e cause pc.toNat)

/-- A fetch of an engine at its program counter that found no word. -/
def State.fetchMiss (s : State) (c : CoreId) (j : Job) (e : Eng) (f : Fetch) : State := s.fetchMissAt c j e (j.pc e) f

/-- Asks for the first word of a region that is not at hand. -/
def State.fetchRegion (s : State) (c : CoreId) (j : Job) (i : Instr) : State :=
  match i with
  | .vskip _ n =>
    match (regionScan s c j (j.v.pc + 4) n.toNat).2 with
    | some (pc, f) => s.fetchMissAt c j .v pc f
    | none => s
  | _ => s

/-- The outcome of every step. -/
abbrev Res := Host.Outcome State Fault Refusal

/-- Runs an instruction of engine `e` on the core in turn: it needs a stream there. -/
def withJob (s : State) (e : Eng) (k : CoreId → Job → State) : Res :=
  match s.job s.turnCore with
  | none => .fault .noStream
  | some j => if j.has e then .next (k s.turnCore j) else .fault .noStream

/-- Marks that C has entered a hold for a twin point (R262). -/
def Job.markTwin (j : Job) (b : Bool) : Job := { j with twinWait := j.twinWait || b }

/-- The instruction forms its address on the address adders of A (R293). -/
def addsAddress : Instr → Bool
  | .ald _ _ _ _ | .ast _ _ _ _ | .ard _ _ _ | .awr _ _ _ | .rld _ _ _ _ | .rst _ _ _ _ | .samo _ _ _ _ _ _ | .gld _ _ _ _ _
  | .gst _ _ _ _ _ | .ggath _ _ _ _ _ | .gscat _ _ _ _ _ | .aamo _ _ _ _ _ _ _ | .acas _ _ _ _ _ _
  | .aswp _ _ _ _ _ _ | .wset _ _ _ | .binit _ _ _ | .barr _ _ | .bwait _ _ _ | .btest _ _ _ | .pref _ _ _ _ => true
  | _ => false

/-- A fault of a core's address adders. -/
def atAdder : FaultKind → Bool
  | .addressAdder _ => true
  | _ => false

/-- The core holds a fault of a kind that no check has met (R432). -/
def Core.faulty (x : Core) (p : FaultKind → Bool) : Bool := x.latent.any p

/-- The core without its faults of a kind. -/
def Core.sound (x : Core) (p : FaultKind → Bool) : Core := { x with latent := x.latent.filter fun k => !p k }

/-- The address adders of a core hold a fault that no check has met (R432). -/
def Core.adderFault (x : Core) : Bool := x.faulty atAdder

/-- The core without its address-adder fault. -/
def Core.clearAdder (x : Core) : Core := x.sound atAdder

/-- A's residue check meets a fault of its address adders: RESIDUE before the access, TRAPVAL the instruction's address
(R293). BASIC makes no such check (R431). -/
def State.adderTrap (s : State) (c : CoreId) (j : Job) (i : Instr) : Bool :=
  addsAddress i && decide (j.prof ≠ 2) && (s.core c).adderFault

/-- The frame of every instruction with a word: the gate, then its effect. `occ` is its occupancy in a skipped region. -/
def issueState (s : State) (e : Eng) (i : Instr) (occ : Nat) (eff : State → CoreId → Job → State)
    (c : CoreId) (j : Job) : State :=
  match gate s c j e i with
  | .trap cause val => s.setJob c (j.raise e cause val)
  | .stay => (s.setJob c (j.markTwin ((unready s c j i).isNone && twinHold s c j i))).fetchRegion c j i
  | .skip => s.setJob c (j.skipOne occ)
  | .compare => s.setJob c (j.reach (unready s c j i).isSome)
  | .go =>
    if s.adderTrap c j i then
      State.setJob (s.setCore c (s.core c).clearAdder) c (j.raiseFor e .residue (j.pc e).toNat)
    else eff s c ((j.begun e i).deepen e)

/-- As `issueState`, on the core in turn. -/
def issue (s : State) (e : Eng) (i : Instr) (occ : Nat) (eff : State → CoreId → Job → State) : Res :=
  withJob s e (issueState s e i occ eff)

/-- An instruction whose effect stays in its job: `f` takes the job with the sources read, and what was read. -/
def issueJob (s : State) (e : Eng) (i : Instr) (occ : Nat) (f : Job → List Val → Job) : Res :=
  issue s e i occ fun s c j =>
    let (j1, vs) := readFields j (fieldsOf j i)
    s.setJob c ((f j1 vs).done e occ)

/-- The `n`-th source that was read. -/
def argAt (vs : List Val) (n : Nat) : Val := vs.getD n (.reg 0)

end Sys2Proof.Machine
end

