-- ==== Sys2Proof/Machine/Control.lean ====
section
/-! DEFINITION. Waiting, meeting, loops, branches and calls (R40, R47-R50, R79-R91, R102). -/

namespace Sys2Proof.Machine

/-! ## NOP, IDLE, AT (R79, R80) -/

/-- NOP: no effect (R79). -/
def execNop (t : Tm) (s : State) : Res := issueJob s s.turnEng (.nop t) 1 fun j _ => j

/-- The cycles that an IDLE waits (R79). -/
def idleTime (n : BitVec 16) : Nat := Nat.max n.toNat 1

/-- IDLE: an elastic stream issues nothing for max(n, 1) cycles; a timed one has that occupancy (R79). -/
def execIdle (t : Tm) (n : BitVec 16) (s : State) : Res :=
  issueJob s s.turnEng (.idle t n) (idleTime n) fun j _ =>
    if s.turnEng.elastic then j.setWait s.turnEng (.idle (idleTime n)) else j

/-- The occupancy of an AT whose target has not passed (R80). -/
def atOcc (take x : W32) : Nat := Nat.max (x - take).toNat 1

/-- AT: the next instruction issues at the target take and its idle count (R80). -/
def execAtTake (t : Tm) (d : Opnd) (n : BitVec 16) (s : State) : Res :=
  issue s s.turnEng (.atTake t d n) 1 fun s c j =>
    s.setJob c (j.done s.turnEng (atOcc j.take (atTarget j s.turnEng d n)))

/-! ## SLATE (R40, R81) -/

/-- An arrival at a slate: core, member, engine, identifier and cycle. -/
structure Arrival where
  core : CoreId
  member : Nat
  eng : Eng
  id : BitVec 9
  since : Nat
  deriving DecidableEq, Repr

/-- The order C, A, V, M of engines (R40, R132). -/
def engOrd : Eng → Nat
  | .c => 0
  | .a => 1
  | .v => 2
  | .m => 3

/-- Every engine in that order. -/
def allEngs : List Eng := [.c, .a, .v, .m]

/-- The job's arrivals at slates of one scope. -/
def arrivalsOf (c : CoreId) (j : Job) (group : Bool) : List Arrival :=
  allEngs.filterMap fun e =>
    if j.has e then
      match j.wait e with
      | .slate g id since => if g = group then some ⟨c, j.member.val, e, id, since⟩ else none
      | _ => none
    else none

/-- Streams of the job that join a slate. -/
def Job.streamCount (j : Job) : Nat := (allEngs.filter fun e => j.has e).length

/-- The cores that a slate of a job reaches (R40, R81). -/
def State.reach (s : State) (c : CoreId) (j : Job) (group : Bool) : List CoreId :=
  if group then s.members c j else [c]

/-- The jobs of a list of cores. -/
def State.jobsOf (s : State) (l : List CoreId) : List (CoreId × Job) :=
  l.filterMap fun c => (s.job c).map fun j => (c, j)

/-- `a` comes before `b` among arrivals of one cycle. -/
def arrBefore (a b : Arrival) : Bool :=
  decide (engOrd a.eng < engOrd b.eng) || (decide (engOrd a.eng = engOrd b.eng) && decide (a.member < b.member))

/-- The first arrival. -/
def firstArr : List Arrival → Option Arrival
  | [] => none
  | a :: as =>
    match firstArr as with
    | none => some a
    | some b => if b.since < a.since || (b.since = a.since && arrBefore b a) then some b else some a

/-- The last arrival; of several, the first in order (R40). -/
def lastArr : List Arrival → Option Arrival
  | [] => none
  | a :: as =>
    match lastArr as with
    | none => some a
    | some b => if a.since < b.since || (b.since = a.since && arrBefore b a) then some b else some a

/-- A stream leaves its slate or rendezvous (R33, R40): it goes on after it, and for C it is a take boundary (R286). -/
def Job.leave (j : Job) (e : Eng) : Job :=
  let j1 := ((j.next e).setWait e .run).act e
  match e with
  | .c => j1.traceC.boundary
  | _ => j1

/-- The first timed instruction after a slate issues at take IDL (R39). -/
def Job.rebase (j : Job) (t : W32) : Eng → Job
  | .v => { j with v := { j.v with base := t } }
  | .m => { j with m := { j.m with base := t } }
  | _ => j

/-- A slate releases the job: TAKE is 0 from the next cycle, the bank formats and a pending seed take effect (R40, R124,
R147). An elastic arrival that ends a timed wait leaves this cycle held (R280). -/
def Job.release (j : Job) (late : Bool) : Job :=
  let held := j.hold || (late && (j.meets .v || j.meets .m))
  let j1 := allEngs.foldl (fun x e => if x.has e then (x.leave e).rebase 0 e else x) j
  { j1 with
    take := 0, zeroed := true, hold := held, tfmt := j1.fmt
    rseed := j1.nseed.getD j1.rseed, nseed := none }

/-- The slate of these cores, once every stream has arrived: release, or SCHED_MISS where identifiers differ (R40). While a job of
them is held at its stop take, where TAKE stays, it meets nothing (R438). -/
def State.slateMeet (s : State) (cores : List CoreId) (group late : Bool) : State :=
  let js := s.jobsOf cores
  let arr := js.flatMap fun x => arrivalsOf x.1 x.2 group
  if arr.length < (js.map fun x => x.2.streamCount).foldl (· + ·) 0 || js.any fun x => x.2.atStop then s
  else
    match firstArr arr, lastArr arr with
    | some a, some b =>
      if arr.all fun x => x.id = a.id then
        js.foldl (fun st x => st.setJob x.1 (x.2.release late)) s
      else
        match s.job b.core with
        | some j => s.setJob b.core (j.raise b.eng .schedMiss (a.id.setWidth 32 ||| (b.id.setWidth 32 <<< 16)))
        | none => s
    | _, _ => s

/-- A scratchpad write that A has posted to its own core has not been made (R282). -/
def AEng.ownPosted (a : AEng) (c : CoreId) : Bool :=
  a.posted.any fun p => match p with
    | .scratch k _ _ _ _ _ => decide (k = c)
    | _ => false

/-- SLATE: the stream waits until the slate releases (R40, R81). A arrives only when its scratchpad writes to its own
core have been made (R282). -/
def execSlate (t : Tm) (g : Bool) (k : BitVec 9) (s : State) : Res :=
  issue s s.turnEng (.slate t g k) 1 fun s c j =>
    let e := s.turnEng
    if decide (e = .a) && j.a.ownPosted c then s else
    let group := g && decide (2 ^ 31 ≤ j.domain.toNat)
    let s1 := s.setJob c ((j.setWait e (.slate group k j.cyc)).act e)
    s1.slateMeet (s1.reach c j group) group e.elastic

/-! ## RDV (R33, R34, R83, R84) -/

/-- A stream that waits at a rendezvous of identifier `k` with another mask, where one of the two masks names the other's stream
(R84). Of several it is the first in the order C, A, V, M: the spec does not say which, and the choice is the model's (log 84). -/
def rdvClash (j : Job) (e : Eng) (k : BitVec 6) (m : BitVec 4) : Option (Eng × BitVec 4 × Nat) :=
  firstOf (allEngs.map fun x =>
    if x ≠ e ∧ j.has x then
      match j.wait x with
      | .rdv k' m' since => if k' = k ∧ m' ≠ m ∧ (maskHas m x ∨ maskHas m' e) then some (x, m', since) else none
      | _ => none
    else none)

/-- Marks which posted accesses of A precede its rendezvous with C (R105). -/
def Job.markMeet (j : Job) (m : BitVec 4) : Job :=
  if maskHas m .c ∧ maskHas m .a then { j with a := { j.a with beforeMeet := j.a.posted.length } } else j

/-- The rendezvous completes: every named stream leaves; a timed one goes on at take T + 1 (R84). -/
def Job.rdvRelease (j : Job) (m : BitVec 4) (late : Bool) : Job :=
  let held := j.hold ||
    (late && ((maskHas m .v && j.meets .v) || (maskHas m .m && j.meets .m)))
  let j1 := allEngs.foldl (fun x e => if maskHas m e && x.has e then (x.leave e).rebase (x.take + 1) e else x) j
  { j1.markMeet m with hold := held }

/-- A mask that names this engine alone, or none. -/
def maskAlone (m : BitVec 4) (e : Eng) : Bool := allEngs.all fun x => decide (x = e) || !maskHas m x

/-- A stream arrives at a rendezvous with a non-zero identifier. One whose mask names it alone completes at once. At the stop take
the job is held, and it completes none with another stream (R438). -/
def Job.rdvArrive (j : Job) (e : Eng) (k : BitVec 6) (m : BitVec 4) : Job :=
  let j1 := (j.setWait e (.rdv k m j.cyc)).act e
  if maskAlone m e then j1.rdvRelease m e.elastic else
  match rdvClash j e k m with
  | some (x, m', since) =>
    if since < j.cyc ∨ engOrd e < engOrd x then
      j1.raise e .schedMiss (m.setWidth 32 ||| (m'.setWidth 32 <<< 16))
    else j1.raise x .schedMiss (m'.setWidth 32 ||| (m.setWidth 32 <<< 16))
  | none => if rdvMet j e k m && !j.atStop then j1.rdvRelease m e.elastic else j1

/-- The rendezvous that its stop found complete completes once the job runs again (R438). -/
def Job.rdvAgain (j : Job) : Job :=
  allEngs.foldl (fun x e =>
    match x.wait e with
    | .rdv k m _ => if x.has e && rdvMet x e k m then x.rdvRelease m false else x
    | _ => x) j

/-- The meetings that the stop of these jobs found complete, in each job and in their gang, complete (R438, R444). -/
def State.meetAgain (s : State) (cores : List CoreId) : State :=
  let s1 := (s.jobsOf cores).foldl (fun st x => (st.setJob x.1 x.2.rdvAgain).slateMeet [x.1] false false) s
  s1.slateMeet cores true false

/-- RDV: a meeting of the named streams; identifier 0 ends the stream (R34, R83, R84). -/
def execRdv (t : Tm) (m : BitVec 4) (k : BitVec 6) (s : State) : Res :=
  issue s s.turnEng (.rdv t m k) 1 fun s c j =>
    let e := s.turnEng
    s.setJob c (if k = 0 then (j.setWait e .final).act e else j.rdvArrive e k m)

/-! ## Loops (R85-R88) -/

/-- Where a LOOP goes on, and the levels it leaves (R86). -/
def loopFlow (n : Nat) (b : BitVec 10) (p : VAddr) (ls : List LoopLvl) : VAddr × List LoopLvl :=
  let last := p + BitVec.ofNat 48 (4 * b.toNat)
  if n = 0 then backEdge last (last + 4) ls else (p + 4, { first := p + 4, last, left := n } :: ls)

/-- LOOP: starts a level of `n` iterations over the next `b` words (R85, R86). -/
def execLoop (t : Tm) (l : Fin 4) (b : BitVec 10) (n : BitVec 10) (s : State) : Res :=
  issue s s.turnEng (.loop t l b n) 1 fun s c j =>
    s.setJob c ((j.flow s.turnEng (loopFlow n.toNat b)).issued s.turnEng 1)

/-- The flow of an engine, where it depends on a scalar register. -/
def Job.flowBy (j : Job) (e : Eng) (f : (Fin 32 → W64) → VAddr → List LoopLvl → VAddr × List LoopLvl) : Job :=
  match e with
  | .c => { j with c := j.c.upd fun a => { a with pc := (f a.get a.pc a.loops).1, loops := (f a.get a.pc a.loops).2 } }
  | e => j.flow e (f (j.reg e))

/-- LOOPR: as LOOP, with the count in a register (R87). -/
def execLoopr (t : Tm) (l : Fin 4) (b : BitVec 10) (r : Opnd) (s : State) : Res :=
  issue s s.turnEng (.loopr t l b r) 1 fun s c j =>
    s.setJob c ((j.flowBy s.turnEng fun get => loopFlow (match r with
      | .reg n => (get n).toNat
      | _ => 0) b).issued s.turnEng 1)

/-- LBRK: ends the innermost level and goes on after its last word, by way of the next level's back-edge (R88). -/
def lbrkFlow (p : VAddr) : List LoopLvl → VAddr × List LoopLvl
  | [] => (p + 4, [])
  | l :: ls => backEdge l.last (l.last + 4) ls

/-- LBRK (R88). -/
def execLbrk (s : State) : Res :=
  issue s s.turnEng .lbrk 1 fun s c j => s.setJob c ((j.flow s.turnEng lbrkFlow).issued s.turnEng 1)

/-! ## Branches (R89, R102) -/

/-- The target of a branch with a 16-bit offset (R55). -/
def target16 (o : BitVec 16) (p : VAddr) : VAddr := p + (o.signExtend 48 <<< 2)

/-- The target of a branch with a 23-bit offset (R55). -/
def target23 (o : BitVec 23) (p : VAddr) : VAddr := p + (o.signExtend 48 <<< 2)

/-- A branch that is taken or not. -/
def branchIf (b : Bool) (t p : VAddr) (ls : List LoopLvl) : VAddr × List LoopLvl :=
  if b then branchTo t ls else backEdge p (p + 4) ls

/-- BR: always branches (R89). -/
def execBr (o : BitVec 23) (s : State) : Res :=
  issue s s.turnEng (.br o) 1 fun s c j =>
    s.setJob c ((j.flow s.turnEng fun p ls => branchTo (target23 o p) ls).issued s.turnEng 1)

/-- A branch on the value of A. -/
def branchVal (i : Instr) (o : BitVec 16) (test : W64 → Bool) (s : State) : Res :=
  issue s s.turnEng i 1 fun s c j =>
    let e := s.turnEng
    let (j1, vs) := readFields j (fieldsOf j i)
    let f := fun (get : Fin 32 → W64) (p : VAddr) ls =>
      branchIf (test (((argAt vs 0).scalar (engWidth e) get).setWidth 64)) (target16 o p) p ls
    s.setJob c ((j1.flowBy e f).issued e 1)

/-- BZ: branches when A is 0 (R89). -/
def execBz (a : Opnd) (o : BitVec 16) (s : State) : Res := branchVal (.bz a o) o (fun x => x == 0) s

/-- BNZ: branches when A is not 0 (R89). -/
def execBnz (a : Opnd) (o : BitVec 16) (s : State) : Res := branchVal (.bnz a o) o (fun x => x != 0) s

/-- A branch on a predicate of C. -/
def branchPred (i : Instr) (p : Fin 8) (o : BitVec 16) (sense : Bool) (s : State) : Res :=
  issue s .c i 1 fun s c j =>
    let c1 := j.c.upd fun a =>
      let r := branchIf (a.pred p == sense) (target16 o a.pc) a.pc a.loops
      { a with pc := r.1, loops := r.2 }
    s.setJob c (({ j with c := c1 } : Job).issued .c 1)

/-- BP: branches when the predicate is true (R102). -/
def execBp (p : Fin 8) (o : BitVec 16) (s : State) : Res := branchPred (.bp p o) p o true s

/-- BNP: branches when the predicate is false (R102). -/
def execBnp (p : Fin 8) (o : BitVec 16) (s : State) : Res := branchPred (.bnp p o) p o false s

/-! ## The return-address store (R48-R50) -/

/-- The store of C or A. -/
def Job.ras (j : Job) (e : Eng) : Ras :=
  match e with
  | .a => j.a.ras
  | _ => j.c.arch.ras

/-- The job with the return-address store of C or A updated. -/
def Job.updRas (j : Job) (e : Eng) (f : Ras → Ras) : Job :=
  match e with
  | .a => { j with a := { j.a with ras := f j.a.ras } }
  | _ => { j with c := j.c.upd fun a => { a with ras := f a.ras } }

/-- RASDEPTH (R50). -/
def Ras.depth (r : Ras) : W32 := BitVec.ofNat 32 (r.spilled * 65536 + r.held)

/-- LEN of RASWIN (R49). -/
def Ras.len (r : Ras) : Nat := bitsAt r.win.toNat 21 7

/-- The spill address of entry `n` of the window (R48). -/
def Ras.spillAddr (r : Ras) (n : Nat) : Nat := bitsAt r.win.toNat 3 18 * 8 + 8 * n

/-- Pushes an entry; a full store drops its oldest, which the caller has spilled (R48, R50). -/
def Ras.push (r : Ras) (x : W64) : Ras :=
  if r.held < 16 then { r with pos := r.pos.setIfInBounds r.held x, held := r.held + 1 }
  else
    { r with
      pos := Vector.ofFn fun i : Fin 16 => if h : i.val + 1 < 16 then r.pos[i.val + 1] else x
      spilled := (r.spilled + 1) % 65536 }

/-- Drops the newest entry of the store, or of the spill window where the store is empty (R48). -/
def Ras.drop (r : Ras) : Ras :=
  if 0 < r.held then { r with held := r.held - 1 } else { r with spilled := r.spilled - 1 }

/-- What a spill or refill at `addr` meets: a trap, a wait for the bank group, or nothing in its way (R48, R149). -/
inductive SpillGate
  | trap (cause : Cause) (val : W32)
  | wait
  | ok
  deriving DecidableEq, Repr

/-- The checks of a spill or refill access (R48). -/
def spillGate (s : State) (c : CoreId) (j : Job) (addr : Nat) : SpillGate :=
  if 0x1FFFFF < addr then .trap .protection (BitVec.ofNat 32 addr)
  else if !s.rowUsable c addr then .trap .rowRange (BitVec.ofNat 32 addr)
  else if s.yields c j addr then .wait else .ok

/-- A call to `t`: pushes the address after the instruction and goes on there (R48, R90). -/
def callTo (s : State) (c : CoreId) (j : Job) (e : Eng) (t : (Fin 32 → W64) → VAddr → VAddr) : State :=
  let r := j.ras e
  let go := fun (s : State) (j : Job) =>
    let ret : W64 := (j.pc e + 4).setWidth 64
    s.setJob c (((j.updRas e fun x => x.push ret).flowBy e fun get p ls => (t get p, ls)).issued e 1)
  if r.held < 16 then go s j
  else if r.len = 0 ∨ r.spilled = 16 * r.len then s.setJob c (j.raise e .rasOverflow r.depth)
  else
    match spillGate s c j (r.spillAddr r.spilled) with
    | .trap cause val => s.setJob c (j.raiseVal e cause val)
    | .wait => s
    | .ok => go (s.scrWrite c (r.spillAddr r.spilled) (bytesOfNat 8 r.pos[0].toNat)) j

/-- CALL (R90). -/
def execCall (o : BitVec 23) (s : State) : Res :=
  issue s s.turnEng (.call o) 1 fun s c j => callTo s c j s.turnEng fun _ p => target23 o p

/-- The target of a CALLR (R90): within the 4 GiB region in C, bits [47:0] in A. -/
def callrTarget (e : Eng) (x : W64) (p : VAddr) : VAddr :=
  match e with
  | .c => BitVec.ofNat 48 (p.toNat / 2 ^ 32 * 2 ^ 32 + x.toNat % 2 ^ 32)
  | _ => x.setWidth 48

/-- CALLR: ALIGN is tested before the store (R90). -/
def execCallr (a : Opnd) (s : State) : Res :=
  issue s s.turnEng (.callr a) 1 fun s c j =>
    let e := s.turnEng
    let (j1, vs) := readFields j (fieldsOf j (.callr a))
    let t := fun get p => callrTarget e (((argAt vs 0).scalar (engWidth e) get).setWidth 64) p
    let x := t (j.reg e) (j.pc e)
    if x.toNat % 4 ≠ 0 then s.setJob c (if e = .a then j.raiseAt .align x.toNat else j.raise e .align (x.setWidth 32))
    else
      let r := j.ras e
      let full := decide (r.held = 16) && (r.len = 0 || r.spilled = 16 * r.len
        || spillGate s c j (r.spillAddr r.spilled) != .ok)
      -- a trapping or waiting CALLR pops nothing
      callTo s c (if full then j else j1) e t

/-- RET: continues at the newest entry of the store, refilled from the spill window where the store is empty (R48,
R91). -/
def execRet (s : State) : Res :=
  issue s s.turnEng .ret 1 fun s c j =>
    let e := s.turnEng
    let r := j.ras e
    let go := fun (x : W64) (n : Nat) =>
      if x.toNat % 4 ≠ 0 then s.setJob c (if e = .a then j.raiseAt .align x.toNat else j.raise e .align (x.setWidth 32))
      else s.setJob c ((((if n = 0 then j else j.log e x).updRas e Ras.drop).flow e fun _ ls => (x.setWidth 48, ls)).issued e 1)
    if 0 < r.held then go (r.pos.toList.getD (r.held - 1) 0) 0
    else if r.spilled = 0 then s.setJob c (j.raise e .rasEmpty r.depth)
    else
      let addr := r.spillAddr (r.spilled - 1)
      match spillGate s c j addr with
      | .trap cause val => s.setJob c (j.raiseVal e cause val)
      | .wait => s
      | .ok => go (BitVec.ofNat 64 (natOfBytes (s.scrRead c addr 8))) 1

end Sys2Proof.Machine
end

