-- ==== Sys2Proof/Machine/Special.lean ====
section
/-! DEFINITION. The special registers: MFS and MTS (R68, R69, R96-R98). -/

namespace Sys2Proof.Machine

/-- OPPOINT of an island (R345). -/
def oppoint (i : Island) : W32 :=
  BitVec.ofNat 32 (i.stretch * 65536 + i.level * 256 + (if isTwin i.level then 16 else 0) + (i.level + 1) / 2)

/-- U(b, L) of every bank (R139). -/
def usables (c : Core) (lvl : Nat) : List Nat := (List.range 32).map fun b => usable c b lvl

/-- SPCAP of a core at a level (R143). -/
def spcap (c : Core) (lvl : Nat) : W32 :=
  let u := usables c lvl
  BitVec.ofNat 32 (lvl * 2 ^ 28 + u.foldl (· + ·) 0 * 1024 + u.foldl Nat.min 512)

/-- VARIANT (R361). -/
def VarSel.word (v : VarSel) : W32 :=
  BitVec.ofNat 32 (v.phase.toNat * 65536 + v.tier.toNat * 4096 + v.ecl.val * 256 + v.approx * 32
    + v.dg.toNat * 16 + v.valid.toNat * 8 + v.slot.val)

/-- FLAGSTAT; STRK is the island's (R358). -/
def FlagStat.word (f : FlagStat) (strk : Bool) : W32 :=
  BitVec.ofNat 32 (f.pend.toNat * 2 ^ 31 + f.ans.toNat * 2 ^ 29 + f.dgreq.toNat * 2 ^ 28 + f.yreq.toNat * 2 ^ 27
    + strk.toNat * 2 ^ 26 + f.cause.toNat * 2 ^ 24 + f.count * 65536 + f.leadus)

/-- TRAPCAUSE (R129). -/
def CEng.causeWord (c : CEng) : W32 :=
  BitVec.ofNat 32 (c.pwrap.toNat * 1024 + c.ppre.toNat * 512 + c.pflag.toNat * 256 + c.arch.inh.toNat * 128
    + c.code.toNat)

/-- The TIME shadow of an engine (R97). -/
def Job.shadow (j : Job) : Eng → Option W32
  | .c => j.c.tshadow
  | .a => j.a.tshadow
  | .v => j.v.tshadow
  | .m => j.m.tshadow

/-- Writes the TIME shadow of an engine. -/
def Job.setShadow (j : Job) (e : Eng) (x : W32) : Job :=
  match e with
  | .c => { j with c := { j.c with tshadow := some x } }
  | .a => { j with a := { j.a with tshadow := some x } }
  | .v => { j with v := { j.v with tshadow := some x } }
  | .m => { j with m := { j.m with tshadow := some x } }

/-- Bits [63:32] of the time base. -/
def timeHigh (s : State) : W32 := BitVec.ofNat 32 (s.time / 2 ^ 32)

/-- The value of special register `n` in engine `e` (R68, R69). -/
def srRead (s : State) (c : CoreId) (j : Job) (e : Eng) (n : Nat) : W64 :=
  let isl := s.island (coreIsl c)
  match n with
  | 0x001 => j.take.setWidth 64
  | 0x002 => j.holdcyc.setWidth 64
  | 0x003 => j.jobid.setWidth 64
  | 0x004 => j.nodeid.setWidth 64
  | 0x005 => BitVec.ofNat 64 c.val
  | 0x006 => j.domain.setWidth 64
  | 0x007 => (oppoint isl).setWidth 64
  | 0x008 => (spcap (s.core c) isl.level).setWidth 64
  | 0x009 => j.var.word.setWidth 64
  | 0x00A => BitVec.ofNat 64 j.a.acls.val
  | 0x00B => BitVec.ofNat 64 j.rowMode.toNat
  | 0x00C => j.rseed.setWidth 64
  | 0x00D => (if e = .m then j.m.fpflags else j.v.fpflags).setWidth 64
  | 0x00E => (if e = .m then j.m.fpmode else j.v.fpmode).setWidth 64
  | 0x00F => (j.ras e).depth.setWidth 64
  | 0x010 => (j.ras e).win.setWidth 64
  | 0x011 => j.c.vec.setWidth 64
  | 0x012 => j.c.causeWord.setWidth 64
  | 0x013 => j.c.tpc.setWidth 64
  | 0x014 => j.c.tval.setWidth 64
  | 0x015 => (j.flag.word (decide (0 < isl.stretch))).setWidth 64
  | 0x016 => BitVec.ofNat 64 s.time
  | 0x017 => ((j.shadow e).getD (timeHigh s)).setWidth 64
  | 0x018 => j.v.vmst.setWidth 64
  | _ => if 0x20 ≤ n ∧ n ≤ 0x3F then (j.fmt.toList.getD (n - 0x20) 0).setWidth 64 else 0

/-- MFS: writes the special register to D, or pushes it; a read of TIME also takes the shadow (R96, R97). -/
def execMfs (t : Tm) (d : Opnd) (n : BitVec 10) (s : State) : Res :=
  issue s s.turnEng (.mfs t d n) 1 fun s c j =>
    let e := s.turnEng
    let x := srRead s c j e n.toNat
    let j1 := if n = 0x016 then j.setShadow e (timeHigh s) else j
    s.setJob c (((j1.log e x).result e d fun _ => x).done e 1)

/-- FMTn after a write (R145): reserved values leave the register, or its TYPE, as it was. -/
def fmtWrite (bank : Nat) (old new : W32) : W32 :=
  let ty := bitsAt new.toNat 0 4
  let mx := new.getLsbD 7
  if (mx && decide (ty ≠ 9 ∧ ty ≠ 10)) || (mx && decide (bitsAt new.toNat 15 5 = bank))
    || decide (496 < bitsAt new.toNat 20 9) then old
  else
    let w := new &&& 0x1FFF80EF
    if 13 ≤ ty then (w &&& ~~~(0xF : W32)) ||| (old &&& 0xF) else w

/-- FPMODE after a write: RM 6 and 7 are reserved (R177). -/
def fpmodeWrite (old new : W32) : W32 :=
  if 6 ≤ bitsAt new.toNat 0 3 then (new &&& 0x10) ||| (old &&& 0x7) else new &&& 0x17

/-- RASDEPTH after a steward's write: only the counts change, and HELD 17 to 31 is reserved (R50). -/
def Ras.setDepth (r : Ras) (x : W32) : Ras :=
  let h := bitsAt x.toNat 0 5
  { r with spilled := bitsAt x.toNat 16 16, held := if h ≤ 16 then h else r.held }

/-- Writes special register `n` of engine `e`, after the checks of R66 (R11, R14, R69). -/
def Job.srWrite (j : Job) (e : Eng) (n : Nat) (x : W32) : Job :=
  match n with
  | 0x00A => { j with a := { j.a with acls := ⟨x.toNat % 16, Nat.mod_lt _ (by decide)⟩ } }
  | 0x00D =>
    if e = .m then { j with m := { j.m with fpflags := x.setWidth 6 } }
    else { j with v := { j.v with fpflags := x.setWidth 6 } }
  | 0x00E =>
    if e = .m then { j with m := { j.m with fpmode := fpmodeWrite j.m.fpmode x } }
    else { j with v := { j.v with fpmode := fpmodeWrite j.v.fpmode x } }
  | 0x00F => j.updRas e fun r => r.setDepth x
  | 0x010 => j.updRas e fun r => { r with win := x &&& 0x0FFFFFF8 }
  | 0x011 => { j with c := { j.c with vec := x &&& ~~~(2 : W32) } }
  | 0x012 => { j with c := { j.c with code := x.setWidth 5 } }
  | 0x013 => { j with c := { j.c with tpc := x } }
  | 0x018 =>
    { j with v := { j.v with pend := j.v.pend ++ [{ left := 1, dst := .vmst, val := x.setWidth 1024, mask := 0 }] } }
  | _ =>
    if 0x20 ≤ n then
      { j with fmt := j.fmt.setIfInBounds (n - 0x20) (fmtWrite (n - 0x20) (j.fmt.toList.getD (n - 0x20) 0) x) }
    else j

/-- MTS: writes A to the special register (R98). -/
def execMts (t : Tm) (a : Opnd) (n : BitVec 10) (s : State) : Res :=
  issueJob s s.turnEng (.mts t a n) 1 fun j vs =>
    j.srWrite s.turnEng n.toNat ((argAt vs 0).scalar 32 (j.reg s.turnEng))

end Sys2Proof.Machine
end

