-- ==== Sys2Proof/Machine/Launch.lean ====
section
/-! DEFINITION. A job at its start (R32), before a descriptor fills it. -/

namespace Sys2Proof.Machine

/-- An empty return-address store (R32, R49). -/
def Ras.init : Ras := { pos := Vector.replicate 16 0, held := 0, spilled := 0, win := 0 }

/-- C's architectural state at job start (R32). -/
def CArch.init (pc : VAddr) : CArch :=
  { s := Vector.replicate 32 0, p := Vector.replicate 8 false, pc, loops := [], ras := Ras.init, inh := false }

/-- C at job start (R32, R128, R129). -/
def CEng.init (pc : VAddr) : CEng :=
  { arch := CArch.init pc, chk := CArch.init pc, ckpt := CArch.init pc, cur := none, trail := [], chkIn := [], span := [],
    spanIn := [], digest := none, third := none, wait := .run, tshadow := none, acted := false, cmp := none, vec := 0, code := 0, pwrap := false, ppre := false, pflag := false, tpc := 0, tval := 0 }

/-- A at job start (R32, R193). -/
def AEng.init (pc : VAddr) : AEng :=
  { x := Vector.replicate 32 0, pc, loops := [], ras := Ras.init, wait := .run, tshadow := none, acted := false,
    acls := 0, posted := [], beforeMeet := 0, copyFault := none,
    peer := none, probed := none }

/-- V at job start (R32, R176, R177). -/
def VEng.init (pc : VAddr) : VEng :=
  { s := Vector.replicate 32 0, v := Vector.replicate 32 0, pc, loops := [], wait := .run, tshadow := none, base := 0,
    acted := false, masks := [], skip := 0, vmst := 0, fpflags := 0, fpmode := 0, pend := [], flights := [],
    stores := [] }

/-- An accumulator that holds nothing (R258). -/
def Acc.init : Acc := { e := Vector.replicate 4096 0, kind := .none, res := [], ck := [] }

/-- M at job start (R32, R258, R262). -/
def MEng.init (pc : VAddr) : MEng :=
  { s := Vector.replicate 32 0, pc, loops := [], wait := .run, tshadow := none, base := 0, acted := false,
    acc := Vector.replicate 8 Acc.init, shapeM := 64, shapeN := 64, shapeK := 64,
    tcfg := #v[0x40000004, 0x00000008, 0x3F800000, 0], retcnt := 0, unchk := 0, rdepth := 0, depthMax := 0, rsvw := false, csw := 0,
    fpflags := 0, fpmode := 0, pend := [], flights := [], flagFlights := [] }

/-- An unbound, empty stream register (R41). -/
def Stream.init : Stream := { bind := none, q := [], incoming := [], popped := 0, reserved := 0 }

/-- A walk that no WSET has set (R202). -/
def Walk.init : Walk := { user := .unused, record := none, step := 0, fstep := 0, credit := 0, creditIn := 0 }

/-- A command window at job start (R156). -/
def CmdWin.init : CmdWin := { cmd := Vector.replicate 4 0, tag := 0, err := 0, rej := 0 }

/-- FLAGSTAT at job start (R358). -/
def FlagStat.init : FlagStat :=
  { pend := false, ans := 3, dgreq := false, yreq := false, cause := 0, count := 0, leadus := 0 }

/-- A job of a context at its start (R32), with a C stream alone, whose streams all begin at `pc`. -/
def Job.blank (ctx : CtxId) (part : PartId) (pc : VAddr) : Job :=
  { jobid := 0, nodeid := 0, domain := 0, part, ctx, steward := decide (384 ≤ ctx.val), cluster := 0, slot := 0,
    member := 0, hasA := false, hasV := false, hasM := false,
    c := CEng.init pc, a := AEng.init pc, v := VEng.init pc, m := MEng.init pc,
    take := 0, holdcyc := 0, cyc := 0, hold := false, zeroed := false, rseed := 0, nseed := none, rowMode := false,
    fmt := Vector.replicate 32 0, tfmt := Vector.replicate 32 0, streams := Vector.replicate 16 Stream.init,
    walks := Vector.replicate 8 Walk.init, win := Vector.replicate 2 CmdWin.init, copies := Vector.replicate 2 [],
    flag := FlagStat.init,
    var := { phase := 0, tier := 0, ecl := 0, approx := 0, dg := false, valid := false, slot := 0 },
    slots := Vector.replicate 8 none, dims := Vector.replicate 4 1, capwait := 0, bankprof := 0,
    jshadow := 0, progress := 0, progressAt := 0, save := 0, comp := 0, claims := [], raised := [], pages := [],
    endStatus := 0, stopping := false, stopped := false, prof := 0, stageMax := 256, resLim := 3, twinWait := false }

end Sys2Proof.Machine
end

