-- ==== Sys2Proof/Machine/Fetch.lean ====
section
/-! DEFINITION. What an engine's turn does before an instruction runs: whether the engine may issue, and its fetch
(R39, R130, R373, R375, R379). -/

namespace Sys2Proof.Machine

/-- A notice is pending and the next boundary of C judges it (R130, R131, R289). A command that waits for its comparison alone
first issues, and so does a third run end. -/
def Job.asyncDue (j : Job) : Bool :=
  (j.c.pwrap || j.c.ppre || j.c.pflag) && !j.c.arch.inh && !j.c.committed && j.c.third.isNone
    && !j.trapped .c && !j.acted .c && match j.c.wait with
      | .op _ | .yielded | .idle _ => false
      | _ => true

/-- The engine may run an instruction in this turn: it runs or stands at an instruction that waits for the device, and
no stop or trap keeps it (R33, R77, R132, R438). -/
def Job.ready (j : Job) (e : Eng) : Bool :=
  j.has e && !j.acted e && !j.trapped e
    && (match j.wait e with
      | .run | .op _ => true
      | _ => false)
    && !(e.elastic && j.atStop && !(decide (e = .c) && j.c.committed) && !(decide (e = .a) && j.a.peer.isSome)
      && (match j.wait e with
        | .op _ => false
        | _ => true))
    && !(decide (e = .c) && j.c.third.isSome)

/-- A timed instruction is due in this cycle (R39). -/
def dueNow (j : Job) (e : Eng) (w : W32) : Bool :=
  e.elastic || decide (j.take = j.base e + BitVec.ofNat 32 (bitsAt w.toNat 23 3))

/-- The line of a word that an engine fetches for its turn has been used (R366); one of host memory is cached, and what the host
sends for it draws on the host allowance (R354, R367). -/
def State.fetchUse (s : State) (c : CoreId) (j : Job) (e : Eng) : State :=
  match s.translate c j.ctx (j.pc e).toNat .fetch with
  | .ok pa kind =>
    let s1 := s.hostDraw j.ctx kind pa
    (if kind = 1 then s1.hostCache j.ctx pa .s else s1).touch pa
  | _ => s

end Sys2Proof.Machine
end

