-- ==== Sys2Proof/Machine/Energy.lean ====
section
/-! DEFINITION. Bank profiles (R144), variant records (R113, R114), the variant selector (R359-R361), settlement (R354,
R355) and the requests to stop a card (R438, R440, R451). -/

namespace Sys2Proof.Machine

/-! ## Bank profiles (R144) -/

/-- SPAN of group `g` of a profile. -/
def profSpan (p : W32) (g : Nat) : Nat := bitsAt p.toNat (8 * g + 6) 2

/-- Rows that a profile needs in each bank of the span of group `g`. -/
def profRows (p : W32) (g : Nat) : Nat := 512 - 8 * bitsAt p.toNat (8 * g) 6

/-- A byte of SPAN 0 has SLACK 0. -/
def profValid (p : W32) : Bool := (List.range 4).all fun g => profSpan p g != 0 || bitsAt p.toNat (8 * g) 6 == 0

/-- Bank `b` lies in a span of the profile. -/
def profHas (p : W32) (b : Nat) : Bool :=
  match profSpan p (b / 8 % 4) with
  | 1 => b % 8 < 4
  | 2 => 4 ≤ b % 8
  | 3 => true
  | _ => false

/-- Rows that the profile covers in bank `b` (R141, R144). -/
def profNeed (p : W32) (b : Nat) : Nat := if profHas p b then profRows p (b / 8 % 4) else 0

/-- The profile fits a core at a level. -/
def profFits (c : Core) (p : W32) (lvl : Nat) : Bool :=
  profValid p && (List.range 32).all fun b => decide (profNeed p b ≤ usable c b lvl)

/-! ## Variant records (R113, R114) -/

/-- The byte offset of the first field of a 32-byte record that breaks R114, in the order of the offsets. Of two fields that
disagree the spec does not say which is in error: by a design choice it is DMINi of a pair, and APPROX beside a TIER (log 40). -/
def variantFault (r : Nat) : Option Nat :=
  let f := fun o n => bitsAt r (8 * o) (8 * n)
  firstOf ((List.range 4).map (fun i => if f (4 * i + 2) 2 < f (4 * i) 2 then some (4 * i) else none) ++
    [if f 16 1 / 16 ≠ 0 then some 16 else none,
     if 5 < f 17 1 then some 17 else none,
     if 6 < f 18 1 ∨ f 18 1 % 2 = 1 ∨ (4 ≤ f 17 1 ∧ f 18 1 ≠ 0) then some 18 else none,
     if !profValid (BitVec.ofNat 32 (f 20 4)) then some 20 else none,
     if f 24 8 ≠ 0 then some 24 else none])

/-- A record that R114 accepts. -/
def variantOf (r : Nat) : Option Variant :=
  let f := fun o n => bitsAt r (8 * o) (8 * n)
  match variantFault r with
  | some _ => none
  | none =>
    some { dmin := Vector.ofFn fun i : Fin 4 => f (4 * i.val) 2
           dmax := Vector.ofFn fun i : Fin 4 => f (4 * i.val + 2) 2
           ecl := ⟨f 16 1 % 16, Nat.mod_lt _ (by decide)⟩
           tier := ⟨f 17 1 % 6, Nat.mod_lt _ (by decide)⟩
           approx := f 18 1, qual := f 19 1, prof := BitVec.ofNat 32 (f 20 4) }

/-- The variant covers a shape (R113). -/
def Variant.covers (v : Variant) (dims : Vector Nat 4) : Bool :=
  (List.finRange 4).all fun i =>
    decide (v.dmin[i.val] ≤ dims[i.val]) && (decide (dims[i.val] ≤ v.dmax[i.val]) || decide (v.dmax[i.val] = 0xFFFF))

/-- The registered variants with their slots, in slot order. -/
def slotList (l : Vector (Option Variant) 8) : List (Fin 8 × Variant) :=
  (List.finRange 8).filterMap fun k => (l[k.val]'k.isLt).map fun v => (k, v)

/-- The first of a list that no other beats; a later one replaces it only when it is better. -/
def bestBy {α : Type} (better : α → α → Bool) : List α → Option α
  | [] => none
  | x :: xs =>
    match bestBy better xs with
    | none => some x
    | some y => if better y x then some y else some x

/-! ## The selector at PHASE (R360) -/

/-- What the selector ends with. -/
inductive Select
  | noSlot
  | keep
  | pick (slot : Fin 8) (v : Variant)
  | wait
  deriving DecidableEq, Repr

/-- The charge of a class on an island: its cost, at most four increments (R355), in 1/64 BU. -/
def chargeOf (i : Island) (c : Fin 16) : Nat := 64 * Nat.min (classCost i c) (4 * i.inc)

/-- The selection of R360, with the task's present charge in 1/64 BU. -/
def selectPhase (s : State) (c : CoreId) (j : Job) (charge : Nat) : Select :=
  let i := s.island (coreIsl c)
  let cost := fun v : Fin 8 × Variant => classCost i v.2.ecl
  let regs := slotList j.slots
  let cov := regs.filter fun v => v.2.covers j.dims
  let cs := if j.flag.dgreq then cov.filter fun v => decide (cost v < classCost i j.var.ecl) else cov
  let fs := cs.filter fun v => profFits (s.core c) v.2.prof i.level
  let better := fun (x y : Fin 8 × Variant) => decide (y.2.qual < x.2.qual)
  if regs.isEmpty then .noSlot
  else if cs.isEmpty && !cov.isEmpty then .keep
  else
    match bestBy better (fs.filter fun v => decide (64 * (cost v : Int) ≤ i.bal + charge)) with
    | some v => .pick v.1 v.2
    | none =>
      match bestBy (fun x y => decide (cost x < cost y) || (decide (cost x = cost y) && better x y)) fs with
      | some v => .pick v.1 v.2
      | none => .wait

/-- VARIANT after a selection of a slot. -/
def VarSel.pick (old : VarSel) (k : Fin 8) (v : Variant) (dg : Bool) : VarSel :=
  { old with tier := BitVec.ofNat 4 v.tier.val, ecl := v.ecl, approx := v.approx, dg, valid := true, slot := k }

/-! ## Accounts of a task -/

/-- The task's joule count, in 1/64 uJ (R110). -/
def State.jouleOf (s : State) (j : Job) : Nat :=
  match s.card j.cluster j.slot with
  | some x => x.joule
  | none => 0

/-- The charge in force of a job's task (R354), in 1/64 BU. -/
def State.chargeNow (s : State) (j : Job) : Nat :=
  match s.card j.cluster j.slot with
  | some x => x.charge
  | none => 0

/-- A change of charge at PHASE: old charge minus new charge, to the island's balance (R354). The context's budget counts launches and
settlements alone (R397). -/
def State.recharge (s : State) (c : CoreId) (j : Job) (new : Nat) : State :=
  match s.card j.cluster j.slot with
  | none => s
  | some x =>
    let d : Int := (x.charge : Int) - new
    (s.setCard j.cluster j.slot { x with charge := new }).addBal (coreIsl c) d

/-- The settlement of a task at its end or stop, on the island of a core (R354, R355). -/
def State.settle (s : State) (clu : CluId) (slot : SlotId) (isl : IslId) : State :=
  match s.card clu slot with
  | none => s
  | some x =>
    let d : Int := (x.charge : Int) + x.metered - (x.joule - x.settled : Nat)
    ((s.setCard clu slot { x with charge := 0, metered := 0, settled := x.joule }).addBal isl d).addRem x.ctx d

/-! ## Requests to stop (R438, R440, R451) -/

/-- Every job of a card is asked to stop at its pre-emption point (R438, R440), for a cause of R441. -/
def State.askStop (s : State) (clu : CluId) (slot : SlotId) (cause : Nat) : State :=
  match s.card clu slot with
  | none => s
  | some x =>
    -- a job without a save area cannot be saved
    if x.save = 0 then s else
    let s1 := x.cores.foldl (fun st c =>
      match st.job c with
      | some j => st.setJob c { j with stopping := true }
      | none => st) s
    s1.setCard clu slot { x with stopCause := if x.stopCause = 0 then cause else x.stopCause }

/-- The cause that a YIELD's save records: a checkpoint while the context is vacating (R451). -/
def State.yieldCause (s : State) (j : Job) : Nat := if s.vacating j.ctx then 3 else 2

end Sys2Proof.Machine
end

