-- ==== Sys2Proof/Machine/CtrlC.lean ====
section
/-! DEFINITION. The instructions of C alone: predicates (R99-R103), signals, END, TRAP, ERET (R104-R108) and the energy
interface (R109-R117). -/

namespace Sys2Proof.Machine

/-! ## Predicates -/

/-- The truth of a compare condition (R99). -/
def condHolds (c : Cond) (a b : W32) : Bool :=
  match c with
  | .eq => a == b
  | .ne => a != b
  | .lt => decide (a.toInt < b.toInt)
  | .ge => decide (b.toInt ≤ a.toInt)
  | .ltn => decide (a.toNat < b.toNat)
  | .gen => decide (b.toNat ≤ a.toNat)

/-- Sets a predicate from the sources. -/
def setPredBy (i : Instr) (p : Fin 8) (f : CArch → List Val → Bool) (s : State) : Res :=
  issueJob s .c i 1 fun j vs => { j with c := j.c.upd fun a => a.setPred p (f a vs) }

/-- A source of C. -/
def cArg (a : CArch) (vs : List Val) (n : Nat) : W32 := (argAt vs n).scalar 32 a.get

/-- PCMP (R99). -/
def execPcmp (p : Fin 8) (a b : Opnd) (c : Cond) (s : State) : Res :=
  setPredBy (.pcmp p a b c) p (fun k vs => condHolds c (cArg k vs 0) (cArg k vs 1)) s

/-- PCMPI: the immediate is signed (R99). -/
def execPcmpi (c : Cond) (p : Fin 8) (a : Opnd) (k : BitVec 10) (s : State) : Res :=
  setPredBy (.pcmpi c p a k) p (fun x vs => condHolds c (cArg x vs 0) (k.signExtend 32)) s

/-- The operations of PLOG (R100). -/
def plogOf (f : PLogOp) (a b : Bool) : Bool :=
  match f with
  | .and => a && b
  | .or => a || b
  | .xor => a != b
  | .andn => a && !b
  | .orn => a || !b

/-- PLOG (R100). -/
def execPlog (d a b : Fin 8) (f : PLogOp) (s : State) : Res :=
  setPredBy (.plog d a b f) d (fun k _ => plogOf f (k.pred a) (k.pred b)) s

/-- PMOV to a predicate (R101). -/
def execPmovToPred (p : Fin 8) (a : Opnd) (s : State) : Res :=
  setPredBy (.pmovToPred p a) p (fun k vs => cArg k vs 0 != 0) s

/-- A result of C that depends on predicates. -/
def Job.resultC (j : Job) (d : Opnd) (f : CArch → W32) : Job :=
  match d with
  | .reg n => { j with c := j.c.upd fun a => { a with s := regWrite a.s n (f a) } }
  | .q q => j.push q ((f j.c.arch).setWidth 1024)
  | .bad _ => j

/-- PMOV from a predicate (R101). -/
def execPmovFromPred (d : Opnd) (p : Fin 8) (s : State) : Res :=
  issueJob s .c (.pmovFromPred d p) 1 fun j _ => j.resultC d fun a => if a.pred p then 1 else 0

/-- SELP (R103). -/
def execSelp (d a b : Opnd) (p : Fin 8) (s : State) : Res :=
  issueJob s .c (.selp d a b p) 1 fun j vs => j.resultC d fun k => if k.pred p then cArg k vs 0 else cArg k vs 1

/-! ## SIG, END, TRAP, ERET -/

/-- The semaphore belongs to the VF of the job's own context (R105). -/
def State.ownSem (s : State) (j : Job) (n : Nat) : Bool := decide (s.semOwnerOf n = ctxNum j.ctx)

/-- Stages a SIG of a job's node (R105). -/
def State.stageSig (s : State) (j : Job) (v : Nat) (b : Fin 64) : State :=
  match s.card j.cluster j.slot with
  | some x => s.setCard j.cluster j.slot { x with sigs := x.sigs ++ [(v, b)] }
  | none => s

/-- SIG: stages, or performs at issue as an escaping effect into another VF's semaphore (R104, R105, R422). -/
def execSig (a : Opnd) (b : Fin 64) (s : State) : Res :=
  issue s .c (.sig a b) 1 fun s c j =>
    let (j1, vs) := readFields j (fieldsOf j (.sig a b))
    let x := cArg j.c.arch vs 0
    let bad := s.setJob c (j.raise .c .protection x)
    if x.toNat / 1024 ≠ 0 then bad
    else
      match s.semMapped j.ctx x.toNat with
      | none => bad
      | some n =>
        if s.ownSem j n then (s.stageSig j x.toNat b).setJob c (j1.done .c 1)
        else if j.hasA && decide (0 < j.a.beforeMeet) || !s.live j.ctx then s
        else
          match s.escape c j with
          | .fail cause pa => s.setJob c (j.raise .c cause (BitVec.ofNat 32 pa))
          | .stall s1 => s1
          | .go s1 => (s1.semOr n ((1 : W64) <<< b.val)).setJob c (j1.done .c 1)

/-- END: records the status and waits for the other streams (R34, R106). -/
def execEndJob (st : BitVec 16) (s : State) : Res :=
  issue s .c (.endJob st) 1 fun s c j =>
    s.setJob c (({ j with endStatus := st }.setWait .c .final).act .c)

/-- TRAP: raises TRAP_SW, which enters the handler at once, or escalates to class C (R107, R130, R131). -/
def execTrap (k : BitVec 16) (s : State) : Res :=
  issue s .c (.trap k) 1 fun s c j =>
    let ret := j.c.arch.pc + 4
    if j.c.en && !j.c.arch.inh then s.setJob c (j.enter .trapSw (k.setWidth 32) ret)
    else
      s.setJob c { j with raised := j.raised ++
        [{ eng := .c, cause := .trapSw, val := k.setWidth 32, pc := ret, classC := true, addr := 0 }] }

/-- ERET: the return from the handler; a steward outside one goes on at TRAPPC and changes nothing else (R108, R130). -/
def execEret (s : State) : Res :=
  issue s .c .eret 1 fun s c j =>
    if j.c.tpc.toNat % 4 ≠ 0 then s.setJob c (j.raise .c .align j.c.tpc) else s.setJob c j.leaveHandler

/-! ## BQRY, JOULE, ECLASS -/

/-- Saturates a natural number at 32 bits (R109). -/
def sat32 (n : Nat) : W32 := BitVec.ofNat 32 (satTo 0xFFFFFFFF n)

/-- Time-base cycles to the next governor boundary, 1 to 20,000 (R109). -/
def toBoundary (time : Nat) : Nat := 20000 - time % 20000

/-- The items of BQRY (R109). -/
def bqryItem (s : State) (c : CoreId) (j : Job) (k : Fin 4) : W32 :=
  let i := s.island (coreIsl c)
  match k with
  | 0 => BitVec.ofInt 32 (i.bal / 64)
  | 1 => sat32 i.inc
  | 2 => sat32 (classCost i j.var.ecl)
  | 3 => sat32 (toBoundary s.time)

/-- An instruction of C that writes a value from outside the engine, which enters the input log (R285). -/
def outsideC (i : Instr) (d : Opnd) (f : State → CoreId → Job → Job × W32) (s : State) : Res :=
  issue s .c i 1 fun s c j =>
    let (j1, x) := f s c j
    s.setJob c (((j1.log .c (x.setWidth 64)).result .c d fun _ => x.setWidth 64).done .c 1)

/-- BQRY (R109). -/
def execBqry (d : Opnd) (k : Fin 4) (s : State) : Res :=
  outsideC (.bqry d k) d (fun s c j => (j, bqryItem s c j k)) s

/-- JOULE: the low half of the counter, with the high half into the shadow; or the shadow (R110). -/
def execJoule (d : Opnd) (k : Bool) (s : State) : Res :=
  outsideC (.joule d k) d (fun s _ j =>
    if k then (j, j.jshadow)
    else ({ j with jshadow := BitVec.ofNat 32 (s.jouleOf j / 2 ^ 32) }, BitVec.ofNat 32 (s.jouleOf j))) s

/-- ECLASS: the cost of a class at the island's level (R111). -/
def execEclass (d : Opnd) (n : Fin 16) (s : State) : Res :=
  outsideC (.eclass d n) d (fun s c j => (j, sat32 (classCost (s.island (coreIsl c)) n))) s

/-! ## VARREG, THRACK, PHASE, YIELD -/

/-- VARREG: registers bytes 0-31 of a row entry as a variant; a bad record traps and stays in the stream (R112). -/
def execVarreg (q : Fin 16) (k : Fin 8) (s : State) : Res :=
  issue s .c (.varreg q k) 1 fun s c j =>
    let r := (j.stream q).head.toNat % 2 ^ 256
    match variantOf r with
    | some v => s.setJob c (({ j.pop q with slots := j.slots.set k.val (some v) k.isLt }).done .c 1)
    | none => s.setJob c (j.raise .c .illegalOperand (BitVec.ofNat 32 ((variantFault r).getD 0)))

/-- FLAGSTAT after an answer; without a flag pending it has no effect, and a yield that cannot be saved is an accept
(R116, R358, R440). -/
def FlagStat.answer (f : FlagStat) (a : FlagAns) (canSave : Bool) : FlagStat :=
  if !f.pend then f
  else
    match a, canSave with
    | .downgrade, _ => { f with pend := false, ans := 1, dgreq := true }
    | .yield, true => { f with pend := false, ans := 2, yreq := true }
    | _, _ => { f with pend := false, ans := 0 }

/-- THRACK (R116). -/
def execThrack (a : FlagAns) (s : State) : Res :=
  issueJob s .c (.thrack a) 1 fun j _ => { j with flag := j.flag.answer a (j.save != 0) }

/-- The card of a job stops at its pre-emption points, for a YIELD (R117, R438). -/
def State.yieldCard (s : State) (j : Job) : State := s.askStop j.cluster j.slot (s.yieldCause j)

/-- A selection of PHASE that has ended: VARIANT, the progress counter with its time, and the downgrade request (R115, R360, R449). -/
def Job.phaseDone (j : Job) (k : BitVec 10) (now : Nat) (var : VarSel) : Job :=
  { j with
    var := { var with phase := k.setWidth 16 }, progress := k, progressAt := now, flag := { j.flag with dgreq := false } }.setWait .c .run
      |>.done .c 1

/-- CAP_SHORT at a PHASE (R115). The spec gives its TRAPVAL no value: it is free (log 16). -/
def State.capShort (s : State) (c : CoreId) (j : Job) : State :=
  { s with fresh := s.fresh + 1 }.setJob c (j.raise .c .capShort ((Config.freeWord s.fresh).setWidth 32))

/-- The selector at PHASE. `since` is the time of the PHASE; a wait of no length fails at once (R115, R360). -/
def phaseTry (s : State) (c : CoreId) (j : Job) (k : BitVec 10) (since : Nat) : State :=
  let i := s.island (coreIsl c)
  match selectPhase s c j (s.chargeNow j) with
  | .noSlot => s.setJob c (j.phaseDone k s.time j.var)
  | .keep => s.setJob c (j.phaseDone k s.time { j.var with dg := true })
  | .pick n v =>
    let s1 := if v.ecl = j.var.ecl then s else s.recharge c j (chargeOf i v.ecl)
    s1.setJob c ({ j with bankprof := v.prof }.phaseDone k s.time (j.var.pick n v j.flag.dgreq))
  | .wait =>
    if s.time < since + 1000 * j.capwait then s.setJob c ((j.stand.setWait .c (.phase since k)).act .c)
    else s.capShort c j

/-- PHASE: acts on a pending yield first, then selects a variant (R115, R116, R360). -/
def execPhase (k : BitVec 10) (s : State) : Res :=
  issue s .c (.phase k) 1 fun s c j =>
    if j.flag.yreq then
      (s.setJob c (({ j with flag := { j.flag with yreq := false } }.setWait .c .yielded).act .c)).yieldCard j
    else phaseTry s c j k s.time

/-- The jobs of an island that stall at a PHASE repeat its test, at a boundary or a change of level (R360). -/
def State.retryPhases (s : State) (i : IslId) : State :=
  (List.finRange 128).foldl (fun st c =>
    if coreIsl c = i then
      match st.job c with
      | some j =>
        match j.c.wait with
        | .phase since k => phaseTry st c j k since
        | _ => st
      | none => st
    else st) s

/-- YIELD: gives up the core; without a save area it has no effect (R117, R440). -/
def execYield (s : State) : Res :=
  issue s .c .yield 1 fun s c j =>
    if j.save = 0 then s.setJob c (j.done .c 1)
    else (s.setJob c ((j.done .c 1).setWait .c .yielded)).yieldCard j

end Sys2Proof.Machine
end

