-- ==== Sys2Proof/Machine/Scalar.lean ====
section
/-! DEFINITION. The scalar arithmetic of the common subset (R92-R95). -/

namespace Sys2Proof.Machine

/-! ## The operations at width `w` (R92) -/

/-- One or zero. -/
def boolVal (w : Nat) (b : Bool) : BitVec w := if b then 1 else 0

/-- The high half of the signed product. -/
def mulHigh (w : Nat) (a b : BitVec w) : BitVec w := BitVec.ofInt w (a.toInt * b.toInt / 2 ^ w)

/-- The high half of the natural product. -/
def mulHighN (w : Nat) (a b : BitVec w) : BitVec w := BitVec.ofNat w (a.toNat * b.toNat / 2 ^ w)

/-- The shift amount: the low 5 or 6 bits of an operand. -/
def shAmt (w : Nat) (b : BitVec w) : Nat := b.toNat % w

/-- The number of leading zero bits. -/
def leadZeros (w : Nat) (a : BitVec w) : BitVec w :=
  BitVec.ofNat w (if a = 0 then w else w - 1 - Nat.log2 a.toNat)

/-- The number of one bits among the low `n` bits of a natural number. -/
def onesIn : Nat → Nat → Nat
  | 0, _ => 0
  | n + 1, x => x % 2 + onesIn n (x / 2)

/-- The number of one bits. -/
def popCount (w : Nat) (a : BitVec w) : BitVec w := BitVec.ofNat w (onesIn w a.toNat)

/-! ## The table of operations (R92-R95) -/

/-- Where a scalar operation writes its result, and the result at width `w` from its sources in the order A, B, D. -/
abbrev AluFn := Opnd × ((w : Nat) → BitVec w → BitVec w → BitVec w → BitVec w)

/-- The destination and the operation of a scalar instruction; none for any other. -/
def aluFn (i : Instr) : Option AluFn :=
  match i with
  | .add _ d _ _ => some (d, fun _ x y _ => x + y)
  | .sub _ d _ _ => some (d, fun _ x y _ => x - y)
  | .mul _ d _ _ => some (d, fun _ x y _ => x * y)
  | .mulh _ d _ _ => some (d, fun w x y _ => mulHigh w x y)
  | .mulhn _ d _ _ => some (d, fun w x y _ => mulHighN w x y)
  | .and _ d _ _ => some (d, fun _ x y _ => x &&& y)
  | .or _ d _ _ => some (d, fun _ x y _ => x ||| y)
  | .xor _ d _ _ => some (d, fun _ x y _ => x ^^^ y)
  | .shl _ d _ _ => some (d, fun w x y _ => x <<< shAmt w y)
  | .shr _ d _ _ => some (d, fun w x y _ => x >>> shAmt w y)
  | .sra _ d _ _ => some (d, fun w x y _ => x.sshiftRight (shAmt w y))
  | .min _ d _ _ => some (d, fun _ x y _ => if x.slt y then x else y)
  | .max _ d _ _ => some (d, fun _ x y _ => if x.slt y then y else x)
  | .minn _ d _ _ => some (d, fun _ x y _ => if x.ult y then x else y)
  | .maxn _ d _ _ => some (d, fun _ x y _ => if x.ult y then y else x)
  | .mad _ d _ _ => some (d, fun _ x y z => z + x * y)
  | .slt _ d _ _ => some (d, fun w x y _ => boolVal w (x.slt y))
  | .sltn _ d _ _ => some (d, fun w x y _ => boolVal w (x.ult y))
  | .seq _ d _ _ => some (d, fun w x y _ => boolVal w (x == y))
  | .sel _ d _ _ => some (d, fun _ x y z => if z ≠ 0 then x else y)
  | .clz _ d _ => some (d, fun w x _ _ => leadZeros w x)
  | .popc _ d _ => some (d, fun w x _ _ => popCount w x)
  | .mov _ d _ => some (d, fun _ x _ _ => x)
  | .addi _ d _ k => some (d, fun w x _ _ => x + k.signExtend w)
  | .andi _ d _ k => some (d, fun w x _ _ => x &&& k.signExtend w)
  | .ori _ d _ k => some (d, fun w x _ _ => x ||| k.signExtend w)
  | .xori _ d _ k => some (d, fun w x _ _ => x ^^^ k.signExtend w)
  | .shli _ d _ k => some (d, fun _ x _ _ => x <<< k.toNat)
  | .shri _ d _ k => some (d, fun _ x _ _ => x >>> k.toNat)
  | .srai _ d _ k => some (d, fun _ x _ _ => x.sshiftRight k.toNat)
  | .movi _ d k => some (d, fun w _ _ _ => k.signExtend w)
  | .movhi _ d k => some (d, fun w x _ _ => (x <<< 16) ||| k.setWidth w)
  | _ => none

/-- Frame of the scalar instructions: D := the operation of its sources. -/
def alu (i : Instr) (s : State) : Res :=
  issueJob s s.turnEng i 1 fun j vs =>
    match aluFn i with
    | some (d, f) =>
      j.result s.turnEng d fun get =>
        (f (engWidth s.turnEng) ((argAt vs 0).scalar _ get) ((argAt vs 1).scalar _ get) ((argAt vs 2).scalar _ get)).setWidth 64
    | none => j

/-! ## The ALU group 0x0C -/

/-- ADD: a + b (R92). -/
def execAdd (t : Tm) (d a b : Opnd) (s : State) : Res := alu (.add t d a b) s
/-- SUB: a - b (R92). -/
def execSub (t : Tm) (d a b : Opnd) (s : State) : Res := alu (.sub t d a b) s
/-- MUL: the low half of the product (R92). -/
def execMul (t : Tm) (d a b : Opnd) (s : State) : Res := alu (.mul t d a b) s
/-- MULH: the high half of the signed product (R92). -/
def execMulh (t : Tm) (d a b : Opnd) (s : State) : Res := alu (.mulh t d a b) s
/-- MULHN: the high half of the natural product (R92). -/
def execMulhn (t : Tm) (d a b : Opnd) (s : State) : Res := alu (.mulhn t d a b) s
/-- AND (R92). -/
def execAnd (t : Tm) (d a b : Opnd) (s : State) : Res := alu (.and t d a b) s
/-- OR (R92). -/
def execOr (t : Tm) (d a b : Opnd) (s : State) : Res := alu (.or t d a b) s
/-- XOR (R92). -/
def execXor (t : Tm) (d a b : Opnd) (s : State) : Res := alu (.xor t d a b) s
/-- SHL: a << sh (R92). -/
def execShl (t : Tm) (d a b : Opnd) (s : State) : Res := alu (.shl t d a b) s
/-- SHR: N(a) >> sh (R92). -/
def execShr (t : Tm) (d a b : Opnd) (s : State) : Res := alu (.shr t d a b) s
/-- SRA: S(a) >>> sh (R92). -/
def execSra (t : Tm) (d a b : Opnd) (s : State) : Res := alu (.sra t d a b) s
/-- MIN: the lesser of S(a) and S(b) (R92). -/
def execMin (t : Tm) (d a b : Opnd) (s : State) : Res := alu (.min t d a b) s
/-- MAX: the greater of S(a) and S(b) (R92). -/
def execMax (t : Tm) (d a b : Opnd) (s : State) : Res := alu (.max t d a b) s
/-- MINN: the lesser of N(a) and N(b) (R92). -/
def execMinn (t : Tm) (d a b : Opnd) (s : State) : Res := alu (.minn t d a b) s
/-- MAXN: the greater of N(a) and N(b) (R92). -/
def execMaxn (t : Tm) (d a b : Opnd) (s : State) : Res := alu (.maxn t d a b) s
/-- MAD: d + a * b, with d read before the write (R92). -/
def execMad (t : Tm) (d a b : Opnd) (s : State) : Res := alu (.mad t d a b) s

/-! ## The second ALU group 0x0D -/

/-- SLT: 1 if S(a) < S(b) (R92). -/
def execSlt (t : Tm) (d a b : Opnd) (s : State) : Res := alu (.slt t d a b) s
/-- SLTN: 1 if N(a) < N(b) (R92). -/
def execSltn (t : Tm) (d a b : Opnd) (s : State) : Res := alu (.sltn t d a b) s
/-- SEQ: 1 if a = b (R92). -/
def execSeq (t : Tm) (d a b : Opnd) (s : State) : Res := alu (.seq t d a b) s
/-- SEL: a if d is not 0, else b, with d read before the write (R92). -/
def execSel (t : Tm) (d a b : Opnd) (s : State) : Res := alu (.sel t d a b) s
/-- CLZ: the number of leading zero bits (R92). -/
def execClz (t : Tm) (d a : Opnd) (s : State) : Res := alu (.clz t d a) s
/-- POPC: the number of one bits (R92). -/
def execPopc (t : Tm) (d a : Opnd) (s : State) : Res := alu (.popc t d a) s
/-- MOV: a (R92). -/
def execMov (t : Tm) (d a : Opnd) (s : State) : Res := alu (.mov t d a) s

/-! ## Immediate forms (R93-R95) -/

/-- ADDI: a + SignExtend(IMM10) (R93). -/
def execAddi (t : Tm) (d a : Opnd) (k : BitVec 10) (s : State) : Res := alu (.addi t d a k) s
/-- ANDI: a AND SignExtend(IMM10) (R93). -/
def execAndi (t : Tm) (d a : Opnd) (k : BitVec 10) (s : State) : Res := alu (.andi t d a k) s
/-- ORI: a OR SignExtend(IMM10) (R93). -/
def execOri (t : Tm) (d a : Opnd) (k : BitVec 10) (s : State) : Res := alu (.ori t d a k) s
/-- XORI: a XOR SignExtend(IMM10) (R93). -/
def execXori (t : Tm) (d a : Opnd) (k : BitVec 10) (s : State) : Res := alu (.xori t d a k) s
/-- SHLI: a << sh (R94). -/
def execShli (t : Tm) (d a : Opnd) (k : BitVec 6) (s : State) : Res := alu (.shli t d a k) s
/-- SHRI: N(a) >> sh (R94). -/
def execShri (t : Tm) (d a : Opnd) (k : BitVec 6) (s : State) : Res := alu (.shri t d a k) s
/-- SRAI: S(a) >>> sh (R94). -/
def execSrai (t : Tm) (d a : Opnd) (k : BitVec 6) (s : State) : Res := alu (.srai t d a k) s
/-- MOVI: SignExtend(IMM16) (R95). -/
def execMovi (t : Tm) (d : Opnd) (k : BitVec 16) (s : State) : Res := alu (.movi t d k) s
/-- MOVHI: (d << 16) OR IMM16, with d read first (R95). -/
def execMovhi (t : Tm) (d : Opnd) (k : BitVec 16) (s : State) : Res := alu (.movhi t d k) s

end Sys2Proof.Machine
end

