-- ==== Sys2Proof/Machine/Continuity.lean ====
section
/-! DEFINITION. The continuity core (R285-R290): the checker's and the third run's execution of C's instructions over the input
log, the comparison of commands, and the digests of take boundaries. -/

namespace Sys2Proof.Machine

/-! ## One instruction in a copy of C (R285) -/

/-- The sources of an instruction as a copy reads them: what the primary popped comes from the input log. `none` where the log
holds no more values. -/
def copyRead : List Field → List CIn → Option (List Val × List CIn)
  | [], ins => some ([], ins)
  | f :: fs, ins =>
    match f.role, f.opnd, ins with
    | .dst _, _, _ => copyRead fs ins
    | _, .reg n, _ => (copyRead fs ins).map fun r => (.reg n :: r.1, r.2)
    | _, .bad _, _ => (copyRead fs ins).map fun r => (.reg 0 :: r.1, r.2)
    | _, .q _, [] => none
    | _, .q _, x :: rest => (copyRead fs rest).map fun r => (.ent x.val :: r.1, r.2)

/-- The result that an instruction computes within C, with its destination. -/
def CArch.outcome (a : CArch) (i : Instr) (vs : List Val) : Option (Opnd × W32) :=
  match i with
  | .pmovFromPred d p => some (d, if a.pred p then 1 else 0)
  | .selp d _ _ p => some (d, if a.pred p then cArg a vs 0 else cArg a vs 1)
  | i => (aluFn i).map fun x => (x.1, x.2 32 (cArg a vs 0) (cArg a vs 1) (cArg a vs 2))

/-- The destination of a result that enters C from outside the engine (R285). -/
def outsideDst : Instr → Option Opnd
  | .mfs _ d _ | .bqry d _ | .joule d _ | .eclass d _ | .preempt d _ | .qsusp d _ | .qres d _ | .drainm d _ => some d
  | _ => none

/-- The predicate that an instruction sets. -/
def CArch.predicate (a : CArch) (i : Instr) (vs : List Val) : Option (Fin 8 × Bool) :=
  match i with
  | .pcmp p _ _ c => some (p, condHolds c (cArg a vs 0) (cArg a vs 1))
  | .pcmpi c p _ k => some (p, condHolds c (cArg a vs 0) (k.signExtend 32))
  | .plog d x y f => some (d, plogOf f (a.pred x) (a.pred y))
  | .pmovToPred p _ => some (p, cArg a vs 0 != 0)
  | _ => none

/-- Where an instruction goes on, and the loop levels it leaves. -/
def CArch.flow (a : CArch) (i : Instr) (vs : List Val) : VAddr × List LoopLvl :=
  match i with
  | .br o => branchTo (target23 o a.pc) a.loops
  | .bz _ o => branchIf (cArg a vs 0 == 0) (target16 o a.pc) a.pc a.loops
  | .bnz _ o => branchIf (cArg a vs 0 != 0) (target16 o a.pc) a.pc a.loops
  | .bp p o => branchIf (a.pred p) (target16 o a.pc) a.pc a.loops
  | .bnp p o => branchIf (!a.pred p) (target16 o a.pc) a.pc a.loops
  | .loop _ _ b n => loopFlow n.toNat b a.pc a.loops
  | .loopr _ _ b _ => loopFlow (cArg a vs 0).toNat b a.pc a.loops
  | .lbrk => lbrkFlow a.pc a.loops
  | .call o => (target23 o a.pc, a.loops)
  | .callr _ => (callrTarget .c ((cArg a vs 0).setWidth 64) a.pc, a.loops)
  | .ret => ((a.ras.pos.toList.getD (a.ras.held - 1) 0).setWidth 48, a.loops)
  | _ => backEdge a.pc (a.pc + 4) a.loops

/-- The return-address store after an instruction. -/
def CArch.rasAfter (a : CArch) (i : Instr) (vs : List Val) : Ras :=
  match i with
  | .call _ | .callr _ => a.ras.push ((a.pc + 4).setWidth 64)
  | .ret => a.ras.drop
  | .mts _ _ n =>
    if n = 0x00F then a.ras.setDepth (cArg a vs 0)
    else if n = 0x010 then { a.ras with win := cArg a vs 0 &&& 0x0FFFFFF8 } else a.ras
  | _ => a.ras

/-- A register of a copy, where the destination is one. -/
def CArch.put (a : CArch) (d : Opnd) (x : W32) : CArch :=
  match d with
  | .reg n => { a with s := regWrite a.s n x }
  | _ => a

/-- A copy of C executes an instruction whose sources it has read. -/
def CArch.exec (a : CArch) (i : Instr) (vs : List Val) : CArch :=
  let f := a.flow i vs
  let a1 := { a with pc := f.1, loops := f.2, ras := a.rasAfter i vs }
  match a.outcome i vs, a.predicate i vs with
  | some (d, x), _ => a1.put d x
  | none, some (p, b) => a1.setPred p b
  | none, none => a1

/-- A copy of C executes an instruction, with what it takes from the input log: its sources, a result from outside the engine, a
refill of the return-address store. `none` where the log holds no more values. -/
def CArch.run (a : CArch) (i : Instr) (fs : List Field) (ins : List CIn) : Option (CArch × List CIn) :=
  match copyRead fs ins with
  | none => none
  | some (vs, rest) =>
    match outsideDst i, decide (i = .ret) && decide (a.ras.held = 0), rest with
    | none, false, _ => some (a.exec i vs, rest)
    | _, _, [] => none
    | some d, _, x :: rest => some ((a.exec i vs).put d (x.val.setWidth 32), rest)
    | none, true, x :: rest => some ({ a.exec i vs with pc := x.val.setWidth 48 }, rest)

/-- A copy of C that stands at another address than the primary executes the instruction there; it goes past no compared command
(R287). -/
def CArch.stray (a : CArch) (fetch : VAddr → Option Instr) (fields : Instr → List Field) (ins : List CIn) : CArch × List CIn :=
  match fetch a.pc with
  | none => (a, ins)
  | some k => if compared k (fields k) then (a, ins) else (a.run k (fields k) ins).getD (a, ins)

/-- A copy of C follows a step of the primary: the same instruction where it stands at the same address, else the one at its own
address (R285). The end of a command that has issued brings its status from outside (R119), and a trap entry and the return from
it come from there. -/
def CArch.follow (fetch : VAddr → Option Instr) (fields : Instr → List Field) (st : CStep) (x : CArch × List CIn) :
    CArch × List CIn :=
  let (a, ins) := x
  match st.act with
  | .jump dest inh => ({ a with pc := dest, inh }, if inh then ins.drop 1 else ins)
  | .instr i => if a.pc = st.pc then (a.run i (fields i) ins).getD x else a.stray fetch fields ins
  | .issue i =>
    if a.pc = st.pc then (a, ((copyRead (fields i) ins).map Prod.snd).getD ins) else a.stray fetch fields ins
  | .finish i =>
    if a.pc = st.pc then
      match outsideDst i, ins with
      | some d, v :: rest => ((a.exec i []).put d (v.val.setWidth 32), rest)
      | _, _ => (a.exec i [], ins)
    else a.stray fetch fields ins

/-! ## The comparison of a command (R287) -/

/-- The values that a command carries in a copy of C, beside its word. -/
def CArch.carried (a : CArch) (i : Instr) (vs : List Val) : List W32 :=
  match i with
  | .sig _ _ | .preempt _ _ | .qsusp _ _ | .qres _ _ | .drainm _ _ => [cArg a vs 0]
  | .semmap _ _ | .rseed _ _ => [cArg a vs 0, cArg a vs 1]
  | i =>
    match a.outcome i vs with
    | some (.q _, x) => [x]
    | _ => []

/-- The copies agree on the command: its address, and with it its word, and every value it carries. -/
def Job.agrees (j : Job) (i : Instr) : Bool :=
  let vs := (readFields j (fieldsOf j i)).2
  decide (j.c.chk.pc = j.c.arch.pc) && decide (j.c.chk.carried i vs = j.c.arch.carried i vs)

/-! ## Digests (R286) -/

/-- The parts of the architectural state of C, in a fixed order. -/
def CArch.parts (a : CArch) : List Nat :=
  a.s.toList.map BitVec.toNat ++ a.p.toList.map Bool.toNat ++ [a.pc.toNat]
    ++ a.loops.flatMap (fun l => [l.first.toNat, l.last.toNat, l.left])
    ++ a.ras.pos.toList.map BitVec.toNat ++ [a.ras.held, a.ras.spilled, a.ras.win.toNat, a.inh.toNat]

/-- Two states of C have one digest. -/
def CArch.digestEq (a b : CArch) : Bool :=
  decide (a = b) || decide (Config.digest a.parts = Config.digest b.parts)

/-- The checker has made every step before the boundary: the digests are compared, and a difference is a divergence, which
restores the primary from cycle c + 1 on (R286, R288). -/
def CEng.digestMeet (c : CEng) : CEng :=
  match c.digest with
  | none => c
  | some d =>
    if d.left ≠ 0 then c
    else if c.chk.digestEq d.state then { c with digest := none }
    else { c with third := some { wait := 4, todo := d.span, arch := d.base, ins := d.ins, command := false } }

/-- The checker makes one step. -/
def CEng.checkStep (fetch : VAddr → Option Instr) (fields : Instr → List Field) (c : CEng) : CEng :=
  match c.trail with
  | [] => c
  | t :: rest =>
    let x := CArch.follow fetch fields t (c.chk, c.chkIn)
    CEng.digestMeet { c with
      chk := x.1, chkIn := x.2, trail := rest, digest := c.digest.map fun d => { d with left := d.left - 1 } }

/-- The checker makes the steps that are due. -/
def CEng.catchUp (fetch : VAddr → Option Instr) (fields : Instr → List Field) (cyc : Nat) : Nat → CEng → CEng
  | 0, c => c
  | n + 1, c =>
    if c.third.isNone && c.trail.any fun t => decide (t.due ≤ cyc) then catchUp fetch fields cyc n (c.checkStep fetch fields)
    else c

/-- The step is the end of a command that issued before the span began. -/
def CStep.tail (x : CStep) : Bool :=
  match x.act with
  | .finish _ => true
  | _ => false

/-- C passes a take boundary after 1,024 instructions, or with 256 logged entries (R286). -/
def CEng.digestDue (c : CEng) : Bool :=
  c.third.isNone && c.digest.isNone
    && (decide (1024 ≤ (c.span.filter fun x => !x.tail).length) || decide (256 ≤ c.spanIn.length))

/-- The boundary: a checkpoint, and a digest that awaits the checker. -/
def CEng.digestMark (c : CEng) : CEng :=
  if c.digestDue then
    CEng.digestMeet { c with
      digest := some { state := c.arch, left := c.trail.length, base := c.ckpt, span := c.span, ins := c.spanIn, later := [] }
      ckpt := c.arch, span := [], spanIn := [] }
  else c

/-- A cycle of a third run: of the restore, in which the end of a command that issued before the span costs nothing; then one
instruction of the span (R288). -/
def ThirdRun.tick (fetch : VAddr → Option Instr) (fields : Instr → List Field) (t : ThirdRun) : ThirdRun :=
  let go := fun (st : CStep) (rest : List CStep) (n : Nat) =>
    let x := CArch.follow fetch fields st (t.arch, t.ins)
    { t with wait := n, todo := rest, arch := x.1, ins := x.2 }
  match t.wait, t.todo with
  | n + 1, st :: rest => if st.tail then go st rest n else { t with wait := n }
  | n + 1, [] => { t with wait := n }
  | 0, [] => t
  | 0, st :: rest => go st rest 0

/-- A cycle of the continuity core: a third run restores and executes again, one instruction a cycle (R288), or the checker goes
on. -/
def CEng.tick (fetch : VAddr → Option Instr) (fields : Instr → List Field) (cyc : Nat) (c : CEng) : CEng :=
  match c.third with
  | none => (c.catchUp fetch fields cyc c.trail.length).digestMark
  | some t => { c with third := some (t.tick fetch fields) }

/-- The instruction at an address of C. -/
def State.instrAt (s : State) (c : CoreId) (j : Job) (pc : VAddr) : Option Instr :=
  match s.fetchFor c j .c pc with
  | .word w =>
    match decode .c w with
    | .ok i => some i
    | .error _ => none
  | _ => none

/-- A cycle of the continuity core of a job; only FULL has one (R431). -/
def Job.continuity (s : State) (c : CoreId) (j : Job) : Job :=
  if j.prof = 0 then { j with c := j.c.tick (s.instrAt c j) (fieldsOf j) j.cyc } else j

/-! ## Divergence (R288) -/

/-- A disagreement is found at a command in this cycle. The command is the last of the span's instructions. -/
def Job.diverge (j : Job) : Job :=
  { j with c := { j.c with
    third := some { wait := 6, todo := j.c.span, arch := j.c.ckpt, ins := j.c.spanIn, command := true } } }

/-- The third run has come to its end. -/
def ThirdRun.over (t : ThirdRun) : Bool := decide (t.wait = 0) && t.todo.isEmpty

/-- The primary's state with which a third run is compared. -/
def CEng.primary (c : CEng) (t : ThirdRun) : CArch :=
  if t.command then c.arch
  else
    match c.digest with
    | some d => d.state
    | none => c.arch

/-- The third run agrees with a copy. -/
def CEng.resolved (c : CEng) (t : ThirdRun) : Bool := decide (t.arch = c.primary t) || decide (t.arch = c.chk)

/-- What a wrong path of the primary has popped goes back to the front of its streams: the third run has not taken it. -/
def Job.unpop (j : Job) : List CIn → Job
  | [] => j
  | x :: xs =>
    let j1 := j.unpop xs
    match x.from_ with
    | some q => j1.setStream q { j1.stream q with q := x.val :: (j1.stream q).q, popped := (j1.stream q).popped - 1 }
    | none => j1

/-- All three copies hold one state, which is checkpointed; values that no copy has taken are back in their streams. -/
def Job.resync (j : Job) (a : CArch) (left : List CIn) : Job :=
  Job.boundary { j.unpop left with c := { (j.unpop left).c with
    arch := a, chk := a, trail := [], chkIn := [], digest := none, third := none } }

/-- The outside values since the digest that a third run resolves. -/
def CEng.later (c : CEng) : List CIn :=
  match c.digest with
  | some d => d.later
  | none => []

/-- The third run has agreed with one of the copies (R288): the primary and the checker take its state. At a digest the primary has
gone on since: where it was right the checker takes up its steps and values from there, and where it was wrong it makes them again
(log 56). -/
def Job.masked (s : State) (c : CoreId) (j : Job) (t : ThirdRun) : Job :=
  if t.command then j.resync t.arch t.ins
  else if t.arch = j.c.primary t then
    { j with c := { j.c with chk := t.arch, chkIn := j.c.later, digest := none, third := none } }
  else
    let x := j.c.trail.foldl (fun x st => CArch.follow (s.instrAt c j) (fieldsOf j) st x) (t.arch, j.c.later)
    j.resync x.1 (t.ins ++ x.2)

/-- The copies of a job that is loaded or resumed start from one state (R285, R441). -/
def CEng.synced (c : CEng) : CEng :=
  { c with
    chk := c.arch, ckpt := c.arch, cur := none, trail := [], chkIn := [], span := [], spanIn := [], digest := none, third := none
    cmp := none }

end Sys2Proof.Machine
end

