-- ==== Sys2Proof/Machine/Formats.lean ====
section
/-! DEFINITION. Number formats and arithmetic (R162-R187): element types, exact values, rounding, conversion, the
stochastic generator. -/

namespace Sys2Proof

open Machine

/-! ## Element types (R162) -/

/-- The width of an element in bits. -/
def ElemT.width : ElemT → Nat
  | .s8 | .n8 | .e4 | .e5 => 8
  | .s16 | .n16 | .h | .bf => 16
  | .s32 | .n32 | .f => 32
  | .t2 => 2
  | .b1 => 1

/-- Elements per row. -/
def ElemT.count (t : ElemT) : Nat := 1024 / t.width

/-- The type holds floating-point values. -/
def ElemT.isFloat : ElemT → Bool
  | .h | .bf | .f | .e4 | .e5 => true
  | _ => false

/-- The type is a signed integer type. -/
def ElemT.signed : ElemT → Bool
  | .s8 | .s16 | .s32 => true
  | _ => false

/-- The raw bits of lane `i` of a row. -/
def lane (w : Nat) (r : Row) (i : Nat) : Nat := bitsAt r.toNat (w * i) w

/-- The row whose lanes of width `w` are given, lane 0 first. -/
def natOfLanes (w : Nat) : List Nat → Nat
  | [] => 0
  | x :: xs => x % 2 ^ w + 2 ^ w * natOfLanes w xs

/-- As `natOfLanes`, as a row. -/
def rowOfLanes (w : Nat) (l : List Nat) : Row := BitVec.ofNat 1024 (natOfLanes w l)

/-- The raw lanes of a row, lane 0 first. -/
def lanesOf (w n : Nat) (r : Row) : List Nat := (List.range n).map (lane w r)

/-! ## Flags (R176) -/

/-- Flags of an operation, in the layout of FPFLAGS. -/
abbrev Flags := BitVec 6
/-- Inexact. -/
def fNX : Flags := 1
/-- Underflow. -/
def fUF : Flags := 2
/-- Overflow. -/
def fOF : Flags := 4
/-- Invalid. -/
def fNV : Flags := 8
/-- Saturation. -/
def fSAT : Flags := 16
/-- A reserved .T2 code was read. -/
def fTRES : Flags := 32

/-- A flag when a condition holds. -/
def flagIf (b : Bool) (f : Flags) : Flags := if b then f else 0

/-! ## Floating-point values (R163) -/

/-- An exact value: a number is `m` x 2^`e` with `m` above 0. -/
inductive Fp
  | nan (signalling : Bool)
  | inf (neg : Bool)
  | zero (neg : Bool)
  | num (neg : Bool) (m : Nat) (e : Int)
  deriving DecidableEq, Repr

/-- A format: exponent and fraction widths, and whether it is E4M3, which has no infinity. -/
structure Fmt where
  ew : Nat
  fw : Nat
  e4 : Bool
  deriving DecidableEq, Repr

/-- The format of a float type; FP32 for the others. -/
def ElemT.fmt : ElemT → Fmt
  | .h => ⟨5, 10, false⟩
  | .bf => ⟨8, 7, false⟩
  | .e4 => ⟨4, 3, true⟩
  | .e5 => ⟨5, 2, false⟩
  | _ => ⟨8, 23, false⟩

/-- The bias of a format. -/
def Fmt.bias (f : Fmt) : Nat := 2 ^ (f.ew - 1) - 1

/-- The exponent of the smallest normal. -/
def Fmt.emin (f : Fmt) : Int := 1 - f.bias

/-- The bits of infinity; for E4M3, those above the largest finite value. -/
def Fmt.infBits (f : Fmt) : Nat := if f.e4 then 0x7F else (2 ^ f.ew - 1) * 2 ^ f.fw

/-- The bits of the sign. -/
def Fmt.sign (f : Fmt) (neg : Bool) : Nat := if neg then 2 ^ (f.ew + f.fw) else 0

/-- The canonical NaN (R163). -/
def Fmt.nanBits (f : Fmt) : Nat := if f.e4 then 0x7F else f.infBits + 2 ^ (f.fw - 1)

/-- The value of bits in a format (R163). -/
def Fmt.value (f : Fmt) (x : Nat) : Fp :=
  let neg := bitsAt x (f.ew + f.fw) 1 = 1
  let ex := bitsAt x f.fw f.ew
  let fr := bitsAt x 0 f.fw
  if f.e4 ∧ ex = 15 ∧ fr = 7 then .nan false
  else if !f.e4 && decide (ex = 2 ^ f.ew - 1) then
    (if fr = 0 then .inf neg else .nan (bitsAt fr (f.fw - 1) 1 = 0))
  else if ex = 0 then (if fr = 0 then .zero neg else .num neg fr (f.emin - f.fw))
  else .num neg (2 ^ f.fw + fr) ((ex : Int) - f.bias - f.fw)

/-! ## Rounding (R167-R170) -/

/-- Rounding modes, in the coding of R167. -/
inductive Rm | rne | rz | stoch | rna | rup | rdn
  deriving DecidableEq, Repr

/-- The mode of a code of FPMODE.RM. -/
def Rm.ofCode : Nat → Rm
  | 1 => .rz
  | 2 => .stoch
  | 3 => .rna
  | 4 => .rup
  | 5 => .rdn
  | _ => .rne

/-- The mode of a rounding field (R64). -/
def Rm.ofCvt : CvtRnd → Rm
  | .rne => .rne
  | .rz => .rz
  | .stoch => .stoch
  | .rna => .rna

/-- Whether rounding goes to the greater magnitude: `lo` is the lesser, `rem` of `2^s` lies above it, `r` are the random
bits (R167). -/
def roundsUp (mode : Rm) (r : Nat) (neg : Bool) (lo rem s : Nat) : Bool :=
  match mode with
  | .rne => decide (2 ^ s < 2 * rem) || (decide (2 * rem = 2 ^ s) && decide (lo % 2 = 1))
  | .rna => decide (2 ^ s ≤ 2 * rem)
  | .rz => false
  | .stoch => decide (r < rem * 2 ^ 32 / 2 ^ s)
  | .rup => !neg && decide (0 < rem)
  | .rdn => neg && decide (0 < rem)

/-- `m` x 2^`e` rounded to a multiple of 2^`q`: the multiple, and whether it differs. -/
def roundAt (mode : Rm) (r : Nat) (neg : Bool) (m : Nat) (e q : Int) : Nat × Bool :=
  if q ≤ e then (m * 2 ^ (e - q).toNat, false)
  else
    let s := (q - e).toNat
    let lo := m / 2 ^ s
    let rem := m % 2 ^ s
    (if roundsUp mode r neg lo rem s then lo + 1 else lo, decide (rem ≠ 0))

/-- A number far outside the range of a format, brought near it with the same outcome of every rounding. -/
def Fmt.clampNum (f : Fmt) (m : Nat) (e : Int) : Nat × Int :=
  let top := (Nat.log2 m : Int) + e
  if (f.bias : Int) + 8 < top then (1, (f.bias : Int) + 8)
  else if top < f.emin - f.fw - 40 then (1, f.emin - f.fw - 40) else (m, e)

/-- What an overflow of a magnitude gives (R168), without its sign. -/
def Fmt.overflow (f : Fmt) (mode : Rm) (neg : Bool) : Nat :=
  match mode with
  | .rz => f.infBits - 1
  | .rup => if neg then f.infBits - 1 else f.infBits
  | .rdn => if neg then f.infBits else f.infBits - 1
  | _ => f.infBits

/-- Round of a number to a format (R167-R169); `sat` is the outcome of an FP8 conversion that saturates (R170). -/
def Fmt.roundNum (f : Fmt) (mode : Rm) (r : Nat) (sat : Bool) (neg : Bool) (m0 : Nat) (e0 : Int) : Nat × Flags :=
  let (m, e) := f.clampNum m0 e0
  let top := (Nat.log2 m : Int) + e
  let q := max (top - f.fw) (f.emin - f.fw)
  let (sg, nx) := roundAt mode r neg m e q
  let bits := ((q + f.fw + f.bias - 1).toNat) * 2 ^ f.fw + sg
  if f.infBits ≤ bits then
    if sat then (f.sign neg + (f.infBits - 1), fSAT ||| fNX)
    else if f.e4 then (f.nanBits, fOF ||| fNX)
    else (f.sign neg + f.overflow mode neg, fOF ||| fNX)
  else
    let (un, _) := roundAt mode r neg m e (top - f.fw)
    let tiny := decide (top < f.emin) && !(decide (top + 1 = f.emin) && decide (un = 2 ^ (f.fw + 1)))
    (f.sign neg + bits, flagIf nx fNX ||| flagIf (nx && tiny) fUF)

/-- Round of a value to a format that is no FP8 type, and of an exact result (R164, R167). -/
def Fmt.round (f : Fmt) (mode : Rm) (r : Nat) (x : Fp) : Nat × Flags :=
  match x with
  | .nan s => (f.nanBits, flagIf s fNV)
  | .inf neg => (f.sign neg + f.infBits, 0)
  | .zero neg => (f.sign neg, 0)
  | .num neg m e => f.roundNum mode r false neg m e

/-- Conversion into .E4 or .E5 (R170). -/
def Fmt.round8 (f : Fmt) (mode : Rm) (r : Nat) (nosat : Bool) (x : Fp) : Nat × Flags :=
  match x with
  | .nan s => (f.nanBits, flagIf s fNV)
  | .inf neg =>
    if !f.e4 then (f.sign neg + f.infBits, 0)
    else if nosat then (f.nanBits, fNV) else (f.sign neg + (f.infBits - 1), fSAT)
  | .zero neg => (f.sign neg, 0)
  | .num neg m e => f.roundNum mode r (!nosat) neg m e

/-! ## Exact operations -/

/-- The number `x` x 2^`e`, with the sign of an exact zero. -/
def Fp.ofInt (x : Int) (e : Int) (zeroNeg : Bool) : Fp :=
  if x = 0 then .zero zeroNeg else .num (decide (x < 0)) x.natAbs e

/-- The signed significand of a number. -/
def signedOf (neg : Bool) (m : Nat) : Int := if neg then -(m : Int) else m

/-- A NaN operand: its flags; the result is a NaN. -/
def nanFlags : Fp → Flags
  | .nan true => fNV
  | _ => 0

/-- The exact sum, with the invalid flag (R164, R169). A NaN result is canonical, so it is not signalling. -/
def Fp.add (mode : Rm) (a b : Fp) : Fp × Flags :=
  let nv := nanFlags a ||| nanFlags b
  match a, b with
  | .nan _, _ | _, .nan _ => (.nan false, nv)
  | .inf s, .inf t => if s = t then (.inf s, 0) else (.nan false, fNV)
  | .inf s, _ => (.inf s, 0)
  | _, .inf t => (.inf t, 0)
  | .zero s, .zero t => (.zero (if s = t then s else decide (mode = .rdn)), 0)
  | .zero _, .num t m e => (.num t m e, 0)
  | .num s m e, .zero _ => (.num s m e, 0)
  | .num s m e, .num t n k =>
    let lo := min e k
    (Fp.ofInt (signedOf s m * 2 ^ (e - lo).toNat + signedOf t n * 2 ^ (k - lo).toNat) lo (decide (mode = .rdn)), 0)

/-- The value with its sign inverted. -/
def Fp.neg : Fp → Fp
  | .nan s => .nan s
  | .inf s => .inf (!s)
  | .zero s => .zero (!s)
  | .num s m e => .num (!s) m e

/-- The exact product, with the invalid flag (R164). -/
def Fp.mul (a b : Fp) : Fp × Flags :=
  let nv := nanFlags a ||| nanFlags b
  match a, b with
  | .nan _, _ | _, .nan _ => (.nan false, nv)
  | .inf s, .inf t => (.inf (s != t), 0)
  | .inf _, .zero _ | .zero _, .inf _ => (.nan false, fNV)
  | .inf s, .num t _ _ | .num t _ _, .inf s => (.inf (s != t), 0)
  | .zero s, .zero t => (.zero (s != t), 0)
  | .zero s, .num t _ _ | .num t _ _, .zero s => (.zero (s != t), 0)
  | .num s m e, .num t n k => (.num (s != t) (m * n) (e + k), 0)

/-- The exact value of `d` + `a` x `b` (R164, R173). -/
def Fp.fma (mode : Rm) (d a b : Fp) : Fp × Flags :=
  let (p, f) := Fp.mul a b
  let (x, g) := Fp.add mode d p
  (x, f ||| g)

/-- The value times 2^`k`. -/
def Fp.scale (x : Fp) (k : Int) : Fp :=
  match x with
  | .num s m e => .num s m (e + k)
  | y => y

/-- Compares the magnitudes and signs of two numbers: `a` < `b`, with -0 below +0 when `zeros` (R172, R234). -/
def Fp.lt (zeros : Bool) (a b : Fp) : Bool :=
  match a, b with
  | .nan _, _ | _, .nan _ => false
  | .inf s, .inf t => s && !t
  | .inf s, _ => s
  | _, .inf t => !t
  | .zero s, .zero t => zeros && s && !t
  | .zero _, .num t _ _ => !t
  | .num s _ _, .zero _ => s
  | .num s m e, .num t n k =>
    let lo := min e k
    decide (signedOf s m * 2 ^ (e - lo).toNat < signedOf t n * 2 ^ (k - lo).toNat)

/-- Equality of values: -0 equals +0, a NaN equals nothing (R234). -/
def Fp.eq (a b : Fp) : Bool :=
  match a, b with
  | .nan _, _ | _, .nan _ => false
  | a, b => !Fp.lt false a b && !Fp.lt false b a

/-- The value is a NaN. -/
def Fp.isNan : Fp → Bool
  | .nan _ => true
  | _ => false

/-- The lesser or greater of two bit patterns of a format (R172). -/
def Fmt.minmax (f : Fmt) (greater : Bool) (x y : Nat) : Nat × Flags :=
  let a := f.value x
  let b := f.value y
  let nv := nanFlags a ||| nanFlags b
  if a.isNan && b.isNan then (f.nanBits, nv)
  else if a.isNan then (y, nv)
  else if b.isNan then (x, nv)
  else if Fp.lt true a b then (if greater then y else x, 0) else (if greater then x else y, 0)

/-! ## The reciprocal, its square root and the exponential (R233) -/

/-- The exact reciprocal of a number, to 128 bits and a sticky bit. -/
def recipNum (m : Nat) (e : Int) : Nat × Int :=
  let k := Nat.log2 m + 128
  let q := 2 ^ k / m
  (2 * q + (if 2 ^ k % m = 0 then 0 else 1), -(k : Int) - e - 1)

/-- The integer square root by bisection, one bit a step. -/
def isqrtGo (n : Nat) : Nat → Nat → Nat
  | 0, r => r
  | k + 1, r => isqrtGo n k (if (r + 2 ^ k) * (r + 2 ^ k) ≤ n then r + 2 ^ k else r)

/-- The integer square root. -/
def isqrt (n : Nat) : Nat := isqrtGo n (Nat.log2 n / 2 + 1) 0

/-- 1 / sqrt of a number, to more than 100 bits and a sticky bit: the square root of 2^k / (m x 2^e). -/
def rsqrtNum (m : Nat) (e : Int) : Nat × Int :=
  -- an even exponent: m x 2^e with e even
  let (m, e) := if e % 2 = 0 then (m, e) else (2 * m, e - 1)
  let k := 2 * (Nat.log2 m + 128)
  let n := 2 ^ k / m
  let r := isqrt n
  (2 * r + (if r * r * m = 2 ^ k then 0 else 1), -(k / 2 : Int) - e / 2 - 1)

/-- Bits of the fixed point in which the exponential is formed. -/
def expBits : Nat := 448

/-- The sum of the exponential series of `t`, a fixed-point number below 1, from term `k` on. -/
def expSeries (t : Nat) : Nat → Nat → Nat → Nat
  | 0, _, _ => 0
  | n + 1, k, term => term + expSeries t n (k + 1) (term * t / 2 ^ expBits / k)

/-- Squares a fixed-point number `n` times. -/
def squareTimes : Nat → Nat → Nat
  | 0, x => x
  | n + 1, x => squareTimes n (x * x / 2 ^ expBits)

/-- e^x for a positive number below 512, in fixed point. -/
def expPos (m : Nat) (e : Int) : Nat :=
  let sh := (expBits : Int) + e - 9
  let t := if 0 ≤ sh then m * 2 ^ sh.toNat else m / 2 ^ (-sh).toNat
  squareTimes 9 (expSeries t 120 1 (2 ^ expBits))

/-- e^x of a number that is not 0. Its value is irrational, so a sticky bit is always set; beyond 512 the result
overflows, or vanishes, in every format. -/
def expNum (neg : Bool) (m : Nat) (e : Int) : Nat × Int :=
  if 9 ≤ (Nat.log2 m : Int) + e then (1, if neg then -1000 else 1000)
  else
    let x := expPos m e
    if neg then (2 * (2 ^ (2 * expBits) / x) + 1, -(expBits : Int) - 1) else (2 * x + 1, -(expBits : Int) - 1)

/-- VRCP of a value (R233). -/
def Fp.recip : Fp → Fp × Flags
  | .nan s => (.nan false, flagIf s fNV)
  | .zero s => (.inf s, 0)
  | .inf s => (.zero s, 0)
  | .num s m e => (.num s (recipNum m e).1 (recipNum m e).2, 0)

/-- VRSQ of a value (R233). -/
def Fp.rsqrt : Fp → Fp × Flags
  | .nan s => (.nan false, flagIf s fNV)
  | .zero s => (.inf s, 0)
  | .inf s => if s then (.nan false, fNV) else (.zero false, 0)
  | .num s m e => if s then (.nan false, fNV) else (.num false (rsqrtNum m e).1 (rsqrtNum m e).2, 0)

/-- VEXP of a value (R187, R233): the cheap path gives what the exact value rounds to. -/
def Fp.exp : Fp → Fp × Flags
  | .nan s => (.nan false, flagIf s fNV)
  | .zero _ => (.num false 1 0, 0)
  | .inf s => if s then (.zero false, 0) else (.inf false, 0)
  | .num s m e => (.num false (expNum s m e).1 (expNum s m e).2, 0)

/-! ## Conversion (R166, R170, R171) -/

/-- The least and greatest value of an integer type. -/
def ElemT.range : ElemT → Int × Int
  | .s8 => (-128, 127)
  | .n8 => (0, 255)
  | .s16 => (-32768, 32767)
  | .n16 => (0, 65535)
  | .s32 => (-2147483648, 2147483647)
  | .n32 => (0, 4294967295)
  | .t2 => (-1, 1)
  | _ => (0, 1)

/-- The integer that raw bits of an integer type stand for. -/
def ElemT.intOf (t : ElemT) (x : Nat) : Int :=
  match t with
  | .t2 => if x % 4 = 1 then 1 else if x % 4 = 3 then -1 else 0
  | _ => if t.signed && decide (2 ^ (t.width - 1) ≤ x) then (x : Int) - 2 ^ t.width else x

/-- The raw bits of an integer in a type, wrapped to its width. -/
def ElemT.bitsOf (t : ElemT) (x : Int) : Nat := (x % (2 ^ t.width : Nat)).toNat

/-- An integer clamped to a type (R171): its bits and whether it was outside. -/
def ElemT.clamp (t : ElemT) (x : Int) : Nat × Bool :=
  let (lo, hi) := t.range
  if x < lo then (t.bitsOf lo, true) else if hi < x then (t.bitsOf hi, true) else (t.bitsOf x, false)

/-- The value that raw bits of an element stand for, and TRES for a reserved .T2 code (R163, R166). -/
def ElemT.value (t : ElemT) (x : Nat) : Fp × Flags :=
  if t.isFloat then (t.fmt.value x, 0)
  else (Fp.ofInt (t.intOf x) 0 false, flagIf (decide (t = .t2) && decide (x % 4 = 2)) fTRES)

/-- A value converted into an integer type or .T2 (R171). -/
def ElemT.roundInt (t : ElemT) (mode : Rm) (r : Nat) (x : Fp) : Nat × Flags :=
  match x with
  | .nan _ => (0, fNV)
  | .inf neg => ((t.clamp (if neg then t.range.1 else t.range.2)).1, fSAT)
  | .zero _ => (0, 0)
  | .num neg m e =>
    if 70 < (Nat.log2 m : Int) + e then ((t.clamp (if neg then t.range.1 else t.range.2)).1, fSAT ||| fNX)
    else
      -- a number below 2^-40 rounds as 2^-41 does, in every mode
      let (m, e) := if (Nat.log2 m : Int) + e < -41 then (1, -41) else (m, e)
      let (n, nx) := roundAt mode r neg m e 0
      let (b, out) := t.clamp (signedOf neg n)
      (b, if out then fSAT ||| fNX else flagIf nx fNX)

/-- A value rounded to a type: a float type by R167, .E4 and .E5 by R170, an integer type or .T2 by R171. -/
def ElemT.convert (t : ElemT) (mode : Rm) (r : Nat) (nosat : Bool) (x : Fp) : Nat × Flags :=
  match t with
  | .e4 | .e5 => t.fmt.round8 mode r nosat x
  | .h | .bf | .f => t.fmt.round mode r x
  | _ => t.roundInt mode r x

/-- The conversion of one element, as VCVT makes it (R236). -/
def cvtElem (dst src : ElemT) (mode : Rm) (r : Nat) (nosat : Bool) (x : Nat) : Nat × Flags :=
  let (v, f) := src.value x
  let (b, g) := dst.convert mode r nosat v
  (b, f ||| g)

/-- The pair of types that VCVT accepts (R64). -/
def cvtPair (dst src : ElemT) : Bool := decide (dst ≠ src) && decide (dst ≠ .b1) && decide (src ≠ .b1)

/-! ## The generator (R174, R175) -/

/-- Mix. -/
def mix (z : W32) : W32 :=
  let z := z ^^^ (z >>> 16)
  let z := z * 0x9E3779B1
  let z := z ^^^ (z >>> 15)
  let z := z * 0x85EBCA77
  z ^^^ (z >>> 16)

/-- Gen: the 32 random bits of a key. -/
def gen (rseed nodeid : W32) (x y : BitVec 16) (e : Nat) : Nat :=
  let h := mix (rseed ^^^ 0x5AC33C5A)
  let h := mix (h ^^^ nodeid)
  let h := mix (h ^^^ ((y.setWidth 32 <<< 16) ||| x.setWidth 32))
  (mix (h ^^^ BitVec.ofNat 32 e)).toNat

/-! ## MXFP8 (R165, R184, R185) -/

/-- The greatest exponent of an FP8 type: emax of R184. -/
def ElemT.emax : ElemT → Int
  | .e4 => 8
  | _ => 15

/-- The value of an element under an E8M0 scale; a scale of 0xFF gives NaN (R185). -/
def mxValue (x : Fp) (s : Nat) : Fp := if s = 255 then .nan false else x.scale ((s : Int) - 127)

/-- floor(log2) of the greatest magnitude among the finite elements; none where no finite element is non-zero. -/
def topExp : List Fp → Option Int
  | [] => none
  | .num _ m e :: xs =>
    let k := (Nat.log2 m : Int) + e
    match topExp xs with
    | some j => some (max j k)
    | none => some k
  | _ :: xs => topExp xs

/-- A block quantised to MXFP8: the scale, the element codes and the flags (R184). -/
def quantBlock (t : ElemT) (nosat : Bool) (l : List Fp) : Nat × List Nat × Flags :=
  if l.any Fp.isNan then
    (255, l.map fun _ => t.fmt.nanBits, flagIf (l.any fun x => decide (nanFlags x ≠ 0)) fNV)
  else
    let x : Int := match topExp l with
      | none => -127
      | some k => max (k - t.emax) (-127)
    let rs := l.map fun v => t.fmt.round8 .rne 0 nosat (v.scale (-x))
    ((x + 127).toNat, rs.map Prod.fst, rs.foldl (fun f y => f ||| y.2) 0)

end Sys2Proof
end

