-- ==== Sys2Proof/Machine/Link.lean ====
section
/-! DEFINITION. Peer links: flits, their protection and their sending (R463-R465), which carry this device's requests and
responses as well as those that it forwards. -/

namespace Sys2Proof.Machine

/-! ## Flits (R463) -/

/-- One byte into a CRC with the ECMA-182 polynomial, most significant bit first. -/
def flitCrcByte (crc : W64) (b : Byte) : W64 :=
  (List.range 8).foldl (fun c _ => if c.msb then (c <<< 1) ^^^ 0x42F0E1EBA9EA3693 else c <<< 1)
    (crc ^^^ (b.setWidth 64 <<< 56))

/-- The CRC-64 of a list of bytes (R463; log 25). -/
def crc64 (bs : List Byte) : W64 := bs.foldl flitCrcByte 0

/-- SEQ of a flit. -/
def flitSeq (f : BitVec 2048) : BitVec 12 := f.setWidth 12

/-- A flit's CRC passes (R463, R464). -/
def flitCrcOk (f : BitVec 2048) : Bool := crc64 (bytesOfNat 248 f.toNat) = BitVec.ofNat 64 (bitsAt f.toNat 1984 64)

/-- The fields of a flit that must be 0 are 0, and its VC is not reserved (R463). -/
def flitFormed (f : BitVec 2048) : Bool :=
  let x := f.toNat
  decide (bitsAt x 12 4 = 0) && decide (bitsAt x 16 8 ≤ 2) && decide (bitsAt x 29 3 = 0) && decide (bitsAt x 32 32 = 0)

/-- DEST of a flit. -/
def flitDest (f : BitVec 2048) : Fin 32 := ⟨bitsAt f.toNat 24 5, Nat.mod_lt _ (by decide)⟩

/-- VC of a flit: 0 request, 1 response, 2 link control. -/
def flitVc (f : BitVec 2048) : Fin 3 := ⟨bitsAt f.toNat 16 8 % 3, Nat.mod_lt _ (by decide)⟩

/-- A flit with a payload in plaintext, before a link numbers and protects it. -/
def plainFlit (vc : Fin 3) (dest : Fin 32) (payload : BitVec 1856) : BitVec 2048 :=
  BitVec.ofNat 2048 (vc.val * 2 ^ 16 + dest.val * 2 ^ 24 + payload.toNat * 2 ^ 64)

/-- AES-256-GCM of a flit's payload under a link key, in either direction: the text and the MAC, the leftmost 64 bits of the tag
(R463). IV and additional data are free values (log 7). -/
def linkGcm (key : BitVec 256) (n : Nat) (f : BitVec 2048) : Nat × Nat :=
  let x := aesGcm (keyBytes key) (beOfNat 12 (Config.linkIv n).toNat) ((Config.linkAad n).map BitVec.toNat)
    ((bytesOfNat 232 (bitsAt f.toNat 64 1856)).map BitVec.toNat)
  (natOfBytes (x.1.map (BitVec.ofNat 8)), natOfBe (x.2.take 8))

/-- The flit as it leaves by a port: its sequence number, its payload and MAC under the link key, and the CRC. -/
def flitSeal (key : BitVec 256) (n : Nat) (seq : BitVec 12) (f : BitVec 2048) : BitVec 2048 :=
  let t := linkGcm key n f
  let x := seq.toNat + bitsAt f.toNat 16 48 * 2 ^ 16 + t.1 * 2 ^ 64 + t.2 * 2 ^ 1920
  BitVec.ofNat 2048 (x + (crc64 (bytesOfNat 248 x)).toNat * 2 ^ 1984)

/-- A flit that has arrived, with its payload in plaintext. -/
def flitOpen (key : BitVec 256) (n : Nat) (f : BitVec 2048) : BitVec 2048 :=
  BitVec.ofNat 2048 (bitsAt f.toNat 16 48 * 2 ^ 16 + (linkGcm key n f).1 * 2 ^ 64)

/-! ## Ports (R464-R466) -/

/-- A peer port. -/
def State.port (s : State) (p : Fin 4) : Port := s.ports[p.val]'p.isLt

/-- Sets a peer port. -/
def State.setPort (s : State) (p : Fin 4) (x : Port) : State := { s with ports := s.ports.set p.val x p.isLt }

/-- The port toward a device (R466). -/
def State.peerPort (s : State) (d : Fin 32) : Fin 4 :=
  ⟨(SMap.get 0 s.routes d.val).toNat % 4, Nat.mod_lt _ (by decide)⟩

/-- A flit waits while its port trains, in the buffer of its virtual channel (R464, R465); a port that is down carries none (R463). -/
def State.holdFlit (s : State) (p : Fin 4) (f : BitVec 2048) : State :=
  let x := s.port p
  if x.state = 1 then
    let c := flitVc f
    s.setPort p { x with waiting := x.waiting.set c.val ((x.waiting[c.val]'c.isLt) ++ [f]) c.isLt }
  else s

/-- A flit leaves by a keyed port: it takes the next sequence number and stands in the replay buffer of 512 flits (R464). -/
def State.sendFlit (s : State) (p : Fin 4) (f : BitVec 2048) : State :=
  let x := s.port p
  match x.key with
  | some k =>
    if x.state = 2 then
      let g := flitSeal k s.fresh x.tx f
      let buf := x.replay ++ [g]
      State.send ({ s with fresh := s.fresh + 1 }.setPort p { x with tx := x.tx + 1, replay := buf.drop (buf.length - 512) })
        (.flit p g)
    else s.holdFlit p f
  | none => s.holdFlit p f

/-- A message of this device goes to the port toward its destination, which takes it into a flit of its virtual channel (R463,
R465). The spec lays out no message, and each takes one flit (log 25). A port that is down takes none. -/
def State.message (s : State) (d : Fin 32) (vc : Fin 3) (o : Out) (fields : List Nat) : State :=
  let p := s.peerPort d
  if (s.port p).state = 0 then s else (s.send o).sendFlit p (plainFlit vc d (Config.payload fields))

/-- The fields of an operation, as a message holds them. -/
def opFields : PeerOp → List Nat
  | .read n => [0, n]
  | .write bs => 1 :: bs.map BitVec.toNat
  | .masked parts => 2 :: parts.flatMap fun p => p.1 :: p.2.length :: p.2.map BitVec.toNat
  | .atomic o w x => [3, (match o with
      | .add => 0 | .and => 1 | .or => 2 | .xor => 3 | .min => 4 | .max => 5 | .minn => 6 | .maxn => 7), w.toNat, x.toNat]
  | .swap w x => [4, w.toNat, x.toNat]
  | .cas w x y => [5, w.toNat, x.toNat, y.toNat]

/-- A request of this device goes to its peer (R468). -/
def State.sendAsk (s : State) (d : Fin 32) (r : PeerReq) : State :=
  s.message d 0 (.ask d r) ([r.tag, r.srcDev.val, r.srcCtx.toNat, r.kid.toNat, r.addr] ++ opFields r.op)

/-- The response to a peer's request (R468, R469). -/
def State.sendReply (s : State) (d : Fin 32) (tag : Nat) (bs : List Byte) (poison : Bool) : State :=
  s.message d 1 (.peer d tag bs poison) (tag :: poison.toNat :: bs.map BitVec.toNat)

end Sys2Proof.Machine
end

