-- ==== Sys2Proof/Machine/Steward.lean ====
section
/-! DEFINITION. The steward operations (R118-R124): PREEMPT, QSUSP, QRES, SEMMAP, DRAINM, RSEED. -/

namespace Sys2Proof.Machine

/-! ## Queues (R121, R389, R390) -/

/-- QSUSP of a queue at a packet boundary (R121). A SIGNAL that has not performed is fetched again. A parked or halted queue keeps
its state, which only a reset leaves (R390). -/
def Queue.suspend (q : Queue) : Queue :=
  match q.state with
  | .suspended => q
  | .parked | .halted => { q with frozen := true }
  | .fetching => { q with state := .suspended, prev := .fetching, held := none }
  | st => { q with state := .suspended, prev := st }

/-- The fetcher stands between two records of an OPERATORS packet (R394). -/
def Queue.midPacket (q : Queue) : Bool := decide (q.state = .fetching) && decide (0 < q.opsLeft)

/-- QSUSP of a queue: at once, or at the next packet boundary (R121, R390). -/
def Queue.stop (q : Queue) : Queue := if q.midPacket then { q with stopping := true } else q.suspend

/-- A QSUSP that waits for the packet boundary takes effect there, or where the queue starts to wait (R390). -/
def Queue.settled (q : Queue) : Queue := if q.stopping && !q.midPacket then { q.suspend with stopping := false } else q

/-- A queue of a context. -/
def State.queue (s : State) (c : CtxId) (q : Nat) : Queue := SMap.get Queue.init (s.ctx c).queues q

/-- Writes a queue of a context. -/
def State.setQueue (s : State) (c : CtxId) (q : Nat) (x : Queue) : State :=
  s.setCtx c { s.ctx c with queues := SMap.set Queue.init (s.ctx c).queues q x.settled }

/-- The number of slots of a ring (R389). -/
def Queue.size (q : Queue) : Nat := 2 ^ (bitsAt q.qbase.toNat 0 4 + 6)

/-- HEAD stands at TAIL. -/
def Queue.empty (q : Queue) : Bool := decide (q.head % q.size = q.tail)

/-- No card of the queue launches (R121). -/
def Queue.barred (q : Queue) : Bool := decide (q.state = .suspended) || q.frozen

/-- QRES of a suspended queue: back to the state it left, and recorded kicks are acted on (R121, R390). -/
def Queue.resume (q : Queue) : Queue :=
  let st := match q.prev with
    | .waiting => .waiting
    | .fetchFault => .fetchFault
    | _ => if q.empty then .idle else .fetching
  { q with state := st, prev := .idle, frozen := false }

/-- The queues that a context has: 64 of a VF, one of a steward context (R389). -/
def queueCount (c : CtxId) : Nat := if c.val < 384 then 64 else 1

/-- Suspends a queue, as QSUSP does (R121). A CASTLING of the same instant still comes first (R394). -/
def State.suspendQueue (s : State) (c : CtxId) (q : Nat) : State :=
  let s1 := s.setQueue c q (s.queue c q).stop
  if (s.queue c q).state = .waiting then s1.note (.suspend c q) else s1

/-- Suspends every queue of a context (R120). -/
def State.suspendAll (s : State) (c : CtxId) : State :=
  (List.range (queueCount c)).foldl (fun st q => st.suspendQueue c q) s

/-- Every fetcher of a context that is to stop has stopped (R120, R121). -/
def State.fetchersStopped (s : State) (c : CtxId) : Bool :=
  (List.range (queueCount c)).all fun q => !(s.queue c q).stopping

/-! ## Handles (R118) -/

/-- A context handle names a context of the partition. -/
def State.ctxHandle (s : State) (p : PartId) (h : Nat) : Option CtxId :=
  match ctxOfNum h with
  | some c => if s.ctxPart c = some p then some c else none
  | none => none

/-- A queue handle. -/
def State.queueHandle (s : State) (p : PartId) (h : Nat) : Option (CtxId × Nat) :=
  match s.ctxHandle p (h / 65536) with
  | some c => if h % 65536 < queueCount c then some (c, h % 65536) else none
  | none => none

/-- A core of the partition. -/
def State.coreHandle (s : State) (p : PartId) (h : Nat) : Option CoreId :=
  if hc : h < 128 then
    let c : CoreId := ⟨h, hc⟩
    if s.cluPart (coreClu c) = some p then some c else none
  else none

/-- Every card of the die with its dispatcher. -/
def State.allCards (s : State) : List (CluId × Nat × Card) :=
  (List.finRange 32).flatMap fun k => (s.cluster k).cards.map fun e => (k, e.1, e.2)

/-- Slot `n` of a dispatcher. -/
def slotOf (n : Nat) : SlotId := ⟨n % 512, Nat.mod_lt _ (by decide)⟩

/-- Cards of a context whose jobs run. -/
def State.runningOf (s : State) (c : CtxId) : List (CluId × SlotId × Card) :=
  s.allCards.filterMap fun e =>
    if e.2.2.ctx = c ∧ (e.2.2.phase = .running ∨ e.2.2.phase = .saving) then some (e.1, slotOf e.2.1, e.2.2) else none

/-! ## The frame -/

/-- A status code of R119. -/
inductive Status | done | none | badHandle | busy | refused
  deriving DecidableEq, Repr

/-- The number of a status code (R119). -/
def Status.code : Status → W64
  | .done => 0
  | .none => 1
  | .badHandle => 2
  | .busy => 3
  | .refused => 4

/-- A steward instruction has completed with a status (R119), which enters C's input log (R285). -/
def Job.opDone (j : Job) (d : Opnd) (st : Status) : Job :=
  ((((j.log .c st.code).result .c d fun _ => st.code).setWait .c .run).done .c 1)

/-- A steward instruction has issued, and C waits for its operation (R130, R286). -/
def Job.goesOn (j : Job) (args : List W64) : Job := (j.stand.setWait .c (.op args)).act .c

/-- A steward instruction that issues, reads its operands, and may then wait for an operation of the device (R130). -/
def stewardOp (i : Instr) (start poll : State → CoreId → Job → List W64 → State) (s : State) : Res :=
  withJob s .c fun c j =>
    match j.c.wait with
    | .op args => poll s c j args
    | _ =>
      issueState s .c i 1 (fun s c j =>
        let (j1, vs) := readFields j (fieldsOf j i)
        start s c j1 (vs.map fun v => (v.scalar 32 (j.reg .c)).setWidth 64)) c j

/-- The first and second operand value. -/
def argN (l : List W64) (n : Nat) : Nat := (l.getD n 0).toNat

/-- The operand value itself. -/
def argW (l : List W64) (n : Nat) : W64 := l.getD n 0

/-! ## PREEMPT (R120) -/

/-- Sets a notice of C in every job of a card (R130). -/
def State.notice (s : State) (x : Card) (f : CEng → CEng) : State :=
  x.cores.foldl (fun st c =>
    match st.job c with
    | some j => st.setJob c { j with c := f j.c }
    | none => st) s

/-- A PREEMPT of a context by a job: queues are suspended and every running job gets a notice and is asked to stop (R120). -/
def State.preempt (s : State) (c : CtxId) (by_ : CoreId) (id : W32) : State :=
  let s1 := (s.runningOf c).foldl (fun st e =>
    (st.notice e.2.2 fun x => { x with ppre := true }).askStop e.1 e.2.1 1) (s.suspendAll c)
  s1.setCtx c { s1.ctx c with preempting := some (by_, id) }

/-- A PREEMPT of the context is in progress: the job that issued it still waits for it (R120). -/
def State.preemptBusy (s : State) (c : CtxId) : Bool :=
  match (s.ctx c).preempting with
  | none => false
  | some (k, id) =>
    match s.job k with
    | none => false
    | some j => decide (j.jobid = id) && match j.c.wait with
      | .op _ => true
      | _ => false

/-- PREEMPT (R120): C stalls until every job and, as for QSUSP, every fetcher of the context has stopped. Where several statuses apply the spec gives no order: by a design choice REFUSED comes first, then BUSY, then
NONE, and REFUSED and BUSY suspend no queue (log 84). -/
def execPreempt (d a : Opnd) (s : State) : Res :=
  stewardOp (.preempt d a)
    (fun s c j args =>
      match s.ctxHandle j.part (argN args 0) with
      | none => s.setJob c (j.opDone d .badHandle)
      | some x =>
        if decide (x = j.ctx) || (s.vacating x && decide ((s.part j.part).wrapPhase = .vacating)) then
          s.setJob c (j.opDone d .refused)
        else if s.preemptBusy x then s.setJob c (j.opDone d .busy)
        else if (s.runningOf x).isEmpty && (s.suspendAll x).fetchersStopped x then (s.suspendAll x).setJob c (j.opDone d .none)
        else (s.preempt x c j.jobid).setJob c (j.goesOn [argW args 0, if (s.runningOf x).isEmpty then 1 else 0]))
    (fun s c j args =>
      match s.ctxHandle j.part (argN args 0) with
      | none => s.setJob c (j.opDone d .done)
      | some x =>
        if (s.runningOf x).isEmpty && s.fetchersStopped x then
          (s.setCtx x { s.ctx x with preempting := none }).setJob c (j.opDone d (if argN args 1 = 1 then .none else .done))
        else s) s

/-! ## QSUSP, QRES (R121) -/

/-- QSUSP (R121): C waits until the fetcher has stopped. -/
def execQsusp (d a : Opnd) (s : State) : Res :=
  stewardOp (.qsusp d a)
    (fun s c j args =>
      match s.queueHandle j.part (argN args 0) with
      | none => s.setJob c (j.opDone d .badHandle)
      | some (x, q) =>
        let u := s.queue x q
        if u.barred then s.setJob c (j.opDone d .none)
        else if u.midPacket then (s.suspendQueue x q).setJob c (j.goesOn args)
        else (s.suspendQueue x q).setJob c (j.opDone d .done))
    (fun s c j args =>
      match s.queueHandle j.part (argN args 0) with
      | none => s.setJob c (j.opDone d .done)
      | some (x, q) => if (s.queue x q).stopping then s else s.setJob c (j.opDone d .done)) s

/-- QRES. -/
def execQres (d a : Opnd) (s : State) : Res :=
  stewardOp (.qres d a)
    (fun s c j args =>
      match s.queueHandle j.part (argN args 0) with
      | none => s.setJob c (j.opDone d .badHandle)
      | some (x, q) =>
        let u := s.queue x q
        match u.state with
        | .parked | .halted => s.setJob c (j.opDone d .refused)
        | .suspended => (s.setQueue x q u.resume).setJob c (j.opDone d .done)
        | _ => s.setJob c (j.opDone d .none))
    (fun s _ _ _ => s) s

/-! ## SEMMAP (R122) -/

/-- A physical semaphore of the partition (R306), or the removal of a mapping, as the map holds it. -/
def State.semTarget (s : State) (p : PartId) (b : Nat) : Option Nat :=
  if b = 0xFFFFFFFF then some 0
  else if b < 8192 ∧ s.cluPart (semClu b) = some p then some (b + 1) else none

/-- SEMMAP. A SIG performs whole in one step, so none is between the old entry and the new. With both operands bad TRAPVAL holds
the handle s[A]: the spec does not say which, and the choice is the model's (log 84). -/
def execSemmap (a b : Opnd) (s : State) : Res :=
  issue s .c (.semmap a b) 1 fun s c j =>
    let (j1, vs) := readFields j (fieldsOf j (.semmap a b))
    let x := cArg j.c.arch vs 0
    let y := cArg j.c.arch vs 1
    let k := if bitsAt x.toNat 10 6 = 0 then s.ctxHandle j.part (x.toNat / 65536) else none
    match k, s.semTarget j.part y.toNat with
    | none, _ => s.setJob c (j.raise .c .protection x)
    | some _, none => s.setJob c (j.raise .c .protection y)
    | some n, some p =>
      let m := SMap.set 0 (s.ctx n).semmap (x.toNat % 1024) p
      (s.setCtx n { s.ctx n with semmap := m }).setJob c (j1.done .c 1)

/-! ## DRAINM (R123) -/

/-- Every M instruction that the core has issued has completed, with its results for registers, streams and FPFLAGS. Those issued
after the DRAINM, which stops no issue, are waited for too: a design choice where the spec does not say (log 84). -/
def State.drained (s : State) (c : CoreId) : Bool :=
  match s.job c with
  | none => true
  | some j => j.m.flights.isEmpty && j.m.pend.isEmpty && j.m.flagFlights.isEmpty

/-- DRAINM. -/
def execDrainm (d a : Opnd) (s : State) : Res :=
  stewardOp (.drainm d a)
    (fun s c j args =>
      let h := argN args 0
      let go := fun k => if s.drained k then s.setJob c (j.opDone d .done)
        else s.setJob c (j.goesOn args)
      if j.steward then
        match s.coreHandle j.part h with
        | none => s.setJob c (j.opDone d .badHandle)
        | some k => go k
      else if h = c.val then go c
      else
        match s.job c with
        | some old => s.setJob c (old.raise .c .protection (BitVec.ofNat 32 h))
        | none => s)
    (fun s c j args =>
      let k := (s.coreHandle j.part (argN args 0)).getD c
      if s.drained k then s.setJob c (j.opDone d .done) else s) s

/-! ## RSEED (R124) -/

/-- The running job of a partition that a JOBID names. -/
def State.jobNamed (s : State) (p : PartId) (id : W32) : Option (CoreId × Job) :=
  (List.finRange 128).findSome? fun c =>
    match s.job c with
    | some j => if j.part = p ∧ j.jobid = id then some (c, j) else none
    | none => none

/-- The stopped card whose image holds the job that a JOBID names. -/
def State.stoppedNamed (s : State) (p : PartId) (id : W32) : Option Card :=
  (s.allCards.find? fun e =>
    decide (e.2.2.phase = .stopped) && decide (s.ctxPart e.2.2.ctx = some p)
      && decide (e.2.2.jobid = id.toNat % 2 ^ 28) && decide (id.toNat / 2 ^ 28 < e.2.2.members)).map fun e => e.2.2

/-- A save header with its CHK, from its first 252 bytes (R441). -/
def headerWith (bs : List Byte) : List Byte := withCrc (bs.take 252)

/-- A save header with a pending seed (R124, R441). -/
def headerSeed (h : List Byte) (seed : W32) : List Byte :=
  headerWith (h.take 56 ++ bytesOfNat 4 seed.toNat ++ [1] ++ h.drop 61)

/-- The device writes `n` pieces of 128 bytes at an aligned virtual address, as records (R441). -/
def State.recordAll (s : State) (ctx : CtxId) (va : Nat) : Nat → List Byte → State
  | 0, _ => s
  | n + 1, bs => (s.record (.virt ctx va) (bs.take 128) none).recordAll ctx (va + 128) n (bs.drop 128)

/-- The seed of a stopped job goes into its save header, and CHK is computed anew (R124, R441). A header that cannot be read keeps
its seed, and one that cannot be written too: the spec names no other end, and the choice is the model's (log 84). `none` while
the header is being brought. -/
def State.seedStopped (s : State) (x : Card) (member : Nat) (seed : W32) : Option State :=
  let va := x.save + 0x400000 * member
  if !s.recs.isEmpty then none else
  match s.devRead x.ctx va 4 with
  | .data h => some ((s.devDrawn x.ctx va 4).recordAll x.ctx va 2 (headerSeed h seed))
  | r => if r.waits then none else some s

/-- What the header of a stopped job waits for. -/
def State.seedWait (s : State) (x : Card) (member : Nat) : State :=
  s.drainRecs.devWait x.ctx (s.devRead x.ctx (x.save + 0x400000 * member) 4)

/-- RSEED: the seed is pending until the job's next slate (R124). -/
def execRseed (a b : Opnd) (s : State) : Res :=
  issue s .c (.rseed a b) 1 fun s c j =>
    let (j1, vs) := readFields j (fieldsOf j (.rseed a b))
    let x := cArg j.c.arch vs 0
    let seed := cArg j.c.arch vs 1
    let bad := s.setJob c (j.raise .c .protection x)
    if !j.steward then
      if x = j.jobid then s.setJob c ({ j1 with nseed := some seed }.done .c 1) else bad
    else if x = j.jobid then s.setJob c ({ j1 with nseed := some seed }.done .c 1)
    else
      match s.jobNamed j.part x with
      | some (k, o) => (s.setJob k { o with nseed := some seed }).setJob c (j1.done .c 1)
      | none =>
        match s.stoppedNamed j.part x with
        | some y =>
          match s.seedStopped y (x.toNat / 2 ^ 28) seed with
          | some s1 => s1.setJob c (j1.done .c 1)
          | none => s.seedWait y (x.toNat / 2 ^ 28)
        | none => bad

end Sys2Proof.Machine
end

