-- ==== Sys2Proof/Machine/Global.lean ====
section
/-! DEFINITION. Global accesses of the A engine and of copy commands: translation with its page waits (R196), the side
cache (R154, R155), reads (R195, R197, R408), writes of the node with staging and escape (R198, R333, R421-R424), posted
stores (R194) and requests to peers (R467-R470). -/

namespace Sys2Proof.Machine

/-! ## Side caches (R154, R155) -/

/-- The job's card is a fused gang. -/
def State.fused (s : State) (j : Job) : Bool :=
  match s.card j.cluster j.slot with
  | some x => x.fuse
  | none => false

/-- The core whose slice holds a line: the own core, or the owning core of a fused gang. -/
def State.sideOwner (s : State) (c : CoreId) (j : Job) (pa : Nat) : CoreId :=
  if s.fused j then corePeer c ⟨pa / 128 % 4, Nat.mod_lt _ (by decide)⟩ else c

/-- The set of a line in a slice. -/
def sideSet (fused : Bool) (line : Nat) : Nat := if fused then line / 4 % 128 else line % 128

/-- The cores whose side caches an acquire or an invalidation of all lines reaches (R217, R220). -/
def State.sideCores (s : State) (c : CoreId) (j : Job) : List CoreId :=
  if s.fused j then (List.finRange 4).map (corePeer c) else [c]

/-- Empties the side cache of a core. -/
def State.sideFlush (s : State) (c : CoreId) : State := s.setCore c { s.core c with side := [] }

/-- Empties the side caches that the job uses. -/
def State.sideFlushAll (s : State) (c : CoreId) (j : Job) : State :=
  (s.sideCores c j).foldl State.sideFlush s

/-- Removes the line of an address. -/
def State.sideDrop (s : State) (c : CoreId) (j : Job) (pa : Nat) : State :=
  let o := s.sideOwner c j pa
  s.setCore o { s.core o with side := (s.core o).side.erase (pa / 128) }

/-- Updates a present line (R154). -/
def State.sideUpdate (s : State) (c : CoreId) (j : Job) (pa : Nat) (bs : List Byte) : State :=
  let o := s.sideOwner c j pa
  match SMap.find (s.core o).side (pa / 128) with
  | none => s
  | some r => s.setCore o { s.core o with side := (s.core o).side.insert (pa / 128) (patchRow r (pa % 128) bs) }

/-- The slice of a line serves the job: that of its own core, or of a core on which a job of its gang still runs. A slice whose job
has stopped is empty and takes no line before the next job there (R154). -/
def State.sideOpen (s : State) (c : CoreId) (j : Job) (pa : Nat) : Bool :=
  let o := s.sideOwner c j pa
  decide (o = c) || match s.job o with
    | some x => decide (x.cluster = j.cluster ∧ x.slot = j.slot)
    | none => false

/-- Installs a line; a full set of four ways loses a line that the spec does not name (log 11). -/
def State.sideFill (s : State) (c : CoreId) (j : Job) (pa : Nat) (r : Row) : State :=
  if !s.sideOpen c j pa then s else
  let o := s.sideOwner c j pa
  let f := s.fused j
  let m := (s.core o).side
  let set := m.filter fun e => decide (sideSet f e.1 = sideSet f (pa / 128))
  let m1 := if set.length < 4 then m else
    match set[Config.replaceWay s.fresh 4 % 4]? with
    | some e => m.erase e.1
    | none => m
  { s.setCore o { s.core o with side := m1.insert (pa / 128) r } with fresh := s.fresh + 1 }

/-! ## Translation for the A engine (R196, R377, R378) -/

/-- A translated piece of an access within one line: virtual and physical address, KIND. -/
structure Piece where
  va : Nat
  pa : Nat
  kind : Fin 3
  deriving DecidableEq, Repr

/-- A page wait of an engine at an address no longer counts. -/
def Job.clearPage (j : Job) (e : Eng) : Job := { j with pages := j.pages.filter fun p => decide (p.user ≠ .eng e) }

/-- The kind of a walk and of a page request of A (R377). -/
def accKind : Acc4 → Nat
  | .read => 0
  | .write => 1
  | .atomic => 2
  | .fetch => 3

/-- What A does at an address that has no translation: it waits, asks for a walk, or raises PAGE_DENIED (R132, R196). -/
def State.missA (s : State) (c : CoreId) (j : Job) (va : Nat) (a : Acc4) : State :=
  let walk := s.needWalk (coreClu c) j.part j.ctx va (.access c .a (accKind a))
  match j.pageAt .a va with
  | some p =>
    match p.denied with
    | some cause => s.setJob c (j.raiseAt cause va)
    | none => if p.tag.isSome then s else walk
  | none => walk

/-- An access of A that waits for the answer of a page request, or that is to raise what the answer brought, whatever the TLBs have
come to hold (R378, R379). -/
def Job.pageStuck (j : Job) (e : Eng) (va : Nat) : Bool :=
  (j.pageAt e va).any fun p => p.tag.isSome || p.denied.isSome

/-- An access that stops before it performs. -/
inductive Bar
  | miss (va : Nat)
  | forbidden (va : Nat)
  | align (va : Nat)
  deriving DecidableEq, Repr

/-- The device of a peer frame (R467). -/
def peerDev (pa : Nat) : Fin 32 := ⟨pa / 2 ^ 47 % 32, Nat.mod_lt _ (by decide)⟩

/-- A leaf of KIND 2 that cannot be reached raises PROTECTION (R467). -/
def State.peerBarred (s : State) (pa : Nat) : Bool :=
  let d := (peerDev pa).val
  decide (d = s.fabid.toNat) || !(SMap.get 0 s.routes d).getLsbD 2

/-- Checks and translates the addresses of an access of `n` bytes in order; the first that fails decides (R189, R192,
R196). An atomic must be naturally aligned; every other access must lie within one row. A page of another context is
forbidden (R196, R408). -/
def State.pieces (s : State) (c : CoreId) (j : Job) (a : Acc4) (n : Nat) : List Nat → Except Bar (List Piece)
  | [] => .ok []
  | va :: rest =>
    if 2 ^ 48 ≤ va then .error (.forbidden va)
    else if (if a = .atomic then va % n ≠ 0 else 128 < va % 128 + n) then .error (.align va)
    else if j.pageStuck .a va then .error (.miss va)
    else
      match s.translate c j.ctx va a with
      | .miss => .error (.miss va)
      | .forbidden => .error (.forbidden va)
      | .ok pa kind =>
        if decide (kind = 2) && s.peerBarred pa || decide (kind = 0) && s.foreign j.ctx (frameOf pa) then
          .error (.forbidden va)
        else
          match s.pieces c j a n rest with
          | .ok l => .ok (⟨va, pa, kind⟩ :: l)
          | .error e => .error e

/-- The outcome of a bar. -/
def State.barred (s : State) (c : CoreId) (j : Job) (a : Acc4) (b : Bar) : State :=
  match b with
  | .miss va => s.missA c j va a
  | .forbidden va => s.setJob c (j.raiseAt .protection va)
  | .align va => s.setJob c (j.raiseAt .align va)

/-! ## Reads -/

/-- The 32 lines of a block leave the cache where they are poisoned (R416). -/
def State.dropPoison (s : State) (pa : Nat) : State :=
  { s with lines := s.lines.filter fun e => !(decide (e.1 / 32 = pa / 4096) && e.2.poison.isSome) }

/-- What a read of the pieces gives. -/
inductive Got
  | ok (s : State) (rows : List Row)
  | stay (s : State)
  | trap (s : State) (cause : Cause) (va : Nat)

/-- A row at the system cache with the node's staged bytes; a host line comes into the cache (R367). -/
def State.lineGet (s : State) (c : CoreId) (j : Job) (p : Piece) : Got :=
  match s.nodeRead j (p.pa / 128 * 128) 128 p.kind with
  | .data bs => .ok ((if p.kind = 1 then s.hostCache j.ctx p.pa .s else s).touch p.pa) [rowOfBytes bs]
  | .poison x => .trap (s.dropPoison p.pa) x p.va
  | .barred => .trap s .protection p.va
  | .fill f => .stay (s.needFill { frame := f, ctx := j.ctx, core := some c, quiet := false })
  | .peer => .stay s

/-- As `lineGet`, once the host allowance covers what it draws (R354, R356). -/
def State.lineRead (s : State) (c : CoreId) (j : Job) (p : Piece) : Got :=
  if s.hostWaits j.ctx p.kind p.pa then .stay s else (s.hostDraw j.ctx p.kind p.pa).lineGet c j p

/-- The line of a side cache that a piece hits. -/
def State.sideHit (s : State) (c : CoreId) (j : Job) (p : Piece) : Option Row :=
  SMap.find (s.core (s.sideOwner c j p.pa)).side (p.pa / 128)

/-- The rows of the pieces one after the other. -/
def State.sideRows (s : State) (c : CoreId) (j : Job) : List Piece → Got
  | [] => .ok s []
  | p :: ps =>
    let one : Got := match s.sideHit c j p with
      | some r => .ok s [r]
      | none =>
        match s.lineGet c j p with
        | .ok s1 [r] => .ok (s1.sideFill c j p.pa r) [r]
        | g => g
    match one with
    | .ok s1 r =>
      match State.sideRows s1 c j ps with
      | .ok s2 rs => .ok s2 (r ++ rs)
      | g => g
    | g => g

/-- The first block of device memory that a piece has still to be brought from. -/
def State.sideWant (s : State) (j : Job) (l : List Piece) : Option Nat :=
  l.findSome? fun p =>
    match s.nodeRead j (p.pa / 128 * 128) 128 p.kind with
    | .fill f => some f
    | _ => none

/-- The rows of the pieces by way of the side cache (R208): a hit returns the line as it was filled. The others are read once their
blocks are there and the host allowance covers the blocks of host memory that they bring (R354, R356). -/
def State.sideRead (s : State) (c : CoreId) (j : Job) (l : List Piece) : Got :=
  let rest := l.filter fun p => (s.sideHit c j p).isNone
  match s.sideWant j rest with
  | some f => .stay (s.needFill { frame := f, ctx := j.ctx, core := some c, quiet := false })
  | none =>
    let n := s.hostBlocks j.ctx (rest.map fun p => (p.kind, p.pa))
    if s.hostAllow < 8 * n then .stay s else State.sideRows { s with hostAllow := s.hostAllow - 8 * n } c j l

/-! ## Requests to peers (R467-R470) -/

/-- The address in a peer's memory (R467). -/
def peerAddr (pa : Nat) : Nat := pa % 2 ^ 47

/-- Sends one request for a part of a peer's memory, under a tag of its own (R468). -/
def State.askOne (s : State) (c : CoreId) (ctx : CtxId) (use : PeerUse) (pa : Nat) (op : PeerOp) : State :=
  let d := peerDev pa
  let kid := match (s.ctx ctx).key.cur with
    | some k => kidOf k
    | none => 0
  let r : PeerOut := { tag := s.peerTag, core := c, use, port := s.peerPort d, sentAt := s.time }
  State.sendAsk { s with peerTag := s.peerTag + 1, peerReqs := s.peerReqs ++ [r] } d
    { tag := s.peerTag, srcDev := ⟨s.fabid.toNat, s.fabid.isLt⟩, srcCtx := BitVec.ofNat 16 (ctxNum ctx), kid, addr := peerAddr pa, op }

/-- Sends the requests for parts of peers' memories, whose 4 KiB blocks are metered to the requesting task (R471; log 25). -/
def State.askPeer (s : State) (c : CoreId) (ctx : CtxId) (use : PeerUse) (parts : List (Nat × PeerOp)) : State :=
  let s1 := (dedup (parts.map fun p => p.1 / 4096)).foldl (fun st _ => st.meterBlock (some c)) s
  parts.foldl (fun st p => st.askOne c ctx use p.1 p.2) s1

/-- The wait for requests with the tags from `tag` up, for parts at these virtual addresses. -/
def PeerWait.of (tag : Nat) (vas : List Nat) (wr : Bool) : PeerWait :=
  { parts := vas.zipIdx.map fun x => { tag := tag + x.2, va := x.1, reply := none }, wr }

/-- What the requests have brought, once every one has its response: their bytes in order, or the address of the first part that
failed (R197, R470, R472). -/
def PeerWait.got (w : PeerWait) : Option (Except Nat (List Byte)) :=
  if w.parts.any fun p => p.reply.isNone then none
  else
    match w.parts.find? fun p => (p.reply.getD (false, [])).1 with
    | some p => some (.error p.va)
    | none => some (.ok (w.parts.flatMap fun p => (p.reply.getD (false, [])).2))

/-- What A's peer access has become. -/
inductive PeerGot
  | wait (s : State)
  | data (bs : List Byte)
  | failed (va : Nat)

/-- A's peer access, by virtual address, place and operation of each part: sent once, then awaited (R469). -/
def State.peerAccess (s : State) (c : CoreId) (j : Job) (parts : List (Nat × Nat × PeerOp)) : PeerGot :=
  match j.a.peer with
  | none =>
    .wait ((s.askPeer c j.ctx .access (parts.map Prod.snd)).setJob c
      { j with a := { j.a with peer := some (PeerWait.of s.peerTag (parts.map Prod.fst) false) } })
  | some w =>
    match w.got with
    | none => .wait s
    | some (.error va) => .failed va
    | some (.ok bs) => .data bs

/-- A's peer access is over. -/
def Job.peerDone (j : Job) : Job := { j with a := { j.a with peer := none } }

/-! ## Writes of the node -/

/-- The physical pages of a queue's ring in its context (R389). -/
def State.ringPages (s : State) (ctx : CtxId) (q : Queue) : List Nat :=
  let base := bitsAt q.qbase.toNat 12 36 * 4096
  (List.range (q.size * 64 / 4096)).filterMap fun k =>
    (s.leafNow ctx (base + 4096 * k)).map fun e => e.pa (base + 4096 * k) / 4096

/-- The address lies in a ring of a queue of the partition (R422). -/
def State.inRing (s : State) (p : PartId) (pa : Nat) : Bool :=
  (List.finRange 408).any fun x =>
    (s.ctx x).queues.any fun e => decide (s.ctxPart x = some p) && decide (pa / 4096 ∈ s.ringPages x e.2)

/-- Splits a list of bytes at an address into parts that lie within 128-byte lines. -/
def splitLines : Nat → Nat → List Byte → List (Nat × List Byte)
  | 0, _, _ => []
  | n + 1, a, bs =>
    if bs = [] then [] else
    let k := 128 - a % 128
    (a, bs.take k) :: splitLines n (a + k) (bs.drop k)

/-- A write of device memory is refused at once for the owner or the key of its block (R196, R415). -/
def State.writeRefused (s : State) (ctx : CtxId) (pa : Nat) : Bool :=
  s.foreign ctx (frameOf pa) || (s.ctx ctx).key.cur.isNone

/-- The write can be staged: device memory, no ring, room, and a node that has not escaped (R421, R422). -/
def State.stageable (s : State) (j : Job) (p : Piece) : Bool :=
  match s.card j.cluster j.slot with
  | none => false
  | some x => !x.escaped && decide (p.kind = 0) && !s.inRing j.part p.pa && stageFits x.staged p.pa j.stageMax

/-- Stages a write and updates the own side-cache line (R154, R333). -/
def State.stageWrite (s : State) (c : CoreId) (j : Job) (p : Piece) (bs : List Byte) : State :=
  match s.card j.cluster j.slot with
  | none => s
  | some x =>
    (s.setCard j.cluster j.slot { x with staged := x.staged ++ [⟨p.pa, p.va, bs⟩] }).sideUpdate c j p.pa bs

/-! ## Posted accesses (R194, R201) -/

/-- Class of a posted access; a fence has none. -/
def Posted.cls : Posted → Option (Fin 16)
  | .scratch _ _ _ k _ _ => some k
  | .store _ _ k _ => some k
  | .peer _ _ k _ => some k
  | .fence _ _ => none

/-- A posted access lies in a class of a mask. -/
def Posted.inMask (m : BitVec 16) (p : Posted) : Bool :=
  match p.cls with
  | some k => m.getLsbD k.val
  | none => false

/-- Two ranges of bytes overlap. -/
def overlap (a n b k : Nat) : Bool := decide (a < b + k) && decide (b < a + n)

/-- A posted access that a new access of class `k` must follow: the same class (R325), a fence that names it (R216), or
the same bytes (R194). -/
def Posted.before (p : Posted) (k : Fin 16) (load : Bool) (phys : Bool) (a n : Nat) : Bool :=
  (match p.cls with
    | some q => decide (q = k)
    | none => false)
  || (match p with
    | .fence m _ => !load && m.getLsbD k.val
    | .scratch _ b bs _ _ _ => !phys && overlap a n b bs.length
    | .store _ parts _ _ | .peer _ parts _ _ => phys && parts.any fun x => overlap a n x.pa x.bytes.length)

/-- A must wait for posted accesses before it makes an access (R194, R216, R325; log 9). -/
def Job.mustWait (j : Job) (k : Fin 16) (load phys : Bool) (a n : Nat) : Bool :=
  j.a.posted.any fun p => p.before k load phys a n

/-- Posts an access. -/
def Job.post (j : Job) (p : Posted) : Job := { j with a := { j.a with posted := j.a.posted ++ [p] } }

end Sys2Proof.Machine
end

