-- ==== Sys2Proof/Machine/CopyGo.lean ====
section
/-! DEFINITION. Copy commands (R148, R156-R159): their fields, the checks at GO, and the command window. -/

namespace Sys2Proof.Machine

/-! ## Fields (R157) -/

/-- Bits of a command register. -/
def cmdBits (cmd : Vector W64 4) (r : Fin 4) (lo w : Nat) : Nat := bitsAt (cmd[r.val]'r.isLt).toNat lo w

/-- A signed 24-bit stride. -/
def stride24 (x : Nat) : Int := if x < 2 ^ 23 then (x : Int) else (x : Int) - 2 ^ 24

/-- A copy command's fields. -/
structure CopyFields where
  src : Nat
  dst : Nat
  len : Nat
  lines : Nat
  bar : Nat
  sstride : Int
  dstride : Int
  cls : Fin 16
  srcl : Bool
  dstl : Bool
  deriving DecidableEq, Repr

/-- Reads the fields of CMD0-CMD3. -/
def copyFields (cmd : Vector W64 4) : CopyFields :=
  { src := cmd[0].toNat, dst := cmd[1].toNat, len := cmdBits cmd 2 40 24, lines := cmdBits cmd 2 24 16, bar := cmdBits cmd 2 0 21
    sstride := stride24 (cmdBits cmd 3 40 24), dstride := stride24 (cmdBits cmd 3 16 24)
    cls := ⟨cmdBits cmd 3 12 4, Nat.mod_lt _ (by decide)⟩
    srcl := decide (cmdBits cmd 3 11 1 = 1), dstl := decide (cmdBits cmd 3 10 1 = 1) }

/-- A local address: the core and the byte of its scratchpad (R135, R190). -/
def localAt (c : CoreId) (a : Nat) : Option (CoreId × Nat) :=
  if a < 0x200000 then some (c, a)
  else if 0x1000000 ≤ a ∧ a < 0x1800000 then
    some (corePeer c ⟨a / 0x200000 % 4, Nat.mod_lt _ (by decide)⟩, a % 0x200000)
  else none

/-- As `localAt`, for an exact line address. -/
def localLine (c : CoreId) (a : Int) : Option (CoreId × Nat) := if a < 0 then none else localAt c a.toNat

/-- The format of the bank that holds a local end, of the job on the core that owns it (R148). An end in no scratchpad, or in one
without a job of the context, has none (R159). -/
def State.endFmt (s : State) (c : CoreId) (ctx : CtxId) (loc : Bool) (a : Nat) : Option W32 :=
  if !loc then none else
  match localAt c a with
  | none => none
  | some (k, b) =>
    match s.job k with
    | none => none
    | some j => if j.ctx = ctx then some (j.fmt[(bankOf b).val]'(bankOf b).isLt) else none

/-- The command converts (R148). -/
def converts (f : CopyFields) (sf df : W32) : Bool :=
  f.srcl && f.dstl && decide (bitsAt sf.toNat 0 4 ≠ bitsAt df.toNat 0 4)

/-- The width of the elements of a format. -/
def fmtWidth (w : W32) : Nat :=
  match fmtType w with
  | some t => t.width
  | none => 8

/-- Bytes that `n` source bytes become at the destination (R148). -/
def dstLen (f : CopyFields) (sf df : W32) (n : Nat) : Nat :=
  if converts f sf df then n * fmtWidth df / fmtWidth sf else n

/-! ## The checks at GO (R159) -/

/-- A local line lies wholly within one core's scratchpad, in usable rows, of a core that runs a job of the context. -/
def State.lineOk (s : State) (c : CoreId) (ctx : CtxId) (a : Int) (n : Nat) : Bool :=
  match localLine c a with
  | none => false
  | some (k, b) =>
    decide (b + n ≤ 0x200000)
      && ((List.range ((b + n - 1) / 128 + 1 - b / 128)).all fun i => s.rowUsable k (b / 128 * 128 + 128 * i))
      && (decide (k = c) || match s.job k with
        | some x => decide (x.ctx = ctx)
        | none => false)

/-- Every line of a local end passes. -/
def State.endOk (s : State) (c : CoreId) (ctx : CtxId) (base : Nat) (stride : Int) (n lines : Nat) : Bool :=
  (List.range lines).all fun i => s.lineOk c ctx ((base : Int) + (i : Int) * stride) n

/-- The rejection code of a command, 0 where it is accepted; of several the lowest (R159). -/
def State.copyCode (s : State) (c : CoreId) (j : Job) (w : CmdWin) (go : W64) : Nat :=
  let f := copyFields w.cmd
  let sfo := s.endFmt c j.ctx f.srcl f.src
  let dfo := s.endFmt c j.ctx f.dstl f.dst
  let sf := sfo.getD 0
  let df := dfo.getD 0
  let conv := sfo.isSome && dfo.isSome && converts f sf df
  if f.len = 0 ∨ f.lines = 0 ∨ 2 ^ 32 ≤ f.len * f.lines then 1
  else if f.bar % 32 ≠ 0 ∨ !s.rowUsable c f.bar then 2
  else if cmdBits w.cmd 2 21 3 ≠ 0 ∨ cmdBits w.cmd 3 0 10 ≠ 0 ∨ go.toNat / 65536 ≠ 0
      ∨ f.src / 2 ^ (if f.srcl then 32 else 48) ≠ 0 ∨ f.dst / 2 ^ (if f.dstl then 32 else 48) ≠ 0 then 3
  else if conv && (match fmtType sf, fmtType df with
      | some x, some y => !cvtPair y x || fmtMx sf || fmtMx df || decide (f.len * 8 % x.width ≠ 0)
          || decide (f.len * 8 / x.width * y.width % 8 ≠ 0)
      | _, _ => true) then 4
  else if (f.srcl && !s.endOk c j.ctx f.src f.sstride f.len f.lines)
      || (f.dstl && !s.endOk c j.ctx f.dst f.dstride (dstLen f sf df f.len) f.lines) then 5
  else 0

/-! ## The command window (R156, R158) -/

/-- A window of the job. -/
def Job.winAt (j : Job) (e : CopyId) : CmdWin := j.win[e.val]'e.isLt

/-- The job with a window replaced. -/
def Job.setWin (j : Job) (e : CopyId) (w : CmdWin) : Job := { j with win := j.win.set e.val w e.isLt }

/-- The commands of a job on a copy engine, in GO order. -/
def Job.copiesOf (j : Job) (e : CopyId) : List CopyCmd := j.copies[e.val]'e.isLt

/-- The job with those commands replaced. -/
def Job.setCopies (j : Job) (e : CopyId) (l : List CopyCmd) : Job := { j with copies := j.copies.set e.val l e.isLt }

/-- Counts a rejected command or a dropped access. -/
def CmdWin.reject (w : CmdWin) : CmdWin := { w with rej := satTo 255 (w.rej + 1) }

/-- STAT (R156). -/
def Job.statWord (j : Job) (e : CopyId) : W64 :=
  let w := j.winAt e
  BitVec.ofNat 64 ((j.copiesOf e).length * 2 ^ 32 + w.tag.toNat * 65536 + w.err.toNat * 256 + w.rej)

/-- Two ranges of bytes meet at some translation of their pages: they do so by their places within a page. -/
def meetInPage (a n b k : Nat) : Bool :=
  decide (4096 ≤ n + k) || overlap (a % 4096) n (b % 4096) k || overlap (a % 4096 + 4096) n (b % 4096) k
    || overlap (a % 4096) n (b % 4096 + 4096) k

/-- A line of a command at one end may meet a posted access. -/
def lineMeets (c : CoreId) (loc : Bool) (a : Int) (n : Nat) (p : Posted) : Bool :=
  match p with
  | .scratch k b bs _ _ _ =>
    loc && match localLine c a with
      | some (x, y) => decide (x = k) && overlap y n b bs.length
      | none => false
  | .store _ parts _ _ | .peer _ parts _ _ => !loc && parts.any fun x => meetInPage a.toNat n x.va x.bytes.length
  | .fence _ _ => false

/-- A posted access that the reads and writes of a command must follow: they count as accesses at its GO (R325, R334). -/
def CopyFields.follows (f : CopyFields) (c : CoreId) (p : Posted) : Bool :=
  lineMeets c true f.bar 32 p || (List.range f.lines).any fun i =>
    lineMeets c f.srcl ((f.src : Int) + (i : Int) * f.sstride) f.len p
      || lineMeets c f.dstl ((f.dst : Int) + (i : Int) * f.dstride) (if f.srcl && f.dstl then 16 * f.len else f.len) p

/-- GO waits for the stream's earlier accesses: those of the command's class, fences of it, and those of the same bytes (R334). -/
def Job.goWaits (j : Job) (c : CoreId) (f : CopyFields) : Bool :=
  j.mustWait f.cls false false 0 0 || j.a.posted.any (f.follows c)

/-- The JOBIDs of the jobs in the cores of a cluster. -/
def State.cluJobs (s : State) (c : CoreId) : Vector (Option W32) 4 :=
  Vector.ofFn fun i => (s.job (corePeer c i)).map fun j => j.jobid

/-- GO: none where the queue is full or an earlier access is to come first, so that A stalls (R158, R334); else the job with the
command queued or rejected. -/
def State.copyGoJob (s : State) (c : CoreId) (j : Job) (e : CopyId) (go : W64) : Option Job :=
  if 4 ≤ (j.copiesOf e).length then none
  else if j.goWaits c (copyFields (j.winAt e).cmd) then none
  else
    let w := j.winAt e
    let code := s.copyCode c j w go
    if code ≠ 0 then some (j.setWin e { w.reject with err := BitVec.ofNat 8 code })
    else
      let f := copyFields w.cmd
      let cmd : CopyCmd :=
        { cmd := w.cmd, tag := go.setWidth 16, srcFmt := (s.endFmt c j.ctx f.srcl f.src).getD 0
          dstFmt := (s.endFmt c j.ctx f.dstl f.dst).getD 0, seed := j.rseed, jobs := s.cluJobs c
          behind := !(j.copiesOf e).isEmpty, cur := 0, started := false, begun := false, xl := [], peer := none }
      some ((j.setCopies e (j.copiesOf e ++ [cmd])).setWin e { w with tag := go.setWidth 16 })

/-- A store to a window at byte offset `o` of the two windows: none where it stalls. -/
def State.windowStore (s : State) (c : CoreId) (j : Job) (o : Nat) (x : W64) : Option Job :=
  let e : CopyId := ⟨o / 64 % 2, Nat.mod_lt _ (by decide)⟩
  let w := j.winAt e
  match o % 64 / 8 with
  | 0 => some (j.setWin e { w with cmd := w.cmd.set 0 x })
  | 1 => some (j.setWin e { w with cmd := w.cmd.set 1 x })
  | 2 => some (j.setWin e { w with cmd := w.cmd.set 2 x })
  | 3 => some (j.setWin e { w with cmd := w.cmd.set 3 x })
  | 4 => s.copyGoJob c j e x
  | 5 => some (j.setWin e
      { w with err := w.err &&& ~~~((x >>> 8).setWidth 8), rej := (BitVec.ofNat 8 w.rej &&& ~~~(x.setWidth 8)).toNat })
  | _ => some j

/-- A load from a window at byte offset `o`: GO is write-only and reads 0 (R10). -/
def Job.windowLoad (j : Job) (o : Nat) : W64 :=
  let e : CopyId := ⟨o / 64 % 2, Nat.mod_lt _ (by decide)⟩
  match o % 64 / 8 with
  | 0 => (j.winAt e).cmd[0]
  | 1 => (j.winAt e).cmd[1]
  | 2 => (j.winAt e).cmd[2]
  | 3 => (j.winAt e).cmd[3]
  | 5 => j.statWord e
  | _ => 0

/-- A window access that is dropped counts in STAT.REJ of its window (R156). -/
def Job.windowDrop (j : Job) (o : Nat) : Job :=
  let e : CopyId := ⟨o / 64 % 2, Nat.mod_lt _ (by decide)⟩
  j.setWin e (j.winAt e).reject

/-- COPY_GO: the store of a value to GO as a step of its own (R158). -/
def execCopyGo (core : CoreId) (e : CopyId) (value : W64) (s : State) : Res :=
  match s.job core with
  | none => .next s
  | some j =>
    match s.copyGoJob core j e value with
    | none => .next s
    | some j1 => .next (s.setJob core j1)

end Sys2Proof.Machine
end

