-- ==== Sys2Proof/Machine/LocalA.lean ====
section
/-! DEFINITION. Local, remote, walk and barrier instructions of the access engine (R188-R207, R213-R217). -/

namespace Sys2Proof.Machine

/-! ## Frames -/

/-- An A instruction: the effect takes the job as it was, the job with the sources popped, and the sources. -/
def accessOp (i : Instr) (eff : State → CoreId → Job → Job → List Val → State) (s : State) : Res :=
  issue s .a i 1 fun s c j =>
    let (j1, vs) := readFields j (fieldsOf j i)
    eff s c j j1 vs

/-- A 64-bit source of A. -/
def Job.argX (j : Job) (vs : List Val) (n : Nat) : W64 := (argAt vs n).scalar 64 (j.reg .a)

/-- An A instruction completes. -/
def State.doneA (s : State) (c : CoreId) (j : Job) : State := s.setJob c (j.done .a 1)

/-- An A instruction completes with a result. -/
def State.giveA (s : State) (c : CoreId) (j : Job) (d : Opnd) (x : W64) : State :=
  s.doneA c (j.result .a d fun _ => x)

/-- x[A] + SignExtend(IMM10, 64) (R188). -/
def addr10 (x : W64) (k : BitVec 10) : Nat := (x + k.signExtend 64).toNat

/-! ## Sizes (R191) -/

/-- Bytes of a size code. -/
def sizeBytes : Size → Nat
  | .s8 | .n8 => 1
  | .s16 | .n16 => 2
  | .w32 => 4
  | .w64 => 8

/-- The shift of a scaled index (R188). -/
def sizeShift : Size → Nat
  | .s8 | .n8 => 0
  | .s16 | .n16 => 1
  | .w32 => 2
  | .w64 => 3

/-- A load's result in 64 bits. -/
def extendBytes (z : Size) (bs : List Byte) : W64 :=
  let x := natOfBytes bs
  match z with
  | .s8 => (BitVec.ofNat 8 x).signExtend 64
  | .s16 => (BitVec.ofNat 16 x).signExtend 64
  | _ => BitVec.ofNat 64 x

/-! ## Local addresses (R135, R189, R190, R192) -/

/-- What becomes of a local access. -/
inductive LocGo
  | trap (cause : Cause)
  | stay
  | window (o : Nat)
  | at_ (k : CoreId) (b : Nat)
  deriving DecidableEq, Repr

/-- The job of core `k` belongs to the context (R190); an address in the own range reaches the own job. -/
def State.sharesCtx (s : State) (k : CoreId) (ctx : CtxId) : Bool :=
  match s.job k with
  | some x => decide (x.ctx = ctx)
  | none => false

/-- The access yields in the core that it reaches (R149). -/
def State.yieldsAt (s : State) (k : CoreId) (b : Nat) : Bool :=
  match s.job k with
  | some x => s.yields k x b
  | none => false

/-- The checks of a local access in order: its range, its alignment, its row; then the posted accesses that it follows,
and the timed accesses to which it yields. -/
def State.localGate (s : State) (c : CoreId) (j : Job) (addr n align : Nat) (win clu load : Bool) : LocGo :=
  if win && decide (0x800000 ≤ addr ∧ addr < 0x800080) then .window (addr - 0x800000)
  else
    match localAt c addr with
    | none => .trap .protection
    | some (k, b) =>
      if (decide (0x200000 ≤ addr) && !clu) || (decide (0x200000 ≤ addr) && !s.sharesCtx k j.ctx) then .trap .protection
      else if addr % align ≠ 0 then .trap .align
      else if !s.rowUsable k b then .trap .rowRange
      else if j.mustWait j.a.acls load false b n then .stay
      else if s.yieldsAt k b then .stay
      else .at_ k b

/-- A local access: a trap changes nothing else, a wait nothing at all. -/
def State.localDo (s : State) (c : CoreId) (j : Job) (addr : Nat) (g : LocGo) (win : Nat → State)
    (go : CoreId → Nat → State) : State :=
  match g with
  | .trap cause => s.setJob c (j.raiseAt cause addr)
  | .stay => s
  | .window o => win o
  | .at_ k b => go k b

/-- Writes bytes of a scratchpad, then the job of core `c`, which may be the same core. -/
def State.scrThen (s : State) (k : CoreId) (b : Nat) (bs : List Byte) (c : CoreId) (j : Job) : State :=
  (s.scrWrite k b bs).doneA c j

/-! ## ALD, AST, ARD, AWR, RLD, RST (R200, R201) -/

/-- ALD (R200). A window load that R156 drops writes 0. -/
def execAld (z : Size) (d a : Opnd) (k : BitVec 10) (s : State) : Res :=
  accessOp (.ald z d a k) (fun s c j j1 vs =>
    let addr := addr10 (j.argX vs 0) k
    let n := sizeBytes z
    s.localDo c j addr (s.localGate c j addr n n true false true)
      (fun o =>
        if z = .w64 ∧ o % 8 = 0 then s.giveA c j1 d (j1.windowLoad o) else s.giveA c (j1.windowDrop o) d 0)
      (fun x b => s.giveA c j1 d (extendBytes z (s.scrRead x b n)))) s

/-- AST (R200): a store to the own scratchpad or to a command window. -/
def execAst (z : Size) (d a : Opnd) (k : BitVec 10) (s : State) : Res :=
  accessOp (.ast z d a k) (fun s c j j1 vs =>
    let addr := addr10 (j.argX vs 0) k
    let x := j.argX vs 1
    let n := sizeBytes z
    s.localDo c j addr (s.localGate c j addr n n true false false)
      (fun o =>
        if z = .w64 ∧ o % 8 = 0 then
          match s.windowStore c j1 o x with
          | some j2 => s.doneA c j2
          | none => s
        else s.doneA c (j1.windowDrop o))
      (fun y b => s.scrThen y b (bytesOfNat n x.toNat) c j1)) s

/-- ARD: pushes a row of the own scratchpad (R200). -/
def execArd (q : Fin 16) (a : Opnd) (k : BitVec 10) (s : State) : Res :=
  accessOp (.ard q a k) (fun s c j j1 vs =>
    let addr := addr10 (j.argX vs 0) k
    s.localDo c j addr (s.localGate c j addr 128 128 false false true) (fun _ => s)
      (fun x b => s.doneA c (j1.push q ((s.core x).scr.row b)))) s

/-- AWR: pops a row into the own scratchpad (R200). -/
def execAwr (q : Fin 16) (a : Opnd) (k : BitVec 10) (s : State) : Res :=
  accessOp (.awr q a k) (fun s c j j1 vs =>
    let addr := addr10 (j.argX vs 0) k
    s.localDo c j addr (s.localGate c j addr 128 128 false false false) (fun _ => s)
      (fun x b => s.scrThen x b (bytesOfRow (j.stream q).head) c j1)) s

/-- RLD: a load from a scratchpad of the cluster (R201), whose energy the task bears (R295). -/
def execRld (z : Size) (d a : Opnd) (k : BitVec 10) (s : State) : Res :=
  accessOp (.rld z d a k) (fun s c j j1 vs =>
    let addr := addr10 (j.argX vs 0) k
    let n := sizeBytes z
    s.localDo c j addr (s.localGate c j addr n n false true true) (fun _ => s)
      (fun x b => (s.spendKind c 3).giveA c j1 d (extendBytes z (s.scrRead x b n)))) s

/-- The JOBID of the job on a core. -/
def State.jobidAt (s : State) (c : CoreId) : W32 :=
  match s.job c with
  | some j => j.jobid
  | none => 0

/-- RST: a posted store to a scratchpad of the cluster (R201). It performs at its home later, and yields there then; what it names
is the job that the core now runs (R190). -/
def execRst (z : Size) (d a : Opnd) (k : BitVec 10) (s : State) : Res :=
  accessOp (.rst z d a k) (fun s c j j1 vs =>
    let addr := addr10 (j.argX vs 0) k
    let x := j.argX vs 1
    let n := sizeBytes z
    let post := fun y b =>
      (s.spendKind c 3).doneA c (j1.post (.scratch y b (bytesOfNat n x.toNat) j.a.acls (s.jobidAt y) j.a.pc))
    match s.localGate c j addr n n false true false with
    | .trap cause => s.setJob c (j.raiseAt cause addr)
    | _ =>
      match localAt c addr with
      | some (y, b) => post y b
      | none => s) s

/-! ## Walks: WSET, WADV, AFILL, ADRAIN (R151, R202-R207) -/

/-- A field of a walk record's bytes, as a number. -/
def recFld (x o n : Nat) : Nat := bitsAt x (8 * o) (8 * n)

/-- A signed 32-bit field. -/
def signed32 (x : Nat) : Int := if x < 2 ^ 31 then (x : Int) else (x : Int) - 2 ^ 32

/-- The byte offset of the first field of a walk record in error (R151), with the record's levels in use. -/
def walkError (x : Nat) : Option Nat :=
  let mode := recFld x 4 2
  let levels := bitsAt mode 3 2 + 1
  let win := recFld x 6 2
  let count := fun i => recFld x (8 + 2 * i) 2
  let tracked := decide (bitsAt mode 0 2 = 3)
  let prod := (List.range levels).foldl (fun p i => p * count i) 1
  let checks : List (Nat × Bool) :=
    [(0, decide (bitsAt (recFld x 0 4) 0 7 = 0 ∧ bitsAt (recFld x 0 4) 21 11 = 0)),
     (4, decide (bitsAt mode 5 11 = 0)),
     (6, if tracked then decide (1 ≤ win ∧ win ≤ 512) else decide (win = 0))]
    ++ (List.range 4).map (fun i => (8 + 2 * i, if i < levels then decide (count i ≠ 0) else decide (count i = 0)))
    ++ (List.range 4).map (fun i => (16 + 4 * i,
      if i < levels then decide (recFld x (16 + 4 * i) 4 % 128 = 0) else decide (recFld x (16 + 4 * i) 4 = 0)))
    ++ [(36, decide (recFld x 32 4 < recFld x 36 4 ∧ recFld x 36 4 ≤ 0x200000)),
        (40, decide (recFld x 40 4 < prod)),
        (44, decide (recFld x 44 20 = 0))]
  (checks.find? fun y => !y.2).map Prod.fst

/-- The walk that a record sets (R202, R203). -/
def walkOf (old : Walk) (x : Nat) : Walk :=
  let mode := recFld x 4 2
  let r : WalkRec :=
    { base := recFld x 0 4, dir := mode.testBit 0, track := mode.testBit 1, cyclic := mode.testBit 2
      levels := bitsAt mode 3 2 + 1, window := recFld x 6 2
      count := Vector.ofFn fun i => recFld x (8 + 2 * i.val) 2
      stride := Vector.ofFn fun i => signed32 (recFld x (16 + 4 * i.val) 4)
      lo := recFld x 32 4, hi := recFld x 36 4 }
  { old with
    record := some r, step := recFld x 40 4, fstep := recFld x 40 4
    credit := if r.track && r.dir then r.window else 0, creditIn := 0 }

/-- WSET: waits for the row accesses that issued instructions have still to make through the walk, then loads the record
(R203, R204). -/
def execWset (w : Fin 8) (a : Opnd) (k : BitVec 10) (s : State) : Res :=
  accessOp (.wset w a k) (fun s c j j1 vs =>
    let addr := addr10 (j.argX vs 0) k
    s.localDo c j addr (s.localGate c j addr 64 64 false false true) (fun _ => s)
      (fun x b =>
        let r := natOfBytes (s.scrRead x b 64)
        match walkError r with
        | some o => s.setJob c (j.raise .a .walkFault (BitVec.ofNat 32 o))
        | none => if j.pendingRows w ≠ 0 then s else s.doneA c (j1.setWalk w (walkOf (j1.walk w) r)))) s

/-- CREDIT with the additions of this cycle. -/
def Walk.creditAll (w : Walk) : Nat := w.credit + w.creditIn

/-- An addition of `n` fits CREDIT (R203). -/
def Walk.creditFits (w : Walk) (track : Bool) (n : Nat) : Bool := !track || decide (w.creditAll + n ≤ 65535)

/-- FSTEP moves by `n`, and CREDIT of a tracked walk with it at the cycle's end (R202, R203, R207). -/
def Job.fillWalk (j : Job) (w : Fin 8) (r : WalkRec) (n : Nat) : Job :=
  let x := j.walk w
  j.setWalk w { x with fstep := r.advance x.fstep n, creditIn := if r.track then x.creditIn + n else x.creditIn }

/-- WADV: advances FSTEP without moving rows (R203, R205). -/
def execWadv (w : Fin 8) (n : BitVec 10) (s : State) : Res :=
  accessOp (.wadv w n) (fun s c j j1 _ =>
    match (j.walk w).record with
    | none => s.setJob c (j.raise .a .walkFault walkUnset)
    | some r =>
      if !r.cyclic && decide (r.period < (j.walk w).fstep + n.toNat) then
        s.setJob c (j.raise .a .walkFault walkExhausted)
      else if !(j.walk w).creditFits r.track n.toNat then s.setJob c (j.raise .a .walkFault walkCredit)
      else s.doneA c (j1.fillWalk w r n.toNat)) s

/-- The count register of AFILL and ADRAIN. -/
def countReg : Opnd → Fin 32
  | .reg n => n
  | _ => 0

/-- One row of AFILL or ADRAIN is done: the instruction goes on at the next row, or completes (R199, R203). -/
def State.rowDone (s : State) (c : CoreId) (j : Job) (n : Fin 32) : State :=
  let x := j.reg .a n - 1
  let j1 := j.write .a n fun _ => x
  if x = 0 then s.doneA c j1 else s.setJob c (j1.act .a)

/-- A trap of a walk's row check at an A instruction (R152, R202). -/
def Job.raiseWalk (j : Job) (t : Cause × W32) : Job :=
  if t.2 = walkExhausted then j.raise .a t.1 t.2 else j.raiseAt t.1 t.2.toNat

/-- The frame of AFILL and ADRAIN: the checks of the walk and of its next row, then one row. -/
def fillOp (i : Instr) (a : Opnd) (w : Fin 8) (dir : Bool) (row : State → CoreId → Job → WalkRec → Nat → State)
    (s : State) : Res :=
  issue s .a i 1 fun s c j =>
    match (j.walk w).record with
    | none => s.setJob c (j.raise .a .walkFault walkUnset)
    | some r =>
      if r.dir ≠ dir then s.setJob c (j.raise .a .walkFault walkDir)
      else if j.reg .a (countReg a) = 0 then s.doneA c j
      else
        match walkRow s c r (j.walk w).fstep with
        | .error t => s.setJob c (j.raiseWalk t)
        | .ok addr =>
          if j.mustWait j.a.acls dir false addr 128 || s.yields c j addr then s else row s c j r addr

/-- One row is moved and FSTEP advances, unless CREDIT would pass 65,535, which leaves the row unplaced (R203). -/
def State.rowMoved (s : State) (c : CoreId) (j : Job) (w : Fin 8) (r : WalkRec) (n : Fin 32) (move : State → Job → State × Job) :
    State :=
  if !(j.walk w).creditFits r.track 1 then s.setJob c (j.raise .a .walkFault walkCredit)
  else
    let (s1, j1) := move s j
    s1.rowDone c (j1.fillWalk w r 1) n

/-- AFILL: pops rows of a stream into the rows of a read walk (R203). -/
def execAfill (q : Fin 16) (a : Opnd) (w : Fin 8) (s : State) : Res :=
  fillOp (.afill q a w) a w false (fun s c j r addr =>
    if !(j.stream q).canPop 1 then s
    else s.rowMoved c j w r (countReg a) fun s j => (s.scrWrite c addr (bytesOfRow (j.stream q).head), j.pop q)) s

/-- ADRAIN: pushes the written rows of a write walk on a stream (R203, R207). -/
def execAdrain (q : Fin 16) (a : Opnd) (w : Fin 8) (s : State) : Res :=
  fillOp (.adrain q a w) a w true (fun s c j r addr =>
    if r.track && decide (r.window ≤ (j.walk w).creditAll) then s
    else if !(j.stream q).canPush then s
    else s.rowMoved c j w r (countReg a) fun s j => (s, j.push q ((s.core c).scr.row addr))) s

/-! ## SAMO (R213) -/

/-- Op of an atomic on `w` bits (R211). -/
def atomOp (o : AtomOp) (w : Nat) (old x : Nat) : Nat :=
  let a := BitVec.ofNat w old
  let b := BitVec.ofNat w x
  (match o with
    | .add => a + b
    | .and => a &&& b
    | .or => a ||| b
    | .xor => a ^^^ b
    | .min => if a.slt b then a else b
    | .max => if a.slt b then b else a
    | .minn => if a.ult b then a else b
    | .maxn => if a.ult b then b else a).toNat

/-- The order has a release half. -/
def Order.rel : Order → Bool
  | .rel | .acqrel => true
  | _ => false

/-- The order has an acquire half. -/
def Order.acq : Order → Bool
  | .acq | .acqrel => true
  | _ => false

/-- DIE scope or wider (R217). -/
def scopeWide : Scope → Bool
  | .die | .device | .system => true
  | _ => false

/-- The acquire half of an operation: at DIE scope or wider the side cache is invalidated (R217). -/
def State.acquire (s : State) (c : CoreId) (j : Job) (acq : Bool) (sc : Scope) : State :=
  if acq && scopeWide sc then s.sideFlushAll c j else s

/-- SAMO (R211, R213): atomic on a local address. Posted accesses of its class have performed before it. -/
def execSamo (o : AtomOp) (d a : Opnd) (sc : Scope) (r : Order) (wide : Bool) (s : State) : Res :=
  accessOp (.samo o d a sc r wide) (fun s c j j1 vs =>
    let addr := (j.argX vs 0).toNat
    let n := if wide then 8 else 4
    s.localDo c j addr (s.localGate c j addr n n false true false) (fun _ => s)
      (fun x b =>
        let old := natOfBytes (s.scrRead x b n)
        let new := atomOp o (8 * n) old (j.argX vs 1).toNat
        ((s.scrWrite x b (bytesOfNat n new)).acquire c j (Machine.Order.acq r) sc).giveA c j1 d (BitVec.ofNat 64 old))) s

/-! ## Count barriers (R160, R161, R214, R215) -/

/-- An addition of `n` to a barrier object of 32 bytes, as a number (R161). ACC keeps 64 bits before it is compared (R15). -/
def barAdd (x n : Nat) : Nat :=
  let target := bitsAt x 0 64
  let old := bitsAt x 64 64
  let acc := (old + n) % 2 ^ 64
  let gen := bitsAt x 128 32
  let flags := bitsAt x 160 16
  let top := x / 2 ^ 176
  let pack := fun acc gen flags => target + acc * 2 ^ 64 + gen % 2 ^ 32 * 2 ^ 128 + flags * 2 ^ 160 + top * 2 ^ 176
  if target = 0 then pack old gen (flags ||| 1)
  else if target ≤ acc then pack (acc - target) (gen + 1) (if target < acc then flags ||| 1 else flags)
  else pack acc gen flags

/-- The 32 bytes of a barrier of a scratchpad. -/
def State.barRead (s : State) (k : CoreId) (b : Nat) : Nat := natOfBytes (s.scrRead k b 32)

/-- Applies an addition at a barrier. -/
def State.barApply (s : State) (k : CoreId) (b n : Nat) : State :=
  s.scrWrite k b (bytesOfNat 32 (barAdd (s.barRead k b) n))

/-- GEN of a barrier. -/
def barGen (x : Nat) : Nat := bitsAt x 128 32

/-- The frame of the barrier instructions. -/
def barOp (i : Instr) (k : BitVec 10) (load : Bool) (eff : State → CoreId → Job → Job → List Val → CoreId → Nat → State)
    (s : State) : Res :=
  accessOp i (fun s c j j1 vs =>
    let addr := addr10 (j.argX vs 0) k
    s.localDo c j addr (s.localGate c j addr 32 32 false true load) (fun _ => s)
      (fun x b => eff s c j j1 vs x b)) s

/-- BINIT: TARGET := x[D], ACC and OVER 0, GEN unchanged, bytes 22-31 0 (R214). -/
def execBinit (d a : Opnd) (k : BitVec 10) (s : State) : Res :=
  barOp (.binit d a k) k false (fun s c j j1 vs x b =>
    let v := (j.argX vs 1).toNat + barGen (s.barRead x b) * 2 ^ 128
    s.scrThen x b (bytesOfNat 32 v) c j1) s

/-- BARR: a release of every earlier access, then an addition of 1 (R214). -/
def execBarr (a : Opnd) (k : BitVec 10) (s : State) : Res :=
  barOp (.barr a k) k false (fun s c j j1 _ x b =>
    if j.a.posted ≠ [] then s else (s.barApply x b 1).doneA c j1) s

/-- BWAIT: waits until GEN differs from x[D], then writes it (R214, R215). -/
def execBwait (d a : Opnd) (k : BitVec 10) (s : State) : Res :=
  barOp (.bwait d a k) k true (fun s c j j1 vs x b =>
    let g := barGen (s.barRead x b)
    if g = (j.argX vs 1).toNat % 2 ^ 32 then s else s.giveA c j1 d (BitVec.ofNat 64 g)) s

/-- BTEST: GEN, OVER in bit 32, TARGET = 0 in bit 33 (R214). -/
def execBtest (d a : Opnd) (k : BitVec 10) (s : State) : Res :=
  barOp (.btest d a k) k true (fun s c _ j1 _ x b =>
    let v := s.barRead x b
    s.giveA c j1 d (BitVec.ofNat 64
      (barGen v + bitsAt v 160 1 * 2 ^ 32 + (decide (bitsAt v 0 64 = 0)).toNat * 2 ^ 33))) s

/-! ## Fences (R216, R217) -/

/-- Posted accesses of masked classes remain. -/
def Job.postedIn (j : Job) (m : BitVec 16) : Bool := j.a.posted.any (Posted.inMask m)

/-- FENCE .acq: loads perform when they issue, so only the side cache is to invalidate (R216, R217). -/
def execFenceAcq (sc : Scope) (m : BitVec 16) (s : State) : Res :=
  accessOp (.fenceAcq sc m) (fun s c j j1 _ => (s.acquire c j true sc).doneA c j1) s

/-- FENCE .rel: later stores of the masked classes perform after every earlier masked access (R216). -/
def execFenceRel (sc : Scope) (m : BitVec 16) (s : State) : Res :=
  accessOp (.fenceRel sc m) (fun s c j j1 _ => s.doneA c (if j.postedIn m then j1.post (.fence m sc) else j1)) s

/-- FENCE .full: waits for the posted accesses of the masked classes, then acquires (R216, R217). -/
def execFenceFull (sc : Scope) (m : BitVec 16) (s : State) : Res :=
  accessOp (.fenceFull sc m) (fun s c j j1 _ =>
    if j.postedIn m then s else (s.acquire c j true sc).doneA c j1) s

/-- FENCE .async: waits for the stream's copy commands of the masked classes (R216). -/
def execFenceAsync (sc : Scope) (m : BitVec 16) (s : State) : Res :=
  accessOp (.fenceAsync sc m) (fun s c j j1 _ =>
    if [(0 : CopyId), 1].any fun e => (j.copiesOf e).any fun x => m.getLsbD (copyFields x.cmd).cls.val then s
    else s.doneA c j1) s

end Sys2Proof.Machine
end

