-- ==== Sys2Proof/Machine/GlobalA.lean ====
section
/-! DEFINITION. Global instructions of the access engine (R208-R212, R218-R221) and the performing of posted accesses
(R190, R194, R331, R333, R424). -/

namespace Sys2Proof.Machine

/-! ## Loads and gathers (R208-R210) -/

/-- What the elements of a load give. -/
inductive Elems
  | ok (s : State) (vals : List (List Byte))
  | stay (s : State)
  | trap (s : State) (cause : Cause) (va : Nat)

/-- Bytes of a single-copy atomic unit of the job: a row or a sector (R195). -/
def Job.unit (j : Job) : Nat := if j.rowMode then 128 else 32

/-- The units of peers' memory that elements touch, in order of first use, each with the virtual address of the first byte that an
element wants there: one access reads each (R195). -/
def peerUnits (u n : Nat) (ps : List Piece) : List (Nat × Nat) :=
  (ps.flatMap fun p => [(p.pa / u, p.va), ((p.pa + n - 1) / u, p.va + (u - p.pa % u))]).foldl
    (fun acc x => if acc.any fun y => decide (y.1 = x.1) then acc else acc ++ [x]) []

/-- A byte out of the reply of peers, which holds their units in order. -/
def unitByte (u : Nat) (units : List (Nat × Nat)) (reply : List Byte) (pa : Nat) : Byte :=
  reply.getD (units.findIdx (fun x => decide (x.1 = pa / u)) * u + pa % u) 0

/-- Cuts the `n` bytes of each element out of its row, or out of the reply of a peer. -/
def elemVals (n : Nat) (peer : Nat → Byte) : List Piece → List Row → List (List Byte)
  | [], _ => []
  | p :: ps, rows =>
    if p.kind = 2 then ((List.range n).map fun k => peer (p.pa + k)) :: elemVals n peer ps rows
    else
      match rows with
      | r :: rs => lineBytes r (p.pa % 128) n :: elemVals n peer ps rs
      | [] => List.replicate n 0 :: elemVals n peer ps []

/-- Loads elements of `n` bytes: those of peers by a request (R467), the others by way of the side cache. -/
def State.loadElems (s : State) (c : CoreId) (j : Job) (n : Nat) (ps : List Piece) : Elems :=
  let peers := ps.filter fun p => decide (p.kind = 2)
  let units := peerUnits j.unit n peers
  let rest := fun reply =>
    match s.sideRead c j (ps.filter fun p => decide (p.kind ≠ 2)) with
    | .ok s1 rows => Elems.ok s1 (elemVals n (unitByte j.unit units reply) ps rows)
    | .stay s1 => .stay s1
    | .trap s1 x va => .trap s1 x va
  match peers with
  | [] => rest []
  | _ =>
    match s.peerAccess c j (units.map fun u => (u.2, u.1 * j.unit, PeerOp.read j.unit)) with
    | .wait s1 => .stay s1
    | .failed va => .trap s .eccUe va
    | .data bs => rest bs

/-- A load of elements at virtual addresses: the checks, then the data, then `k` with them. -/
def State.loadAt (s : State) (c : CoreId) (j : Job) (cls : Fin 16) (n : Nat) (vas : List Nat)
    (k : State → List (List Byte) → State) : State :=
  match s.pieces c j .read n vas with
  | .error b => s.barred c j .read b
  | .ok ps =>
    if ps.any fun p => j.mustWait cls true true p.pa n then s
    else
      match s.loadElems c j n ps with
      | .stay s1 => s1
      | .trap s1 cause va => s1.setJob c (j.peerDone.raiseAt cause va)
      | .ok s1 vals => k s1 vals

/-- A load has its data: no page or peer wait of A remains. -/
def Job.loaded (j : Job) : Job := (j.clearPage .a).peerDone

/-- The scaled address of GLD and GST (R188). -/
def scaledAddr (z : Size) (a b : W64) : Nat := (a + (b <<< sizeShift z)).toNat

/-- GLD (R208). -/
def execGld (z : Size) (d a b : Opnd) (cls : Fin 16) (s : State) : Res :=
  accessOp (.gld z d a b cls) (fun s c j j1 vs =>
    let n := sizeBytes z
    s.loadAt c j cls n [scaledAddr z (j.argX vs 0) (j.argX vs 1)] fun s1 vals =>
      s1.giveA c j1.loaded d (extendBytes z (vals.headD []))) s

/-- The 32-bit index `i` of popped index rows (R209). -/
def indexOf (rows : List Row) (i : Nat) : W32 := BitVec.ofNat 32 (lane 32 (rows.getD (i / 32) 0) (i % 32))

/-- Pops `k` rows of a stream. -/
def Job.popRows (j : Job) (q : Fin 16) : Nat → Job × List Row
  | 0 => (j, [])
  | k + 1 =>
    let r := (j.stream q).head
    let x := (j.pop q).popRows q k
    (x.1, r :: x.2)

/-- The element addresses of a gather or scatter, none for a skipped element, with the job after its pops of A and B
(R209, R210). -/
def gatherAddrs (j : Job) (z : Size) (a b : Opnd) : Job × List (Option Nat) :=
  let e := sizeBytes z
  let n := 128 / e
  let (j1, va) := readField j (fA a)
  let base := va.scalar 64 (j.reg .a)
  match b with
  | .q q =>
    let (j2, rows) := j1.popRows q (if e = 1 then 4 else if e = 2 then 2 else 1)
    (j2, (List.range n).map fun i =>
      let x := indexOf rows i
      if x = 0x80000000 then none else some (base + x.signExtend 64 * BitVec.ofNat 64 e).toNat)
  | .reg r => (j1, (List.range n).map fun i => some (base + BitVec.ofNat 64 i * j.reg .a r).toNat)
  | .bad _ => (j1, [])

/-- The bytes of the elements in order; a skipped element gives zeros (R210). -/
def gatherBytes (e : Nat) : List (Option Nat) → List (List Byte) → List Byte
  | [], _ => []
  | none :: l, vals => List.replicate e 0 ++ gatherBytes e l vals
  | some _ :: l, v :: vals => v ++ gatherBytes e l vals
  | some _ :: l, [] => List.replicate e 0 ++ gatherBytes e l []

/-- GGATH (R209, R210). -/
def execGgath (z : Size) (q : Fin 16) (a b : Opnd) (cls : Fin 16) (s : State) : Res :=
  issue s .a (.ggath z q a b cls) 1 fun s c j =>
    let (j1, addrs) := gatherAddrs j z a b
    s.loadAt c j cls (sizeBytes z) (addrs.filterMap id) fun s1 vals =>
      s1.doneA c (j1.loaded.push q (rowOfBytes (gatherBytes (sizeBytes z) addrs vals)))

/-! ## Stores and scatters (R208-R210, R333) -/

/-- Stages the writes that can be, in order, and leaves the others. -/
def State.stageMost (s : State) (c : CoreId) (j : Job) : List (Piece × List Byte) → State × List (Piece × List Byte)
  | [] => (s, [])
  | (p, bs) :: rest =>
    if s.stageable j p then (s.stageWrite c j p bs).stageMost c j rest
    else
      let x := s.stageMost c j rest
      (x.1, (p, bs) :: x.2)

/-- Stages the writes in order; none where one of them cannot be staged. -/
def State.stageAll (s : State) (c : CoreId) (j : Job) : List (Piece × List Byte) → Option State
  | [] => some s
  | (p, bs) :: rest => if s.stageable j p then (s.stageWrite c j p bs).stageAll c j rest else none

/-- Posted global accesses of A. -/
def Posted.global : Posted → Bool
  | .store _ _ _ _ | .peer _ _ _ _ => true
  | _ => false

/-- A piece's bytes cut where a unit ends. -/
def cutUnit (u : Nat) (w : Piece × List Byte) : List (Piece × List Byte) :=
  let k := u - w.1.pa % u
  if w.2.length ≤ k then [w]
  else [(w.1, w.2.take k), ({ w.1 with va := w.1.va + k, pa := w.1.pa + k }, w.2.drop k)]

/-- Adds a part to the store of its unit, behind the earlier ones, which it overrides; a new unit comes last (R195). -/
def addPart (u : Nat) (x : Fin 3 × StorePart) : List (Fin 3 × List StorePart) → List (Fin 3 × List StorePart)
  | [] => [(x.1, [x.2])]
  | (k, l) :: rest =>
    if k = x.1 ∧ (l.headD x.2).pa / u = x.2.pa / u then (k, l ++ [x.2]) :: rest else (k, l) :: addPart u x rest

/-- The masked writes that the elements make: one for each unit touched, in order of first use (R195). -/
def unitStores (u : Nat) (ws : List (Piece × List Byte)) : List (Fin 3 × List StorePart) :=
  (ws.flatMap (cutUnit u)).foldl (fun acc w => addPart u (w.1.kind, { pa := w.1.pa, va := w.1.va, bytes := w.2 }) acc) []

/-- A store of elements: each is staged where the node's writes are; else it is posted, and performs later, unstaged (R194, R333,
R421, R422). While a posted store that escapes has not performed, later stores wait. -/
def State.storeAt (s : State) (c : CoreId) (j j1 : Job) (cls : Fin 16) (n : Nat) (l : List (Nat × List Byte)) : State :=
  match s.pieces c j .write n (l.map Prod.fst) with
  | .error b => s.barred c j .write b
  | .ok ps =>
    match ps.find? fun p => decide (p.kind = 0) && s.writeRefused j.ctx p.pa with
    | some p => s.setJob c (j.raiseAt .protection p.va)
    | none =>
      let esc := s.nodeEscaped j
      if !esc && j.a.posted.any Posted.global then s
      else if !esc && j.a.posted.any (fun p => match p with
          | .fence m _ => m.getLsbD cls.val
          | _ => false) then s
      else
        let ws := ps.zip (l.map Prod.snd)
        let j2 := j1.clearPage .a
        let (s1, rest) := s.stageMost c j ws
        s1.doneA c ((unitStores j.unit rest).foldl (fun x w => x.post (.store w.1 w.2 cls j.a.pc)) j2)

/-- GST (R208). -/
def execGst (z : Size) (d a b : Opnd) (cls : Fin 16) (s : State) : Res :=
  accessOp (.gst z d a b cls) (fun s c j j1 vs =>
    let n := sizeBytes z
    s.storeAt c j j1 cls n
      [(scaledAddr z (j.argX vs 0) (j.argX vs 1), bytesOfNat n (j.argX vs 2).toNat)]) s

/-- GSCAT (R209, R210): index rows are popped before the data row. -/
def execGscat (z : Size) (q : Fin 16) (a b : Opnd) (cls : Fin 16) (s : State) : Res :=
  issue s .a (.gscat z q a b cls) 1 fun s c j =>
    let (j1, addrs) := gatherAddrs j z a b
    let bs := bytesOfRow (j1.stream q).head
    let e := sizeBytes z
    let l := addrs.zipIdx.filterMap fun x => x.1.map fun va => (va, (bs.drop (e * x.2)).take e)
    s.storeAt c j (j1.pop q) cls e l

/-! ## Atomics (R211, R212) -/

/-- What an atomic does with the old value: the new value, none where it writes nothing. -/
abbrev AtomFn := Nat → Option Nat

/-- An atomic at the line's home: the line is made ready, the node escapes, then the atomic performs (R198, R212, R423).
`peerOp` is its form for a peer's memory. -/
def State.atomicAt (s : State) (c : CoreId) (j j1 : Job) (cls : Fin 16) (d : Opnd) (n : Nat) (va : Nat) (f : AtomFn)
    (peerOp : PeerOp) (acq : Bool) (sc : Scope) : State :=
  match s.pieces c j .atomic n [va] with
  | .error b => s.barred c j .atomic b
  | .ok ps =>
    match ps with
    | [] => s
    | p :: _ =>
      if j.mustWait cls false true p.pa n || !s.live j.ctx then s
      else if p.kind = 2 then
        match s.escape c j with
        | .stall s1 => s1
        | .fail cause x => s.setJob c (j.raiseAt cause x)
        | .go s0 =>
          match s0.peerAccess c j [(va, p.pa, peerOp)] with
          | .wait s1 => s1
          | .failed x => s0.setJob c (j.peerDone.raiseAt .eccUe x)
          | .data bs => (s0.acquire c j acq sc).giveA c j1.loaded d (BitVec.ofNat 64 (natOfBytes (bs.take n)))
      else
        match s.lineRead c j p with
        | .stay s1 => s1
        | .trap s1 cause x => s1.setJob c (j.raiseAt cause x)
        | .ok s0 rows =>
          let old := natOfBytes (lineBytes (rows.headD 0) (p.pa % 128) n)
          let gate := fun (st : State) => match f old with
            | none => WGate.ready
            | some _ => st.writeGate j.ctx p.pa
          match gate s0 with
          | .ready =>
            match s0.escape c j with
            | .stall s1 => s1
            | .fail cause x => s.setJob c (j.raiseAt cause x)
            | .go s1 =>
              -- the writes that the escape performed may have taken the line's way
              match gate s1 with
              | .ready =>
                let s2 := match f old with
                  | none => s1
                  | some new => (s1.hostDraw j.ctx p.kind p.pa).commit j.ctx (some c) p.pa (bytesOfNat n new)
                ((s2.sideDrop c j p.pa).acquire c j acq sc).giveA c (j1.clearPage .a) d (BitVec.ofNat 64 old)
              | .fail cause => s1.setJob c (j.raiseAt cause va)
              | g => s1.forGate j.ctx (some c) g
          | .fail cause => s.setJob c (j.raiseAt cause va)
          | g => s0.forGate j.ctx (some c) g

/-- Width in bytes of an atomic. -/
def atomBytes (wide : Bool) : Nat := if wide then 8 else 4

/-- AAMO (R211). -/
def execAamo (o : AtomOp) (d a : Opnd) (sc : Scope) (r : Order) (wide : Bool) (cls : Fin 16) (s : State) : Res :=
  accessOp (.aamo o d a sc r wide cls) (fun s c j j1 vs =>
    let n := atomBytes wide
    let x := j.argX vs 1
    s.atomicAt c j j1 cls d n (j.argX vs 0).toNat (fun old => some (atomOp o (8 * n) old x.toNat))
      (.atomic o wide x) (Machine.Order.acq r) sc) s

/-- ASWP (R211). -/
def execAswp (d a : Opnd) (sc : Scope) (r : Order) (wide : Bool) (cls : Fin 16) (s : State) : Res :=
  accessOp (.aswp d a sc r wide cls) (fun s c j j1 vs =>
    let n := atomBytes wide
    let x := j.argX vs 1
    s.atomicAt c j j1 cls d n (j.argX vs 0).toNat (fun _ => some (x.toNat % 2 ^ (8 * n)))
      (.swap wide x) (Machine.Order.acq r) sc) s

/-- The register after D. -/
def nextReg : Opnd → Fin 32
  | .reg n => n + 1
  | _ => 0

/-- ACAS: D names an even register, and D + 1 holds the new value (R62, R211). -/
def execAcas (d a : Opnd) (sc : Scope) (r : Order) (wide : Bool) (cls : Fin 16) (s : State) : Res :=
  accessOp (.acas d a sc r wide cls) (fun s c j j1 vs =>
    let n := atomBytes wide
    let x := j.argX vs 1
    let y := j.reg .a (nextReg d)
    s.atomicAt c j j1 cls d n (j.argX vs 0).toNat
      (fun old => if old = x.toNat % 2 ^ (8 * n) then some (y.toNat % 2 ^ (8 * n)) else none)
      (.cas wide x y) (Machine.Order.acq r) sc) s

/-! ## Translation maintenance (R218, R219, R376) -/

/-- The result of TLBP (R218). -/
def tlbpWord (e : TlbEnt) (va : Nat) (l1 l2 : Bool) : W64 :=
  BitVec.ofNat 64 ((e.frame + va % pageBytes e.size / 4096) % 2 ^ 40 * 2 ^ 12 + e.size.val * 2 ^ 9 + e.rd.toNat * 2 ^ 7
    + e.wr.toNat * 2 ^ 6 + l2.toNat * 2 ^ 5 + l1.toNat * 2 ^ 4 + 1)

/-- The probe of TLBP: the first-level and then the second-level TLB. -/
def State.tlbProbe (s : State) (c : CoreId) (ctx : CtxId) (x : W64) : W64 :=
  let va := x.toNat
  if 2 ^ 48 ≤ va then 0 else
  let f := fun l : List TlbEnt => l.find? fun e => e.hit ctx va
  match f (s.core c).tlb, f (s.cluster (coreClu c)).tlb2 with
  | some e, y => tlbpWord e va true y.isSome
  | none, some e => tlbpWord e va false true
  | none, none => 0

/-- TLBP (R218). -/
def execTlbp (d a : Opnd) (s : State) : Res :=
  accessOp (.tlbp d a) (fun s c j j1 vs => s.giveA c j1 d (s.tlbProbe c j.ctx (j.argX vs 0))) s

/-- What an invalidation covers: all, a context, or a page of a context (R219, R376). -/
inductive Covers
  | all
  | ctx (c : CtxId)
  | page (c : CtxId) (va : Nat)
  deriving DecidableEq, Repr

/-- The invalidation covers a TLB entry. -/
def Covers.entry (x : Covers) (e : TlbEnt) : Bool :=
  match x with
  | .all => true
  | .ctx c => decide (e.ctx = c)
  | .page c va => e.hit c va

/-- The invalidation covers a walk in flight: its page form where the page holds the walk's address (R376). The walk has no leaf yet
whose size would say what a page is: the page form covers the 4 KiB page of x[A], by a design choice (log 84). -/
def Covers.walk (x : Covers) (w : WalkFlight) : Bool :=
  match x with
  | .all => true
  | .ctx c => decide (w.ctx = c)
  | .page c va => decide (w.ctx = c) && decide (w.va / 4096 = va / 4096)

/-- The clusters of a partition. -/
def State.partClus (s : State) (p : PartId) : List CluId :=
  (List.finRange 32).filter fun k => decide (s.cluPart k = some p)

/-- The cores of a cluster. -/
def cluCores (k : CluId) : List CoreId :=
  (List.finRange 4).map fun i => ⟨k.val * 4 + i.val, by have := k.isLt; have := i.isLt; omega⟩

/-- A command that has not started loses the translations that an invalidation covers; one that has started keeps its own, with
which it runs to completion. -/
def CopyCmd.without (x : Covers) (q : CopyCmd) : CopyCmd :=
  if q.started then q else { q with xl := q.xl.filter fun e => !x.entry e }

/-- The translations that queued copy commands of a partition's jobs hold leave with the TLB entries that they came from
(R376). -/
def State.dropXl (s : State) (p : PartId) (x : Covers) : State :=
  (List.finRange 128).foldl (fun st c =>
    match st.job c with
    | none => st
    | some j =>
      if j.part = p ∧ j.copies.toList.any (fun l => !l.isEmpty) then
        st.setJob c { j with copies := j.copies.map fun l => l.map (CopyCmd.without x) }
      else st) s

/-- The first part of an invalidation: entries leave every TLB of the partition, and older walks that it covers are
killed (R376). -/
def State.shootStart (s : State) (p : PartId) (x : Covers) (core : CoreId) : State :=
  let pt := s.part p
  let s0 := s.setPart p { pt with seq := pt.seq + 1, shoots := pt.shoots ++ [{ s := pt.seq + 1, core }] }
  let s1 := s0.dropXl p x
  (s.partClus p).foldl (fun st k =>
    let cl := st.cluster k
    let walks := cl.walks.map fun w => w.map fun f =>
      if f.seq < pt.seq + 1 ∧ x.walk f then { f with killed := true } else f
    let st1 := st.setCluster k { cl with tlb2 := cl.tlb2.filter (fun e => !x.entry e), walks }
    (cluCores k).foldl (fun st c => st.setCore c { st.core c with tlb := (st.core c).tlb.filter fun e => !x.entry e })
      st1) s1

/-- The operand check of TLBINV: a context of the partition in x[B][15:0], and nothing above it (R219). -/
def State.tlbCtx (s : State) (p : PartId) (b : W64) : Option CtxId :=
  if b.toNat / 65536 ≠ 0 then none else s.ctxHandle p (b.toNat % 65536)

/-- The bad operand of a TLBINV: an address, which the stop record holds whole, or a context (R127, R134). -/
inductive TlbBad
  | addr (va : Nat)
  | ctx (val : W32)

/-- A TLBINV traps for an operand. -/
def Job.raiseTlb (j : Job) (x : TlbBad) : Job :=
  match x with
  | .addr va => j.raiseAt .protection va
  | .ctx v => j.raise .a .protection v

/-- The frame of TLBINV: the invalidation starts, and A stalls until it completes (R219, R376). -/
def tlbinvOp (i : Instr) (covers : State → Job → List Val → Except TlbBad Covers) (s : State) : Res :=
  withJob s .a fun c j =>
    match j.a.wait with
    | .op args =>
      if (s.part j.part).shoots.any fun x => decide (x.s = (args.headD 0).toNat ∧ x.core = c) then s
      else s.doneA c (j.setWait .a .run)
    | _ =>
      issueState s .a i 1 (fun s c j =>
        let (j1, vs) := readFields j (fieldsOf j i)
        match covers s j vs with
        | .error v => s.setJob c (j.raiseTlb v)
        | .ok x =>
          let s1 := s.shootStart j.part x c
          s1.setJob c ((j1.setWait .a (.op [BitVec.ofNat 64 (s1.part j.part).seq])).act .a)) c j

/-- TLBINV .page (R219). x[A] is a global address (R188, R189). With both operands bad TRAPVAL is that of x[A]: the spec does not
say which, and the choice is the model's (log 84). -/
def execTlbinvPage (a b : Opnd) (s : State) : Res :=
  tlbinvOp (.tlbinvPage a b) (fun s j vs =>
    if 2 ^ 48 ≤ (j.argX vs 0).toNat then .error (.addr (j.argX vs 0).toNat)
    else
      match s.tlbCtx j.part (j.argX vs 1) with
      | some x => .ok (.page x (j.argX vs 0).toNat)
      | none => .error (.ctx ((j.argX vs 1).setWidth 32))) s

/-- TLBINV .ctx: the device ignores the field A, which names no operand (R219). -/
def execTlbinvCtx (a b : Opnd) (s : State) : Res :=
  tlbinvOp (.tlbinvCtx a b) (fun s j vs =>
    match s.tlbCtx j.part (j.argX vs 0) with
    | some x => .ok (.ctx x)
    | none => .error (.ctx ((j.argX vs 0).setWidth 32))) s

/-- TLBINV .all: the device ignores the fields A and B, which name no operand (R219). -/
def execTlbinvAll (a b : Opnd) (s : State) : Res := tlbinvOp (.tlbinvAll a b) (fun _ _ _ => .ok .all) s

/-! ## L1OP and PREF (R220, R221) -/

/-- What an instruction that posts no page request finds for an address (R220, R221). -/
inductive Probed
  | leaf (e : TlbEnt)
  | none
  | walk

/-- The translation of an address for an instruction that posts no page request: the TLBs, else a page walk (R374). -/
def State.probe (s : State) (c : CoreId) (j : Job) (va : Nat) : Probed :=
  match s.tlbFind c j.ctx va with
  | some e => .leaf e
  | none => if 2 ^ 48 ≤ va ∨ j.a.probed = some (va / 4096) then .none else .walk

/-- The instruction that walked for itself is done. -/
def Job.unprobe (j : Job) : Job := { j with a := { j.a with probed := Option.none } }

/-- A page walk of an instruction that posts no page request (R374, R376). -/
def State.probeWalk (s : State) (c : CoreId) (j : Job) (va : Nat) : State :=
  s.needWalk (coreClu c) j.part j.ctx va (.probe c)

/-- L1OP .line (R220). A line of a peer's memory is in no side cache (R467). -/
def execL1opLine (a : Opnd) (s : State) : Res :=
  accessOp (.l1opLine a) (fun s c j j1 vs =>
    let va := (j.argX vs 0).toNat
    match s.probe c j va with
    | .walk => s.probeWalk c j va
    | .leaf e => (if e.kind = 2 then s else s.sideDrop c j (e.pa va)).doneA c j1.unprobe
    | .none => (s.sideFlushAll c j).doneA c j1.unprobe) s

/-- L1OP .all (R220). The opcode map gives it an operand A, which R220 does not name: the model reads it like any other source, by a
design choice (log 84). -/
def execL1opAll (a : Opnd) (s : State) : Res :=
  accessOp (.l1opAll a) (fun s c j j1 _ => (s.sideFlushAll c j).doneA c j1) s

/-- A fill that a prefetch asks for; for .l1 it brings the row on into the side cache (R221). -/
def State.prefFill (s : State) (c : CoreId) (j : Job) (sc : Bool) (pa frame : Nat) : State :=
  let side := if sc then [] else [(c, j.jobid, pa / 128)]
  if s.fills.any fun x => x.frame = frame then
    { s with fills := s.fills.map fun x =>
        if x.frame = frame ∧ !x.side.any (fun y => side.contains y) then { x with side := x.side ++ side } else x }
  else s.needFill { frame, ctx := j.ctx, core := some c, quiet := true, side }

/-- A prefetch of the row at a physical address (R221): an absent row of device memory starts a fill that raises nothing, and one of
host memory comes into the system cache; a present row enters the side cache for .l1. -/
def State.prefetch (s : State) (c : CoreId) (j : Job) (sc : Bool) (pa : Nat) (kind : Fin 3) : State :=
  match s.nodeRead j (pa / 128 * 128) 128 kind with
  | .data bs =>
    let s1 := (if kind = 1 then (s.hostDraw j.ctx 1 pa).hostCache j.ctx pa .s else s).touch pa
    if sc then s1 else s1.sideFill c j pa (rowOfBytes bs)
  | .fill f => s.prefFill c j sc pa f
  | _ => s

/-- PREF: waits behind earlier accesses of its class, and is dropped where it cannot be made (R221, R467). -/
def execPref (sc : Bool) (a b : Opnd) (cls : Fin 16) (s : State) : Res :=
  accessOp (.pref sc a b cls) (fun s c j j1 vs =>
    let va := (j.argX vs 0 + j.argX vs 1).toNat
    if j.mustWait cls true true 0 0 then s
    else
      match s.probe c j va with
      | .walk => s.probeWalk c j va
      | .leaf e =>
        if 2 ^ 48 ≤ va ∨ !e.rd ∨ e.kind = 2 then s.doneA c j1.unprobe
        else if s.hostWaits j.ctx e.kind (e.pa va) then s
        else (s.prefetch c j sc (e.pa va) e.kind).doneA c j1.unprobe
      | .none => s.doneA c j1.unprobe) s

/-! ## Posted accesses perform (R190, R194, R201, R333) -/

/-- An earlier posted access keeps a later one back: the same class, the same bytes, or a fence between them. -/
def Posted.holds (p x : Posted) : Bool :=
  match x with
  | .scratch _ a bs k _ _ => p.before k false false a bs.length
  | .store _ parts k _ | .peer _ parts k _ => parts.any fun x => p.before k false true x.pa x.bytes.length
  | .fence m _ => p.inMask m

/-- Entry `n` of A's posted accesses is gone. -/
def Job.unpost (j : Job) (n : Nat) : Job :=
  { j with a := { j.a with
      posted := j.a.posted.eraseIdx n
      beforeMeet := if n < j.a.beforeMeet then j.a.beforeMeet - 1 else j.a.beforeMeet } }

/-- The address of the instruction that posted an access (R134). -/
def Posted.pc : Posted → Option VAddr
  | .scratch _ _ _ _ _ pc | .store _ _ _ pc | .peer _ _ _ pc => some pc
  | .fence _ _ => none

/-- A deferred trap of a posted access, which never performs: its record names the instruction that posted it (R134). -/
def State.postFails (s : State) (c : CoreId) (j : Job) (n : Nat) (cause : Cause) (addr : Nat) : State :=
  let pc := ((j.a.posted[n]?).bind Posted.pc).getD j.a.pc
  let j1 := j.unpost n
  s.setJob c { j1 with raised := j1.raised ++
    [{ eng := .a, cause, val := BitVec.ofNat 32 addr, pc, classC := causeClass cause = .c, addr }] }

/-- The request of a masked write to a peer (R195, R467). -/
def peerStore (parts : List StorePart) : Nat × PeerOp :=
  match parts with
  | [x] => (x.pa, .write x.bytes)
  | l => ((l.headD { pa := 0, va := 0, bytes := [] }).pa / 128 * 128, .masked (l.map fun x => (x.pa % 128, x.bytes)))

/-- A posted store to physical memory performs: its line is ready, the node has escaped, then the bytes of all its parts are
written as one write, and the own side cache's present line with them (R154, R195). -/
def State.performStore (s : State) (c : CoreId) (j : Job) (n : Nat) (kind : Fin 3) (parts : List StorePart) (cls : Fin 16)
    (pc : VAddr) : State :=
  let gate := fun (st : State) => if kind = 2 then WGate.ready else st.writeGate j.ctx ((parts.headD { pa := 0, va := 0, bytes := [] }).pa)
  let pa := (parts.headD { pa := 0, va := 0, bytes := [] }).pa
  let va := (parts.headD { pa := 0, va := 0, bytes := [] }).va
  if !s.live j.ctx then s
  else
    match gate s with
    | .fail cause => s.postFails c j n cause va
    | .ready =>
      match s.escape c j with
      | .stall s1 => s1
      | .fail cause x => s.postFails c j n cause x
      | .go s1 =>
        -- the writes that the escape performed may have taken the line's way
        match gate s1 with
        | .fail cause => s1.postFails c j n cause va
        | .ready =>
          if kind = 2 then
            (s1.askPeer c j.ctx .posted [peerStore parts]).setJob c
              { j with a := { j.a with posted := j.a.posted.set n (.peer s1.peerTag parts cls pc) } }
          else
            (parts.foldl (fun st x => (st.commit j.ctx (some c) x.pa x.bytes).sideUpdate c j x.pa x.bytes)
              (s1.hostDraw j.ctx kind pa)).setJob c (j.unpost n)
        | g => s1.forGate j.ctx (some c) g
    | g => s.forGate j.ctx (some c) g

/-- ACCESS_PERFORMS_AT_HOME: posted access `n` of a core's A stream performs, where no earlier one keeps it back. A
remote write reaches its target even if that job is held; one whose target job has retired is discarded (R190). -/
def execAccessPerformsAtHome (core : CoreId) (n : Nat) (s : State) : Res :=
  match s.job core with
  | none => .next s
  | some j =>
    match j.a.posted[n]? with
    | none => .next s
    | some x =>
      if (j.a.posted.take n).any fun p => p.holds x then .next s
      else
        match x with
        | .scratch k b bs _ target _ =>
          if k ≠ core ∧ !(s.sharesCtx k j.ctx && decide (s.jobidAt k = target)) then .next (s.setJob core (j.unpost n))
          else if !s.rowUsable k b then
            .next (s.postFails core j n .rowRange (if k = core then b else 0x1000000 + k.val % 4 * 0x200000 + b))
          else if s.yieldsAt k b then .next s
          else .next ((s.scrWrite k b bs).setJob core (j.unpost n))
        | .store kind parts cls pc => .next (s.performStore core j n kind parts cls pc)
        | .peer _ _ _ _ => .next s
        | .fence _ _ => .next (s.setJob core (j.unpost n))

end Sys2Proof.Machine
end

