-- ==== Sys2Proof/Machine/Copy.lean ====
section
/-! DEFINITION. Copy engines (R148, R303-R305, R334, R472): starting a command, its bursts, and the trap of its fault. -/

namespace Sys2Proof.Machine

/-! ## Translations of a command (R196, R304) -/

/-- A line's address at one end. -/
def lineAddr (base : Nat) (stride : Int) (i : Nat) : Int := (base : Int) + (i : Int) * stride

/-- The pages that `n` bytes from `a` touch, as addresses. -/
def pagesOf (a n : Nat) : List Nat :=
  (List.range ((a + n - 1) / 4096 + 1 - a / 4096)).map fun k => if k = 0 then a else (a / 4096 + k) * 4096

/-- A translation that a command holds. -/
def CopyCmd.find (x : CopyCmd) (ctx : CtxId) (va : Nat) : Option TlbEnt := x.xl.find? fun e => e.hit ctx va

/-- How far the translation of a command's lines comes. -/
inductive XlStep
  | ok (l : List TlbEnt)
  | miss (a : Acc4) (va : Nat) (l : List TlbEnt)
  | fault (cause : Cause) (va : Nat)

/-- The addresses at which `n` bytes of a line enter a page. -/
def endPages (a : Int) (n : Nat) : List Int := if a < 0 then [a] else (pagesOf a.toNat n).map Int.ofNat

/-- The head command of a job on an engine. -/
def Job.headCopy (j : Job) (e : CopyId) : Option CopyCmd := (j.copiesOf e).head?

/-- The head command replaced. -/
def Job.setHead (j : Job) (e : CopyId) (x : CopyCmd) : Job := j.setCopies e (x :: (j.copiesOf e).tail)

/-- A copy command's fault goes to the job's A engine (R305, R472). -/
def Job.copyFails (j : Job) (e : CopyId) (cause : Cause) (addr : Nat) : Job :=
  { j with a := { j.a with copyFault := some { e, cause, addr } } }

/-- The page wait of a copy command at an address. -/
def Job.copyPage (j : Job) (e : CopyId) (va : Nat) : Option PageWait :=
  j.pages.find? fun p => decide (p.user = .copy e) && decide (p.va / 4096 = va / 4096)

/-- The leaf serves the access: its permissions, a peer that can be reached, a block of the context (R196, R375, R408, R467). -/
def State.leafServes (s : State) (ctx : CtxId) (a : Acc4) (va : Nat) (e : TlbEnt) : Bool :=
  e.allows a && !(decide (e.kind = 2) && s.peerBarred (e.pa va)) && !(decide (e.kind = 0) && s.foreign ctx (frameOf (e.pa va)))

/-- Translates the addresses of a command in order, adding what the TLBs hold; the first that fails decides (R196). One whose page
request has no answer is a miss, whatever the TLBs have come to hold (R378). -/
def State.xlAll (s : State) (c : CoreId) (j : Job) (e : CopyId) : List (Acc4 × Int) → List TlbEnt → XlStep
  | [], l => .ok l
  | (a, x) :: xs, l =>
    if x < 0 ∨ (2 ^ 48 : Int) ≤ x then .fault .protection (x % (2 ^ 48 : Int)).toNat
    else
      let va := x.toNat
      if (j.copyPage e va).any fun p => p.tag.isSome then .miss a va l
      else
        match (l.find? fun t => t.hit j.ctx va), s.tlbFind c j.ctx va with
        | some t, _ => if s.leafServes j.ctx a va t then s.xlAll c j e xs l else .fault .protection va
        | none, some t => if s.leafServes j.ctx a va t then s.xlAll c j e xs (t :: l) else .fault .protection va
        | none, none => .miss a va l

/-- A copy command finds no translation: it waits for the answer of its page request, or asks for a walk (R196, R378). -/
def State.missCopy (s : State) (c : CoreId) (j : Job) (e : CopyId) (va : Nat) (a : Acc4) : State :=
  if (j.copyPage e va).any fun p => p.tag.isSome then s.setJob c j
  else (s.setJob c j).needWalk (coreClu c) j.part j.ctx va (.copy c e (if a = .write then 5 else 4))

/-- The page of a command whose request was denied, or whose walk met a table that failed (R378). -/
def Job.copyDenied (j : Job) (e : CopyId) : Option (Cause × Nat) :=
  j.pages.findSome? fun p => if p.user = .copy e then p.denied.map fun x => (x, p.va) else none

/-- The addresses that a command translates, line by line, of each line the source before the destination (R196; log 84). -/
def copyPlaces (f : CopyFields) : List (Acc4 × Int) :=
  (List.range f.lines).flatMap fun i =>
    (if f.srcl then [] else (endPages (lineAddr f.src f.sstride i) f.len).map fun x => (Acc4.read, x))
      ++ if f.dstl then [] else (endPages (lineAddr f.dst f.dstride i) f.len).map fun x => (Acc4.write, x)

/-- The engine may work for the job: its context is live and no copy fault stops it (R133, R305). -/
def State.copyLive (s : State) (j : Job) : Bool := s.live j.ctx && j.a.copyFault.isNone

/-- A hold that keeps a command queued behind another from starting (R305; log 85): a page fault, a W wait, or the stall wire, that
is, any hold cause of another member of the gang (R313). The job's own waits at a slate or rendezvous are none of these. -/
def State.copyHeld (s : State) (c : CoreId) (j : Job) : Bool :=
  j.pageHold || (s.members c j).any fun d =>
    match s.job d with
    | none => false
    | some x => !x.atStop && [Eng.v, .m].any fun y => s.adds d x y (decide (d = c))

/-- COPY_COMMAND_START: the oldest command of the job on the engine translates every line, and starts. One that was queued behind
another waits while the job is held; one that a stop found started goes on (R303-R305). Within a line the source comes before the
destination: the spec gives no order, and the choice is the model's (log 84). -/
def execCopyCommandStart (core : CoreId) (e : CopyId) (s : State) : Res :=
  match s.job core with
  | none => .next s
  | some j =>
    match j.headCopy e with
    | none => .next s
    | some x =>
      if x.started || !s.copyLive j || j.atStop then .next s
      else if let some (cause, va) := j.copyDenied e then .next (s.setJob core (j.copyFails e cause va))
      else if x.behind && !x.begun && s.copyHeld core j then .next s
      else
        .next (match s.xlAll core j e (copyPlaces (copyFields x.cmd)) x.xl with
          | .fault cause va => s.setJob core (j.copyFails e cause va)
          | .miss a va l => s.missCopy core (j.setHead e { x with xl := l }) e va a
          | .ok l =>
            let j1 := j.setHead e { x with xl := l, started := true, begun := true }
            s.setJob core { j1 with pages := j1.pages.filter fun p => decide (p.user ≠ .copy e) })

/-! ## One burst (R304) -/

/-- The parts of lines that `n` source bytes from position `cur` of a command make up: line, offset, bytes. -/
def segments (len : Nat) : Nat → Nat → Nat → List (Nat × Nat × Nat)
  | 0, _, _ => []
  | fuel + 1, cur, n =>
    if n = 0 then [] else
    let k := Nat.min (len - cur % len) n
    (cur / len, cur % len, k) :: segments len fuel (cur + k) (n - k)

/-- A range within one line of memory or one scratchpad: local, the address, the bytes. -/
structure Span where
  loc : Bool
  addr : Nat
  n : Nat
  deriving DecidableEq, Repr

/-- Splits a global range at 128-byte lines. -/
def lineSpans : Nat → Nat → Nat → List Span
  | 0, _, _ => []
  | fuel + 1, a, n =>
    if n = 0 then [] else
    let k := Nat.min (128 - a % 128) n
    ⟨false, a, k⟩ :: lineSpans fuel (a + k) (n - k)

/-- The spans of a segment at one end. -/
def endSpans (loc : Bool) (a n : Nat) : List Span := if loc then [⟨true, a, n⟩] else lineSpans n a n

/-- What reading the spans gives. -/
inductive CRead
  | ok (bs : List Byte)
  | stay (s : State)
  | fault (cause : Cause) (addr : Nat)

/-- The translation of a span's first byte. -/
def CopyCmd.piece (x : CopyCmd) (ctx : CtxId) (a : Nat) : Piece :=
  match x.find ctx a with
  | some e => ⟨a, e.pa a, e.kind⟩
  | none => ⟨a, 0, 0⟩

/-- Where a local address of the command lies; none once the job that ran on that core at GO has ended (R159). -/
def State.copyAt (s : State) (c : CoreId) (j : Job) (x : CopyCmd) (a : Nat) : Option (CoreId × Nat) :=
  match localAt c a with
  | none => none
  | some (k, b) =>
    let then_ := x.jobs[k.val % 4]'(Nat.mod_lt _ (by decide))
    if k = c ∨ (s.sharesCtx k j.ctx ∧ then_ = some (s.jobidAt k)) then some (k, b) else none

/-- Local bytes of a command; those of a job that has ended read as zeros (R159). -/
def State.localBytes (s : State) (c : CoreId) (j : Job) (x : CopyCmd) (a n : Nat) : List Byte :=
  match s.copyAt c j x a with
  | none => List.replicate n 0
  | some (k, b) => s.scrRead k b n

/-- Reads the source spans of a burst in order, at the system cache with the node's staged bytes (R332, R333). `reply`
holds what peers have returned. -/
def State.burstRead (s : State) (c : CoreId) (j : Job) (x : CopyCmd) : List Span → List Byte → CRead
  | [], _ => .ok []
  | sp :: rest, reply =>
    let next := fun (bs : List Byte) (r : List Byte) =>
      match s.burstRead c j x rest r with
      | .ok more => CRead.ok (bs ++ more)
      | y => y
    if sp.loc then next (s.localBytes c j x sp.addr sp.n) reply
    else
      let p := x.piece j.ctx sp.addr
      if p.kind = 2 then next (reply.take sp.n) (reply.drop sp.n)
      else
        match s.nodeRead j p.pa sp.n p.kind with
        | .data bs => next bs reply
        | .poison cause => .fault cause sp.addr
        | .barred => .fault .protection sp.addr
        | .fill f => .stay (s.needFill { frame := f, ctx := j.ctx, core := some c, quiet := false })
        | .peer => .stay s

/-- The elements of bytes, converted from type to type (R148): `key` numbers the first element within the line. -/
def convertBytes (src dst : ElemT) (mode : Rm) (bits : Nat → Nat) (key : Nat) (bs : List Byte) : List Byte :=
  let x := natOfBytes bs
  let n := 8 * bs.length / src.width
  let es := (List.range n).map fun i => (cvtElem dst src mode (bits (key + i)) false (bitsAt x (src.width * i) src.width)).1
  bytesOfNat (n * dst.width / 8) (natOfLanes dst.width es)

/-- What a segment's bytes become at the destination. -/
def CopyCmd.convert (x : CopyCmd) (j : Job) (f : CopyFields) (line off : Nat) (bs : List Byte) : List Byte :=
  if !converts f x.srcFmt x.dstFmt then bs
  else
    match fmtType x.srcFmt, fmtType x.dstFmt with
    | some a, some b =>
      let mode : Rm := match bitsAt x.dstFmt.toNat 5 2 with
        | 1 => .rz
        | 2 => .stoch
        | 3 => .rna
        | _ => .rne
      convertBytes a b mode (gen x.seed j.nodeid (BitVec.ofNat 16 line) 0) (8 * off / a.width) bs
    | _, _ => bs

/-- The writes of a burst: a span and its bytes. -/
abbrev CWrites := List (Span × List Byte)

/-- Cuts the converted bytes of each segment into the writes of the destination. -/
def CopyCmd.writes (x : CopyCmd) (j : Job) (f : CopyFields) : List (Nat × Nat × Nat) → List Byte → CWrites
  | [], _ => []
  | (line, off, n) :: rest, bs =>
    let out := x.convert j f line off (bs.take n)
    let a := (lineAddr f.dst f.dstride line + (dstLen f x.srcFmt x.dstFmt off : Nat)).toNat
    let parts := if f.dstl then [(⟨true, a, out.length⟩, out)]
      else (splitLines (out.length + 1) a out).map fun y => ((⟨false, y.1, y.2.length⟩ : Span), y.2)
    parts ++ x.writes j f rest (bs.drop n)

/-- The local writes of a burst; those to a job that has ended are discarded (R159). -/
def State.copyLocal (s : State) (c : CoreId) (j : Job) (x : CopyCmd) (l : CWrites) : State :=
  l.foldl (fun st w =>
    if !w.1.loc then st else
    match st.copyAt c j x w.1.addr with
    | none => st
    | some (k, b) => st.scrWrite k b w.2) s

/-- A row of a scratchpad that the command reads or writes serves a timed access in this cycle, to which the command yields (R149). -/
def State.copyYields (s : State) (c : CoreId) (j : Job) (x : CopyCmd) (l : List (Nat × Nat)) : Bool :=
  l.any fun y =>
    match s.copyAt c j x y.1 with
    | none => false
    | some (k, b) => (List.range (y.2 / 128 + 2)).any fun i =>
        decide (b / 128 + i ≤ (b + y.2 - 1) / 128) && s.yieldsAt k ((b / 128 + i) * 128)

/-- The first write of a burst that is not ready, with its gate. -/
def State.copyGate (s : State) (ctx : CtxId) : List (Piece × List Byte) → Option (Piece × WGate)
  | [] => none
  | (p, _) :: rest =>
    if p.kind = 2 then s.copyGate ctx rest
    else
      match s.writeGate ctx p.pa with
      | .ready => s.copyGate ctx rest
      | g => some (p, g)

/-- What the global writes of a burst come to. -/
inductive CWrite
  | ok (s : State)
  | stay (s : State)
  | fault (cause : Cause) (addr : Nat)

/-- The global writes of a burst: staged as writes of the node, else performed after the node's escape (R198, R422). -/
def State.copyGlobal (s : State) (c : CoreId) (j : Job) (l : List (Piece × List Byte)) : CWrite :=
  match l.find? fun w => decide (w.1.kind = 0) && s.writeRefused j.ctx w.1.pa with
  | some w => .fault .protection w.1.va
  | none =>
    match s.stageAll c j l with
    | some s1 => .ok s1
    | none =>
      match s.copyGate j.ctx l with
      | some (p, .fail cause) => .fault cause p.va
      | some (_, g) => .stay (s.forGate j.ctx (some c) g)
      | none =>
        match s.escape c j with
        | .stall s1 => .stay s1
        | .fail cause va => .fault cause va
        | .go s1 =>
          -- the writes that the escape performed may have taken a line's way
          match s1.copyGate j.ctx l with
          | some (p, .fail cause) => .fault cause p.va
          | some (_, g) => .stay (s1.forGate j.ctx (some c) g)
          | none => .ok (l.foldl (fun st w =>
              if w.1.kind = 2 then st else (st.commit j.ctx (some c) w.1.pa w.2).sideUpdate c j w.1.pa w.2) s1)

/-- The engine has served a core up to a burst boundary, from which the turn goes on (R303). -/
def State.turnOver (s : State) (c : CoreId) (e : CopyId) : State :=
  let cl := s.cluster (coreClu c)
  s.setCluster (coreClu c) { cl with
    served := cl.served.set e.val ⟨c.val % 4, Nat.mod_lt _ (by decide)⟩ e.isLt, serving := cl.serving.set e.val none e.isLt }

/-- The burst's writes have performed: CUR advances; at the end of the command its count is added once to its barrier
(R161, R304). The task bears the burst's energy (R295). -/
def State.burstDone (s : State) (c : CoreId) (j : Job) (e : CopyId) (x : CopyCmd) (f : CopyFields) (n : Nat) : State :=
  let cur := x.cur + n
  let s1 := (s.spendKind c 2).turnOver c e
  if cur < f.len * f.lines then s1.setJob c (j.setHead e { x with cur, peer := none })
  else (s1.barApply c f.bar (f.len * f.lines)).setJob c (j.setCopies e (j.copiesOf e).tail)

/-- One burst: the reads, those of peers by a request; then the writes, those of peers by a request (R304, R469). -/
def State.burst (s : State) (c : CoreId) (j : Job) (e : CopyId) (x : CopyCmd) : State :=
  let f := copyFields x.cmd
  let n := Nat.min 4096 (f.len * f.lines - x.cur)
  let segs := segments f.len n x.cur n
  let spans := segs.flatMap fun g => endSpans f.srcl (lineAddr f.src f.sstride g.1 + (g.2.1 : Nat)).toNat g.2.2
  let reads := (spans.filter fun sp => !sp.loc).map fun sp => (x.piece j.ctx sp.addr, sp.n)
  let ask := fun (st : State) (l : List (Piece × PeerOp)) (wr : Bool) =>
    (st.askPeer c j.ctx (.copy e) (l.map fun y => (y.1.pa, y.2))).setJob c
      (j.setHead e { x with peer := some (PeerWait.of st.peerTag (l.map fun y => y.1.va) wr) })
  let bar := if x.cur + n < f.len * f.lines then [] else [(f.bar, 32)]
  let locals := ((spans.filter fun sp => sp.loc).map fun sp => (sp.addr, sp.n)) ++ bar
  let go := fun (reply : List Byte) =>
    if s.copyYields c j x locals then s else
    match s.burstRead c j x spans reply with
    | .stay s1 => s1
    | .fault cause a => s.setJob c (j.copyFails e cause a)
    | .ok bs =>
      let ws := x.writes j f segs bs
      let gl := (ws.filter fun w => !w.1.loc).map fun w => (x.piece j.ctx w.1.addr, w.2)
      let places := fun (l : List Piece) => l.map fun p => (p.kind, p.pa)
      let blocks := s.hostBlocks j.ctx (places (reads.map Prod.fst)) + s.hostBlocks j.ctx (places (gl.map Prod.fst))
      if s.copyYields c j x ((ws.filter fun w => w.1.loc).map fun w => (w.1.addr, w.2.length))
        || decide (s.hostAllow < 8 * blocks) then s else
      match s.copyGlobal c j gl with
      | .stay s1 => s1
      | .fault cause a => s.setJob c (j.copyFails e cause a)
      | .ok s1 =>
        let s2 := reads.foldl (fun st y => if y.1.kind = 2 then st else st.touch y.1.pa)
          (State.copyLocal { s1 with hostAllow := s1.hostAllow - 8 * blocks } c j x ws)
        match gl.filterMap fun w => if w.1.kind = 2 then some (w.1, PeerOp.write w.2) else none with
        | [] => s2.burstDone c j e x f n
        | l => ask s2 l true
  match x.peer with
  | none =>
    match reads.filterMap fun y => if y.1.kind = 2 then some (y.1, PeerOp.read y.2) else none with
    | [] => go []
    | l => ask s l false
  | some w =>
    match w.got with
    | none => s
    | some (.error va) => s.setJob c (j.copyFails e .eccUe va)
    | some (.ok bs) =>
      if !w.wr then go bs
      -- the addition to the barrier yields as well (R149)
      else if s.copyYields c j x bar then s
      else s.burstDone c j e x f n

/-- The core has a burst for the engine; a job at its stop begins none (R305). -/
def State.hasBurst (s : State) (c : CoreId) (e : CopyId) (begun : Bool) : Bool :=
  match s.job c with
  | some j => s.copyLive j && (match j.headCopy e with
      | some x => x.started && (!j.atStop || begun)
      | none => false)
  | none => false

/-- The core whose command the engine serves next: the one whose burst is in progress, else in ascending order after the one served
last (R303). -/
def State.copyTurn (s : State) (k : CluId) (e : CopyId) : Option CoreId :=
  let last := ((s.cluster k).served[e.val]'e.isLt).val
  let now := match (s.cluster k).serving[e.val]'e.isLt with
    | some i => (cluCores k)[i.val]?.filter fun c => s.hasBurst c e true
    | none => none
  match now with
  | some c => some c
  | none =>
    ((List.range 4).map fun i => (last + 1 + i) % 4).findSome? fun i =>
      (cluCores k)[i]?.filter fun c => s.hasBurst c e false

/-- COPY_BURST_COMPLETE: a burst of the core's running command performs, in the core's turn (R303, R304). -/
def execCopyBurstComplete (core : CoreId) (e : CopyId) (s : State) : Res :=
  if s.copyTurn (coreClu core) e ≠ some core then .next s
  else
    match s.job core with
    | none => .next s
    | some j =>
      match j.headCopy e with
      | none => .next s
      | some x =>
        let cl := s.cluster (coreClu core)
        let serving := cl.serving.set e.val (some ⟨core.val % 4, Nat.mod_lt _ (by decide)⟩) e.isLt
        .next ((s.setCluster (coreClu core) { cl with serving }).burst core j e x)

/-- A stands at an instruction boundary for a copy command's fault: an IDLE, a TLBINV that has started and a peer access that has been
sent are in progress, and complete first (R472). -/
def Job.copyDue (j : Job) : Bool :=
  j.a.copyFault.isSome && j.a.peer.isNone && !j.trapped .a && match j.a.wait with
    | .op _ | .idle _ => false
    | _ => true

/-- COPY_FAULT_TRAP: A takes a copy command's fault at its boundary; a wait is abandoned (R472). -/
def execCopyFaultTrap (core : CoreId) (s : State) : Res :=
  match s.job core with
  | none => .next s
  | some j =>
    match j.a.copyFault with
    | none => .next s
    | some f => if j.copyDue then .next (s.setJob core (j.raiseAt f.cause f.addr)) else .next s

end Sys2Proof.Machine
end

