-- ==== Sys2Proof/Machine/Rows.lean ====
section
/-! DEFINITION. Physical rows of the scratchpads: the row map (R141), demotions (R142), floors (R138, R140), and the
evacuation before a step down (R362). A row's contents stand under its logical address, so a move of contents from one
physical row to another leaves them where they are. -/

namespace Sys2Proof.Machine

/-! ## Grades and the row map -/

/-- The grade of physical row `p` of bank `b`. -/
def Core.grade (c : Core) (b p : Nat) : Nat := SMap.get 0 c.grades (b * 544 + p)

/-- The core with a grade set. -/
def Core.setGrade (c : Core) (b p g : Nat) : Core := { c with grades := SMap.set 0 c.grades (b * 544 + p) g }

/-- The physical row of logical row `r` of bank `b` (R141). -/
def Core.mapped (c : Core) (b r : Nat) : Nat :=
  let x := SMap.get 0 c.rowmap (b * 512 + r)
  if x = 0 then r else x - 1

/-- The core with a logical row mapped. -/
def Core.setMap (c : Core) (b r p : Nat) : Core :=
  { c with rowmap := SMap.set 0 c.rowmap (b * 512 + r) (if p = r then 0 else p + 1) }

/-- The logical row below `u` that is mapped to physical row `p`. -/
def Core.logicalOf (c : Core) (b u p : Nat) : Option Nat := (List.range u).find? fun r => c.mapped b r = p

/-- The lowest-numbered physical row that holds no logical row below `u` and is good at level `l`. -/
def Core.spare (c : Core) (b u l : Nat) : Option Nat :=
  (List.range 544).find? fun q => decide (c.grade b q ≤ l) && (c.logicalOf b u q).isNone

/-- The contents of rows that are lost are free (R141, log 3). -/
def loseRows (n : Nat) (m : Memory) (b lo hi : Nat) : Memory :=
  m.filter (fun e => !(decide (b * 65536 + lo * 128 ≤ e.1) && decide (e.1 < b * 65536 + hi * 128))) |> fun m1 =>
    (List.range (128 * (hi - lo))).foldl (fun x k =>
      let a := b * 65536 + lo * 128 + k
      x.write a (Config.lostByte n a)) m1

/-! ## Floors (R138, R140) -/

/-- The floor of a level. -/
def floorOf (l : Nat) : Nat := if l ≤ 1 then 480 else if l ≤ 3 then 492 else if l ≤ 5 then 504 else 512

/-- The core is below floor at a level. -/
def Core.belowFloor (c : Core) (l : Nat) : Bool := (List.range 32).any fun b => decide (usable c b l < floorOf l)

/-- The core is mapped out: quarantined, or below floor at level 14 (R140, R290). -/
def Core.mappedOut (c : Core) : Bool := c.quarantined || c.belowFloor 14

/-- The cores of an island. -/
def islCores (i : IslId) : List CoreId := (List.finRange 128).filter fun c => coreIsl c = i

/-- F(i): the lowest level at which no good core of the island is below floor (R140). -/
def State.floorLevel (s : State) (i : IslId) : Nat :=
  ((List.range 15).find? fun l => (islCores i).all fun c => (s.core c).mappedOut || !(s.core c).belowFloor l).getD 14

/-! ## Demotions (R142) -/

/-- A new grade of a physical row takes effect at once: where its logical row has no good spare, the highest usable
logical row gives up its own and is left out of the map. -/
def Core.applyGrade (c : Core) (n lvl b p g : Nat) : Core :=
  let u := usable c b lvl
  let c1 := c.setGrade b p g
  match c.logicalOf b u p with
  | none => c1
  | some r =>
    if g ≤ lvl then c1
    else
      match c.spare b u lvl with
      | some q => c1.setMap b r q
      | none =>
        let top := u - 1
        let c2 := if r = top then c1 else (c1.setMap b r (c.mapped b top)).setMap b top p
        { c2 with scr := loseRows n c2.scr b top u }

/-- A demotion must wait for the job on the core: its row holds a logical row that no good spare can take (R142). -/
def Core.mustDefer (c : Core) (lvl b p g : Nat) : Bool :=
  c.job.isSome && decide (lvl < g) && (c.logicalOf b (usable c b lvl) p).isSome && (c.spare b (usable c b lvl) lvl).isNone

/-- A row takes a new grade now, in place of one that was pending (R142). -/
def State.gradeNow (s : State) (c : CoreId) (b p g : Nat) : State :=
  let y := (s.core c).applyGrade s.fresh (s.level c) b p g
  { s.setCore c { y with pendDem := y.pendDem.filter fun d => decide (d.1 ≠ b * 544 + p) } with fresh := s.fresh + 1 }

/-- A row takes a new grade, now or when the job that holds its bank ends (R142). -/
def State.regrade (s : State) (c : CoreId) (b p g : Nat) : State :=
  let x := s.core c
  if x.mustDefer (s.level c) b p g then
    s.setCore c { x with pendDem := x.pendDem.filter (fun d => decide (d.1 ≠ b * 544 + p)) ++ [(b * 544 + p, g)] }
  else s.gradeNow c b p g

/-- A correction on a read of a physical row (R142): the pending grade counts where there is one. -/
def State.demote (s : State) (c : CoreId) (b p : Nat) : State :=
  let x := s.core c
  let g := match x.pendDem.find? fun d => decide (d.1 = b * 544 + p) with
    | some d => d.2
    | none => x.grade b p
  s.regrade c b p (Nat.min (g + 2) 15)

/-- The job of a core has ended: the deferred demotions take effect (R142). -/
def State.applyDemotions (s : State) (c : CoreId) : State :=
  let l := (s.core c).pendDem
  let s1 := s.setCore c { s.core c with pendDem := [] }
  l.foldl (fun st d =>
    { st.setCore c ((st.core c).applyGrade st.fresh (st.level c) (d.1 / 544) (d.1 % 544) d.2) with
      fresh := st.fresh + 1 }) s1

/-! ## Changes of level (R141, R347, R362) -/

/-- The bank profile of a job covers a row (R141). -/
def profProtects (j : Job) (b r : Nat) : Bool := decide (r < profNeed j.bankprof b)

/-- The byte ranges of the lines of a local end: core, first byte and the byte after the last. -/
def endRanges (c : CoreId) (base : Nat) (stride : Int) (n lines : Nat) : List (CoreId × Nat × Nat) :=
  (List.range lines).filterMap fun (i : Nat) => (localLine c ((base : Int) + ((i : Nat) : Int) * stride)).map fun p => (p.1, p.2, p.2 + n)

/-- The scratchpad ranges that the queued and running copy commands of a job read or write (R141). -/
def copyRanges (c : CoreId) (j : Job) : List (CoreId × Nat × Nat) :=
  j.copies.toList.flatMap fun l => l.flatMap fun x =>
    let f := copyFields x.cmd
    (if f.srcl then endRanges c f.src f.sstride f.len f.lines else []) ++
      (if f.dstl then endRanges c f.dst f.dstride (dstLen f x.srcFmt x.dstFmt f.len) f.lines else []) ++
      -- the barrier that the command adds to when it completes (R304)
      [(c, f.bar, f.bar + 32)]

/-- The core whose job protects row `r` of bank `b` of core `c`, by its bank profile or by a copy command of the cluster (R141). -/
def State.protector (s : State) (c : CoreId) (b r : Nat) : Option CoreId :=
  let a := b * 65536 + r * 128
  if (s.job c).any fun j => profProtects j b r then some c
  else (cluCores (coreClu c)).find? fun k => (s.job k).any fun j =>
    (copyRanges k j).any fun x => decide (x.1 = c) && decide (x.2.1 < a + 128) && decide (a < x.2.2)

/-- Row `r` of bank `b` of a core is protected (R141). -/
def State.protects (s : State) (c : CoreId) (b r : Nat) : Bool := (s.protector c b r).isSome

/-- Moves one logical row to a row that is good at the lower level (R362). -/
def Core.moveRow (c : Core) (b u u2 l2 r : Nat) : Core :=
  let p := c.mapped b r
  if c.grade b p ≤ l2 then c
  else
    match (List.range 544).find? fun q => decide (c.grade b q ≤ l2) && (c.logicalOf b u q).isNone with
    | some q => c.setMap b r q
    | none =>
      match (List.range (u - u2)).reverse.find? fun k => decide (c.grade b (c.mapped b (u2 + k)) ≤ l2) with
      | some k => (c.setMap b r (c.mapped b (u2 + k))).setMap b (u2 + k) p
      | none => c

/-- The moves of R362 in one bank of a core. -/
def Core.evacuate (c : Core) (l l2 b : Nat) : Core :=
  let u := usable c b l
  let u2 := usable c b l2
  (List.range u2).foldl (fun y r => y.moveRow b u u2 l2 r) c

/-- A row of a bank that stays usable must still be moved (R362). -/
def Core.toMove (c : Core) (l2 b : Nat) : Bool :=
  (List.range (usable c b l2)).any fun r => decide (l2 < c.grade b (c.mapped b r))

/-- The map and the rows of a core at a change of level: rows that stop being usable lose their contents, and rows that
become usable take good physical rows (R141, R347). -/
def Core.relevel (c : Core) (n l l2 : Nat) : Core :=
  (List.range 32).foldl (fun x b =>
    let u := usable x b l
    let u2 := usable x b l2
    if u2 < u then { x with scr := loseRows n x.scr b u2 u }
    else
      (List.range (u2 - u)).foldl (fun y k =>
        match y.spare b (u + k) l2 with
        | some q => y.setMap b (u + k) q
        | none => y) x) c

end Sys2Proof.Machine
end

