-- ==== Sys2Proof/Machine/Contain.lean ====
section
/-! DEFINITION. Containment: card records (R398), stop records (R134, R400), the end of a job on a core, the halt line and
the death of a context (R133), node-fatal traps with replay and compensators (R425-R428), and mapping out (R290, R435). -/

namespace Sys2Proof.Machine

/-! ## The life of a card -/

/-- A card that enters a dispatcher (R308, R394). -/
def Card.fresh (raw : Nat) (home : CluId) (ctx : CtxId) (queue : Nat) (wsem ssem : Option Nat)
    (args : Option (Vector W64 8)) (now : Nat) : Card :=
  { raw, home, ctx, queue, steward := decide (384 ≤ ctx.val), wsem, ssem, args, phase := .queued, age := now, rounds := 0,
    promoted := false, stolen := false, metered := 0, settled := 0, vars := none, launched := false, capSince := none,
    readySince := none, recordDone := false, recEnts := none, migrations := [], page := none, pageFails := [], cores := [], charge := 0, escaped := false,
    escapedAt := 0, staged := [], sigs := [], replays := 0, lastCause := 0, faults := 0, joule := 0, start := 0,
    levlo := 15, levhi := 0, jobid := 0, compDue := none, recorded := false, ended := none,
    sel := { phase := 0, tier := 0, ecl := 0, approx := 0, dg := false, valid := false, slot := 0 },
    status := 0, sigdrop := false, comp := none, images := [], stopCause := 0, save := 0, seed := none, away := false }

/-- A free slot of a dispatcher (R309: 512 cards). -/
def Cluster.freeSlot (c : Cluster) : Option Nat := (List.range 512).find? fun k => (SMap.find c.cards k).isNone

/-- Puts a card into a dispatcher; a dispatcher that is full refuses it. -/
def State.enqueue (s : State) (clu : CluId) (x : Card) : Option State :=
  match (s.cluster clu).freeSlot with
  | none => none
  | some k =>
    let s1 := s.setCard clu (slotOf k) x
    some (s1.setCtx x.ctx { s1.ctx x.ctx with ncards := (s1.ctx x.ctx).ncards + 1 })

/-- Takes a card out of its dispatcher; it leaves CARDS (R397). -/
def State.removeCard (s : State) (clu : CluId) (slot : SlotId) : State :=
  match s.card clu slot with
  | none => s
  | some x =>
    let c := s.cluster clu
    let s1 := s.setCluster clu { c with cards := c.cards.erase slot.val }
    s1.setCtx x.ctx { s1.ctx x.ctx with ncards := (s1.ctx x.ctx).ncards - 1 }

/-- The completion record of a card (R398). A card that never ran a job reports zeros. -/
def Card.record (x : Card) (status now : Nat) : List Byte :=
  let ran := x.launched
  let n := fun (k v : Nat) => bytesOfNat k (if ran then v else 0)
  withCrc (bytesOfNat 2 status ++ bytesOfNat 1 (satTo 255 x.faults) ++ bytesOfNat 1 x.replays
    ++ n 1 (x.sel.slot.val + 128 * x.sel.valid.toNat)
    ++ bytesOfNat 1 (x.escaped.toNat + 2 * x.stolen.toNat + 4 * x.sigdrop.toNat)
    ++ n 1 x.levlo ++ n 1 x.levhi ++ n 8 x.start ++ n 8 now ++ n 8 x.joule ++ bytesOfNat 4 x.nodeid
    ++ n 4 ((x.cores.headD 0).val) ++ bytesOfNat 1 x.lastCause ++ bytesOfNat 19 0)

/-- The message that follows a record of a context. -/
def vfMsg (c : CtxId) (vector : Nat) : Option (Option (Fin 384) × Nat) := (ctxVf c).map fun v => (some v, vector)

/-- Writes a card's completion record and raises the VF's vector; a record that cannot be written is dropped and counted
(R310, R386). -/
def State.writeRecord (s : State) (x : Card) (status : Nat) : State :=
  s.record (.virt x.ctx x.compRec) (x.record status s.time) (if x.irq then vfMsg x.ctx 0 else none)

/-- The card that a compensator stands for (R428). -/
def State.original (s : State) (x : Card) : Option (SlotId × Card) :=
  x.comp.bind fun n => (s.card x.home (slotOf n)).map fun o => (slotOf n, o)

/-- A card ends with a status and without retiring: its record is written, its counter and semaphore stay (R398, R449). A
compensator's record is its original's, which ends with it. -/
def State.faultCard (s : State) (clu : CluId) (slot : SlotId) (status : Nat) : State :=
  match s.card clu slot with
  | none => s
  | some x =>
    match s.original x with
    | some (n, o) => ((s.writeRecord o status).removeCard clu slot).removeCard x.home n
    | none => (s.writeRecord x status).removeCard clu slot

/-! ## Stop records (R134, R400) -/

/-- The code of an engine in a record. -/
def engCode : Eng → Nat
  | .c => 0
  | .a => 1
  | .v => 2
  | .m => 3

/-- The engine stopped while it waited on a page request. -/
def Job.onPage (j : Job) (e : Eng) : Option PageWait :=
  j.pages.find? fun p => decide (p.user = .eng e) && p.tag.isSome

/-- ENGSTATE of an engine. -/
def engState (s : State) (c : CoreId) (j : Job) (e : Eng) (own : Option Raised) : Nat :=
  match e with
  | .c => natOfLanes 1 ((List.finRange 8).map fun k => (j.c.arch.pred k).toNat) + (j.flag.word (decide (0 < (s.island (coreIsl c)).stretch))).toNat * 2 ^ 32
  | .a =>
    match own, j.onPage .a with
    | some r, _ => r.addr
    | none, some p => p.va
    | none, none => 0
  | .v => j.v.fpflags.toNat
  | .m => j.m.fpflags.toNat

/-- LEVELS of an engine. -/
def engLevels (j : Job) (e : Eng) : Nat :=
  (j.loops e).length + 8 * (match e with
    | .c => j.c.arch.ras.held
    | .a => j.a.ras.held
    | .v => j.v.masks.length
    | .m => 0)

/-- What a stop record says of the stop. -/
structure StopInfo where
  engine : Nat
  cause : Nat
  flags : Nat
  pc : Nat
  val : Nat
  levels : Nat
  state : Nat

/-- The 64 bytes of a stop record. -/
def stopBytes (s : State) (c : CoreId) (j : Job) (i : StopInfo) : List Byte :=
  withCrc (bytesOfNat 1 i.engine ++ bytesOfNat 1 i.cause ++ bytesOfNat 2 i.flags ++ bytesOfNat 4 j.jobid.toNat
    ++ bytesOfNat 8 i.pc ++ bytesOfNat 4 i.val ++ bytesOfNat 4 j.take.toNat ++ bytesOfNat 4 j.holdcyc.toNat
    ++ bytesOfNat 2 0 ++ bytesOfNat 2 i.levels ++ bytesOfNat 8 s.time ++ bytesOfNat 4 j.nodeid.toNat
    ++ bytesOfNat 4 c.val ++ bytesOfNat 8 i.state ++ bytesOfNat 4 0)

/-- Writes a stop record into the context's stop area; STOPCNT rises (R400). -/
def State.writeStop (s : State) (ctx : CtxId) (bs : List Byte) : State :=
  let n := (s.ctx ctx).stopcnt.toNat
  let s1 := s.setCtx ctx { s.ctx ctx with stopcnt := (s.ctx ctx).stopcnt + 1 }
  match (s.ctxPart ctx).bind fun p => (s.part p).desc with
  | none => s1
  | some d =>
    let idx := if ctx.val < 384 then ctx.val - d.vfbase else d.vfn
    s1.record (.phys (d.stopbase + 8192 * idx + 64 * (n % 128))) bs none

/-- The stop record of one engine: `own` is a trap that it raised itself, `orig` says that this trap is the job's cause. TRAPVAL of one
that stopped while it waited on a page request is 0: the spec gives it no value, and the choice is the model's (log 84). -/
def engStop (s : State) (c : CoreId) (j : Job) (e : Eng) (own : Option Raised) (orig classC : Bool) : StopInfo :=
  let base := 8 * (s.nodeEscaped j).toNat + 16 * classC.toNat
  { engine := engCode e
    cause := match own with
      | some r => causeCode r.cause
      | none => if (j.onPage e).isSome then 0x10 else 0x1F
    flags := base + orig.toNat + 2 * (!e.elastic && s.heldNow c j).toNat
      + 4 * (decide (e = .c) && j.c.arch.inh).toNat
    pc := match own with
      | some r => r.pc.toNat
      | none => (j.pc e).toNat
    val := match own with
      | some r => r.val.toNat
      | none => 0
    levels := engLevels j e
    state := engState s c j e own }

/-- The stop record of a copy engine with a command in progress, or with the fault that stopped it (R134, R472). -/
def copyStop (s : State) (j : Job) (e : CopyId) (classC : Bool) : Option StopInfo :=
  let base := 8 * (s.nodeEscaped j).toNat + 16 * classC.toNat
  let cur := match j.headCopy e with
    | some x => x.cur / 4096 * 4096
    | none => 0
  let info := fun (cause val : Nat) =>
    some { engine := 4 + e.val, cause, flags := base, pc := 0, val, levels := 0, state := cur }
  match j.a.copyFault.filter fun f => decide (f.e = e) with
  | some f => info (causeCode f.cause) (f.addr % 2 ^ 32)
  | none => if (j.headCopy e).any fun x => x.started then info 0x1F 0 else none

/-- Before `a` in the order of R132: class C before N before T, then the engines in the order C, A, V, M, then the lower
code. -/
def raisedBefore (a b : Raised) : Bool :=
  let k := fun r : Raised => ((if r.classC then 0 else 1) * 4 + engCode r.eng) * 32 + causeCode r.cause
  decide (k a < k b)

/-- The first of a list of traps. -/
def firstRaised : List (CoreId × Raised) → Option (CoreId × Raised)
  | [] => none
  | x :: xs =>
    match firstRaised xs with
    | none => some x
    | some y => if raisedBefore y.2 x.2 then some y else some x

/-- The stop records of a job: its engines in the order C, A, V, M, then its copy engines. `cause` is the node's cause. -/
def State.stopRecords (s : State) (c : CoreId) (j : Job) (cause : Option (CoreId × Raised)) (classC : Bool) : State :=
  let engs := [Eng.c, .a, .v, .m].filter j.has
  let s1 := engs.foldl (fun st e =>
    let own := (firstRaised ((j.raised.filter fun r => decide (r.eng = e)).map fun r => (c, r))).map Prod.snd
    let orig := match cause with
      | some (k, r) => decide (k = c) && decide (r.eng = e)
      | none => false
    st.writeStop j.ctx (stopBytes s c j (engStop s c j e own orig classC))) s
  (List.finRange 2).foldl (fun st e =>
    match copyStop s j e classC with
    | some i => st.writeStop j.ctx (stopBytes s c j i)
    | none => st) s1

/-! ## The end of a job on a core -/

/-- A wrap of a partition whose target no core holds any more is vacated (R450). -/
def State.wrapCheck (s : State) (p : PartId) : State :=
  let q := s.part p
  let target := fun (k : CtxId) =>
    if q.wrapTVft then decide (k.val = q.wrapTVf) else decide (k.val < 384) && decide (s.ctxPart k = some p)
  let held := (List.finRange 128).any fun c => match s.job c with
    | some j => target j.ctx
    | none => false
  if q.wrapPhase = .vacating ∧ !held then
    (s.setPart p { q with wrapPhase := .vacated, wrapStatus := 2, wrapRun := [] }).announce none (32 + p.val)
  else s

/-- As `wrapCheck`, for the partition of a context. -/
def State.wrapVacated (s : State) (ctx : CtxId) : State :=
  match s.ctxPart ctx with
  | none => s
  | some p => s.wrapCheck p

/-- The variant that a card reports is that of its member 0 at its end (R398). -/
def State.noteVar (s : State) (j : Job) : State :=
  match s.card j.cluster j.slot with
  | some x => if j.member = 0 then s.setCard j.cluster j.slot { x with sel := j.var } else s
  | none => s

/-- The bursts of a core that the copy engines serve are over. -/
def State.unserve (s : State) (c : CoreId) : State :=
  let cl := s.cluster (coreClu c)
  s.setCluster (coreClu c) { cl with
    serving := cl.serving.map fun x => x.filter fun i => decide (i.val ≠ c.val % 4) }

/-- The requests that a core's job has posted are no longer its own, in whichever ring they stand, and its walks end (R377). -/
def State.dropReqs (s : State) (c : CoreId) : State :=
  { s with
    parts := s.parts.map fun p => { p with reqs := p.reqs.filter fun r => match r.owner with
      | .job k _ => decide (k ≠ c)
      | _ => true }
    clusters := s.clusters.map fun k => { k with walks := k.walks.map fun w => w.filter fun f => decide (f.use.user.1 ≠ c) }
    peerReqs := s.peerReqs.filter fun r => decide (r.core ≠ c) }

/-- The job leaves its core: its stream entries, posted accesses and requests go with it, its side cache is emptied, and
deferred demotions take effect (R34, R142, R154). -/
def State.dropJob (s : State) (c : CoreId) : State :=
  match s.job c with
  | none => s
  | some j =>
    let s0 := s.noteVar j
    let s1 := (s0.setCore c { s0.core c with job := none, side := [] }).applyDemotions c
    ((s1.unserve c).dropReqs c).wrapVacated j.ctx

/-- Every job of a running card stops with its records and leaves its core (R132, R133). -/
def State.stopNode (s : State) (x : Card) (cause : Option (CoreId × Raised)) (classC : Bool) : State :=
  let s1 := x.cores.foldl (fun st c =>
    match s.job c with
    | some j => st.stopRecords c j cause classC
    | none => st) s
  let s2 := x.cores.foldl State.dropJob s1
  s2.vfIrq x.ctx 2

/-- The highest and lowest level of a task are noted (R398). -/
def Card.note (x : Card) (lvl : Nat) : Card := { x with levlo := Nat.min x.levlo lvl, levhi := Nat.max x.levhi lvl }

/-- The card's own island. -/
def Card.isl (x : Card) : IslId := coreIsl (x.cores.headD 0)

/-! ## Queues halted (R399) -/

/-- The virtual address of the next packet. -/
def Queue.packetVa (u : Queue) : Nat :=
  match u.levels with
  | l :: _ => l.addr + 64 * l.next
  | [] => bitsAt u.qbase.toNat 12 36 * 4096 + 64 * (u.head % u.size)

/-- The sequence word of the next packet (R389, R392). -/
def Queue.expected (u : Queue) : Nat :=
  match u.levels with
  | l :: _ => l.next
  | [] => u.head % 2 ^ 32

/-- Writes a queue's error record; vector 1 announces it (R386, R399). -/
def State.queueError (s : State) (ctx : CtxId) (q code level seq addr detail : Nat) (head : List Byte) : State :=
  let u := s.queue ctx q
  let bs := withCrc (bytesOfNat 1 code ++ bytesOfNat 1 level ++ bytesOfNat 2 0 ++ bytesOfNat 4 seq ++ bytesOfNat 8 addr
    ++ bytesOfNat 8 s.time ++ bytesOfNat 4 detail ++ (head ++ List.replicate 32 0).take 32)
  let s1 := s.record (.virt ctx (u.qerr.toNat / 64 * 64)) bs (vfMsg ctx 1)
  s1.setQueue ctx q { s1.queue ctx q with err := code }

/-- Every queue of a killed context that has been set up halts with CONTEXT_HALT (R399). -/
def State.haltQueues (s : State) (ctx : CtxId) : State :=
  (s.ctx ctx).queues.foldl (fun st e =>
    let u := st.queue ctx e.1
    if u.state = .halted then st
    else
      let s1 := st.queueError ctx e.1 8 u.levels.length u.expected 0 0 []
      s1.setQueue ctx e.1 { s1.queue ctx e.1 with state := .halted, levels := [], pending := none, held := none, opsLeft := 0 }) s

/-! ## The halt line (R133) -/

/-- A task that has run is settled at its end (R354, R355). -/
def State.settleRun (s : State) (clu : CluId) (slot : SlotId) : State :=
  match s.card clu slot with
  | none => s
  | some x => if x.cores = [] then s else s.settle clu slot x.isl

/-- A killed context has stopped everywhere: its tasks are settled, the records of its cards follow its stop records, and its queues
halt (R134, R354, R386, R398). -/
def State.haltEnd (s : State) (ctx : CtxId) : State :=
  let cards := s.allCards.filter fun e => decide (e.2.2.ctx = ctx)
  let s1 := cards.foldl (fun st e =>
    (st.settleRun e.1 (slotOf e.2.1)).faultCard e.1 (slotOf e.2.1) (if e.2.2.status = 0xFF03 then 0xFF03 else 0xFF04)) s
  ((s1.haltQueues ctx).vfIrq ctx 3).wrapVacated ctx

/-- Halt lines that have reached every core end. -/
def State.haltSettle (s : State) : State :=
  let done := s.halts.filter fun h => h.2.isEmpty
  done.foldl (fun st h => st.haltEnd h.1) { s with halts := s.halts.filter fun h => !h.2.isEmpty }

/-- A class C trap asserts the halt line of a context: from here on no staged write or signal of it performs, and the
line is under way to every core that runs a job of it (R133). -/
def State.kill (s : State) (ctx : CtxId) : State :=
  if (s.ctx ctx).killed then s
  else
    let s1 := s.setCtx ctx { s.ctx ctx with killed := true, preempting := none }
    let s2 := (s1.allCards.filter fun e => decide (e.2.2.ctx = ctx)).foldl (fun st e =>
      match st.card e.1 (slotOf e.2.1) with
      | some x => st.setCard e.1 (slotOf e.2.1) { x with staged := [], sigs := [] }
      | none => st) s1
    let cores := (List.finRange 128).filter fun c => match s2.job c with
      | some j => decide (j.ctx = ctx)
      | none => false
    State.haltSettle { s2 with halts := s2.halts ++ [(ctx, cores)] }

/-- The halt line reaches a core: its job of the context, if it still runs there, stops with its records (R133, R134). -/
def State.haltArrive (s : State) (c : CoreId) : State :=
  let s1 := match s.job c with
    | none => s
    | some j =>
      if s.halts.any fun h => decide (h.1 = j.ctx) && h.2.contains c then
        ((s.stopRecords c j (firstRaised (j.raised.map fun r => (c, r))) true).dropJob c).vfIrq j.ctx 2
      else s
  State.haltSettle { s1 with halts := s1.halts.map fun h => (h.1, h.2.filter fun k => decide (k ≠ c)) }

/-- HALT_LINE_ARRIVAL (R133). -/
def execHaltLineArrival (core : CoreId) (s : State) : Res := .next (s.haltArrive core)

/-! ## Mapping out (R290, R435) -/

/-- A core is quarantined (R290). -/
def State.quarantine (s : State) (c : CoreId) : State := s.setCore c { s.core c with quarantined := true }

/-- An arithmetic trap counts against its core; RESLIM of them within a second, as it stood at the run's launch, quarantine it (R430,
R435). -/
def State.countFault (s : State) (c : CoreId) (lim : Nat) (cause : Cause) : State :=
  match cause with
  | .residue | .checksum =>
    let l := (s.core c).faultTimes.filter (fun t => decide (s.time < t + 1000000000)) ++ [s.time]
    let s1 := s.setCore c { s.core c with faultTimes := l }
    if lim ≠ 0 ∧ lim ≤ l.length then s1.quarantine c else s1
  | .divergenceUnresolved => s.quarantine c
  | _ => s

/-- Every trap that the jobs of a card had raised, as `s0` holds them, counts against its core (R435). -/
def State.countFaults (s s0 : State) (cores : List CoreId) : State :=
  cores.foldl (fun st c => match s0.job c with
    | some j => j.raised.foldl (fun u r => u.countFault c j.resLim r.cause) st
    | none => st) s

/-! ## Card templates (R308, R395) -/

/-- The template's own fields (R308): reserved bytes 0, CHK, and the rules of gangs. -/
def templateOk (bs : List Byte) : Bool :=
  let x := natOfBytes bs
  let f := fun o n => bitsAt x (8 * o) (8 * n)
  let fl := f 37 1
  let g := f 38 1
  let gang := fl.testBit 2
  crcOk bs && decide (f 106 18 = 0) && decide (fl / 64 = 0) && decide (bitsAt g 4 3 = 0)
    && (gang || decide (g = 0)) && decide (g / 128 = 1 ∨ g % 16 ≤ 3)
    && (!fl.testBit 1 || (gang && decide (g = 3)))

/-- A virtual semaphore of a card: none, or a mapped one (R395). -/
def State.cardSem (s : State) (ctx : CtxId) (v : Nat) : Option (Option Nat) :=
  if v = 0xFFFF then some none
  else if 1024 ≤ v then none
  else (s.semMapped ctx v).map some

/-- A counter of a card or packet lies in the context's window, or is none (R395, R396). A steward context has no window:
its counters are those of its partition. -/
def State.ctrOk (s : State) (ctx : CtxId) (n : Nat) : Bool :=
  let k := s.ctx ctx
  decide (n = 0xFFFFFFFF) ||
    (if ctx.val < 384 then decide (k.ctrbase ≤ n ∧ n < k.ctrbase + k.ctrn)
     else decide (n < 2 ^ 17) && decide (s.cluPart (ctrClu n) = s.ctxPart ctx))

/-- A checked template as a card of a queue (R308, R395); none where a check fails. -/
def State.cardOf (s : State) (home : CluId) (ctx : CtxId) (q : Nat) (bs : List Byte) (args : Option (Vector W64 8)) :
    Option Card :=
  let x := natOfBytes bs
  let f := fun o n => bitsAt x (8 * o) (8 * n)
  if templateOk bs && (decide (384 ≤ ctx.val) || decide (f 0 2 = ctx.val)) && decide (f 2 2 = q)
      && !(f 37 1).testBit 4 && s.ctrOk ctx (f 28 4) && s.ctrOk ctx (f 32 4) then
    match s.cardSem ctx (f 24 2), s.cardSem ctx (f 26 2) with
    | some w, some g => some (Card.fresh x home ctx q w g args s.time)
    | _, _ => none
  else none

/-! ## Node-fatal traps (R425-R428) -/

/-- The card leaves its cores and stands in its home dispatcher again: ready without the test of R309, with its age and no
waiting rounds (R425, R444). While its home dispatcher has no free slot it is on its way there and launches nowhere: the spec does not
say what becomes of it, and this is the model's choice (log 88). -/
def State.requeue (s : State) (clu : CluId) (slot : SlotId) (f : Card → Card) : State :=
  match s.card clu slot with
  | none => s
  | some x =>
    let y := f { x with rounds := 0, promoted := false, capSince := none, ended := none, recorded := false, readySince := none,
                        away := false }
    if y.home = clu then s.setCard clu slot y
    else
      match (s.cluster y.home).freeSlot with
      | none => s.setCard clu slot { y with away := true }
      | some k =>
        let c := s.cluster clu
        (s.setCluster clu { c with cards := c.cards.erase slot.val }).setCard y.home (slotOf k) y

/-- Cards on their way to dispatcher `k` take the slots that have come free in it (log 88). -/
def State.comeHome (s : State) (k : CluId) : State :=
  (s.allCards.filter fun e => e.2.2.away && decide (e.2.2.home = k)).foldl (fun st e => st.requeue e.1 (slotOf e.2.1) id) s

/-- The node's run ends without effect: staged writes and signals are dropped and the run is settled (R425). -/
def State.endRun (s : State) (clu : CluId) (slot : SlotId) : State :=
  match s.card clu slot with
  | none => s
  | some x => (s.setCard clu slot { x with staged := [], sigs := [] }).settle clu slot x.isl

/-- The frame that a SEAL_TAG or ECC_UE of a context names by its address (R416). -/
def State.poisonFrame (s : State) (ctx : CtxId) (r : Raised) : Option Nat :=
  match r.cause with
  | .sealTag | .eccUe =>
    match s.walkTables ctx r.addr with
    | .leaf e => if e.kind = 0 then some (frameOf (e.pa r.addr)) else none
    | _ => none
  | _ => none

/-- A node's poisoned lines leave the cache: those that its fills brought, and those of the block whose consumption trapped (R416,
R425). -/
def State.dropPoisoned (s : State) (x : Card) (cause : Option Raised) : State :=
  let frame := cause.bind fun r => s.poisonFrame x.ctx r
  let own := fun (l : Line) => match l.writer with
    | some (c, id) => x.cores.contains c && decide (id.toNat % 2 ^ 28 = x.jobid)
    | none => false
  { s with lines := s.lines.filter fun e =>
      !(decide (e.2.ctx = x.ctx) && e.2.poison.isSome && (own e.2 || decide (frame = some (e.1 / 32)))) }

/-- The compensator of an escaped node whose card stands in a slot (R428): its template is read, checked and queued as a ready card
in the home dispatcher; the context is killed where that cannot be done. It waits for the template's block, the host allowance,
and a free slot. -/
def State.compensate (s : State) (clu : CluId) (slot : SlotId) : State :=
  match s.card clu slot with
  | none => s
  | some x =>
    match x.compDue with
    | none => s
    | some (comp, stopcnt) =>
      if clu ≠ x.home then s.requeue clu slot id
      else if comp % 128 ≠ 0 ∨ 2 ^ 48 ≤ comp then s.kill x.ctx
      else
        match s.devRead x.ctx comp 2 with
        | .data bs =>
          let args : Vector W64 8 := #v[BitVec.ofNat 64 x.nodeid, BitVec.ofNat 64 x.lastCause, BitVec.ofNat 64 x.escapedAt,
            BitVec.ofNat 64 stopcnt, 0, 0, 0, 0]
          match s.cardOf x.home x.ctx x.queue bs (some args) with
          | none => s.kill x.ctx
          | some y =>
            let s1 := (s.devDrawn x.ctx comp 2).setCard clu slot { x with compDue := none }
            (s1.enqueue x.home { y with launched := true, comp := some slot.val }).getD s
        | r => if r.waits then s.devWait x.ctx r else s.kill x.ctx

/-- Compensators that are still to be read. -/
def State.compensateAll (s : State) : State :=
  (s.allCards.filter fun e => e.2.2.compDue.isSome).foldl (fun st e => st.compensate e.1 (slotOf e.2.1)) s

/-- A node-fatal or context-fatal trap of a card that runs or is stopped: the whole node stops; it is discarded and queued again, or its
compensator is queued, or its context is killed (R126, R132, R425-R428). -/
def State.nodeTrap (s : State) (clu : CluId) (slot : SlotId) (cause : CoreId × Raised) : State :=
  match s.card clu slot with
  | none => s
  | some x0 =>
    let code := causeCode cause.2.cause
    let head := if x0.phase = .stopped then x0.images.head? else s.job cause.1
    let comp := match head with
      | some j => j.comp.toNat
      | none => 0
    let part := match head with
      | some j => j.part
      | none => 0
    let spent := !x0.escaped && decide ((match (s.part part).desc with
      | some d => d.replaylim
      | none => 0) < x0.replays + 1)
    let rescue := x0.escaped && decide (comp ≠ 0) && x0.comp.isNone && !cause.2.classC
    let fatal := cause.2.classC || spent || (x0.escaped && !rescue)
    let stopcnt := (s.ctx x0.ctx).stopcnt.toNat
    let x := { x0 with
      lastCause := code
      replays := if x0.escaped || cause.2.classC then x0.replays else x0.replays + 1
      status := if spent && !cause.2.classC then 0xFF03 else x0.status }
    let s1 := ((((s.setCard clu slot x).stopNode x (some cause) fatal).countFaults s x.cores).dropPoisoned x (some cause.2)).endRun
      clu slot
    if fatal then s1.kill x.ctx
    else if rescue then
      (s1.requeue clu slot fun y => { y with phase := .compensating, compDue := some (comp, stopcnt) }).compensateAll
    else s1.requeue clu slot fun y => { y with phase := .queued, launched := true, cores := [], images := [] }

/-- The node of a job takes a node-fatal trap that no engine of it raised (R290, R404, R434, R443); its record is C's, by a design
choice (log 84). -/
def State.nodeFails (s : State) (c : CoreId) (cause : Cause) (val : Nat) : State :=
  match s.job c with
  | none => s
  | some j =>
    let r : Raised := { eng := .c, cause, val := BitVec.ofNat 32 val, pc := j.pc .c, classC := false, addr := val }
    (s.setJob c { j with raised := j.raised ++ [r] }).nodeTrap j.cluster j.slot (c, r)

/-- A core that has come to be below floor at level 14 is mapped out, and its job stops (R140, R290). -/
def State.mapOut (s : State) (c : CoreId) : State := if (s.core c).belowFloor 14 then s.nodeFails c .halt 0 else s

/-- The traps that the jobs of a card have raised in this cycle are resolved (R132, R280). A trap of class T is class C by
now (R131). -/
def State.resolveTraps (s : State) (c : CoreId) : State :=
  match s.job c with
  | none => s
  | some j =>
    let l := (s.members c j).flatMap fun k => match s.job k with
      | some x => x.raised.map fun r => (k, r)
      | none => []
    match firstRaised l with
    | none => s
    | some r => s.nodeTrap j.cluster j.slot r

end Sys2Proof.Machine
end

