-- ==== Sys2Proof/Machine/Seal.lean ====
section
/-! DEFINITION. Sealed memory (R403-R419): fills with their victims (R365, R366, R408), reseals (R410, R411), key slots and
the rekey sweep (R413-R415), tag failures (R416), seal events (R417), and the frames that firmware assigns (R406). -/

namespace Sys2Proof.Machine

/-! ## Monitors (R461) -/

/-- The bin of a sample: the first edge above it, 15 where there is none. -/
def Monitor.binOf (m : Monitor) (x : Int) : Nat := (m.edge.toList.findIdx? fun e => decide (x < e.toInt)).getD 15

/-- A monitor takes a sample; while it is frozen it discards it. -/
def Monitor.take (m : Monitor) (x : Int) : Monitor :=
  if m.frz then m
  else
    let k := m.binOf x
    { m with
      min := if x < m.min then x else m.min, max := if m.max < x then x else m.max
      bin := m.bin.setIfInBounds k (satTo 0xFFFFFFFF (m.bin.toList.getD k 0 + 1)) }

/-- A sample of monitor `k`, from an island where it has one. -/
def State.sample (s : State) (k : Fin 5) (isl : Option IslId) (x : Int) : State :=
  let m := s.monitors[k.val]'k.isLt
  let mine := decide (m.sel = 15) || (match isl with
    | some i => decide (m.sel = i.val)
    | none => false)
  if mine then State.note { s with monitors := s.monitors.set k.val (m.take x) k.isLt } (.sample k x) else s

/-! ## Seal events (R417) -/

/-- The ring of seal events is full, with the records that still wait to be written. -/
def State.sevFull (s : State) : Bool :=
  decide (2 ^ s.sevSize ≤ (s.sevWr - s.sevRd).toNat + (s.recs.filter fun r => decide (r.dst = .sev)).length)

/-- Writes a seal event's record. -/
def State.sevPut (s : State) (e : SealEvent) : State :=
  s.record .sev (bytesOfNat 8 s.time ++ bytesOfNat 1 e.kind ++ bytesOfNat 2 e.ctx ++ bytesOfNat 5 (e.frame % 2 ^ 36)) none

/-- Posts a seal event: one that finds no room is counted and lost, but a TAMPER of a ring that exists waits (R417). -/
def State.sealEvent (s : State) (kind ctx frame : Nat) : State :=
  let e : SealEvent := { kind, ctx, frame }
  if s.sevBase = 0 then s.sevLose
  else if s.sevFull || !s.tampers.isEmpty then
    if kind = 3 then { s with tampers := s.tampers ++ [e] } else s.sevLose
  else s.sevPut e

/-- TAMPER events that waited for room are written, while there is a ring (R417). -/
def State.sevDrain (s : State) : State :=
  if s.sevBase = 0 then s else
  s.tampers.foldl (fun st _ =>
    match st.tampers with
    | e :: rest => if st.sevFull then st else State.sevPut { st with tampers := rest } e
    | [] => st) s

/-! ## Fills (R404, R408, R415, R416) -/

/-- What becomes of a fill. -/
inductive FillEnd
  | install
  | nothing
  | poison (cause : Cause)
  | tagFail
  deriving DecidableEq, Repr

/-- The checks of R404, R406 and R408 on what the seal engine found in a block, under a key slot. -/
def blockEnd (m : Meta) (k : KeySlot) (found : FillResult) : FillEnd :=
  if found = .dataUncorrectable then .poison .eccUe
  else if found = .metaUncorrectable then .tagFail
  else if m.state = 0 then .install
  else if 3 < m.state.toNat ∨ found = .tagMismatch then .tagFail
  else if m.kgen.toNat = k.curGen ∨ (k.prev.isSome ∧ m.kgen.toNat = k.prevGen) then .install
  else .tagFail

/-- What the read of a block meets: a frame that a scrub has logged still has its uncorrectable error (R434). -/
def State.readMeets (s : State) (frame : Nat) (found : FillResult) : FillResult :=
  if frame ∈ s.badFrames then .dataUncorrectable else found

/-- How a fill ends (R408, R415, R434). -/
def fillEnd (s : State) (f : Fill) (found : FillResult) : FillEnd :=
  if s.fillBarred f.ctx f.frame then .nothing
  else blockEnd (s.metaOf f.frame) (s.ctx f.ctx).key (s.readMeets f.frame found)

/-- A full fast set has returned its oldest entry, which is counted (R433, R462). -/
def State.fastReturn (s : State) : State :=
  State.note { s with fastOut := satTo 0xFFFFFFFF (s.fastOut + 1) } (.fastOut 1)

/-- A frame enters the fast set (R433). -/
def State.fastFrame (s : State) (frame : Nat) : State :=
  if frame ∈ s.fastFrames then s
  else if s.fastFrames.length < 65536 then { s with fastFrames := s.fastFrames ++ [frame] }
  else State.fastReturn { s with fastFrames := s.fastFrames.tail ++ [frame] }

/-- A correction counts against its frame and brings it into the fast set (R404, R433). -/
def State.frameCorrected (s : State) (frame : Nat) : State :=
  State.fastFrame { s with frameErrs := SMap.set 0 s.frameErrs frame (SMap.get 0 s.frameErrs frame + 1) } frame

/-- As `frameCorrected`, where the read of a block was corrected. -/
def State.readCorrected (s : State) (frame : Nat) (found : FillResult) : State :=
  if found = .corrected then s.frameCorrected frame else s

/-- The device's own accesses that wait for blocks go on: its records, and the templates of compensators. -/
def State.ownOn (s : State) : State := s.drainRecs.compensateAll

/-- Lines that prefetches have brought in go on into the side caches of their jobs' cores (R221). -/
def State.sideGo (s : State) (f : Fill) : State :=
  f.side.foldl (fun st x =>
    match st.job x.1 with
    | none => st
    | some j =>
      if j.jobid ≠ x.2.1 then st else
      match st.nodeRead j (x.2.2 * 128) 128 0 with
      | .data bs => st.sideFill x.1 j (x.2.2 * 128) (rowOfBytes bs)
      | _ => st) s

/-- The poisoned lines of a block stand to the account of the task whose fill brought them (R416, R425). -/
def State.blame (s : State) (frame : Nat) (t : Option (CoreId × W32)) : State :=
  { s with lines := s.lines.map fun e =>
      if decide (e.1 / 32 = frame) && e.2.poison.isSome && e.2.writer.isNone then (e.1, { e.2 with writer := t }) else e }

/-- A block fails its tag (R416): STATE becomes 3, or, at a second failure, the context is killed. -/
def State.tagFailed (s : State) (frame : Nat) : State :=
  let m := s.metaOf frame
  if m.state = 3 then
    let s1 := s.sealEvent 3 m.ctx.toNat frame
    match ctxOfNum m.ctx.toNat with
    | some c => s1.kill c
    | none => s1
  else
    State.sealEvent { s with sealMeta := SMap.set Meta.init s.sealMeta frame { m with state := 3 } } 2 m.ctx.toNat frame

/-- SEAL_FILL_COMPLETE: a fill ends (R408). While victims are still to be resealed it waits; so does one that no running task pays for
while the host allowance cannot cover it (R356, R419). -/
def execSealFillComplete (frame : Nat) (found : FillResult) (s : State) : Res :=
  match s.fills.find? fun f => decide (f.frame = frame) with
  | none => .next s
  | some f =>
    let payer := s.taskCore f.payer
    if (s.reseals.any fun r => decide (r.frame = frame)) || (!f.prepaid && payer.isNone && !s.hostCovers) then .next s
    else
      let finish := fun (st : State) =>
        let st1 := { st.readCorrected frame found with fills := st.fills.filter fun x => decide (x.frame ≠ frame) }
        State.ownOn (State.sample (if f.prepaid then st1 else st1.meterBlock payer) 4
          (f.core.map coreIsl) (s.time - f.since : Nat))
      match fillEnd s f found with
      | .nothing => .next (finish s)
      | r =>
        let s1 := s.makeRooms f.ctx frame
        if !s1.hasRoom f.ctx frame then .next s1
        else
          .next (finish (match r with
            | .poison c => (s1.install f.ctx frame (some c)).blame frame f.payer
            | .tagFail => ((s1.install f.ctx frame (some .sealTag)).blame frame f.payer).tagFailed frame
            | _ => (s1.install f.ctx frame none).sideGo f))

/-! ## Reseals (R411) -/

/-- The lines of a block that the cache holds. -/
def State.blockLines (s : State) (frame : Nat) : SMap Line := s.lines.filter fun e => decide (e.1 / 32 = frame)

/-- The task whose write last dirtied the block, if it still runs (R419). -/
def State.blockWriter (s : State) (frame : Nat) : Option CoreId :=
  s.taskCore ((bestBy (fun a b => decide (b.2.wrote < a.2.wrote)) ((s.blockLines frame).filter fun e => e.2.dirty)).bind fun e =>
    e.2.writer)

/-- The dirty lines of a block are written and become clean; the victim leaves (R411). -/
def State.writeBlock (s : State) (frame : Nat) (victim : Option Nat) : State :=
  let s1 := (s.blockLines frame).foldl (fun st e =>
    if e.2.dirty then
      { st with
        mem := st.mem.writeBytes (e.1 * 128) (bytesOfRow e.2.data)
        lines := st.lines.insert e.1 { e.2 with dirty := false } }
    else st) s
  match victim with
  | some v => { s1 with lines := s1.lines.erase v }
  | none => s1

/-- The metadata of a block after a seal under a key slot's CUR (R407, R411, R414). -/
def State.sealMetaOf (s : State) (frame : Nat) (key : BitVec 256) (gen : Nat) (sweep : Bool) : Meta :=
  let m := s.metaOf frame
  let ver : Nat := if m.state = 0 ∨ sweep then 1 else m.ver.toNat + 1
  { m with
    ver := BitVec.ofNat 28 ver, kgen := BitVec.ofNat 8 gen
    state := if ver = 2 ^ 28 - 1 then 2 else 1
    tag := (sealText key gen ver frame m.ctx.toNat (s.mem.readBytes (frame * 4096) 4096)).2 }

/-- Seals a block with its memory as it stands; HIGHWATER is posted where VER reaches it (R411). -/
def State.sealBlock (s : State) (frame : Nat) (key : BitVec 256) (gen : Nat) (sweep : Bool) : State :=
  let m := s.sealMetaOf frame key gen sweep
  let s1 := { s with sealMeta := SMap.set Meta.init s.sealMeta frame m }
  if m.ver.toNat = 2 ^ 28 - 2 ^ 16 then s1.sealEvent 1 m.ctx.toNat frame else s1

/-- A frame of a context's sweep that is still to be resealed (R414). -/
def State.sweepNeeds (s : State) (c : CtxId) (frame : Nat) : Bool :=
  let m := s.metaOf frame
  let k := (s.ctx c).key
  decide (m.ctx.toNat = ctxNum c) && decide (1 ≤ m.state.toNat ∧ m.state.toNat ≤ 3) && decide (m.kgen.toNat = k.prevGen)

/-- The frames with metadata that a context owns, in frame order. -/
def State.ctxFrames (s : State) (c : CtxId) : List Nat :=
  (s.sealMeta.filter fun e => decide (e.2.ctx.toNat = ctxNum c)).map Prod.fst

/-- How many frames from `lo` on and below `hi` a context owns: context 0 owns those without metadata of their own too, which stand as
the reset leaves them (log 30). -/
def State.framesIn (s : State) (c : CtxId) (lo hi : Nat) : Nat :=
  let l := s.sealMeta.filter fun e => decide (lo ≤ e.1 ∧ e.1 < hi)
  (l.filter fun e => decide (e.2.ctx.toNat = ctxNum c)).length + (if ctxNum c = 0 then hi - lo - l.length else 0)

/-- The rekey sweep goes on to its next frame, or ends: PREV is erased and SWEPT posted (R414). -/
def State.sweepOn (s : State) (c : CtxId) : State :=
  let k := (s.ctx c).key
  if !k.sweep then s
  else
    match (s.ctxFrames c).find? fun f => decide (k.sweepAt ≤ f) && s.sweepNeeds c f with
    | some f =>
      let swept := k.swept + s.framesIn c k.sweepAt f
      (s.setCtx c { s.ctx c with key := { k with sweepAt := f, swept } }).needReseal f none true
    | none =>
      let swept := k.swept + s.framesIn c k.sweepAt frameCount
      let k1 := { k with sweep := false, prev := none, prevGen := 0, swept, sweepAt := 0 }
      (s.setCtx c { s.ctx c with key := k1 }).sealEvent 4 (ctxNum c) 0

/-- After a reseal, a sweep that waits for the frame passes it, whoever ordered the reseal: the block is under CUR now (R414). -/
def State.sweepPast (s : State) (r : Reseal) : State :=
  match ctxOfNum (s.metaOf r.frame).ctx.toNat with
  | none => s
  | some c =>
    let k := (s.ctx c).key
    if !k.sweep || decide (k.sweepAt ≠ r.frame) then s
    else (s.setCtx c { s.ctx c with key := { k with sweepAt := r.frame + 1, swept := k.swept + 1 } }).sweepOn c

/-- A reseal that fails, for want of a trusted base to merge into: the block becomes SUSPECT, the context is killed, and the failure
is reported (R406, R411, R416). -/
def State.resealFails (s : State) (c : CtxId) (r : Reseal) : State :=
  let m := s.metaOf r.frame
  let s1 := { s with
    sealMeta := SMap.set Meta.init s.sealMeta r.frame { m with state := if m.state = 0 then 0 else 3 }
    lines := match r.victim with
      | some v => s.lines.erase v
      | none => s.lines }
  ((s1.sealEvent (if m.state = 3 then 3 else 2) m.ctx.toNat r.frame).kill c).sweepPast r

/-- RESEAL_COMPLETE: the block is merged, sealed and written (R411). `found` is what the read of absent lines meets. A reseal that no
running task pays for waits for the host allowance (R356, R419). -/
def execResealComplete (frame : Nat) (found : FillResult) (s : State) : Res :=
  match s.reseals.find? fun r => decide (r.frame = frame) with
  | none => .next s
  | some r =>
    let m := s.metaOf frame
    let whole := decide ((s.blockLines frame).length = 32)
    let s0 := { s with reseals := s.reseals.filter fun x => decide (x.frame ≠ frame) }
    match (ctxOfNum m.ctx.toNat).bind fun c => (s.ctx c).key.cur.map fun k => (c, k) with
    | none => .next s0
    | some (c, k) =>
      let by_ := if r.sweep then none else s.blockWriter frame
      if by_.isNone && decide (s.hostAllow < (if whole then 8 else 16)) then .next s
      else
        let s1 := if whole then s0 else (s0.readCorrected frame found).meterBlock by_
        .next (if !whole && decide (blockEnd m (s.ctx c).key (s.readMeets frame found) ≠ .install) then (s1.resealFails c r).ownOn
          else ((((s1.writeBlock frame r.victim).sealBlock frame k (s.ctx c).key.curGen r.sweep).meterBlock by_).sweepPast r).ownOn)

/-- FLUSH_ORDER: firmware or a scrubber orders a block's dirty lines written (R410). -/
def execFlushOrder (frame : Nat) (s : State) : Res :=
  .next (if (s.blockLines frame).any fun e => e.2.dirty then s.needReseal frame none false else s)

/-- FRAME_ASSIGN: firmware gives a frame to a context; it is EMPTY and reads as zeros, and no line of it stays in the cache
(R406). A frame that a scrub has logged is assigned to none (R435), and one that the device does not have neither (R403). A sweep of
the former owner that waits for the frame goes on (R414). -/
def execFrameAssign (frame : Nat) (ctx : BitVec 16) (s : State) : Res :=
  .next (if frame ∈ s.badFrames ∨ frameCount ≤ frame then s else
    let s1 := { s with
      sealMeta := SMap.set Meta.init s.sealMeta frame { s.metaOf frame with ctx, state := 0 }
      mem := s.mem.filter fun e => decide (e.1 / 4096 ≠ frame)
      lines := s.lines.filter fun e => decide (e.1 / 32 ≠ frame)
      reseals := s.reseals.filter fun r => decide (r.frame ≠ frame) }
    State.ownOn (match ctxOfNum (s.metaOf frame).ctx.toNat with
      | some c => s1.sweepOn c
      | none => s1))

/-! ## Keys (R413-R415) -/

/-- KEYSET of a sealing key: the first key becomes CUR; a later one rotates and starts a sweep. A rotation during a sweep is
refused (R414). -/
def State.keyInstall (s : State) (c : CtxId) (key : BitVec 256) : Option State :=
  let k := (s.ctx c).key
  if k.sweep then none
  else
    match k.cur with
    | none => some (s.setCtx c { s.ctx c with key := { k with cur := some key } })
    | some old =>
      let k1 := { k with cur := some key, curGen := (k.curGen + 1) % 256, prev := some old, prevGen := k.curGen,
                         sweep := true, swept := 0, sweepAt := 0 }
      some ((s.setCtx c { s.ctx c with key := k1 }).sweepOn c)

/-- KEY_SLOT_ERASE: firmware erases a slot whose context is destroyed; lines still dirty are dropped, and their blocks keep their
last seal (R415). -/
def execKeySlotErase (slot : CtxId) (s : State) : Res :=
  .next { s.setCtx slot { s.ctx slot with key := KeySlot.init } with
    lines := s.lines.filter fun e => !(decide (e.2.ctx = slot) && e.2.dirty && decide (e.1 * 128 < hostBase))
    reseals := s.reseals.filter fun r => decide ((s.metaOf r.frame).ctx.toNat ≠ ctxNum slot) }

/-! ## Scrubbing (R433, R434) -/

/-- Lines of one slice in the fast set. -/
def State.fastLine (s : State) (line : Nat) : State :=
  let same := s.fastLines.filter fun x => decide (sliceOf x = sliceOf line)
  if line ∈ s.fastLines then s
  else if same.length < 4096 then { s with fastLines := s.fastLines ++ [line] }
  else State.fastReturn { s with fastLines := s.fastLines.erase (same.headD 0) ++ [line] }

/-- An uncorrectable error of the system cache counts against a way of its set; which way the line stands in is free
(R435, log 22). -/
def State.wayError (s : State) (line : Nat) : State :=
  { s with
    wayErrs := s.wayErrs ++ [(cacheSet line, Config.replaceWay s.fresh 16 % 16, s.time)], fresh := s.fresh + 1 }

/-- What an uncorrectable error of a row that is logical row `r` leads to: the node that R141 protects it for takes ECC_UE; else the
contents are lost and counted (R434). -/
def State.rowLost (s : State) (c : CoreId) (b r : Nat) : State :=
  match s.protector c b r with
  | some k => s.nodeFails k .eccUe (b * 65536 + r * 128)
  | none =>
    { s.setCore c { s.core c with scr := loseRows s.fresh (s.core c).scr b r (r + 1) } with
      fresh := s.fresh + 1, rowsLost := s.rowsLost + 1 }

/-- A scrub of a scratchpad row (R142, R434). -/
def State.scrubRow (s : State) (c : CoreId) (b p : Nat) (found : EccRead) : State :=
  match found with
  | .clean => s
  | .corrected => (s.demote c b p).mapOut c
  | .uncorrectable =>
    let s1 := s.gradeNow c b p 15
    State.mapOut (match (s.core c).logicalOf b (usable (s.core c) b (s.level c)) p with
      | none => s1
      | some r => s1.rowLost c b r) c

/-- The card whose node has a staged copy of a line, whether its jobs run, are being saved, or are stopped (R421). -/
def State.stagingCard (s : State) (line : Nat) : Option (CluId × Nat × Card) :=
  s.allCards.find? fun e => e.2.2.staged.any fun w => decide (w.pa / 128 = line)

/-- The node of a card takes a node-fatal trap that no engine of it raised, whether it has cores or not. -/
def State.cardFails (s : State) (e : CluId × Nat × Card) (cause : Cause) (val : Nat) : State :=
  match e.2.2.cores.head? with
  | some c => s.nodeFails c cause val
  | none =>
    s.nodeTrap e.1 (slotOf e.2.1) (0, { eng := .c, cause, val := BitVec.ofNat 32 val, pc := 0, classC := false, addr := val })

/-- The committed copy of a line is lost: a clean line is invalidated, and a dirty one kills its context (R434). -/
def State.committedLost (s : State) (line : Nat) : State :=
  match SMap.find s.lines line with
  | some l => if l.dirty then s.kill l.ctx else { s with lines := s.lines.erase line }
  | none => s

/-- A scrub of a system-cache line (R434). Where both a staged and a committed copy of it stand, the spec does not say which one the
error is in: it is a free value (log 22). -/
def State.scrubLine (s : State) (line : Nat) (found : EccRead) : State :=
  match found with
  | .clean => s
  | .corrected => s.fastLine line
  | .uncorrectable =>
    let s1 := s.wayError line
    match s.stagingCard line with
    | none => s1.committedLost line
    | some e => if (SMap.find s.lines line).isNone || Config.stagedCopy s1.fresh then s1.cardFails e .eccUe (line * 128)
      else s1.committedLost line

/-- A scrub of an LPDDR6 frame; its energy draws on the host allowance, for which it waits (R356). -/
def State.scrubFrame (s : State) (frame : Nat) (found : EccRead) : State :=
  if !s.hostCovers then s else
  let s0 := s.meterBlock none
  match found with
  | .clean => s0
  | .corrected => s0.frameCorrected frame
  | .uncorrectable => { s0 with badFrames := if frame ∈ s0.badFrames then s0.badFrames else s0.badFrames ++ [frame] }

/-- SCRUB_READ (R433, R434). A scrub of a scratchpad yields to the timed accesses of the row's bank group (R149). -/
def execScrubRead (u : ScrubUnit) (found : EccRead) (s : State) : Res :=
  .next (match u with
    | .row c b p => if s.yieldsAt c (b.val * 65536) then s else s.scrubRow c b.val p found
    | .line n => s.scrubLine n found
    | .frame n => s.scrubFrame n found)

end Sys2Proof.Machine
end

