-- ==== Sys2Proof/Machine/Translate.lean ====
section
/-! DEFINITION. Page walks that end (R376), page requests and their answers (R377, R378, R401), shoot-downs (R376) and
launch records (R380, R381). -/

namespace Sys2Proof.Machine

/-! ## The page-request ring (R377, R401) -/

/-- The bytes of a page request. -/
def PageReq.bytes (r : PageReq) : List Byte :=
  bytesOfNat 2 (ctxNum r.ctx) ++ bytesOfNat 2 r.gen ++ bytesOfNat 1 r.kind ++ bytesOfNat 1 r.reason ++ bytesOfNat 1 r.level
    ++ bytesOfNat 1 r.engine ++ bytesOfNat 8 r.va ++ bytesOfNat 4 r.coreid ++ bytesOfNat 4 r.tag ++ bytesOfNat 8 0

/-- The ring has no room, with the requests that still wait to be written: the write index is a ring's size ahead of the host's
read index. -/
def State.prqFull (s : State) (p : PartId) : Bool :=
  let q := s.part p
  match q.desc with
  | some d => decide (d.prqn ≤
      (q.prqWr + (s.recs.filter fun r => decide (r.dst = .prq p)).length + 2 ^ 64 - q.prqRd) % 2 ^ 64)
  | none => true

/-- Posts a request to the ring; GEN is the descriptor's as it now stands (R377). Its record, once it is written, moves the write
index and raises the ring's vector (R386, R401). -/
def State.prqPut (s : State) (p : PartId) (r : PageReq) : State :=
  let q := s.part p
  let r1 := { r with gen := s.ctxGen r.ctx, posted := true }
  (s.setPart p { q with reqs := q.reqs.map fun x => if x.tag = r.tag then r1 else x }).record (.prq p) r1.bytes none

/-- Requests that waited for room enter the ring, oldest first (R401). -/
def State.prqDrain (s : State) (p : PartId) : State :=
  ((s.part p).reqs.filter fun r => !r.posted).foldl (fun st r => if st.prqFull p then st else st.prqPut p r) s

/-- Posts a page request of a context of partition `own` to the ring that its descriptor names; its tag is that partition's next. -/
def State.askPage (s : State) (own : PartId) (ctx : CtxId) (kind reason level engine va coreid : Nat) (owner : ReqOwner) :
    State :=
  let p := s.prqOf ctx own
  let q := s.part p
  let r : PageReq :=
    { tag := q.nextTag, ctx, gen := s.ctxGen ctx, kind, reason, level, engine, va, coreid, owner, posted := false }
  (s.setPart p { q with nextTag := (q.nextTag + 1) % 2 ^ 32, reqs := q.reqs ++ [r] }).prqDrain p

/-- The tag of a request of a context that is still to be posted. -/
def State.pageTag (s : State) (own : PartId) (ctx : CtxId) : Nat := (s.part (s.prqOf ctx own)).nextTag

/-- COREID of the dispatcher and the fetchers in a page request. -/
def noCore : Nat := 0xFFFFFFFF

/-! ## Walks (R368, R374, R376) -/

/-- KIND of the walk's page request (R377). -/
def WalkFor.kind : WalkFor → Nat
  | .probe _ => 0
  | .access _ _ k => k
  | .copy _ _ k => k

/-- The walk of a PREF or L1OP finds no leaf: the instruction goes on without one, if it still stands there (R220, R221). -/
def State.probeEnds (s : State) (f : WalkFlight) : State :=
  let c := f.use.user.1
  match s.job c with
  | some j => if j.ctx = f.ctx then s.setJob c { j with a := { j.a with probed := some (f.va / 4096) } } else s
  | none => s

/-- The walk is that of an instruction that posts no page request. -/
def WalkFor.isProbe : WalkFor → Bool
  | .probe _ => true
  | _ => false

/-- ENGINE of a page request (R377). -/
def PageUser.code : PageUser → Nat
  | .eng e => engCode e
  | .copy e => 4 + e.val

/-- The user's page wait at the page of an address. -/
def PageWait.at_ (w : PageWait) (u : PageUser) (va : Nat) : Bool :=
  decide (w.user = u) && decide (w.va / 4096 = va / 4096)

/-- A walk installs its translation in both levels of TLB; the access's page no longer counts failures (R373). -/
def State.walkGood (s : State) (k : CluId) (f : WalkFlight) (e : TlbEnt) : State :=
  let (c, u) := f.use.user
  let cl := s.cluster k
  let s1 := s.setCluster k { cl with tlb2 := tlbInsert 4096 s.fresh cl.tlb2 e }
  let s2 := s1.setCore c { s1.core c with tlb := tlbInsert1 (s.fresh + 1) (s1.core c).tlb e }
  let s3 := { s2 with fresh := s.fresh + 2 }
  match s3.job c with
  | some j => s3.setJob c { j with pages := j.pages.filter fun w => !w.at_ u f.va }
  | none => s3

/-- A user's page waits replaced by one. -/
def Job.setPage (j : Job) (w : PageWait) : Job :=
  { j with pages := (j.pages.filter fun x => decide (x.user ≠ w.user)) ++ [w] }

/-- An access of a user at an address is to end with a cause: a fetch raises it in C at once (R379); an access of A or a copy command
when its instruction or its start comes to it (R132, R196). -/
def Job.pageFails (j : Job) (u : PageUser) (kind va : Nat) (cause : Cause) (fails : Nat) : Job :=
  let w : PageWait := { user := u, va, tag := none, fails, denied := some cause }
  match u with
  | .copy _ => j.setPage w
  | .eng e =>
    if kind ≠ 3 then j.setPage w
    else
      let j1 := { j with pages := j.pages.filter fun x => decide (x.user ≠ u) }
      match cause with
      | .pageDenied | .protection => j1.raiseFetch cause (BitVec.ofNat 48 va)
      | _ => j1.raiseFor e cause va

/-- A walk fails: its access posts one page request; the fifth failure in a row acts as a deny (R377, R378). -/
def State.walkBad (s : State) (f : WalkFlight) (w : WalkStop) : State :=
  let (c, u) := f.use.user
  match s.job c with
  | none => s
  | some j =>
    if j.ctx ≠ f.ctx then s
    else
      let fails := (match j.pages.find? fun x => x.at_ u f.va with
        | some x => x.fails
        | none => 0) + 1
      if 5 ≤ fails then s.setJob c (j.pageFails u f.use.kind f.va .pageDenied fails)
      else
        let tag := s.pageTag j.part j.ctx
        State.askPage (s.setJob c (j.setPage { user := u, va := f.va, tag := some tag, fails, denied := none }))
          j.part j.ctx f.use.kind w.reason w.level u.code f.va c.val (.job c u)

/-- A walk meets a table that its context may not read, or that is poisoned: its access takes that cause (R375, R408, R416). -/
def State.walkCause (s : State) (f : WalkFlight) (cause : Cause) : State :=
  let (c, u) := f.use.user
  match s.job c with
  | none => s
  | some j => if j.ctx ≠ f.ctx then s else s.setJob c (j.pageFails u f.use.kind f.va cause 0)

/-- PAGE_WALK_END: a killed walk starts again; another waits for a table's block, installs its translation, or fails (R374, R376,
R377). -/
def execPageWalkEnd (cluster : CluId) (walk : Fin 16) (s : State) : Res :=
  let cl := s.cluster cluster
  match cl.walks[walk.val]'walk.isLt with
  | none => .next s
  | some f =>
    if f.killed then
      let seq := match s.ctxPart f.ctx with
        | some p => (s.part p).seq
        | none => f.seq
      .next (s.setCluster cluster { cl with walks := cl.walks.set walk.val (some { f with killed := false, seq }) })
    else
      let s1 := s.setCluster cluster { cl with walks := cl.walks.set walk.val none }
      .next (match s.walkTables f.ctx f.va with
        | .leaf e => (s1.walkUsed f.ctx f.va).walkGood cluster f e
        | .stop w => if f.use.isProbe then s1.probeEnds f else (s1.walkUsed f.ctx f.va).walkBad f w
        | .bad cause => if f.use.isProbe then s1.probeEnds f else s1.walkCause f cause
        | .fill frame => s.needFill { frame, ctx := f.ctx, core := some f.use.user.1, quiet := f.use.isProbe })

/-- SHOOTDOWN_COMPLETE: the invalidations of a partition complete for which no older walk is in flight (R376). -/
def execShootdownComplete (part : PartId) (s : State) : Res :=
  let q := s.part part
  let older := fun (n : Nat) => (s.partClus part).any fun k => (s.cluster k).walks.toList.any fun w => match w with
    | some f => decide (f.seq < n)
    | none => false
  .next (s.setPart part { q with shoots := q.shoots.filter fun x => older x.s })

/-! ## Answers (R378, R379, R401) -/

/-- A queue's fetch request is answered (R390, R401): a grant resumes the fetch, at once or when the queue is resumed; a
deny halts the queue with code 5, and one that was suspended launches no card still (R121). -/
def State.queueAnswer (s : State) (ctx : CtxId) (q : Nat) (r : PageReq) (grant : Bool) : State :=
  let u := s.queue ctx q
  if grant then
    s.setQueue ctx q (match u.state, u.prev with
      | .fetchFault, _ => { u with state := .fetching }
      | .suspended, .fetchFault => { u with prev := .fetching }
      | _, _ => u)
  else
    let s1 := s.queueError ctx q 5 u.levels.length u.expected r.va r.tag []
    s1.setQueue ctx q { s1.queue ctx q with
      state := .halted, levels := [], held := none, opsLeft := 0, fails := [], frozen := u.barred }

/-- A card faults before it launches (R35, R359, R398): its record gives no last cause. -/
def State.cardRefused (s : State) (k : CluId) (slot : SlotId) (x : Card) (status : Nat) : State :=
  State.faultCard (s.setCard k slot { x with lastCause := 0 }) k slot status

/-- The owner of a request learns of its answer. -/
def State.answer (s : State) (r : PageReq) (grant : Bool) : State :=
  match r.owner with
  | .job c u =>
    match s.job c with
    | none => s
    | some j =>
      match j.pages.find? fun w => decide (w.user = u) && decide (w.tag = some r.tag) with
      | none => s
      | some w => s.setJob c (if grant then j.setPage { w with tag := none } else j.pageFails u r.kind w.va .pageDenied w.fails)
  | .queue ctx q => s.queueAnswer ctx q r grant
  | .card k slot =>
    match s.card k slot with
    | none => s
    | some x =>
      if x.page ≠ some r.tag then s
      else if grant then s.setCard k slot { x with page := none }
      else s.cardRefused k slot x 0xFF05
  | .migrate k slot =>
    match s.card k slot with
    | none => s
    | some x => s.setCard k slot { x with migrations := x.migrations.filter fun t => decide (t ≠ r.tag) }

/-- The number of a register block. -/
def RegBlock.key : RegBlock → Nat
  | .identity => 0
  | .status => 1
  | .gov => 2
  | .cache => 3
  | .firmware => 4
  | .monitors => 5
  | .queues c => 6 + c.val

/-- A write to a register block that R14 drops, which the block counts (log 74). -/
def State.reserved (s : State) (b : RegBlock) : State :=
  { s with resv := SMap.set 0 s.resv b.key (SMap.get 0 s.resv b.key + 1) }

/-- PAGE_REQUEST_ANSWER: a write of PRA, by the fields of R401. A stale or unknown answer is counted (R378, R401); one whose bits
[15:1] are not 0 names no answer: it is a reserved write (R14). Before READY the write is dropped (R456). -/
def execPageRequestAnswer (part : PartId) (value : W64) (s : State) : Res :=
  let q := s.part part
  let v := value.toNat
  if s.stage ≠ .ready then .next s.dropEarly
  else if bitsAt v 1 15 ≠ 0 then .next (s.reserved .firmware)
  else
    match q.reqs.find? fun r => decide (r.tag = v / 2 ^ 32) && r.posted with
    | none => .next (s.setPart part { q with late := q.late + 1 })
    | some r =>
      if bitsAt v 16 16 ≠ s.ctxGen r.ctx then .next (s.setPart part { q with late := q.late + 1 })
      else
        .next (State.answer (s.setPart part { q with reqs := q.reqs.filter fun x => decide (x.tag ≠ r.tag) }) r
          (decide (v % 2 = 1)))

/-! ## Launch records (R380, R381) -/

/-- The entries of a launch record; none where it breaks the table. -/
def recEntries (bs : List Byte) : Option (List RecEnt) :=
  let x := natOfBytes bs
  let f := fun o n => bitsAt x (8 * o) (8 * n)
  let count := f 0 1
  let l := (List.range count).map fun i =>
    (RecEnt.mk (f (16 + 16 * i) 8) (f (24 + 16 * i) 4) (f (28 + 16 * i) 1), f (29 + 16 * i) 3)
  if decide (1 ≤ count ∧ count ≤ 15) && decide (f 1 15 = 0)
      && l.all (fun e => decide (e.1.base % 4096 = 0) && decide (1 ≤ e.1.pages ∧ e.1.pages ≤ 2 ^ 20)
        && decide (e.1.action ≤ 2) && decide (e.2 = 0)) then some (l.map Prod.fst)
  else none

/-- What the read of a launch record gives. -/
inductive RecRead
  | entries (l : List RecEnt)
  | wait (s : State)
  | bad

/-- Reads a card's launch record. -/
def State.readRecord (s : State) (x : Card) : RecRead :=
  let va := x.launchRec
  if va % 64 ≠ 0 ∨ 2 ^ 48 ≤ va then .bad
  else
    let rest := fun (r : DevRead) => if r.waits then RecRead.wait (s.devWait x.ctx r) else .bad
    match s.devRead x.ctx va 1 with
    | .data h =>
      match s.devRead x.ctx va ((16 + 16 * (natOfBytes (h.take 1) % 16) + 63) / 64) with
      | .data bs =>
        match recEntries bs with
        | some l => .entries l
        | none => .bad
      | r => rest r
    | r => rest r

/-- A block moves for a card that no core runs yet: it joins the task's metered sum at its launch (R354, R380). -/
def State.meterCard (s : State) (k : CluId) (slot : SlotId) : State :=
  match s.card k slot with
  | some x => s.setCard k slot { x with metered := x.metered + 8, joule := x.joule + 8 }
  | none => s

/-- Starts a fill for a card. One that no core runs yet pays for it at its launch; one that has launched, as any task does (R354, R381). -/
def State.cardFill (s : State) (k : CluId) (slot : SlotId) (ctx : CtxId) (frame : Nat) (quiet : Bool) : State :=
  if s.fills.any fun f => decide (f.frame = frame) then s
  else if let some c := (s.card k slot).bind fun x => if x.phase = .running then x.cores.head? else none then
    s.needFill { frame, ctx, core := some c, quiet }
  else State.meterCard (s.needFill { frame, ctx, core := none, quiet, prepaid := true }) k slot

/-- A page of an entry with ACTION 1 comes into the system cache as a prefetch does (R221, R366): device memory by a fill, for which
the task pays at launch (R354); host memory once the host allowance covers it (R356). None where it has to wait. -/
def State.recFill (s : State) (k : CluId) (slot : SlotId) (ctx : CtxId) (va : Nat) (e : TlbEnt) : Option State :=
  let pa := e.pa va / 4096 * 4096
  let absent := (List.range 32).any fun i => (SMap.find s.lines (pa / 128 + i)).isNone
  if !absent || !e.rd || decide (e.kind = 2) then some s
  else if e.kind = 1 then
    if !s.hostCovers then none
    else some ((List.range 32).foldl (fun st i => st.hostCache ctx (pa + 128 * i) .s) (s.meterBlock none))
  else if s.fillBarred ctx (frameOf pa) then some s
  else some (s.cardFill k slot ctx (frameOf pa) true)

/-- LEVEL of the leaf that a TLBP SIZE stands for (R370). -/
def sizeLevel (size : Fin 6) : Nat := if size.val ≤ 1 then 0 else if size.val ≤ 4 then 1 else 2

/-- ACTION 2 asks that a leaf of KIND 1 be migrated (R380). -/
def State.recMigrate (s : State) (p : PartId) (k : CluId) (slot : SlotId) (ctx : CtxId) (va : Nat) (e : TlbEnt) : State :=
  if e.kind ≠ 1 then s
  else
    let tag := s.pageTag p ctx
    State.askPage (match s.card k slot with
      | some x => s.setCard k slot { x with migrations := x.migrations ++ [tag] }
      | none => s) p ctx 6 2 (sizeLevel e.size) 6 va noCore (.migrate k slot)

/-- What one page of an entry does once its walk has ended in a leaf: ACTION 2 asks for the leaf's migration; the others install the
translation in the second-level TLB, and ACTION 1 also fills. None where it has to wait. -/
def State.recLeaf (s : State) (p : PartId) (k : CluId) (slot : SlotId) (ctx : CtxId) (e : RecEnt) (t : TlbEnt) : Option State :=
  if e.action = 2 then some (s.recMigrate p k slot ctx e.base t)
  else
    let cl := s.cluster k
    let s1 := { s.setCluster k { cl with tlb2 := tlbInsert 4096 s.fresh cl.tlb2 t } with fresh := s.fresh + 1 }
    if e.action = 1 then s1.recFill k slot ctx e.base t else some s1

/-- The entries after `n` pages of the first. -/
def recAdvance (n : Nat) (e : RecEnt) (rest : List RecEnt) : List RecEnt :=
  if e.pages ≤ n then rest else { e with base := e.base + 4096 * n, pages := e.pages - n } :: rest

/-- The pages that an entry passes with a leaf: ACTION 2 takes each leaf once. -/
def recPassed (e : RecEnt) (t : TlbEnt) : Nat :=
  if e.action = 2 then ((t.vpage + 1) * pageBytes t.size - e.base) / 4096 else 1

/-- The card goes on with the entries that are left. Its record holds it back no longer once no entry of ACTION 0 or 2 is left: what
ACTION 1 still brings goes on after the launch (R381). -/
def State.recSet (s : State) (k : CluId) (slot : SlotId) (l : List RecEnt) : State :=
  match s.card k slot with
  | none => s
  | some x => s.setCard k slot { x with recEnts := some l, recordDone := l.all fun e => decide (e.action = 1) }

/-- A walk of the dispatcher for the first page of a record's entries, on a free walker of the cluster (R374, R380); one that fails posts
nothing. -/
def State.recWalk (s : State) (p : PartId) (k : CluId) (slot : SlotId) (ctx : CtxId) (e : RecEnt) (rest : List RecEnt) : State :=
  if (s.cluster k).walks.toList.all Option.isSome then s
  else if 2 ^ 48 ≤ e.base then s.recSet k slot (recAdvance 1 e rest)
  else
    match s.walkTables ctx e.base with
    | .stop _ | .bad _ => (s.walkUsed ctx e.base).recSet k slot (recAdvance 1 e rest)
    | .fill f => s.ownFill ctx f
    | .leaf t =>
      match (s.walkUsed ctx e.base).recLeaf p k slot ctx e t with
      | some s1 => s1.recSet k slot (recAdvance (recPassed e t) e rest)
      | none => s

/-- LAUNCH_RECORD_WALK: the dispatcher works on with the record of a card that is ready, page by page in entry order (R380). A record
that breaks the table, or that cannot be read, is ignored and counted (R381). -/
def execLaunchRecordWalk (cluster : CluId) (slot : SlotId) (s : State) : Res :=
  match s.card cluster slot with
  | none => .next s
  | some x =>
    if x.launchRec = 0 ∨ (x.readySince.isNone ∧ x.phase ≠ .running) ∨ x.recEnts = some [] then .next s
    else
      match x.recEnts, s.cluPart cluster with
      | some (e :: rest), some p => .next (s.recWalk p cluster slot x.ctx e rest)
      | none, _ =>
        .next (if x.recordDone then s else match s.readRecord x with
          | .entries l => (s.devDrawn x.ctx x.launchRec ((16 + 16 * l.length + 63) / 64)).recSet cluster slot l
          | .wait s1 => s1
          | .bad =>
            let cl := s.cluster cluster
            State.recSet (s.setCluster cluster { cl with errlog := cl.errlog + 1 }) cluster slot [])
      | _, _ => .next (s.recSet cluster slot [])

/-- LAUNCH_RECORD_TIMEOUT: 100 µs after the card became ready its migrations no longer hold it back (R381). -/
def execLaunchRecordTimeout (cluster : CluId) (slot : SlotId) (s : State) : Res :=
  match s.card cluster slot with
  | none => .next s
  | some x =>
    match x.readySince with
    | none => .next s
    | some t => if s.time < t + 100000 then .next s else .next (s.setCard cluster slot { x with migrations := [] })

end Sys2Proof.Machine
end

