-- ==== Sys2Proof/Machine/HostMem.lean ====
section
/-! DEFINITION. The host's accesses to device memory and its snoops (R337, R367, R418). A request that must wait is offered
again by its requester: the step in which it performs is the event. -/

namespace Sys2Proof.Machine

/-! ## Coherence (R367) -/

/-- BACK_INVALIDATE_RESPONSE: the host no longer holds the line, and a device write to it may perform; the device's own writes that
wait for it go on. -/
def execBackInvalidateResponse (line : Nat) (s : State) : Res :=
  .next (if line ∈ s.backInv then
    State.ownOn
      { s with backInv := s.backInv.filter (fun x => decide (x ≠ line)), snoop := s.snoop.filter fun x => decide (x ≠ line) }
  else s)

/-- The host writes a line of its own memory. -/
def hostRow (m : Memory) (line : Nat) (wr : Option Row) : Memory :=
  match wr with
  | some r => m.writeBytes (line * 128) (bytesOfRow r)
  | none => m

/-- HOST_SNOOP of a line of host memory: a line that the device holds modified is written back; the host then shares it, or
takes it for itself and may write it. -/
def execHostSnoop (line : Nat) (kind : Snoop) (s : State) : Res :=
  if line * 128 < hostBase then .next s
  else
    let back := fun (l : Line) =>
      if l.dirty then
        State.send (State.meterBlock { s with mem := s.mem.writeBytes (line * 128) (bytesOfRow l.data) } none) (.writeBack line)
      else s
    -- what the device writes back draws on the host allowance, and waits until it covers it (R354, R356)
    if ((SMap.find s.lines line).any fun l => l.dirty) && !s.hostCovers then .next s else
    match SMap.find s.lines line, kind with
    | some l, .share =>
      let s1 := back l
      .next { s1 with lines := s1.lines.insert line { l with dirty := false, mesi := .s } }
    | some l, .invalidate wr =>
      let s1 := back l
      .next { s1 with lines := s1.lines.erase line, mem := hostRow s1.mem line wr }
    | none, .share => .next s
    | none, .invalidate wr => .next { s with mem := hostRow s.mem line wr }

/-! ## Host requests to device memory (R418) -/

/-- The 64 bytes that a request reads or writes. -/
def hostBlock (addr : Nat) : Nat := addr / 64 * 64

/-- The context that a host request is served for, where it is admitted: its TDI is in RUN, and the stream is keyed for it, which
takes an IDE key that KEYSET has installed (R418, R458). -/
def State.hostAdmit (s : State) (req : HostReq) (addr : Nat) : Option CtxId :=
  let c : CtxId := ⟨req.vf.val, by have := req.vf.isLt; omega⟩
  if addr < hostBase ∧ (s.metaOf (frameOf addr)).ctx.toNat = req.vf.val ∧ (s.ctx c).tdi = .run ∧ req.keyed ∧ (s.ctx c).key.ide.isSome then some c
  else none

/-- All-ones data with the poison indicator. -/
def allOnes (n : Nat) : List Byte := List.replicate n 0xFF

/-- HOST_MEM_READ of 64 bytes: served as a request of the frame's context, refused, or waiting for a fill. The host may hold
the line from now on (R367). -/
def execHostMemRead (req : HostReq) (addr : Nat) (s : State) : Res :=
  let a := hostBlock addr
  let refuse := fun (st : State) => st.pf0Error.send (.hostData a (allOnes 64) true)
  if s.stage ≠ .ready then .next (s.send (.hostData a (allOnes 64) true)) else
  match s.hostAdmit req a with
  | none => .next (refuse s)
  | some c =>
    match SMap.find s.lines (a / 128) with
    | some l =>
      let s1 := { s.touch a with snoop := if a / 128 ∈ s.snoop then s.snoop else s.snoop ++ [a / 128] }
      .next (s1.send (.hostData a (lineBytes l.data (a % 128) 64) l.poison.isSome))
    | none =>
      if s.fillBarred c (frameOf a) then .next (refuse s) else .next (s.ownFill c (frameOf a))

/-- HOST_MEM_WRITE of 64 bytes: performs, is dropped, or waits for a fill or a reseal. -/
def execHostMemWrite (req : HostReq) (addr : Nat) (data : BitVec 512) (s : State) : Res :=
  let a := hostBlock addr
  if s.stage ≠ .ready then .next s else
  match s.hostAdmit req a with
  | none => .next s.pf0Error
  | some c =>
    match s.writeGate c a with
    | .ready | .snoop _ => .next (s.commit c none a (bytesOfNat 64 data.toNat))
    | .fill f => .next (s.ownFill c f)
    | .reseal | .host | .room _ => .next s
    | .fail _ => .next s.pf0Error

end Sys2Proof.Machine
end

