-- ==== Sys2Proof/Machine/Matrix.lean ====
section
/-! DEFINITION. The matrix engine (R258-R279): products and sums, the operands of a reduction, the epilogue, the row
accesses of a cycle, and the 15 instructions of M. -/

namespace Sys2Proof.Machine

/-! ## Products and sums (R179-R183) -/

/-- The width w of the multiplier array for an operand type (R183). -/
def prodWidth : ElemT → Nat
  | .h => 11
  | _ => 8

/-- The partial products of `a` x `b` below 2^`k` (R183): the sum of the bits a[i], b[j] with i + j < k. -/
def lowPart (a b k : Nat) : Nat → Nat
  | 0 => 0
  | i + 1 => (if a.testBit i then 2 ^ i * (b % 2 ^ (k - i)) else 0) + lowPart a b k i

/-- Prod under truncation `k` (R183). -/
def prodOf (t : ElemT) (k : Nat) (a b : Fp) : Fp × Flags :=
  match a, b with
  | .num s m e, .num u n g =>
    -- significands shifted to w bits
    let sh := prodWidth t - 1 - t.fmt.fw
    let x := m * 2 ^ sh
    let y := n * 2 ^ sh
    let p := x * y - lowPart x y k k
    (if p = 0 then .zero (s != u) else .num (s != u) p (e + g - 2 * sh), 0)
  | _, _ => Fp.mul a b

/-- An operand element: its value and its scale byte (127 where it has none) (R180). -/
structure Elem where
  val : Fp
  scale : Nat

/-- The product of a step (R179, R180). -/
def stepProd (t : ElemT) (k : Nat) (a b : Elem) : Fp × Flags :=
  if a.scale = 255 ∨ b.scale = 255 then (.nan false, 0)
  else
    let p := prodOf t k a.val b.val
    (p.1.scale ((a.scale : Int) + b.scale - 254), p.2)

/-- FP32. -/
def fp32 : Fmt := ⟨8, 23, false⟩

/-- c := Round(c + p, FP32, RNE), with the flags of R182. -/
def accumF (c : Nat × Flags) (p : Fp × Flags) : Nat × Flags :=
  let x := Fp.add .rne (fp32.value c.1) p.1
  let y := fp32.round .rne 0 x.1
  (y.1, c.2 ||| ((p.2 ||| x.2 ||| y.2) &&& (fNV ||| fOF)))

/-- The dot product of R179 over two lines, in ascending order. -/
def dotF (t : ElemT) (k : Nat) : List Elem → List Elem → Nat × Flags → Nat × Flags
  | a :: as, b :: bs, c => dotF t k as bs (accumF c (stepProd t k a b))
  | _, _, c => c

/-- c := c + p in INT32; a wrap sets OF (R181). -/
def accumI (c : W32 × Flags) (p : Int) : W32 × Flags :=
  let x := c.1.toInt + p
  (BitVec.ofInt 32 x, c.2 ||| flagIf (decide (x < -2147483648) || decide (2147483647 < x)) fOF)

/-- The dot product of R181. -/
def dotI : List Int → List Int → W32 × Flags → W32 × Flags
  | a :: as, b :: bs, c => dotI as bs (accumI c (a * b))
  | _, _, c => c

/-! ## Operand lines (R263) -/

/-- A row that an instruction has read, with its address. -/
structure GotRow where
  addr : Nat
  row : Row

/-- The rows that an M instruction has read through a walk, in order; `none` gives its scale rows. -/
def MFlight.rows (f : MFlight) (w : Option (Fin 8)) : List GotRow :=
  (f.accs.filter fun a => decide (a.walk = w)).map fun a => ⟨a.addr, a.got.getD 0⟩

/-- The format that governs a row of an issued M instruction. -/
def MFlight.rowFmt (f : MFlight) (a : Nat) : W32 := f.fmts[(bankOf a).val]'(bankOf a).isLt

/-- The scale byte of the element at byte `o` of a row (R146); 127, which is 2^0, outside an MX bank. -/
def MFlight.scaleAt (f : MFlight) (addr o : Nat) : Nat :=
  if fmtMx (f.rowFmt addr) then
    match (f.rows none).find? fun r => decide (r.addr = scaleRow (f.rowFmt addr) addr) with
    | some r => lane 8 r.row (scaleByte (addr + o))
    | none => 127
  else 127

/-- The raw elements 0 to `k` - 1 of line `q` of an operand: bits and byte offset in their row. -/
def lineElems (rows : List GotRow) (t : ElemT) (q k : Nat) : Option GotRow × List (Nat × Nat) :=
  let per := linesPerRow (some t)
  let r := rows[q / per]?
  let base := q % per * (1024 / per)
  (r, (List.range k).map fun i =>
    ((match r with
      | some g => bitsAt g.row.toNat (base + t.width * i) t.width
      | none => 0), (base + t.width * i) / 8))

/-- Line `q` of a float operand. -/
def MFlight.lineF (f : MFlight) (rows : List GotRow) (t : ElemT) (q k : Nat) : List Elem :=
  let l := lineElems rows t q k
  l.2.map fun x => ⟨t.fmt.value x.1, match l.1 with
    | some g => f.scaleAt g.addr x.2
    | none => 127⟩

/-- Line `q` of an integer operand. -/
def lineI (rows : List GotRow) (t : ElemT) (q k : Nat) : List Int := (lineElems rows t q k).2.map fun x => t.intOf x.1

/-- A reserved .T2 code among the elements of an operand's lines (R166). -/
def t2Reserved (rows : List GotRow) (n k : Nat) : Flags :=
  flagIf ((List.range n).any fun q => (lineElems rows .t2 q k).2.any fun x => x.1 = 2) fTRES

/-- The type of an operand. -/
def MFlight.typeOf (f : MFlight) (rows : List GotRow) : ElemT :=
  match rows with
  | [] => .s8
  | r :: _ => (fmtType (f.rowFmt r.addr)).getD .s8

/-- TCFG0.APPROX as the truncation k of R183. -/
def approxK (cfg0 : W32) : Nat := 2 * bitsAt cfg0.toNat 0 2

/-! ## Reductions (R265, R266) -/

/-- Element (i, j) of an accumulator. -/
def Acc.el (a : Acc) (n : Nat) : W32 := a.e.toArray.getD n 0

/-- An accumulator with its elements given by position. -/
def Acc.fill (a : Acc) (f : Nat → W32) : Acc := { a with e := Vector.ofFn fun n => f n.val }

/-! ## Residues and checksums (R273, R291, R292) -/

/-- The significand of a float element, with its hidden bit (R291). -/
def sigOf (x : W32) : Nat := x.toNat % 2 ^ 23 + (if x.toNat / 2 ^ 23 % 256 = 0 then 0 else 2 ^ 23)

/-- The exponent of a float element, as the alignment of its significand takes it. -/
def expOf (x : W32) : Nat := Nat.max 1 (x.toNat / 2 ^ 23 % 256)

/-- The difference of a significand from its residue, modulo 7, when the element takes part in additions that end in `new`: it is
aligned as the significand is, by powers of 2, whose cube is 1 modulo 7, and every other part of the sum is predicted (R291). -/
def resMove (old new : W32) (d : Nat) : Nat :=
  let y := d * 2 ^ ((expOf old + 768 - expOf new) % 3) % 7
  if old.msb = new.msb then y else (7 - y) % 7

/-- The differences of an accumulator from its residues after sums over it; the checksums of an integer path follow the sums
themselves (R292). -/
def Acc.summed (a : Acc) (f : Nat → W32) : Acc :=
  let b := a.fill f
  { b with res := a.res.foldl (fun m e => SMap.set 0 m e.1 (resMove (a.el e.1) (b.el e.1) e.2)) [] }

/-- A fault changes an element under its residue and its row's checksum (R432). -/
def Acc.strike (a : Acc) (n : Fin 4096) (x : W32) : Acc :=
  let old := a.e[n.val]'n.isLt
  let new := old ^^^ x
  let row := n.val / 64
  let b := { a with e := a.e.set n.val new n.isLt }
  let b1 := if a.kind = .int then b else
    { b with res := SMap.set 0 a.res n.val ((SMap.get 0 a.res n.val + sigOf new + 7 * 2 ^ 24 - sigOf old) % 7) }
  if a.kind = .flt then b1 else
    { b1 with ck := SMap.set 0 a.ck row ((SMap.get 0 a.ck row + new.toNat + 2 ^ 32 - old.toNat) % 2 ^ 32) }

/-- The check of a retirement: the accumulator against its residues, or its checksums, by its kind; one of kind NONE against both
(R273). -/
def Acc.intact (a : Acc) : Bool := (decide (a.kind = .int) || a.res.isEmpty) && (decide (a.kind = .flt) || a.ck.isEmpty)

/-- The check fails, where the profile makes it (R273, R431). -/
def Job.accFails (j : Job) (c : Fin 8) : Bool := !(j.m.accAt c).intact && decide (j.prof ≠ 2)

/-- The sums of a reduction over an m x n tile: each element's new value and flags; the others keep theirs. -/
def tileSums (m n : Nat) (old : Nat → W32) (sum : Nat → Nat → W32 → W32 × Flags) : List (W32 × Flags) :=
  (List.range 4096).map fun p =>
    if p / 64 < m ∧ p % 64 < n then sum (p / 64) (p % 64) (old p) else (old p, 0)

/-- The results of a float reduction, given its lines. -/
def sumsF (t : ElemT) (k : Nat) (as bs : List (List Elem)) (i j : Nat) (c : W32) : W32 × Flags :=
  let r := dotF t k (as.getD i []) (bs.getD j []) (c.toNat, 0)
  (BitVec.ofNat 32 r.1, r.2)

/-- The results of an integer reduction, given its lines. -/
def sumsI (as bs : List (List Int)) (i j : Nat) (c : W32) : W32 × Flags := dotI (as.getD i []) (bs.getD j []) (c, 0)

/-- What a reduction makes of an accumulator, with its flags (R182). -/
def MFlight.reduce (f : MFlight) (acc : Acc) : Acc × Flags :=
  let m := f.shape.1
  let n := f.shape.2.1
  let k := f.shape.2.2
  let done := fun (l : List (W32 × Flags)) (g : Flags) =>
    let v := l.toArray
    (acc.summed (fun p => (v.getD p (0, 0)).1), l.foldl (fun x y => x ||| y.2) g)
  let dense := fun (a b : Fin 8) =>
    let ra := f.rows (some a)
    let rb := f.rows (some b)
    let ta := f.typeOf ra
    let tb := f.typeOf rb
    if ta.isFlt || ta.isFp8 then
      let as := (List.range m).map fun i => f.lineF ra ta i k
      let bs := (List.range n).map fun j => f.lineF rb tb j k
      done (tileSums m n acc.el (sumsF ta (approxK f.cfg[0]) as bs)) 0
    else
      let as := (List.range m).map fun i => lineI ra ta i k
      let bs := (List.range n).map fun j => lineI rb tb j k
      done (tileSums m n acc.el (sumsI as bs)) (if ta = .t2 then t2Reserved ra m k else 0)
  match f.instr with
  | .tmma _ _ a b _ | .tmmax _ _ a b _ | .tmmat _ _ a b _ => dense a b
  | .tmmas _ _ a b _ _ =>
    let ra := f.rows (some a)
    let rb := f.rows (some b)
    let ta := f.typeOf ra
    let as := (List.range m).map fun i => f.lineF ra ta i rb.length
    -- B row j of the kept values holds B[idx[j]][0..63]
    let bs := (List.range n).map fun j => rb.map fun g => (⟨ta.fmt.value (lane 16 g.row j), 127⟩ : Elem)
    done (tileSums m n acc.el (sumsF ta (approxK f.cfg[0]) as bs)) 0
  | .tfill _ _ w =>
    let rows := (f.rows (some w)).toArray
    ({ acc.fill (fun p => BitVec.ofNat 32 (lane 32 ((rows.getD (p / 32) ⟨0, 0⟩).row) (p % 32))) with res := [], ck := [] }, 0)
  | _ => (acc, 0)

/-- The accumulator that an instruction fills from rows. -/
def filled : Instr → Option (Fin 8)
  | .tmma _ c _ _ _ | .tmmax _ c _ _ _ | .tmmat _ c _ _ _ | .tmmas _ c _ _ _ _ | .tfill _ c _ => some c
  | _ => none

/-- M with an accumulator replaced. -/
def MEng.setAcc (m : MEng) (c : Fin 8) (a : Acc) : MEng := { m with acc := m.acc.set c.val a c.isLt }

/-! ## The epilogue (R270, R271) -/

/-- The value of an accumulator element. -/
def accVal (a : Acc) (p : Nat) : Fp :=
  if a.kind = .int then Fp.ofInt (a.el p).toInt 0 false else fp32.value (a.el p).toNat

/-- FPMODE.RM of M with STOCH taken as RNE. -/
def epiMode (fpmode : W32) : Rm :=
  match Rm.ofCode (bitsAt fpmode.toNat 0 3) with
  | .stoch => .rne
  | r => r

/-- SCALE, BIAS and ACT of the epilogue; its result is exact. -/
def epilogue (m : MEng) (x : Fp) : Fp × Flags :=
  let r := if (m.tcfg[1]).getLsbD 9 then
      let y := Fp.fma (epiMode m.fpmode) (fp32.value (m.tcfg[3]).toNat) x (fp32.value (m.tcfg[2]).toNat)
      let z := fp32.round (epiMode m.fpmode) 0 y.1
      (fp32.value z.1, y.2 ||| z.2)
    else (x, 0)
  if bitsAt (m.tcfg[1]).toNat 12 2 = 1 then
    (match r.1 with
      | .zero true | .num true _ _ | .inf true => .zero false
      | y => y, r.2)
  else r

/-- The key of TRET's random bits for an element (R175). -/
def tretBits (j : Job) (c : Fin 8) (p : Nat) : Nat :=
  gen j.rseed j.nodeid (j.m.retcnt.setWidth 16) (BitVec.ofNat 16 (0x8000 + c.val)) p

/-- The codes of row `i` of a TRET: 64 columns, those from n on 0. -/
def tretLine (j : Job) (c : Fin 8) (t : ElemT) (i : Nat) : List (Nat × Flags) :=
  let m := j.m
  (List.range 64).map fun k =>
    if k < m.shapeN then
      let p := 64 * i + k
      let x := epilogue m (accVal (m.accAt c) p)
      let y := t.convert (Rm.ofCode (bitsAt (m.tcfg[1]).toNat 10 2)) (tretBits j c p) (m.fpmode.getLsbD 4) x.1
      (y.1, x.2 ||| y.2)
    else (0, 0)

/-- Rows from lines of codes (R271). -/
def packLines (t : ElemT) : List (List Nat) → List Row
  | [] => []
  | [a] =>
    if t.width = 32 then [rowOfLanes 32 (a.take 32), rowOfLanes 32 (a.drop 32)] else [rowOfLanes t.width a]
  | a :: b :: ls =>
    if t.width = 32 then rowOfLanes 32 (a.take 32) :: rowOfLanes 32 (a.drop 32) :: packLines t (b :: ls)
    else if t.width = 16 then rowOfLanes 16 a :: packLines t (b :: ls)
    else rowOfLanes 8 (a ++ b) :: packLines t ls

/-- The rows and flags of a TRET. -/
def tretRows (j : Job) (c : Fin 8) : List Row × Flags :=
  let t := j.m.otype.getD .bf
  let ls := (List.range j.m.shapeM).map (tretLine j c t)
  (packLines t (ls.map fun l => l.map Prod.fst), orAll (ls.map fun l => l.foldl (fun f x => f ||| x.2) 0))
where
  /-- OR of flags. -/
  orAll (l : List Flags) : Flags := l.foldl (· ||| ·) 0

/-- Row `i` of a TRETQ: two blocks quantised by R184, as VQMX lays them out (R237). -/
def tretqRow (j : Job) (c : Fin 8) (i : Nat) : Row × Flags :=
  let m := j.m
  let t := m.otype.getD .e4
  let xs := (List.range 64).map fun k =>
    if k < m.shapeN then
      let x := epilogue m (accVal (m.accAt c) (64 * i + k))
      let y := fp32.round .rne 0 x.1
      (fp32.value y.1, x.2 ||| y.2)
    else (Fp.zero false, (0 : Flags))
  let q := fun l => quantBlock t (m.fpmode.getLsbD 4) (l.map Prod.fst)
  let a := q (xs.take 32)
  let b := q (xs.drop 32)
  (rowOfLanes 8 (a.2.1 ++ b.2.1 ++ [a.1, b.1]), xs.foldl (fun f x => f ||| x.2) (a.2.2 ||| b.2.2))

/-- The rows and flags of a TRETQ. -/
def tretqRows (j : Job) (c : Fin 8) : List Row × Flags :=
  let l := (List.range j.m.shapeM).map (tretqRow j c)
  (l.map Prod.fst, l.foldl (fun f x => f ||| x.2) 0)

/-- The rows of a TSPILL (R269). -/
def spillRows (a : Acc) : List Row :=
  (List.range 128).map fun r => rowOfLanes 32 ((List.range 32).map fun k => (a.el (32 * r + k)).toNat)

/-- CSW of a row (R273). -/
def cswOf (r : Row) : W32 := BitVec.ofNat 32 ((lanesOf 32 32 r).foldl (· + ·) 0 % 4294967295)

/-! ## Issue -/

/-- The row accesses of a window; `rows` are those that it writes, in order. -/
def accsOf : List Want → List Row → List RowAcc
  | [], _ => []
  | x :: xs, rows =>
    { left := x.off, walk := x.walk, addr := (match x.addr with
        | .ok a => a
        | .error _ => 0), wr := if x.wr then some (rows.headD 0) else none, got := none } :: accsOf xs (rows.drop 1)

/-- The instruction issues with a window: its claims, its walks' steps, and its accesses to come. -/
def Job.launchM (j : Job) (i : Instr) (w : MWin) (rows : List Row) (flags : Flags) (bad : Option Cause) : Job :=
  let j1 := (j.claim .m (wantAddrs w.wants))
  let j2 := w.needs.foldl (fun x n => x.advanceWalk n.1 n.2) j1
  { j2 with m := { j2.m with flights := j2.m.flights ++ [
    { instr := i, pc := j.m.pc, left := w.fin, accs := accsOf w.wants rows,
      shape := (j.m.shapeM, j.m.shapeN, j.m.shapeK), cfg := j.m.tcfg, fmts := j.tfmt, flags, bad }] } }

/-- UNCHK with or without an accumulator (R258). -/
def MEng.mark (m : MEng) (c : Fin 8) (on : Bool) : MEng :=
  { m with unchk := if on then m.unchk ||| BitVec.ofNat 8 (2 ^ c.val) else m.unchk &&& ~~~ BitVec.ofNat 8 (2 ^ c.val) }

/-- An accumulator that holds only zeros. -/
def Acc.zero (k : AccKind) : Acc := { e := Vector.replicate 4096 0, kind := k, res := [], ck := [] }

/-- CREDIT that a TMMAS spends beyond the rows that it reads: WB counts 128 rows (R266). -/
def Job.spendMany (j : Job) (w : Fin 8) : Nat → Job
  | 0 => j
  | n + 1 => (j.spendCredit (some w)).spendMany w n

/-- The effect of a reduction at its issue (R265, R266). -/
def reduceIssue (i : Instr) (c : Fin 8) (new : Bool) (s : State) : Res :=
  issue s .m i 1 fun s k j =>
    let w := mWindow s k j i
    let need := (needKind j i w.wants).getD .flt
    let a := j.m.accAt c
    let m := (j.m.setAcc c (if new then Acc.zero need else { a with kind := need })).mark c true
    let j1 := { j with m := m }.launchM i w [] 0 none
    let j2 := match i with
      | .tmmas _ _ _ b _ _ => j1.spendMany b (128 - j.m.spn)
      | _ => j1
    s.setJob k (j2.done .m w.occ)

/-- A fault of a core's epilogue arithmetic. -/
def inEpilogue : FaultKind → Bool
  | .epilogue _ => true
  | _ => false

/-- A retirement: `out` gives rows and flags from the job, `after` the engine afterwards (R269, R270, R272). A fault of the epilogue's
arithmetic shows as RESIDUE here; under BASIC, which does not check, its rows hold free values (R431, R432). -/
def retireIssue (i : Instr) (c : Fin 8) (out : Job → List Row × Flags) (after : MEng → MEng) (s : State) : Res :=
  issue s .m i 1 fun s k j =>
    let w := mWindow s k j i
    let r := out j
    let hit := (s.core k).faulty inEpilogue
    let rows := if hit && decide (j.prof = 2) then
        r.1.zipIdx.map fun x => rowOfBytes ((List.range 128).map fun n => Config.lostByte s.fresh (128 * x.2 + n))
      else r.1
    let bad := if j.accFails c || (hit && decide (j.prof ≠ 2)) then some Cause.residue else none
    let j1 := j.launchM i w rows r.2 bad
    let s1 := if hit then { s.setCore k ((s.core k).sound inEpilogue) with fresh := s.fresh + 1 } else s
    s1.setJob k (Job.done { j1 with m := (after j1.m).mark c false } .m w.occ)

/-- A scalar result of M with latency LAT (R259, R274, R275). -/
def Job.moutAt (j : Job) (d : Opnd) (lat : Nat) (x : W32) : Job :=
  match d with
  | .reg n => { j with m := { j.m with pend := j.m.pend ++ [pendScalar lat n (x.setWidth 64)] } }
  | .q q =>
    let y := j.stream q
    { j.setStream q { y with reserved := y.reserved + 1 } with
      m := { j.m with flagFlights := j.m.flagFlights ++ [⟨lat, some (q, x.setWidth 1024), 0⟩] } }
  | .bad _ => j

/-! ## The instructions -/

/-- TSHAPE (R261). The gate has found each value between 1 and 64, or has raised 0x101 (R260). -/
def execTshape (tm : Tm) (d a b : Opnd) (s : State) : Res :=
  issueJob s .m (.tshape tm d a b) 1 fun j vs =>
    let v := fun n => ((argAt vs n).scalar 32 (j.reg .m)).toNat
    { j with m := { j.m with shapeN := v 0, shapeK := v 1, shapeM := v 2 } }

/-- A field of a configuration word: its low bit, its width and its legal values. -/
structure CfgField where
  lo : Nat
  n : Nat
  ok : Nat → Bool

/-- The fields of TCFGw (R262). -/
def cfgFields (w : Fin 4) : List CfgField :=
  match w with
  | 0 => [⟨24, 8, fun x => decide (x ≠ 0)⟩, ⟨4, 2, fun _ => true⟩, ⟨2, 2, fun x => decide (x = 1 ∨ x = 2)⟩,
      ⟨0, 2, fun _ => true⟩]
  | 1 => [⟨12, 2, fun x => decide (x ≤ 1)⟩, ⟨10, 2, fun _ => true⟩, ⟨9, 1, fun _ => true⟩,
      ⟨0, 4, fun x => decide (x ≤ 10)⟩]
  | _ => [⟨0, 32, fun _ => true⟩]

/-- A write of a configuration word: a reserved value leaves its field unchanged (R14, R262); whether one was met. -/
def cfgWrite (old new : Nat) : List CfgField → Nat × Bool
  | [] => (0, false)
  | f :: fs =>
    let r := cfgWrite old new fs
    let x := bitsAt new f.lo f.n
    (r.1 + 2 ^ f.lo * (if f.ok x then x else bitsAt old f.lo f.n), r.2 || !f.ok x)

/-- TCFG (R262). -/
def execTcfg (tm : Tm) (a : Opnd) (f : Fin 4) (s : State) : Res :=
  issueJob s .m (.tcfg tm a f) 1 fun j vs =>
    let x := ((argAt vs 0).scalar 32 (j.reg .m)).toNat
    let r := cfgWrite (j.m.tcfg[f.val]'f.isLt).toNat x (cfgFields f)
    { j with twinWait := false, m := { j.m with
      tcfg := j.m.tcfg.set f.val (BitVec.ofNat 32 r.1) f.isLt, rsvw := j.m.rsvw || r.2 } }

/-- TZERO (R268). -/
def execTzero (tm : Tm) (c : Fin 8) (s : State) : Res :=
  issueJob s .m (.tzero tm c) 1 fun j _ => { j with m := (j.m.setAcc c (Acc.zero .none)).mark c false }

/-- TMMA (R265). -/
def execTmma (tm : Tm) (c a b : Fin 8) (n : Bool) (s : State) : Res := reduceIssue (.tmma tm c a b n) c n s

/-- TMMAX (R265). -/
def execTmmax (tm : Tm) (c a b : Fin 8) (n : Bool) (s : State) : Res := reduceIssue (.tmmax tm c a b n) c n s

/-- TMMAT (R265). -/
def execTmmat (tm : Tm) (c a b : Fin 8) (n : Bool) (s : State) : Res := reduceIssue (.tmmat tm c a b n) c n s

/-- TMMAS (R266). -/
def execTmmas (tm : Tm) (c a b w : Fin 8) (n : Bool) (s : State) : Res := reduceIssue (.tmmas tm c a b w n) c n s

/-- M after TRET or TRETQ has issued: the retirement count, and the accumulator without KEEP (R272). -/
def MEng.retired (c : Fin 8) (keep : Bool) (m : MEng) : MEng :=
  let m1 := { m with retcnt := m.retcnt + 1 }
  if keep then m1 else m1.setAcc c (Acc.zero .none)

/-- TRET (R270-R272). -/
def execTret (tm : Tm) (c a : Fin 8) (keep : Bool) (s : State) : Res :=
  retireIssue (.tret tm c a keep) c (fun j => tretRows j c) (MEng.retired c keep) s

/-- TRETQ (R270-R272). -/
def execTretq (tm : Tm) (c a : Fin 8) (keep : Bool) (s : State) : Res :=
  retireIssue (.tretq tm c a keep) c (fun j => tretqRows j c) (MEng.retired c keep) s

/-- TSPILL (R269). -/
def execTspill (tm : Tm) (c a : Fin 8) (s : State) : Res :=
  retireIssue (.tspill tm c a) c (fun j => (spillRows (j.m.accAt c), 0)) id s

/-- KIND that TCFG0.FKIND gives. -/
def MEng.fkind (m : MEng) : AccKind := if bitsAt (m.tcfg[0]).toNat 2 2 = 2 then .int else .flt

/-- TFILL: the elements arrive with the last row (R269). -/
def execTfill (tm : Tm) (c a : Fin 8) (s : State) : Res :=
  issue s .m (.tfill tm c a) 1 fun s k j =>
    let w := mWindow s k j (.tfill tm c a)
    let m := (j.m.setAcc c { j.m.accAt c with kind := j.m.fkind, res := [], ck := [] }).mark c false
    s.setJob k (({ j with m := m }.launchM (.tfill tm c a) w [] 0 none).done .m w.occ)

/-- One addition of TACC (R268). -/
def taccStep (int : Bool) (x y : W32) : W32 × Flags :=
  if int then accumI (x, 0) y.toInt
  else
    let r := accumF (x.toNat, 0) (fp32.value y.toNat, nanFlags (fp32.value y.toNat))
    (BitVec.ofNat 32 r.1, r.2)

/-- OR of the flags of sums. -/
def orFlagsW (l : List (W32 × Flags)) : Flags := l.foldl (fun f x => f ||| x.2) 0

/-- The residues and checksums of TACC's sum `z` of two accumulators (R291, R292). -/
def taccChecks (x y z : Acc) : Acc :=
  { z with
    res := (dedup ((x.res ++ y.res).map Prod.fst)).foldl (fun m n => SMap.set 0 m n
      ((resMove (x.el n) (z.el n) (SMap.get 0 x.res n) + resMove (y.el n) (z.el n) (SMap.get 0 y.res n)) % 7)) []
    ck := (dedup ((x.ck ++ y.ck).map Prod.fst)).foldl (fun m n =>
      SMap.set 0 m n ((SMap.get 0 x.ck n + SMap.get 0 y.ck n) % 2 ^ 32)) [] }

/-- TACC (R268): its sums are formed at once, since every later instruction of M sees them (R259). -/
def execTacc (tm : Tm) (c a : Fin 8) (s : State) : Res :=
  issue s .m (.tacc tm c a) 1 fun s k j =>
    let x := j.m.accAt c
    let y := j.m.accAt a
    let kind := if x.kind = .none then y.kind else x.kind
    let l := (List.range 4096).map fun p => taccStep (decide (kind = .int)) (x.el p) (y.el p)
    let v := l.toArray
    let z : Acc := taccChecks x y { x with kind := kind, e := Vector.ofFn fun n => (v.getD n.val (0, 0)).1 }
    let m := (j.m.setAcc c z).mark c true
    let w := mWindow s k j (.tacc tm c a)
    s.setJob k (({ j with m := m }.launchM (.tacc tm c a) w [] (orFlagsW l) none).done .m w.occ)

/-- The code of a KIND (R274). -/
def kindCode : AccKind → Nat
  | .none => 0
  | .flt => 1
  | .int => 2

/-- A TSTAT item (R274); RDEPTH as the instruction found it. -/
def tstatItem (m : MEng) (depth : Nat) (f : Fin 4) : W32 :=
  match f with
  | 0 => BitVec.ofNat 32 (m.unchk.toNat * 2 ^ 24 + depth % 256 * 2 ^ 16 +
      natOfLanes 2 (m.acc.toList.map fun a => kindCode a.kind))
  | 1 => BitVec.ofNat 32 (m.rsvw.toNat * 2 ^ 31 + m.shapeM * 2 ^ 14 + m.shapeN * 2 ^ 7 + m.shapeK)
  | 2 => m.retcnt
  | 3 => m.csw

/-- RDEPTH and its greatest value before this instruction is counted. -/
def State.depthBefore (s : State) (k : CoreId) : Nat × Nat :=
  match s.job k with
  | some j => (j.m.depth, j.m.depthMax)
  | none => (0, 0)

/-- TSTAT (R274): the read of item 1 clears RSVW. -/
def execTstat (tm : Tm) (d : Opnd) (f : Fin 4) (s : State) : Res :=
  issue s .m (.tstat tm d f) 1 fun s k j =>
    let j1 := j.moutAt d 2 (tstatItem j.m (s.depthBefore k).1 f)
    s.setJob k (Job.done { j1 with m := { j1.m with rsvw := j1.m.rsvw && decide (f ≠ 1) } } .m 1)

/-- The result of a TCHK test (R275). What tests 0 to 2 find in the physical array and its checkers is free within the results that
the spec lists: the machine's state does not hold their faults (log 82). -/
def tchkResult (j : Job) (deepest n : Nat) (f : Fin 8) (x : W32) : W32 :=
  let acc : Fin 8 := ⟨bitsAt x.toNat 12 3 % 8, Nat.mod_lt _ (by decide)⟩
  let p := bitsAt x.toNat 0 12
  let prod := fun (t : ElemT) =>
    let v := prodOf t (approxK j.m.tcfg[0]) (t.fmt.value (bitsAt x.toNat 16 16)) (t.fmt.value (bitsAt x.toNat 0 16))
    BitVec.ofNat 32 (fp32.round .rne 0 v.1).1
  match f with
  | 0 => BitVec.ofNat 32 (Config.checkResult 0 n % 4097)
  | 1 => BitVec.ofNat 32 (Config.checkResult 1 n % 2)
  | 2 => BitVec.ofNat 32 (Config.checkResult 2 n % 2)
  | 3 => (j.m.accAt acc).el p
  | 4 => prod .bf
  | 5 => prod .h
  | 6 => BitVec.ofNat 32 deepest
  | 7 => BitVec.ofNat 32 (tretBits j acc p)

/-- TCHK (R275). The gate has raised 0x106 for an argument that is out of range (R260). -/
def execTchk (tm : Tm) (d a : Opnd) (f : Fin 8) (s : State) : Res :=
  let i := Instr.tchk tm d a f
  issue s .m i 1 fun s k j =>
    let (j1, vs) := readFields j (fieldsOf j i)
    let x := (argAt vs 0).scalar 32 (j.reg .m)
    let occ := (mWindow s k j i).occ
    let y := tchkResult j1 (s.depthBefore k).2 s.fresh f x
    State.setJob { s with fresh := s.fresh + 1 } k ((j1.moutAt d (occ + 2) y).done .m occ)

/-! ## The row accesses of a cycle (R259, R267, R276) -/

/-- A deferred trap of an issued M instruction (R125). -/
def Job.raiseM (j : Job) (f : MFlight) (cause : Cause) (val : W32) : Job :=
  { j with raised := j.raised ++ [{ eng := .m, cause, val, pc := f.pc, classC := false, addr := 0 }] }

/-- The store path of a core holds a fault that no check has met (R432). -/
def Core.storeFault (x : Core) : Bool := x.faulty fun k => match k with
  | .storePath _ => true
  | _ => false

/-- The core without its store-path fault. -/
def Core.clearStore (x : Core) : Core := x.sound fun k => match k with
  | .storePath _ => true
  | _ => false

/-- A row write of M: where the store path has failed, the row's checksum word shows it, or, under BASIC, the row's
contents are lost (R273, R431, R432). The machine, and whether CHECKSUM is raised. -/
def State.writeRowM (s : State) (c : CoreId) (prof : Fin 3) (a : Nat) (r : Row) : State × Bool :=
  let x := s.core c
  if x.storeFault then
    let r1 := if prof = 2 then rowOfBytes ((List.range 128).map fun k => Config.lostByte s.fresh (a + k)) else r
    let s1 := { s with fresh := s.fresh + 1 }
    (s1.setCore c { x.clearStore with scr := x.scr.writeRow a (BitVec.allOnes 128) r1 }, decide (prof ≠ 2))
  else (s.setCore c { x with scr := x.scr.writeRow a (BitVec.allOnes 128) r }, false)

/-- Why an issued M instruction ends before its time. -/
inductive MStop
  | range (addr : Nat)
  deriving DecidableEq, Repr

/-- Makes the accesses that fall due in this cycle, in order, and counts the others down. A row that is no longer usable
ends the instruction (R139). -/
def State.makeAccs (s : State) (c : CoreId) (prof : Fin 3) (f : MFlight) :
    List RowAcc → State × MFlight × List RowAcc × Option MStop
  | [] => (s, f, [], none)
  | a :: as =>
    if a.got.isSome then
      let (s1, f1, l, e) := s.makeAccs c prof f as
      (s1, f1, a :: l, e)
    else if a.left = 0 then
      if s.rowUsable c a.addr then
        match a.wr with
        | some r =>
          let (s1, bad) := s.writeRowM c prof a.addr r
          let (s2, f2, l, e) := s1.makeAccs c prof { f with bad := if f.bad.isNone && bad then some .checksum else f.bad } as
          (s2, f2, { a with got := some r } :: l, e)
        | none =>
          let (s1, f1, l, e) := s.makeAccs c prof f as
          (s1, f1, { a with got := some ((s.core c).timedRow a.addr) } :: l, e)
      else (s, f, a :: as, some (.range a.addr))
    else
      let (s1, f1, l, e) := s.makeAccs c prof f as
      (s1, f1, { a with left := a.left - 1 } :: l, e)

/-- Walks whose accesses fall due in this cycle. -/
def MFlight.dueWalks (f : MFlight) : List (Option (Fin 8)) :=
  (f.accs.filter fun a => a.got.isNone && decide (a.left = 0)).map fun a => a.walk

/-- The last row that a retirement wrote. -/
def MFlight.lastRow (f : MFlight) : Option Row :=
  match f.accs.getLast? with
  | some a => a.wr
  | none => none

/-- An issued M instruction completes: its flags, CSW and its checks (R265, R270, R273, R274). -/
def Job.completeM (j : Job) (f : MFlight) : Job :=
  let m := { j.m with fpflags := j.m.fpflags ||| f.flags }
  let m1 := match f.instr with
    | .tret _ _ _ _ | .tretq _ _ _ _ => { m with csw := match f.lastRow with
        | some r => cswOf r
        | none => m.csw }
    | _ => m
  let j1 := { j with m := m1 }
  match f.bad with
  | some x => j1.raiseM f x (f.pc.setWidth 32)
  | none => j1

/-- One unheld cycle of an issued M instruction: it completes, or makes the accesses of this take; with the last of them
a reduction or TFILL has formed its accumulator (R259). -/
def State.tickFlight (s : State) (c : CoreId) (f : MFlight) : State :=
  match s.job c with
  | none => s
  | some j =>
    let due := f.dueWalks
    let (s1, f1, accs, e) := s.makeAccs c j.prof f f.accs
    let f2 := { f1 with accs := accs }
    let j1 := due.foldl (fun x w => x.spendCredit w) j
    match e with
    | some (.range a) => s1.setJob c (j1.raiseM f .rowRange (BitVec.ofNat 32 a))
    | none =>
      if f.left = 0 then s1.setJob c (j1.completeM f2)
      else
        let f3 := { f2 with left := f.left - 1 }
        let j2 := match filled f.instr with
          | some n =>
            if f.left = 1 then
              let r := f3.reduce (j1.m.accAt n)
              { j1 with m := { j1.m.setAcc n r.1 with flights := j1.m.flights ++ [{ f3 with flags := r.2 }] } }
            else { j1 with m := { j1.m with flights := j1.m.flights ++ [f3] } }
          | none => { j1 with m := { j1.m with flights := j1.m.flights ++ [f3] } }
        s1.setJob c j2

/-- One unheld cycle of M's issued instructions, oldest first. -/
def State.tickM (s : State) (c : CoreId) : State :=
  match s.job c with
  | none => s
  | some j =>
    j.m.flights.foldl (fun st f => st.tickFlight c f) (s.setJob c { j with m := { j.m with flights := [] } })

end Sys2Proof.Machine
end

