-- ==== Sys2Proof/Machine/Image.lean ====
section
/-! DEFINITION. The save image of a stopped job (R440-R445): its blocks, their writes, and the restore. Items whose packing the
spec does not give are held with the card as its image (log 21); the rest is written to memory and read back. -/

namespace Sys2Proof.Machine

/-! ## What is saved -/

/-- The rows that a bank profile covers, as scratchpad addresses in ascending bank and row order (R441). -/
def profAddrs (p : W32) : List Nat :=
  (List.range 32).flatMap fun b => (List.range (profNeed p b)).map fun r => b * 65536 + r * 128

/-- ACCMASK: the accumulators that hold something (R441). -/
def accMask (j : Job) : Nat :=
  natOfLanes 1 ((List.finRange 8).map fun k => if (j.m.accAt k).kind = .none then 0 else 1)

/-- The number of accumulators saved. -/
def accsSaved (j : Job) : Nat := ((List.finRange 8).filter fun k => decide ((j.m.accAt k).kind ≠ .none)).length

/-- DIRTY (R441). -/
def dirtyBytes (j : Job) : Nat := 0x9000 + 16384 * accsSaved j + 128 * (profAddrs j.bankprof).length

/-- The save header (R441). -/
def headerOf (j : Job) (cause time : Nat) : List Byte :=
  withCrc (bytesOfNat 4 1 ++ bytesOfNat 4 j.jobid.toNat ++ bytesOfNat 4 j.nodeid.toNat ++ bytesOfNat 4 j.take.toNat
    ++ bytesOfNat 4 j.holdcyc.toNat ++ bytesOfNat 4 j.rseed.toNat ++ bytesOfNat 4 j.m.retcnt.toNat
    ++ bytesOfNat 1 (1 + 2 * j.hasA.toNat + 4 * j.hasV.toNat + 8 * j.hasM.toNat) ++ bytesOfNat 1 cause ++ bytesOfNat 2 0
    ++ bytesOfNat 8 time ++ bytesOfNat 4 (profAddrs j.bankprof).length ++ bytesOfNat 4 (accMask j)
    ++ bytesOfNat 4 j.bankprof.toNat ++ bytesOfNat 4 (dirtyBytes j) ++ bytesOfNat 4 (j.nseed.getD 0).toNat
    ++ bytesOfNat 1 j.nseed.isSome.toNat ++ bytesOfNat 191 0)

/-- Cuts bytes into blocks of 4 KiB, the last filled with zeros. -/
def blocksOf : Nat → Nat → List Byte → List (Nat × List Byte)
  | 0, _, _ => []
  | fuel + 1, off, bs =>
    if bs = [] then [] else
    (off, bs.take 4096 ++ List.replicate (4096 - bs.length) 0) :: blocksOf fuel (off + 4096) (bs.drop 4096)

/-- The bytes of a stream register's slots. -/
def streamBytes (x : Stream) : List Byte :=
  ((x.q ++ List.replicate 8 (0 : Row)).take 8).flatMap bytesOfRow

/-- The blocks of a job's image, by offset (R441). -/
def imageBlocks (s : State) (c : CoreId) (j : Job) (cause : Nat) : List (Nat × List Byte) :=
  let free := fun (off n : Nat) => (List.range n).map fun k => Config.imageByte s.fresh (off + k)
  let accs := (List.finRange 8).flatMap fun k =>
    let a := j.m.accAt k
    if a.kind = .none then [] else blocksOf 4 (0x9000 + 16384 * k.val) ((spillRows a).flatMap bytesOfRow)
  let rows := (profAddrs j.bankprof).flatMap fun a => s.scrRead c a 128
  blocksOf 5 0 (headerOf j cause s.time ++ free 256 3840 ++ j.v.v.toList.flatMap bytesOfRow ++ free 0x2000 0x3000)
    ++ blocksOf 4 0x5000 (j.streams.toList.flatMap streamBytes) ++ accs ++ blocksOf 512 0x29000 rows

/-! ## Writing an image (R441, R443, R451) -/

/-- What stops the write or the read of an image: a failure at an address, or something that has first to be done. -/
inductive ImageStop
  | fail (cause : Cause) (va : Nat)
  | wait (g : WGate)

/-- What a block that an image overwrites whole waits for: a reseal in progress, or a line that the host may hold (R367, R411). -/
def State.imageGate (s : State) (frame : Nat) : Option WGate :=
  if s.reseals.any fun r => decide (r.frame = frame) then some .reseal
  else (s.snoop.find? fun l => decide (l / 32 = frame)).map WGate.snoop

/-- Bytes within a frame of device memory written and sealed at once under a key, without a fill (R406, R411). -/
def State.sealWrite (s : State) (ctx : CtxId) (key : BitVec 256) (f pa : Nat) (bs : List Byte) : State :=
  State.sealBlock
    { s with mem := s.mem.writeBytes pa bs, lines := s.lines.filter fun x => decide (x.1 / 32 ≠ f) }
    f key (s.ctx ctx).key.curGen false

/-- Writes a whole block of device memory of a context at a translated address: it is sealed from the written data without a fill
(R411). The cause of a failure is R443's. -/
def State.leafWrite (s : State) (ctx : CtxId) (e : TlbEnt) (va : Nat) (bs : List Byte) : Except ImageStop State :=
  let f := frameOf (e.pa va)
  match (s.ctx ctx).key.cur with
  | none => .error (.fail .protection va)
  | some key =>
    if !e.wr || decide (e.kind ≠ 0) || s.foreign ctx f then .error (.fail .protection va)
    else if (s.metaOf f).state = 2 then .error (.fail .sealExhausted va)
    else
      match s.imageGate f with
      | some g => .error (.wait g)
      | none => .ok (s.sealWrite ctx key f (f * 4096) bs)

/-- The leaf of a block that the device writes itself. -/
def State.blockLeaf (s : State) (ctx : CtxId) (va : Nat) : Except ImageStop TlbEnt :=
  if 2 ^ 48 ≤ va then .error (.fail .pageDenied va)
  else
    match s.walkTables ctx va with
    | .fill f => .error (.wait (.fill f))
    | .stop _ => .error (.fail .pageDenied va)
    | .bad cause => .error (.fail cause va)
    | .leaf e => .ok e

/-- Writes one block of an image, which is metered (R441, R451). -/
def State.imageWrite (s : State) (c : CoreId) (ctx : CtxId) (va : Nat) (bs : List Byte) : Except ImageStop State :=
  match s.blockLeaf ctx va with
  | .error x => .error x
  | .ok e =>
    match s.leafWrite ctx e va bs with
    | .error x => .error x
    | .ok s1 => .ok (s1.meterBlock (some c))

/-- Writes the blocks of an image in order; a failure carries its address (R443). -/
def State.imageWrites (s : State) (c : CoreId) (ctx : CtxId) (base : Nat) :
    List (Nat × List Byte) → Except ImageStop State
  | [] => .ok s
  | (off, bs) :: rest =>
    match s.imageWrite c ctx (base + off) bs with
    | .error x => .error x
    | .ok s1 => s1.imageWrites c ctx base rest

/-! ## Reading an image back (R444, R445) -/

/-- Reads blocks of 64 bytes of an image; a failure carries its address. -/
def State.imageRead (s : State) (ctx : CtxId) : Nat → Nat → Except ImageStop (List Byte)
  | _, 0 => .ok []
  | va, n + 1 =>
    match s.devRead64 ctx va with
    | .data bs =>
      match s.imageRead ctx (va + 64) n with
      | .ok rest => .ok (bs ++ rest)
      | .error e => .error e
    | .noLeaf _ x => .error (.fail .pageDenied x)
    | .forbidden => .error (.fail .protection va)
    | .failed cause => .error (.fail cause va)
    | .fill f => .error (.wait (.fill f))
    | .draw => .error (.wait .host)

/-- The rows that bytes hold. -/
def rowsOfBytes : Nat → List Byte → List Row
  | 0, _ => []
  | n + 1, bs => rowOfBytes (bs.take 128) :: rowsOfBytes n (bs.drop 128)

/-- The parts of an image that memory holds: header, vector registers, streams, accumulators, scratchpad rows. -/
structure ImageData where
  header : List Byte
  v : List Row
  streams : List Row
  accs : List (Fin 8 × List Row)
  rows : List Row

/-- Reads the accumulators that were saved. -/
def State.imageAccs (s : State) (ctx : CtxId) (base : Nat) (j : Job) : List (Fin 8) →
    Except ImageStop (List (Fin 8 × List Row))
  | [] => .ok []
  | k :: ks =>
    if (j.m.accAt k).kind = .none then s.imageAccs ctx base j ks
    else
      match s.imageRead ctx (base + 0x9000 + 16384 * k.val) 256, s.imageAccs ctx base j ks with
      | .ok bs, .ok l => .ok ((k, rowsOfBytes 128 bs) :: l)
      | .error e, _ => .error e
      | _, .error e => .error e

/-- Reads every block of an image and checks its header (R445). -/
def State.imageData (s : State) (ctx : CtxId) (base : Nat) (j : Job) : Except ImageStop ImageData :=
  match s.imageRead ctx base 4 with
  | .error e => .error e
  | .ok h =>
    if !crcOk h || decide (natOfBytes (h.take 4) ≠ 1) then .error (.fail .checksum base)
    else
      let n := (profAddrs j.bankprof).length
      match s.imageRead ctx (base + 0x1000) 256, s.imageRead ctx (base + 0x5000) 256, s.imageAccs ctx base j (List.finRange 8),
        s.imageRead ctx (base + 0x29000) (2 * n) with
      | .ok v, .ok q, .ok accs, .ok rows =>
        .ok { header := h, v := rowsOfBytes 32 v, streams := rowsOfBytes 128 q, accs, rows := rowsOfBytes n rows }
      | .error e, _, _, _ => .error e
      | _, .error e, _, _ => .error e
      | _, _, .error e, _ => .error e
      | _, _, _, .error e => .error e

/-- An accumulator with the rows of its image. -/
def Acc.restore (a : Acc) (rows : List Row) : Acc :=
  { a with e := Vector.ofFn fun p : Fin 4096 => BitVec.ofNat 32 (lane 32 (rows.getD (p.val / 32) 0) (p.val % 32)) }

/-- An accumulator whose check state starts afresh (R278, R292). -/
def Acc.afresh (a : Acc) : Acc := { a with res := [], ck := [] }

/-- The job with its image in place: TAKE is S, pending results keep their due takes, copy commands resume at CUR (R444), M's
check state is fresh (R278), and NSEED is the header's (R124). -/
def Job.restore (j : Job) (d : ImageData) : Job :=
  let m := d.accs.foldl (fun (x : MEng) a => x.setAcc a.1 ((x.accAt a.1).restore a.2)) j.m
  { j with
    v := { j.v with v := Vector.ofFn fun i : Fin 32 => d.v.getD i.val 0 }
    c := j.c.synced
    m := { m with unchk := 0, rdepth := 0, acc := m.acc.map Acc.afresh }
    streams := Vector.ofFn fun i : Fin 16 =>
      let x := j.stream i
      { x with q := (d.streams.drop (8 * i.val)).take x.q.length }
    nseed := if (natOfBytes ((d.header.drop 60).take 1)) % 2 = 1 then
      some (BitVec.ofNat 32 (natOfBytes ((d.header.drop 56).take 4))) else none }

/-- A job as its stop leaves it for the image: no access, request or hold of the core is part of it. A command that had started
resumes at CUR. -/
def Job.detach (j : Job) : Job :=
  { j with
    claims := [], pages := [], raised := [], stopping := false, stopped := false, hold := false, twinWait := false
    c := { j.c with wait := if j.c.wait = .yielded then .run else j.c.wait }
    a := { j.a with probed := none }
    copies := j.copies.map fun l => l.map fun x => { x with started := false, xl := [], peer := none } }

/-- Writes the covered rows of an image to a core; every other row is undefined (R442). -/
def State.restoreRows (s : State) (c : CoreId) (prof : W32) (rows : List Row) : State :=
  let m := (List.range 32).foldl (fun x b => loseRows s.fresh x b (profNeed prof b) 512) (s.core c).scr
  let m1 := ((profAddrs prof).zip rows).foldl (fun x r => x.writeBytes r.1 (bytesOfRow r.2)) m
  { s.setCore c { s.core c with scr := m1 } with fresh := s.fresh + 1 }

end Sys2Proof.Machine
end

