-- ==== Sys2Proof/Machine/Start.lean ====
section
/-! DEFINITION. From a card to running jobs: the job descriptor (R35), variant tables (R359), the selector at launch (R359),
the cores that a card takes (R311, R315), JOBID (R36), launch (R32, R355, R357) and resume (R444, R445). -/

namespace Sys2Proof.Machine

/-! ## Job descriptors (R35) -/

/-- The engine that a 3-bit code of a stream binding names. -/
def engOfCode : Nat → Option Eng
  | 1 => some .c
  | 2 => some .a
  | 3 => some .v
  | 4 => some .m
  | _ => none

/-- The binding that 16 bits give: none where they are not valid; `some none` where the stream is unbound. -/
def bindingOf (present : Eng → Bool) (x : Nat) : Option (Option Binding) :=
  if x / 128 ≠ 0 then none
  else if x = 0 then some none
  else
    match engOfCode (bitsAt x 0 3), engOfCode (bitsAt x 3 3) with
    | some p, some k =>
      let row := decide (bitsAt x 6 1 = 1)
      if present p && present k && (decide (p ≠ k) || (decide (p = .a) && row)) then some (some { prod := p, cons := k, row })
      else none
    | _, _ => none

/-- The timed engine that two bits of WALKS name: none where it is reserved or absent. -/
def walkUserOf (hasV hasM : Bool) (x : Nat) : Option WalkUser :=
  match x with
  | 0 => some .unused
  | 1 => if hasV then some .v else none
  | 2 => if hasM then some .m else none
  | _ => none

/-- PRESENT of a descriptor names the engine. -/
def descHas (x : Nat) : Eng → Bool
  | .c => (recFld x 2 1).testBit 0
  | .a => (recFld x 2 1).testBit 1
  | .v => (recFld x 2 1).testBit 2
  | .m => (recFld x 2 1).testBit 3

/-- A start address of a descriptor is legal. -/
def pcOk (present : Bool) (pc : Nat) : Bool := if present then decide (pc % 4 = 0 ∧ pc < 2 ^ 48) else decide (pc = 0)

/-- A job descriptor is valid. -/
def descOk (bs : List Byte) : Bool :=
  let x := natOfBytes bs
  let f := recFld x
  crcOk bs && decide (f 0 2 = 1) && descHas x .c && decide (f 2 1 / 16 = 0) && decide (f 3 1 / 2 = 0)
    && pcOk true (f 8 8) && pcOk (descHas x .a) (f 16 8) && pcOk (descHas x .v) (f 24 8) && pcOk (descHas x .m) (f 32 8)
    && ((List.range 8).all fun w => (walkUserOf (descHas x .v) (descHas x .m) (bitsAt (f 40 2) (2 * w) 2)).isSome)
    && decide (f 42 6 = 0) && decide (f 288 28 = 0)
    && ((List.range 16).all fun q => (bindingOf (descHas x) (f (128 + 2 * q) 2)).isSome)
    && ((List.range 32).all fun b => fmtWrite b 0 (BitVec.ofNat 32 (f (160 + 4 * b) 4)) = BitVec.ofNat 32 (f (160 + 4 * b) 4))

/-- Argument word `n`, 1 to 8: the descriptor's, or the card's own (R32, R394, R428). -/
def argWord (card : Card) (x n : Nat) : W64 :=
  match card.args with
  | some a => a.toList.getD (n - 1) 0
  | none => BitVec.ofNat 64 (recFld x (56 + 8 * n) 8)

/-- The register file of a job at its start: registers 1 to 8 hold the argument words (R32). -/
def argRegs {w : Nat} (card : Card) (x : Nat) : Vector (BitVec w) 32 :=
  Vector.ofFn fun i => if 1 ≤ i.val ∧ i.val ≤ 8 then (argWord card x i.val).setWidth w else 0

/-- A program counter of a descriptor. -/
def descPc (x o : Nat) : VAddr := BitVec.ofNat 48 (recFld x o 8)

/-- The job that a descriptor describes, at its start, all copies of C alike (R32, R35, R41, R145, R285). A replay keeps the seed of the
first run (R425). -/
def descJob (card : Card) (part : PartId) (x : Nat) : Job :=
  let j := Job.blank card.ctx part (descPc x 8)
  let start : CArch := { CArch.init (descPc x 8) with s := argRegs card x }
  let fmt : Vector W32 32 := Vector.ofFn fun i => BitVec.ofNat 32 (recFld x (160 + 4 * i.val) 4)
  { j with
    nodeid := BitVec.ofNat 32 card.nodeid, steward := card.steward
    hasA := descHas x .a, hasV := descHas x .v, hasM := descHas x .m
    c := { CEng.init (descPc x 8) with arch := start, chk := start, ckpt := start }
    a := { AEng.init (descPc x 16) with x := argRegs card x }
    v := VEng.init (descPc x 24), m := MEng.init (descPc x 32)
    rseed := card.seed.getD (BitVec.ofNat 32 (recFld x 4 4)), rowMode := decide (recFld x 3 1 % 2 = 1)
    fmt, tfmt := fmt
    streams := Vector.ofFn fun q => { Stream.init with
      bind := (bindingOf (descHas x) (recFld x (128 + 2 * q.val) 2)).getD none }
    walks := Vector.ofFn fun w => { Walk.init with
      user := (walkUserOf (descHas x .v) (descHas x .m) (bitsAt (recFld x 40 2) (2 * w.val) 2)).getD .unused }
    save := BitVec.ofNat 64 (recFld x 48 8), comp := BitVec.ofNat 64 (recFld x 56 8)
    dims := card.dims, capwait := card.capWait }

/-! ## Reads that a card needs (R35, R359) -/

/-- What a read for a card gives: bytes, a page request posted, or a fault with STATUS 0xFF05. -/
inductive CardRead
  | data (bs : List Byte)
  | wait (s : State)
  | fault

/-- Reads `n` blocks of 64 bytes through the card's context; the fifth failure of its walk in a row acts as a deny (R35, R378). -/
def State.cardRead (s : State) (k : CluId) (slot : SlotId) (x : Card) (va n : Nat) : CardRead :=
  match s.devRead x.ctx va n with
  | .data bs => .data bs
  | .noLeaf w a =>
    match s.cluPart k with
    | none => .fault
    | some p =>
      if 5 ≤ SMap.get 0 x.pageFails (a / 4096) + 1 then .fault
      else
        .wait ((s.setCard k slot { x with page := some (s.pageTag p x.ctx), pageFails := failAgain x.pageFails a }).askPage p x.ctx 0
          w.reason w.level 6 a noCore (.card k slot))
  | .forbidden | .failed _ => .fault
  | .fill f => .wait (s.ownFill x.ctx f)
  | .draw => .wait s

/-- What the first consideration of a card gives: its variants, with the state after the read; a wait; or a fault. -/
inductive Considered
  | ok (s : State) (x : Card)
  | wait (s : State)
  | fault

/-- The variant records of a card are read and checked once (R359). -/
def State.consider (s : State) (k : CluId) (slot : SlotId) (x : Card) : Considered :=
  if x.vars.isSome ∨ x.phase = .stopped then .ok s x
  else if x.varn = 0 then .ok s { x with vars := some (Vector.replicate 8 none) }
  else if 8 < x.varn ∨ x.varTab % 32 ≠ 0 ∨ 2 ^ 48 ≤ x.varTab then .fault
  else
    let o := x.varTab % 64
    let n := (o + 32 * x.varn + 63) / 64
    match s.cardRead k slot x (x.varTab - o) n with
    | .wait s1 => .wait s1
    | .fault => .fault
    | .data bs =>
      let r := fun (i : Nat) => variantOf (natOfBytes ((bs.drop (o + 32 * i)).take 32))
      if (List.range x.varn).all fun i => (r i).isSome then
        .ok (s.devDrawn x.ctx (x.varTab - o) n)
          { x with vars := some (Vector.ofFn fun i : Fin 8 => if i.val < x.varn then r i.val else none), pageFails := [] }
      else .fault

/-! ## Cores and levels -/

/-- A core may take a job: it is free, not mapped out, not below floor at its level, and runs no self-test (R140, R290,
R455). -/
def State.coreFree (s : State) (c : CoreId) : Bool :=
  let x := s.core c
  x.job.isNone && !x.mappedOut && !x.selfTest && !x.belowFloor (s.level c)

/-- Every matrix engine of the island permits a twin level, and no TCFG0 write that would end this waits (R262, R344). -/
def State.twinOk (s : State) (i : IslId) : Bool :=
  (s.island i).twinen && (islCores i).all fun c => match s.job c with
    | some j => !j.hasM || (decide (bitsAt j.m.tcfg[0].toNat 0 2 ≠ 0) && !j.twinWait)
    | none => true

/-- The level one step up or down the chain; a twin level that is not permitted is skipped (R346). -/
def State.nextLevel (s : State) (i : IslId) (up : Bool) : Nat :=
  let l := (s.island i).level
  let m := if up then l + 1 else l - 1
  if isTwin m && !s.twinOk i then (if up then l + 2 else l - 2) else m

/-- The levels at which a launch's capacity is tested: the present one, that of a transition in progress, and that of a
pending step down (R347, R353). -/
def State.fitLevels (s : State) (i : IslId) : List Nat :=
  let x := s.island i
  [x.level] ++ (match x.step with
    | some t => [t.target]
    | none => []) ++ (if x.pendingDown then [s.nextLevel i false] else [])

/-- A bank profile fits a core at each of those levels. -/
def State.profFitsAll (s : State) (c : CoreId) (p : W32) : Bool :=
  (s.fitLevels (coreIsl c)).all fun l => profFits (s.core c) p l

/-- A twin level is left at once (R344, R353): the step to the point of the same clock starts. -/
def State.leaveTwin (s : State) (i : IslId) : State :=
  let x := s.island i
  if isTwin x.level && x.step.isNone then s.setIsland i { x with step := some { target := x.level + 1, since := s.time } }
  else s

/-! ## The selector at launch (R359) -/

/-- The variant that stands for a card without records. -/
def Card.ownVariant (x : Card) : Variant :=
  { dmin := Vector.replicate 4 0, dmax := Vector.replicate 4 0xFFFF, ecl := x.cls, tier := 0, approx := 0, qual := 0,
    prof := x.bankProf }

/-- C: the variants that cover the card's shape; of a stopped card, the one in use (R444). -/
def Card.candidates (x : Card) : List (Fin 8 × Variant) :=
  match x.phase, x.images with
  | .stopped, j :: _ => [(j.var.slot, { x.ownVariant with ecl := j.var.ecl, prof := j.bankprof })]
  | _, _ =>
    if x.varn = 0 then [(0, x.ownVariant)]
    else
      match x.vars with
      | some l => (slotList l).filter fun v => v.2.covers x.dims
      | none => []

/-- How a card fits a cluster (R315, R359). -/
inductive Fit
  | go (cores : List CoreId) (v : Fin 8 × Variant) (charge : Nat)
  | budget
  | capacity
  | cores
  deriving DecidableEq, Repr

/-- F on a set of cores; each member of a stopped gang resumes under its own profile. -/
def State.fitSet (s : State) (x : Card) (cores : List CoreId) : List (Fin 8 × Variant) :=
  match x.phase with
  | .stopped =>
    if (cores.zip x.images).all fun y => s.profFitsAll y.1 y.2.bankprof then x.candidates else []
  | _ => x.candidates.filter fun v => cores.all fun c => s.profFitsAll c v.2.prof

/-- The pick among F on budget: the highest QUAL, then the lower slot. -/
def State.fitPick (s : State) (i : IslId) (f : List (Fin 8 × Variant)) : Option (Fin 8 × Variant) :=
  let isl := s.island i
  bestBy (fun x y => decide (y.2.qual < x.2.qual))
    (f.filter fun v => decide ((chargeOf isl v.2.ecl : Int) ≤ isl.bal))

/-- The fit of one set of cores. -/
def State.fitCores (s : State) (i : IslId) (x : Card) (cores : List CoreId) : Fit :=
  let f := s.fitSet x cores
  match s.fitPick i f with
  | some v => .go cores v (chargeOf (s.island i) v.2.ecl)
  | none => if f.isEmpty then .capacity else .budget

/-- The first fit of several sets; else a want of budget before a want of capacity. -/
def bestFit : List Fit → Fit
  | [] => .cores
  | f :: fs =>
    match f, bestFit fs with
    | .go c v n, _ => .go c v n
    | _, .go c v n => .go c v n
    | .budget, _ => .budget
    | f, .cores => f
    | _, r => r

/-- How a card fits cluster `k`: a single card on each free core in ascending order, a gang on the first free cores of the
cluster or island, a stopped gang on the cores it held (R311, R359, R444). -/
def State.fit (s : State) (k : CluId) (x : Card) : Fit :=
  let i := cluIsl k
  if x.phase = .stopped ∧ x.gang then
    if x.cores.all s.coreFree then s.fitCores (coreIsl (x.cores.headD 0)) x x.cores else .cores
  else
    let pool := if x.islandGang then (islCores i).filter fun c => s.cluPart (coreClu c) = s.cluPart k else cluCores k
    let free := pool.filter s.coreFree
    if x.gang then
      if free.length < x.members then .cores else s.fitCores i x (free.take x.members)
    else bestFit (free.map fun c => s.fitCores i x [c])

/-! ## JOBID (R36) -/

/-- The launch counts that jobs of a partition hold. -/
def State.jobSeqs (s : State) (p : PartId) : List Nat :=
  (s.allCards.filter fun e => decide (s.ctxPart e.2.2.ctx = some p)
    && decide (e.2.2.phase ≠ .queued)).map fun e => e.2.2.jobid

/-- The next launch count that no job holds, and how many counts it takes. -/
def State.nextSeq (s : State) (p : PartId) : Nat × Nat :=
  let held := s.jobSeqs p
  let n := (s.part p).launches
  let k := ((List.range (held.length + 1)).find? fun i => !held.contains ((n + i) % 2 ^ 28)).getD 0
  ((n + k) % 2 ^ 28, k + 1)

/-- DOMAIN of a member (R312). -/
def domainOf (x : Card) (cores : List CoreId) (member : Nat) : W32 :=
  if !x.gang then 0
  else
    let bits := cores.foldl (fun n c => n + 2 ^ (if x.islandGang then c.val % 16 else c.val % 4)) 0
    BitVec.ofNat 32 (2 ^ 31 + x.islandGang.toNat * 2 ^ 30 + member * 2 ^ 16 + bits)

/-! ## Launch -/

/-- A flag reaches a job (R357, R358). -/
def Job.flagged (j : Job) (cause : BitVec 2) (leadNs : Nat) : Job :=
  { j with
    c := { j.c with pflag := true }
    flag := { j.flag with
      pend := true, cause, count := satTo 255 (j.flag.count + 1), leadus := satTo 0xFFFF (leadNs / 1000) } }

/-- A job that starts on a flagged island has the flag pending (R357). -/
def State.flagNew (s : State) (c : CoreId) (j : Job) : Job :=
  let i := s.island (coreIsl c)
  if i.flagged then j.flagged i.flagCause (toBoundary s.time) else j

/-- No card launches on a flagged island in the last 10 us before the boundary (R357). -/
def State.flagBar (s : State) (i : IslId) : Bool := (s.island i).flagged && decide (toBoundary s.time ≤ 10000)

/-- The charge of a launch, with the blocks that its launch record moved (R354, R355, R380, R397). -/
def State.chargeLaunch (s : State) (i : IslId) (x : Card) (charge : Nat) : State :=
  (s.addBal i (-((charge + x.metered : Nat) : Int))).addRem x.ctx (-(charge : Int))

/-- The first launch of a card with CLRW clears its event bits (R309). -/
def State.clearWait (s : State) (x : Card) : State :=
  match x.wsem with
  | some n => if x.clrw && !x.launched then s.semClear n x.waitMask else s
  | none => s

/-- The card as its launch leaves it. -/
def Card.started (x : Card) (cores : List CoreId) (charge jobid now lvl : Nat) (sel : VarSel) : Card :=
  { (x.note lvl) with
    phase := .running, cores, charge, jobid, sel, launched := true, start := if x.launched then x.start else now
    capSince := none, rounds := 0, promoted := false, images := [], stopCause := 0, pageFails := [], ended := none,
    recorded := false, readySince := none }

/-- The dispatch latency of a card that launches on an island (R461). -/
def State.sampleReady (s : State) (i : IslId) (x : Card) : State :=
  match x.readySince with
  | some t => s.sample 0 (some i) ((s.time - t : Nat) : Int)
  | none => s

/-- The argument words and the seed of a card's first run, which its replays keep (R394, R425). -/
def Card.keepArgs (x : Card) (desc : Nat) : Card :=
  { x with
    args := some (Vector.ofFn fun n : Fin 8 => argWord x desc (n.val + 1))
    seed := some (x.seed.getD (BitVec.ofNat 32 (recFld desc 4 4))) }

/-- Starts a card's jobs from its descriptor. -/
def State.startCard (s : State) (k : CluId) (slot : SlotId) (x : Card) (p : PartId) (desc : Nat) (cores : List CoreId)
    (v : Fin 8 × Variant) (charge : Nat) : State :=
  let i := cluIsl k
  let (seq, used) := s.nextSeq p
  let sel : VarSel :=
    { phase := 0, tier := BitVec.ofNat 4 v.2.tier.val, ecl := v.2.ecl, approx := v.2.approx, dg := false,
      valid := decide (x.varn ≠ 0), slot := v.1 }
  let s1 := s.setPart p { s.part p with launches := (s.part p).launches + used }
  let s2 := ((s1.chargeLaunch i x charge).clearWait x).setCard k slot
    { (x.keepArgs desc).started cores charge seq s.time (s.island i).level sel with save := recFld desc 48 8 }
  let q := s.part p
  let s3 := cores.zipIdx.foldl (fun st e =>
    let (c, n) := e
    let j := { descJob x p desc with
      jobid := BitVec.ofNat 32 (n * 2 ^ 28 + seq), domain := domainOf x cores n, cluster := k, slot
      member := ⟨n % 16, Nat.mod_lt _ (by decide)⟩, var := sel, slots := x.vars.getD (Vector.replicate 8 none)
      bankprof := v.2.prof, prof := q.prof, stageMax := q.stageMax, resLim := q.resLim }
    let st1 := if x.fuse then st.sideFlush c else st
    st1.setJob c (st1.flagNew c j)) s2
  s3.sampleReady i x

/-- What the image of a member gives: its data, or the failure that its restore meets; or what has first to be done. -/
def State.readImage (s : State) (x : Card) (j : Job) : Except WGate (Job × Except (Cause × Nat) ImageData) :=
  match s.imageData x.ctx (x.save + 0x400000 * j.member.val) j with
  | .ok d => .ok (j, .ok d)
  | .error (.fail cause va) => .ok (j, .error (cause, va))
  | .error (.wait g) => .error g

/-- The images of all members. -/
def State.readImages (s : State) (x : Card) : List Job → Except WGate (List (Job × Except (Cause × Nat) ImageData))
  | [] => .ok []
  | j :: js =>
    match s.readImage x j, s.readImages x js with
    | .ok a, .ok l => .ok (a :: l)
    | .error g, _ => .error g
    | _, .error g => .error g

/-- A restored job is put in place, or its restore fails: a node-fatal trap of the node (R444, R445). -/
def State.placeImage (s : State) (c : CoreId) (r : Except (Cause × Nat) ImageData) : State :=
  match s.job c with
  | none => s
  | some j =>
    match r with
    | .error (cause, va) => s.nodeFails c cause va
    | .ok d => (s.setJob c (j.restore d)).restoreRows c j.bankprof d.rows

/-- Puts a stopped card's jobs back on cores, once their images can be read; the blocks that this brings are metered to the card
(R354, R444, R445). It is charged on the island of its cores. The side caches are empty at its start, so that it reads no line that is
older than its own accesses before the stop (R155, R338). A meeting that its stop left complete completes (R438). -/
def State.resumeCard (s : State) (k : CluId) (slot : SlotId) (x : Card) (cores : List CoreId) (charge : Nat) : State :=
  if !s.recs.isEmpty then s else
  match s.readImages x x.images with
  | .error (.fill f) => s.cardFill k slot x.ctx f false
  | .error _ => s
  | .ok l =>
    let i := coreIsl (cores.headD 0)
    let imgs := cores.zip l
    let s1 := (s.chargeLaunch i x charge).setCard k slot (x.started cores charge x.jobid s.time (s.island i).level x.sel)
    let s2 := imgs.foldl (fun st e =>
      (st.sideFlush e.1).setJob e.1 (st.flagNew e.1 { e.2.1.detach with cluster := k, slot })) s1
    ((imgs.foldl (fun st e => st.placeImage e.1 e.2.2) s2).meetAgain cores).sampleReady i x

end Sys2Proof.Machine
end

