-- ==== Sys2Proof/Machine/Cards.lean ====
section
/-! DEFINITION. Dispatchers (R309, R315-R318, R359) and the retirement of cards (R310, R427, R428, R474). -/

namespace Sys2Proof.Machine

/-! ## Readiness and order (R309, R315) -/

/-- The test of R309 for a counter, a semaphore and event bits. -/
def State.waitPasses (s : State) (ctr sem : Option Nat) (mask : W64) : Bool :=
  (match ctr with
    | some n => decide (s.ctrGet n = 0)
    | none => true)
  && match sem with
    | some n => s.semGet n &&& mask == mask
    | none => true

/-- A card is ready (R309): it has passed the test, or needs it no more. -/
def State.waitsNoMore (s : State) (x : Card) : Bool :=
  (decide (x.phase = .queued) || decide (x.phase = .stopped)) && (x.launched || s.waitPasses x.waitCtr x.wsem x.waitMask)

/-- A card may be taken by a dispatch round: it is ready, its context lives and is not vacating, and its queue is neither suspended
nor, under a PREEMPT, about to be (R120, R121, R133, R309, R444, R449). -/
def State.cardReady (s : State) (x : Card) : Bool :=
  s.waitsNoMore x && !x.away && s.live x.ctx && !s.vacating x.ctx && !(s.queue x.ctx x.queue).barred
    && !((s.queue x.ctx x.queue).stopping && (s.ctx x.ctx).preempting.isSome)

/-- A card with a launch record is eligible once its entries are complete and its migrations answered or late (R381). -/
def State.recordOver (s : State) (x : Card) : Bool :=
  decide (x.launchRec = 0) || x.launched ||
    (x.recordDone && (x.migrations.isEmpty || match x.readySince with
      | some t => decide (t + 100000 ≤ s.time)
      | none => false))

/-- Age, then queue, then node (R315). -/
def Card.elder (a b : Card) : Bool :=
  decide (a.age < b.age) || (decide (a.age = b.age) && (decide (a.queue < b.queue)
    || (decide (a.queue = b.queue) && decide (a.nodeid < b.nodeid))))

/-- The order of a dispatch round (R315). -/
def State.cardBefore (s : State) (a b : Card) : Bool :=
  let ra := (s.ctx a.ctx).rem
  let rb := (s.ctx b.ctx).rem
  decide (rb < ra) || (decide (ra = rb) && (decide (b.prio < a.prio)
    || (decide (a.prio = b.prio) && a.elder b)))

/-- Inserts into an ordered list. -/
def insertBy {α : Type} (before : α → α → Bool) (x : α) : List α → List α
  | [] => [x]
  | y :: ys => if before x y then x :: y :: ys else y :: insertBy before x ys

/-- Sorts a list. -/
def sortBy {α : Type} (before : α → α → Bool) : List α → List α
  | [] => []
  | x :: xs => insertBy before x (sortBy before xs)

/-- The ready cards of a dispatcher with their slots. -/
def State.readyCards (s : State) (k : CluId) : List (SlotId × Card) :=
  ((s.cluster k).cards.filter fun e => s.cardReady e.2).map fun e => (slotOf e.1, e.2)

/-- The slots of the ready cards in a round's order. -/
def State.roundOrder (s : State) (k : CluId) : List SlotId :=
  (sortBy (fun a b => s.cardBefore a.2 b.2) (s.readyCards k)).map Prod.fst

/-- The slots of the promoted cards that the dispatcher holds, ready or not, oldest first (R316). -/
def State.promotedOrder (s : State) (k : CluId) : List SlotId :=
  (sortBy (fun a b => a.2.elder b.2) (((s.cluster k).cards.filter fun e =>
    e.2.promoted && !e.2.away && (decide (e.2.phase = .queued) || decide (e.2.phase = .stopped))).map fun e => (slotOf e.1, e.2))).map Prod.fst

/-! ## One card in a round -/

/-- A card ends without a job (R35, R359). A compensator that cannot launch leaves its node without a rescue: its context is
killed (R428). -/
def State.dropCard (s : State) (k : CluId) (slot : SlotId) (status cause : Nat) : State :=
  match s.card k slot with
  | none => s
  | some x =>
    if x.comp.isSome then s.kill x.ctx
    else (s.setCard k slot { x with lastCause := cause }).faultCard k slot status

/-- Launches a card on cores: the descriptor is read and checked first; an M stream waits for its island to leave a twin level
(R35, R344, R359). -/
def State.launch (s : State) (k : CluId) (slot : SlotId) (x : Card) (cores : List CoreId) (v : Fin 8 × Variant)
    (charge : Nat) : State :=
  let i := coreIsl (cores.headD 0)
  let twin := fun (m : Bool) => m && isTwin (s.island i).level
  match x.phase, s.cluPart k with
  | .stopped, _ =>
    if twin (x.images.any fun j => j.hasM) then s.leaveTwin i
    else s.resumeCard k slot x cores charge
  | _, none => s
  | _, some p =>
    if x.jobDesc % 64 ≠ 0 ∨ 2 ^ 48 ≤ x.jobDesc then s.dropCard k slot 0xFF05 0
    else
      match s.cardRead k slot x x.jobDesc 5 with
      | .wait s1 => s1
      | .fault => s.dropCard k slot 0xFF05 0
      | .data bs =>
        if !descOk bs then s.dropCard k slot 0xFF05 0
        else if twin (descHas (natOfBytes bs) .m) then s.leaveTwin i
        else (s.devDrawn x.ctx x.jobDesc 5).startCard k slot x p (natOfBytes bs) cores v charge

/-- Tries one card: its records are read, and it launches where it fits. A card that finds no capacity starts its capacity
wait, or faults at once where it allows none (R359). -/
def State.tryCard (s : State) (k : CluId) (slot : SlotId) : State :=
  match s.card k slot with
  | none => s
  | some x0 =>
    if !s.cardReady x0 || !s.recordOver x0 || x0.page.isSome then s
    else
      match s.consider k slot x0 with
      | .wait s1 => s1
      | .fault => s.dropCard k slot 0xFF05 0
      | .ok s0 x =>
        let s1 := s0.setCard k slot x
        match s1.fit k x with
        | .go cores v charge => s1.launch k slot x cores v charge
        | .budget | .cores => s1
        | .capacity =>
          if x.phase = .stopped then s1
          else if x.capWait = 0 then s1.dropCard k slot 0xFF01 0x1A
          else s1.setCard k slot { x with capSince := some (x.capSince.getD s.time) }

/-- The card still stands unlaunched in its slot. -/
def State.unlaunched (s : State) (k : CluId) (slot : SlotId) : Bool :=
  match s.card k slot with
  | some x => decide (x.phase = .queued) || decide (x.phase = .stopped)
  | none => false

/-- A launch of a card by its own dispatcher is noted (R318). -/
def State.noteLaunch (s1 s : State) (k : CluId) (slot : SlotId) : State :=
  match s.card k slot with
  | none => s1
  | some x =>
    if s.unlaunched k slot && (s1.card k slot).any fun y => decide (y.phase = .running) then s1.note (.launch k slot x) else s1

/-- One card of the walk, which ends when no core of the cluster is free (R315; log 84). -/
def State.walkCard (s : State) (k : CluId) (slot : SlotId) : State :=
  if (cluCores k).any s.coreFree then (s.tryCard k slot).noteLaunch s k slot else s

/-- Promoted cards are tried in age order; the first that stays keeps every other card back (R316). -/
def State.tryPromoted (s : State) (k : CluId) : List SlotId → State × Bool
  | [] => (s, true)
  | n :: ns =>
    let s1 := s.walkCard k n
    if s1.unlaunched k n then (s1, false) else s1.tryPromoted k ns

/-- A round's launches of the dispatcher's own cards. -/
def State.ownRound (s : State) (k : CluId) : State :=
  let r := s.tryPromoted k (s.promotedOrder k)
  if r.2 then (r.1.roundOrder k).foldl (fun st n => st.walkCard k n) r.1 else r.1

/-! ## Stealing (R317, R318) -/

/-- A card of another dispatcher that cluster `k` may steal. -/
def State.stealable (s : State) (k : CluId) (x : Card) : Bool :=
  s.cardReady x && x.steal && !x.stolen && !x.islandGang && decide (x.phase = .queued) && x.page.isNone && s.recordOver x
    && match s.fit k x with
      | .go _ _ _ => true
      | _ => false

/-- A ready card is considered: at the first time its records are read, which draws on the host allowance (R354, R359). A fault that
this meets is left to its launch. -/
def State.considered (s : State) (k : CluId) (slot : SlotId) : State :=
  match s.card k slot with
  | none => s
  | some x =>
    if !s.cardReady x || x.page.isSome then s
    else
      match s.consider k slot x with
      | .ok s1 y => s1.setCard k slot y
      | .wait s1 => s1
      | .fault => s

/-- A thief considers the cards of the other dispatchers of its partition that may be stolen (R317). -/
def State.considerSpoils (s : State) (k : CluId) : State :=
  ((List.finRange 32).filter fun v => decide (v ≠ k) && decide (s.cluPart v = s.cluPart k)).foldl (fun st v =>
    (st.cluster v).cards.foldl (fun t e =>
      if e.2.steal && !e.2.stolen && !e.2.islandGang && decide (e.2.phase = .queued) then t.considered v (slotOf e.1) else t) st) s

/-- The cards of dispatcher `v` that cluster `k` may steal, oldest first. -/
def State.spoils (s : State) (k v : CluId) : List (SlotId × Card) :=
  sortBy (fun a b => a.2.elder b.2)
    (((s.cluster v).cards.map fun e => (slotOf e.1, e.2)).filter fun e => s.stealable k e.2)

/-- The balance of the card's own island covers none of its variants. -/
def State.poor (s : State) (v : CluId) (x : Card) : Bool :=
  let i := s.island (cluIsl v)
  x.candidates.all fun c => decide (i.bal < (chargeOf i c.2.ecl : Int))

/-- The victim and the card of a steal: the peer of the island with the most ready cards among those with an eligible one; else
the oldest eligible card of any island that its own island cannot pay for. -/
def State.loot (s : State) (k : CluId) : Option (CluId × SlotId × Card) :=
  let same := fun (v : CluId) => decide (v ≠ k) && decide (s.cluPart v = s.cluPart k)
  let peers := (List.finRange 32).filter fun v => same v && decide (cluIsl v = cluIsl k) && !(s.spoils k v).isEmpty
  let most := bestBy (fun a b => decide ((s.readyCards b).length < (s.readyCards a).length)) peers
  match most with
  | some v => ((s.spoils k v).head?).map fun e => (v, e.1, e.2)
  | none =>
    let far := (List.finRange 32).filter fun v => same v && decide (cluIsl v ≠ cluIsl k)
    bestBy (fun a b => a.2.2.elder b.2.2)
      (far.filterMap fun v => ((s.spoils k v).find? fun e => s.poor v e.2).map fun e => (v, e.1, e.2))

/-- The dispatchers as a thief of this cycle sees them: cards that their own dispatchers launch in it stand there still (R318). -/
def State.thiefView (s : State) : State :=
  s.now.foldl (fun st m => match m with
    | .launch k n x => st.setCard k n x
    | _ => st) s

/-- The card goes to its own dispatcher's launch in this cycle, whose round has been or, in the thief's island, is still to come
(R315, R318). -/
def State.homeTakes (s : State) (k v : CluId) (slot : SlotId) : Bool :=
  !s.unlaunched v slot || (decide (cluIsl v = cluIsl k) && !(s.ownRound v).unlaunched v slot)

/-- Cluster `k`, having considered what others hold, steals a card and launches it; one that its home launches in the same cycle is gone, and the thief takes no other
(R317, R318). -/
def State.stealOne (s0 : State) (k : CluId) : State :=
  let s := s0.considerSpoils k
  match s.thiefView.loot k, (s.cluster k).freeSlot with
  | some (v, slot, x), some n =>
    if s.homeTakes k v slot then s
    else
      let cl := s.cluster v
      let s1 := s.setCluster v { cl with cards := cl.cards.erase slot.val }
      State.tryCard (s1.setCard k (slotOf n) { x with stolen := true, migrations := [] }) k (slotOf n)
  | _, _ => s

/-- The cluster is idle: a core is free, none of its ready cards fits, and it holds no promoted card. -/
def State.idleCluster (s : State) (k : CluId) : Bool :=
  (cluCores k).any s.coreFree && (s.promotedOrder k).isEmpty
    && (s.readyCards k).all fun e => match s.fit k e.2 with
      | .go _ _ _ => false
      | _ => true

/-! ## The round -/

/-- A card with the time since which it is ready (R309), for its launch record and the latency monitor (R381, R461). -/
def State.readied (s : State) (x : Card) : Card :=
  if s.waitsNoMore x then { x with readySince := some (x.readySince.getD s.time) }
  else if x.phase = .queued then { x with readySince := none } else x

/-- Every card of a dispatcher takes its time of readiness. -/
def State.markReady (s : State) (k : CluId) : State :=
  let cl := s.cluster k
  s.setCluster k { cl with cards := cl.cards.map fun e => (e.1, s.readied e.2) }

/-- Cards that have become ready by the end of an instant are marked before time goes on (R309). -/
def State.markAll (s : State) : State := (List.finRange 32).foldl State.markReady s

/-- A ready card that the round leaves gains a waiting round; the eighth promotes it (R316). -/
def State.gainRound (s : State) (k : CluId) (slot : SlotId) : State :=
  match s.card k slot with
  | some x =>
    if s.unlaunched k slot then
      s.setCard k slot { x with rounds := x.rounds + 1, promoted := x.promoted || decide (8 ≤ x.rounds + 1) }
    else s
  | none => s

/-- DISPATCH_ROUND of a cluster (R315-R318). -/
def execDispatchRound (cluster : CluId) (s : State) : Res :=
  if (s.cluPart cluster).isNone then .next s
  else
    let s00 := (s.comeHome cluster).markReady cluster
    let s0 := (s00.roundOrder cluster).foldl (fun st n => st.considered cluster n) s00
    let before := s0.roundOrder cluster
    let bar := s0.flagBar (cluIsl cluster)
    -- a card that fits in this round ends the idle time (R317)
    let was := if s0.idleCluster cluster then (s0.cluster cluster).idleSince else none
    let s1 := if bar then s0 else s0.ownRound cluster
    let idle := s1.idleCluster cluster
    let since := was.getD s1.time
    let s2 := if idle && !bar && decide (since + 2000 ≤ s1.time) then s1.stealOne cluster else s1
    let s3 := before.foldl (fun st n => st.gainRound cluster n) s2
    let cl := s3.cluster cluster
    .next (s3.setCluster cluster { cl with idleSince := if idle then some since else none })

/-- CAPACITY_WAIT_TIMEOUT: a card in capacity wait for CAPWAIT us launches now or faults with CAP_SHORT (R359). -/
def execCapacityWaitTimeout (cluster : CluId) (slot : SlotId) (s : State) : Res :=
  match s.card cluster slot with
  | none => .next s
  | some x =>
    match x.capSince with
    | none => .next s
    | some t =>
      if s.time < t + 1000 * x.capWait ∨ !s.unlaunched cluster slot then .next s
      else
        let held := s.flagBar (cluIsl cluster) || !s.cardReady x
          || (s.promotedOrder cluster).head?.any fun n => decide (n ≠ slot)
        let s1 := if held then s else (s.tryCard cluster slot).noteLaunch s cluster slot
        .next (if s1.unlaunched cluster slot then s1.dropCard cluster slot 0xFF01 0x1A else s1)

/-! ## Retirement (R310) -/

/-- Every stream of the job has ended, and nothing of it is still under way (R34, R305). -/
def Job.ended (j : Job) : Bool :=
  ([Eng.c, .a, .v, .m].all fun e => !j.has e || decide (j.wait e = .final)) && j.raised.isEmpty && j.a.posted.isEmpty
    && j.a.copyFault.isNone && (j.copies.toList.all fun l => match l with
      | x :: _ => !x.begun
      | [] => true)
    && j.v.stores.isEmpty && j.v.flights.isEmpty && j.m.flights.isEmpty && j.m.flagFlights.isEmpty

/-- The staged SIGs of a node perform through its context's map; one that finds no entry is noted (R105, R446). -/
def State.performSigs (s : State) (ctx : CtxId) : List (Nat × Fin 64) → State × Bool
  | [] => (s, false)
  | (v, b) :: rest =>
    match s.semMapped ctx v with
    | some n => (s.semOr n ((1 : W64) <<< b.val)).performSigs ctx rest
    | none => ((s.performSigs ctx rest).1, true)

/-- DECCTR is decremented and SIGMASK is ORed into SSEM (R310). -/
def State.signalCard (s : State) (x : Card) : State :=
  let s1 := match x.decCtr with
    | some n => s.ctrDec n
    | none => s
  match x.ssem with
  | some n => s1.semOr n x.sigMask
  | none => s1

/-- The card whose record and signals a retiring card gives: a compensator's are its original's (R428). -/
def State.reported (s : State) (x : Card) : Card :=
  match s.original x with
  | none => x
  | some (_, o) => { o with escaped := true }

/-- The signals of a retiring card; it leaves its dispatcher, a compensator with its original (R310, R428). -/
def State.finishCard (s : State) (k : CluId) (slot : SlotId) (x : Card) : State :=
  let s1 := (s.signalCard (s.reported x)).removeCard k slot
  match s.original x with
  | none => s1
  | some (n, _) => s1.removeCard x.home n

/-- The card's completion record waits among the device's own writes. -/
def State.recordWaits (s : State) (x : Card) : Bool :=
  s.recs.any fun r => decide (r.dst = .virt (s.reported x).ctx (s.reported x).compRec)

/-- The jobs of a retiring card leave their cores; their side caches stay, but for a fused gang's (R154, R155). -/
def State.leaveCores (s : State) (x : Card) : State :=
  x.cores.foldl (fun st c =>
    match st.job c with
    | none => st
    | some j =>
      let side := (st.core c).side
      let st1 := (st.sample 3 (some (coreIsl c)) (j.holdcyc.toNat : Int)).dropJob c
      if x.fuse then st1 else st1.setCore c { st1.core c with side }) s

/-- The last step of a retirement, once the record has been written or dropped (R310). -/
def State.retireEnd (s : State) (k : CluId) (slot : SlotId) (x : Card) : State :=
  if s.recordWaits x then s else (s.finishCard k slot x).leaveCores x

/-- A card retires: its staged writes perform in two passes, then its SIGs, its record, its counter and its semaphore (R310,
R423, R474). A record whose block is still to be filled keeps the rest back. -/
def State.retire (s : State) (k : CluId) (slot : SlotId) (x : Card) (c0 : CoreId) (j0 : Job) : State :=
  if x.recorded then s.drainRecs.retireEnd k slot x else
  match s.firstUnready x.ctx x.staged with
  | some (w, .fail cause) =>
    s.nodeFails c0 cause w.va
  | some (_, g) => s.forGate x.ctx c0 g
  | none =>
    let s1 := s.commitAll x.ctx (some c0) x.staged
    let r := s1.performSigs x.ctx x.sigs
    let y := { x.note (s.island x.isl).level with staged := [], sigs := [], sigdrop := x.sigdrop || r.2, sel := j0.var }
    let s2 := (r.1.setCard k slot y).settle k slot x.isl
    let y2 := { (s2.card k slot).getD y with recorded := true }
    ((s2.setCard k slot y2).writeRecord (s2.reported y2) j0.endStatus.toNat).retireEnd k slot y2

/-- The card has finished, and no card that still runs finished before it (R310). -/
def State.retiresNext (s : State) (x : Card) : Bool :=
  match x.ended with
  | none => false
  | some n => s.allCards.all fun e => match e.2.2.ended with
    | some m => decide (n ≤ m) || decide (e.2.2.phase ≠ .running) || !s.live e.2.2.ctx
    | none => true

/-- CARD_RETIRE: every job of the card has ended (R310, R311). -/
def execCardRetire (cluster : CluId) (slot : SlotId) (s : State) : Res :=
  match s.card cluster slot with
  | none => .next s
  | some x =>
    let all := x.cores.all fun c => match s.job c with
      | some j => j.ended
      | none => false
    if x.phase ≠ .running ∨ !all ∨ !s.live x.ctx ∨ !s.retiresNext x then .next s
    else
      match x.cores with
      | [] => .next s
      | c0 :: _ =>
        match s.job c0 with
        | none => .next s
        | some j0 => .next (s.retire cluster slot x c0 j0)

end Sys2Proof.Machine
end

