-- ==== Sys2Proof/Machine/Save.lean ====
section
/-! DEFINITION. Stopping and saving jobs (R438-R443), and wrap deadlines (R447-R451). -/

namespace Sys2Proof.Machine

/-! ## The stop (R199, R278, R438) -/

/-- Everything that the job has issued, but for register results, has come to its end, and every engine stands at a boundary. -/
def Job.still (j : Job) : Bool :=
  j.atStop && !j.stopped && j.raised.isEmpty && !j.c.committed && j.c.third.isNone
    && (match j.c.wait with
      | .op _ => false
      | _ => true)
    && (match j.a.wait with
      | .op _ => false
      | _ => true)
    && j.a.posted.isEmpty && j.a.peer.isNone && j.a.copyFault.isNone
    && (j.copies.toList.all fun l => match l with
      | x :: _ => x.peer.isNone
      | [] => true)
    && j.v.flights.isEmpty && j.v.stores.isEmpty && j.m.flagFlights.isEmpty

/-- The unheld cycles that issued M instructions still need. -/
def MEng.rest (m : MEng) : Nat := m.flights.foldl (fun n f => Nat.max n (f.left + 1)) 0

/-- An accumulator in UNCHK fails its check (R278). -/
def Job.stopFails (j : Job) : Bool := (List.finRange 8).any fun k => j.m.unchk.getLsbD k.val && j.accFails k

/-- The jobs of a card have all stopped: their images are to be written. -/
def State.toSave (s : State) (k : CluId) (slot : SlotId) : State :=
  match s.card k slot with
  | none => s
  | some x =>
    if x.phase = .running ∧ x.cores.all (fun c => match s.job c with
        | some j => j.stopped
        | none => false) then
      s.setCard k slot { x with phase := .saving }
    else s

/-- JOB_STOP: the job stands at its stop take with its engines stopped; issued M instructions have completed, and
accumulators in UNCHK are checked (R278, R438). TRAPVAL of a RESIDUE found here is the address of M's next instruction: the spec names
none, and the choice is the model's (log 84). -/
def execJobStop (core : CoreId) (s : State) : Res :=
  match s.job core with
  | none => .next s
  | some j =>
    if !j.still || !s.live j.ctx then .next s
    else
      let s1 := (List.range j.m.rest).foldl (fun st _ => st.tickM core) s
      match s1.job core with
      | none => .next s1
      | some j1 =>
        if !j1.raised.isEmpty then .next (s1.resolveTraps core)
        else if j1.hasM && j1.stopFails then
          .next ((s1.setJob core (j1.raise .m .residue (j1.m.pc.setWidth 32))).resolveTraps core)
        else .next ((s1.setJob core { j1 with stopped := true }).toSave j1.cluster j1.slot)

/-! ## The save (R441, R443) -/

/-- Writes the images of a card's jobs; the first failure or wait ends it, on the core that it names. -/
def State.saveAll (s : State) (x : Card) : List CoreId → Except (CoreId × ImageStop) (State × List Job)
  | [] => .ok (s, [])
  | c :: cs =>
    match s.job c with
    | none => s.saveAll x cs
    | some j =>
      let base := x.save + 0x400000 * j.member.val
      let blocks := imageBlocks s c j x.stopCause
      match State.imageWrites { s with fresh := s.fresh + 1 } c x.ctx base blocks with
      | .error e => .error (c, e)
      | .ok s1 =>
        match s1.saveAll x cs with
        | .error e => .error e
        | .ok (s2, l) => .ok (s2, j :: l)

/-- SAVE_COMPLETE: the images are written, and the card returns to its home dispatcher (R441, R444). A block whose reseal is in
progress, or that the host may hold, is waited for (R367, R411). -/
def execSaveComplete (cluster : CluId) (slot : SlotId) (s : State) : Res :=
  match s.card cluster slot with
  | none => .next s
  | some x =>
    if x.phase ≠ .saving ∨ !s.live x.ctx then .next s
    else
      match s.saveAll x x.cores with
      | .error (c, .fail cause va) => .next (s.nodeFails c cause va)
      | .error (c, .wait g) => .next (s.forGate x.ctx (some c) g)
      | .ok (s1, imgs) =>
        let s2 := s1.settle cluster slot x.isl
        let s3 := s2.requeue cluster slot fun y => { y with phase := .stopped, images := imgs }
        .next (x.cores.foldl State.dropJob s3)

/-! ## Wraps (R447-R451) -/

/-- The clock of a level in tenths of a GHz (R343). -/
def clock10 (lvl : Nat) : Nat := 8 + 2 * ((lvl + 1) / 2)

/-- Division that rounds up. -/
def ceilDiv (a b : Nat) : Nat := (a + b - 1) / b

/-- VMIN of a partition (R448). -/
def State.vmin (s : State) (p : PartId) : Nat :=
  (s.partClus p).foldl (fun n k =>
    Nat.max n (20000 + ceilDiv (32840 * 28 * 10) (16 * clock10 (s.island (cluIsl k)).lmin) + ceilDiv (4 * 2265088) 32)) 0

/-- The context is a target of the partition's wrap. -/
def State.wrapTarget (s : State) (p : PartId) (c : CtxId) : Bool :=
  let q := s.part p
  decide (c.val < 384) && decide (s.ctxPart c = some p) && (!q.wrapTVft || decide (c.val = q.wrapTVf))

/-- The running nodes of the target. -/
def State.wrapNodes (s : State) (p : PartId) : List (CluId × SlotId × Card) :=
  s.allCards.filterMap fun e =>
    if s.wrapTarget p e.2.2.ctx ∧ e.2.2.phase = .running then some (e.1, slotOf e.2.1, e.2.2) else none

/-- The jobs of the target with a save area in a cluster. -/
def State.wrapJobs (s : State) (p : PartId) (k : CluId) : List Job :=
  (cluCores k).filterMap fun c =>
    (s.job c).bind fun j => if s.wrapTarget p j.ctx ∧ j.save ≠ 0 then some j else none

/-- The drain time of the images of a cluster's jobs. -/
def State.drainTime (s : State) (p : PartId) (k : CluId) : Nat :=
  ceilDiv ((s.wrapJobs p k).foldl (fun n j => n + dirtyBytes j) 0) 32

/-- TCK of a cluster (R439, R449). -/
def State.tck (s : State) (p : PartId) (k : CluId) : Nat :=
  let i := s.island (cluIsl k)
  let takes := (s.wrapJobs p k).foldl (fun n j => Nat.max n (bitsAt j.m.tcfg[0].toNat 24 8 * 128 + 200)) 0
  ceilDiv (takes * (16 + i.stretch) * 10) (16 * clock10 i.level) + s.drainTime p k

/-- The clusters that hold a node's jobs. -/
def Card.clusters (x : Card) : List CluId := x.cores.map coreClu

/-- TCK for a node: the greatest of its clusters'. -/
def State.nodeTck (s : State) (p : PartId) (x : Card) : Nat := x.clusters.foldl (fun n k => Nat.max n (s.tck p k)) 0

/-- PID: the identifier of the latest PHASE of a node's jobs, 0 before the first; of several at one time, the first member's, by a
design choice (R449; log 84). -/
def State.nodePid (s : State) (x : Card) : Nat :=
  (x.cores.foldl (fun (n : Nat × Nat) c => match s.job c with
    | some j => if n.1 < j.progressAt then (j.progressAt, j.progress.toNat) else n
    | none => n) (0, 0)).2

/-- The node's remaining cycles, divided by its clock, and TCK fit before the deadline (R449). -/
def State.canRun (s : State) (x : Card) (tck left : Nat) : Bool :=
  let f := clock10 (s.island x.isl).level
  decide (x.cycEst * (1024 - s.nodePid x) * 10 + tck * 1024 * f ≤ left * 1024 * f)

/-- A node of the target is discarded: it stops, its record says so, and it does not return (R449). -/
def State.wrapDiscard (s : State) (k : CluId) (slot : SlotId) : State :=
  match s.card k slot with
  | none => s
  | some x => ((s.stopNode x none false).dropPoisoned x none |>.endRun k slot).faultCard k slot 0xFF02

/-- A node of the target that can no longer be saved: discarded, or its context is killed (R449, R450). -/
def State.wrapEnd (s : State) (k : CluId) (slot : SlotId) : State :=
  match s.card k slot with
  | none => s
  | some x => if x.escaped then s.kill x.ctx else s.wrapDiscard k slot

/-- The choice for one running node (R449). -/
def State.wrapChoose (s : State) (p : PartId) (k : CluId) (slot : SlotId) (tck left : Nat) : State :=
  match s.card k slot with
  | none => s
  | some x =>
    if x.phase ≠ .running then s
    else if s.canRun x tck left then
      let q := s.part p
      s.setPart p { q with wrapRun := q.wrapRun ++ [(k, slot, q.wrapDl.toNat - tck)] }
    else if x.save ≠ 0 ∧ tck ≤ left then s.askStop k slot 3
    else s.wrapEnd k slot

/-- The post of a wrap: queues are suspended, jobs get their notice, and a choice is made for each node (R449). -/
def State.wrapPost (s : State) (p : PartId) (vft : Bool) (vf : Nat) : State :=
  let q := s.part p
  let s1 := s.setPart p { q with
    wrapStatus := 1, wrapVft := vft, wrapVf := vf, wrapPhase := .vacating, wrapTVft := vft, wrapTVf := vf, wrapRun := [] }
  let s2 := s1.announce none (32 + p.val)
  let targets := (List.finRange 408).filter fun c => s2.wrapTarget p c
  let s3 := targets.foldl State.suspendAll s2
  let nodes := (s3.wrapNodes p).map fun e => (e, s3.nodeTck p e.2.2)
  let s4 := nodes.foldl (fun st e => st.notice e.1.2.2 fun x => { x with pwrap := true }) s3
  let left := q.wrapDl.toNat - s.time
  (nodes.foldl (fun st e => st.wrapChoose p e.1.1 e.1.2.1 e.2 left) s4).wrapCheck p

/-- WRAP_POST: a write of WRAPCTL (R447), which is dropped before READY (R456). A VF of 384 to 511, which no table lists as reserved, is
held as written and lies in no partition (R11; log 74). -/
def execWrapPost (part : PartId) (value : W64) (s : State) : Res :=
  let q := s.part part
  let vft := value.getLsbD 25
  let vf := bitsAt value.toNat 16 9
  let refuse := fun (code : Nat) =>
    let s1 := s.setPart part { q with wrapStatus := code }
    if q.wrapStatus = code then s1 else s1.announce none (32 + part.val)
  if s.stage ≠ .ready then .next s.dropEarly
  else if !value.getLsbD 63 then .next (s.setPart part { q with wrapVft := vft, wrapVf := vf })
  else if q.wrapDl.toNat < s.time + s.vmin part then .next (refuse 3)
  else if q.wrapPhase = .vacating then .next (refuse 4)
  else if vft && (match q.desc with
      | some d => decide (vf < d.vfbase ∨ d.vfbase + d.vfn ≤ vf)
      | none => true) then .next (refuse 5)
  else .next (s.wrapPost part vft vf)

/-- WRAP_CUTOFF: nodes of a cluster that were chosen to run are checkpointed at its cut-off (R450). -/
def execWrapCutoff (part : PartId) (cluster : CluId) (s : State) : Res :=
  let q := s.part part
  if q.wrapPhase ≠ .vacating then .next s
  else
    let due := fun (e : CluId × SlotId × Nat) => decide (e.2.2 ≤ s.time) && match s.card e.1 e.2.1 with
      | some x => x.clusters.contains cluster
      | none => true
    let s1 := s.setPart part { q with wrapRun := q.wrapRun.filter fun e => !due e }
    .next ((q.wrapRun.filter due).foldl (fun st e => match st.card e.1 e.2.1 with
      | some x => if st.wrapTarget part x.ctx ∧ x.phase = .running then st.askStop e.1 e.2.1 3 else st
      | none => st) s1)

/-- WRAP_STOP_DEADLINE: a job of the target that has not reached its stop take in time is discarded, or its context is killed
(R450). -/
def execWrapStopDeadline (part : PartId) (core : CoreId) (s : State) : Res :=
  let q := s.part part
  match s.job core with
  | none => .next s
  | some j =>
    if q.wrapPhase ≠ .vacating ∨ !s.wrapTarget part j.ctx ∨ j.stopped ∨ j.atStop
        ∨ s.time + s.drainTime part (coreClu core) < q.wrapDl.toNat then .next s
    else .next (s.wrapEnd j.cluster j.slot)

end Sys2Proof.Machine
end

