-- ==== Sys2Proof/Machine/Vector.lean ====
section
/-! DEFINITION. The vector engine (R222-R257): lanes and masks, delivery of results, and the 43 instructions of V. -/

namespace Sys2Proof.Machine

/-! ## Lanes and masks (R222, R228-R230) -/

/-- The current mask CM: the top of the mask stack, all ones where it is empty (R228). -/
def VEng.mask (m : VEng) : Mask := m.masks.headD (BitVec.allOnes 128)

/-- The mask with bit `j` given by `f j`. -/
def maskOf (f : Nat → Bool) : Mask := BitVec.ofNat 128 (natOfLanes 1 ((List.range 128).map fun j => (f j).toNat))

/-- Lane `i` of width `w` is active: the bit of its first byte is 1, or of the byte that holds it (R228). -/
def activeLane (w : Nat) (cm : Mask) (i : Nat) : Bool := cm.getLsbD (w * i / 8)

/-- The bytes of the active lanes of width `w` (R230). -/
def laneMask (w : Nat) (cm : Mask) : Mask := if w ≤ 8 then cm else maskOf fun j => activeLane w cm (8 * j / w)

/-- Ones in every bit of the bytes of a mask. -/
def maskRow (m : Mask) : Row := rowOfLanes 8 ((List.range 128).map fun j => if m.getLsbD j then 255 else 0)

/-- Every byte. -/
def wholeRow : Mask := BitVec.allOnes 128

/-- What a vector instruction computes: its row, the bytes that it writes and its flags. -/
structure VOut where
  row : Row
  mask : Mask
  flags : Flags
  deriving DecidableEq, Repr

/-- A vector operand. -/
def Val.vec (v : Val) (m : VEng) : Row :=
  match v with
  | .reg n => m.v[n.val]'n.isLt
  | .ent r => r

/-! ## Delivery (R226, R230) -/

/-- Flags that are ORed into FPFLAGS LAT cycles after the issue cycle. -/
def VEng.flagsIn (m : VEng) (lat : Nat) (f : Flags) : VEng :=
  if f = 0 then m else { m with flights := m.flights ++ [⟨lat, none, f⟩] }

/-- A push of stream `q` that falls due LAT cycles after the issue cycle; its slot is reserved. -/
def Job.pushIn (j : Job) (q : Fin 16) (lat : Nat) (r : Row) (f : Flags) : Job :=
  let x := j.stream q
  { j.setStream q { x with reserved := x.reserved + 1 } with
    v := { j.v with flights := j.v.flights ++ [⟨lat, some (q, r), f⟩] } }

/-- A register result that V instructions see from take T + LAT on. -/
def Job.landIn (j : Job) (lat : Nat) (dst : Dst) (r : Row) (mask : Mask) : Job :=
  { j with v := { j.v with pend := j.v.pend ++ [⟨lat, dst, r, mask⟩] } }

/-- Delivers a vector result. -/
def Job.vout (j : Job) (d : Opnd) (lat : Nat) (o : VOut) : Job :=
  match d with
  | .reg n =>
    let j1 := j.landIn lat (.v n) o.row o.mask
    { j1 with v := j1.v.flagsIn lat o.flags }
  | .q q => j.pushIn q lat (o.row &&& maskRow o.mask) o.flags
  | .bad _ => j

/-- Delivers a scalar result. -/
def Job.sout (j : Job) (d : Opnd) (lat : Nat) (x : W32) : Job :=
  match d with
  | .reg n => j.landIn lat (.s n) (x.setWidth 1024) wholeRow
  | .q q => j.pushIn q lat (x.setWidth 1024) 0
  | .bad _ => j

/-! ## Frames -/

/-- Rounding in a V instruction: the mode, NOSAT and the random bits of each lane (R174, R175, R177). -/
structure VRnd where
  mode : Rm
  nosat : Bool
  bits : Nat → Nat

/-- The rounding of the job under FPMODE. -/
def Job.vrnd (j : Job) : VRnd :=
  { mode := Rm.ofCode (bitsAt j.v.fpmode.toNat 0 3)
    nosat := j.v.fpmode.getLsbD 4
    bits := gen j.rseed j.nodeid (j.take.setWidth 16) ((j.take >>> 16).setWidth 16) }

/-- A vector instruction with a vector result: `f` takes the job and the source rows in the order A, B, D. -/
def vrun (i : Instr) (occ lat : Nat) (d : Opnd) (f : Job → List Row → VOut) (s : State) : Res :=
  issueJob s .v i occ fun j vs => j.vout d lat (f j (vs.map fun v => v.vec j.v))

/-- A source row. -/
def rowAt (l : List Row) (n : Nat) : Row := l.getD n 0

/-- OR of flags. -/
def orFlags (l : List (Nat × Flags)) : Flags := l.foldl (fun f x => f ||| x.2) 0

/-- A masked element-wise result: `f` gives each active lane of type `t` its bits and flags. -/
def lanewise (t : ElemT) (cm : Mask) (f : Nat → Nat × Flags) : VOut :=
  let rs := (List.range t.count).map fun i => if activeLane t.width cm i then f i else (0, 0)
  { row := rowOfLanes t.width (rs.map Prod.fst), mask := laneMask t.width cm, flags := orFlags rs }

/-- D_i := Op(A_i, B_i). -/
def vbin (i : Instr) (lat : Nat) (t : ElemT) (d : Opnd) (op : VRnd → Nat → Nat → Nat → Nat × Flags) (s : State) : Res :=
  vrun i 1 lat d (fun j l => lanewise t j.v.mask fun k =>
    op j.vrnd k (lane t.width (rowAt l 0) k) (lane t.width (rowAt l 1) k)) s

/-- D_i := Op(D_i, A_i, B_i). -/
def vtern (i : Instr) (lat : Nat) (t : ElemT) (d : Opnd) (op : VRnd → Nat → Nat → Nat → Nat → Nat × Flags)
    (s : State) : Res :=
  vrun i 1 lat d (fun j l => lanewise t j.v.mask fun k =>
    op j.vrnd k (lane t.width (rowAt l 2) k) (lane t.width (rowAt l 0) k) (lane t.width (rowAt l 1) k)) s

/-- D_i := F(A_i). -/
def vun (i : Instr) (occ lat : Nat) (t : ElemT) (d : Opnd) (op : Nat → Nat × Flags) (s : State) : Res :=
  vrun i occ lat d (fun j l => lanewise t j.v.mask fun k => op (lane t.width (rowAt l 0) k)) s

/-! ## Operations of one lane (R231, R232) -/

/-- A value without flags. -/
def plain (x : Nat) : Nat × Flags := (x, 0)

/-- An exact result rounded under FPMODE, with the flags of both (R173). -/
def rndTo (t : ElemT) (r : VRnd) (k : Nat) (x : Fp × Flags) : Nat × Flags :=
  let (y, g) := t.fmt.round r.mode (r.bits k) x.1
  (y, x.2 ||| g)

/-- VADD. -/
def laneAdd (t : ElemT) (r : VRnd) (k a b : Nat) : Nat × Flags :=
  if t.isFlt then rndTo t r k (Fp.add r.mode (t.fmt.value a) (t.fmt.value b)) else plain ((a + b) % 2 ^ t.width)

/-- VSUB. -/
def laneSub (t : ElemT) (r : VRnd) (k a b : Nat) : Nat × Flags :=
  if t.isFlt then rndTo t r k (Fp.add r.mode (t.fmt.value a) (t.fmt.value b).neg)
  else plain ((a + (2 ^ t.width - b)) % 2 ^ t.width)

/-- VMUL. -/
def laneMul (t : ElemT) (r : VRnd) (k a b : Nat) : Nat × Flags :=
  if t.isFlt then rndTo t r k (Fp.mul (t.fmt.value a) (t.fmt.value b)) else plain (a * b % 2 ^ t.width)

/-- VMIN and VMAX: as S or N per T, or by R172. -/
def laneMinMax (t : ElemT) (greater : Bool) (a b : Nat) : Nat × Flags :=
  if t.isFlt then t.fmt.minmax greater a b
  else plain (if decide (t.intOf a < t.intOf b) = greater then b else a)

/-- VADDS: clamped to the type's range. -/
def laneAdds (t : ElemT) (a b : Nat) : Nat × Flags :=
  let x := t.clamp (t.intOf a + t.intOf b)
  (x.1, flagIf x.2 fSAT)

/-- VSHR: arithmetic for signed types, logical for the others. -/
def laneShr (t : ElemT) (a b : Nat) : Nat := t.bitsOf (t.intOf a / 2 ^ (b % t.width))

/-- VABS. -/
def laneAbs (t : ElemT) (a : Nat) : Nat × Flags :=
  if t.isFlt then
    (if (t.fmt.value a).isNan then (t.fmt.nanBits, nanFlags (t.fmt.value a)) else plain (a % 2 ^ (t.width - 1)))
  else
    let x := t.clamp ((t.intOf a).natAbs : Int)
    (x.1, flagIf x.2 fSAT)

/-- VNEG. -/
def laneNeg (t : ElemT) (a : Nat) : Nat × Flags :=
  if t.isFlt then
    (if (t.fmt.value a).isNan then (t.fmt.nanBits, nanFlags (t.fmt.value a)) else plain (a ^^^ 2 ^ (t.width - 1)))
  else
    let x := t.clamp (-(t.intOf a))
    (x.1, flagIf x.2 fSAT)

/-- VRCP, VRSQ and VEXP: the exact value rounded once under RNE (R233). -/
def laneFun (t : ElemT) (f : Fp → Fp × Flags) (a : Nat) : Nat × Flags :=
  let x := f (t.fmt.value a)
  let (y, g) := t.fmt.round .rne 0 x.1
  (y, x.2 ||| g)

/-- A condition of VCMP (R234). -/
def laneCmp (t : ElemT) (u : VCond) (x y : Nat) : Bool × Flags :=
  if t.isFlt then
    let a := t.fmt.value x
    let b := t.fmt.value y
    let nan := a.isNan || b.isNan
    (match u with
      | .eq => Fp.eq a b
      | .ne => !Fp.eq a b
      | .lt => Fp.lt false a b
      | .le => !nan && !Fp.lt false b a
      | .gt => Fp.lt false b a
      | .ge => !nan && !Fp.lt false a b
      | .un => nan, nanFlags a ||| nanFlags b)
  else
    let a := t.intOf x
    let b := t.intOf y
    (match u with
      | .eq => decide (a = b)
      | .ne => decide (a ≠ b)
      | .lt => decide (a < b)
      | .le => decide (a ≤ b)
      | .gt => decide (b < a)
      | .ge => decide (b ≤ a)
      | .un => false, 0)

/-- A .T2 code as VSEL reads it (R235). -/
def selRead (t : ElemT) (x : Nat) : Nat × Flags := if t = .t2 ∧ x = 2 then (0, fTRES) else (x, 0)

/-- VSEL. -/
def laneSel (t : ElemT) (d a b : Nat) : Nat × Flags :=
  let x := selRead t d
  let y := selRead t a
  let z := selRead t b
  (if x.1 ≠ 0 then y.1 else z.1, x.2 ||| y.2 ||| z.2)

/-- LAT of an instruction that takes 2 for INT and `n` for FLT (R225). -/
def latBy (t : ElemT) (int flt : Nat) : Nat := if t.isFlt then flt else int

/-! ## Element-wise instructions (R231-R235) -/

/-- VADD (R231). -/
def execVadd (tm : Tm) (d a b : Opnd) (t : ElemT) (s : State) : Res :=
  vbin (.vadd tm d a b t) (latBy t 2 4) t d (laneAdd t) s
/-- VSUB (R231). -/
def execVsub (tm : Tm) (d a b : Opnd) (t : ElemT) (s : State) : Res :=
  vbin (.vsub tm d a b t) (latBy t 2 4) t d (laneSub t) s
/-- VMUL (R231). -/
def execVmul (tm : Tm) (d a b : Opnd) (t : ElemT) (s : State) : Res := vbin (.vmul tm d a b t) 4 t d (laneMul t) s
/-- VMADD (R231). -/
def execVmadd (tm : Tm) (d a b : Opnd) (t : ElemT) (s : State) : Res :=
  vtern (.vmadd tm d a b t) 4 t d (fun _ _ z x y => plain ((z + x * y) % 2 ^ t.width)) s
/-- VMIN (R172, R231). -/
def execVmin (tm : Tm) (d a b : Opnd) (t : ElemT) (s : State) : Res :=
  vbin (.vmin tm d a b t) 2 t d (fun _ _ => laneMinMax t false) s
/-- VMAX (R172, R231). -/
def execVmax (tm : Tm) (d a b : Opnd) (t : ElemT) (s : State) : Res :=
  vbin (.vmax tm d a b t) 2 t d (fun _ _ => laneMinMax t true) s
/-- VADDS (R231). -/
def execVadds (tm : Tm) (d a b : Opnd) (t : ElemT) (s : State) : Res :=
  vbin (.vadds tm d a b t) 2 t d (fun _ _ => laneAdds t) s
/-- VAND (R231). -/
def execVand (tm : Tm) (d a b : Opnd) (t : ElemT) (s : State) : Res :=
  vbin (.vand tm d a b t) 2 t d (fun _ _ x y => plain (x &&& y)) s
/-- VOR (R231). -/
def execVor (tm : Tm) (d a b : Opnd) (t : ElemT) (s : State) : Res :=
  vbin (.vor tm d a b t) 2 t d (fun _ _ x y => plain (x ||| y)) s
/-- VXOR (R231). -/
def execVxor (tm : Tm) (d a b : Opnd) (t : ElemT) (s : State) : Res :=
  vbin (.vxor tm d a b t) 2 t d (fun _ _ x y => plain (x ^^^ y)) s
/-- VSHL (R231). -/
def execVshl (tm : Tm) (d a b : Opnd) (t : ElemT) (s : State) : Res :=
  vbin (.vshl tm d a b t) 2 t d (fun _ _ x y => plain (x * 2 ^ (y % t.width) % 2 ^ t.width)) s
/-- VSHR (R231). -/
def execVshr (tm : Tm) (d a b : Opnd) (t : ElemT) (s : State) : Res :=
  vbin (.vshr tm d a b t) 2 t d (fun _ _ x y => plain (laneShr t x y)) s
/-- VFMA: one rounding (R231). -/
def execVfma (tm : Tm) (d a b : Opnd) (t : ElemT) (s : State) : Res :=
  vtern (.vfma tm d a b t) 4 t d (fun r k z x y =>
    rndTo t r k (Fp.fma r.mode (t.fmt.value z) (t.fmt.value x) (t.fmt.value y))) s
/-- VABS (R232). -/
def execVabs (tm : Tm) (d a : Opnd) (t : ElemT) (s : State) : Res := vun (.vabs tm d a t) 1 2 t d (laneAbs t) s
/-- VNEG (R232). -/
def execVneg (tm : Tm) (d a : Opnd) (t : ElemT) (s : State) : Res := vun (.vneg tm d a t) 1 2 t d (laneNeg t) s
/-- OCC of VRCP, VRSQ and VEXP (R225). -/
def occFun (t : ElemT) : Nat := if t = .f then 4 else 2
/-- VRCP (R233). -/
def execVrcp (tm : Tm) (d a : Opnd) (t : ElemT) (s : State) : Res :=
  vun (.vrcp tm d a t) (occFun t) 10 t d (laneFun t Fp.recip) s
/-- VRSQ (R233). -/
def execVrsq (tm : Tm) (d a : Opnd) (t : ElemT) (s : State) : Res :=
  vun (.vrsq tm d a t) (occFun t) 10 t d (laneFun t Fp.rsqrt) s
/-- VEXP (R187, R233). -/
def execVexp (tm : Tm) (d a : Opnd) (t : ElemT) (s : State) : Res :=
  vun (.vexp tm d a t) (occFun t) 10 t d (laneFun t Fp.exp) s
/-- VPOPC (R232). -/
def execVpopc (tm : Tm) (d a : Opnd) (t : ElemT) (s : State) : Res :=
  vun (.vpopc tm d a t) 1 2 t d (fun x => plain (onesIn t.width x)) s
/-- VNOT (R232). -/
def execVnot (tm : Tm) (d a : Opnd) (t : ElemT) (s : State) : Res :=
  vun (.vnot tm d a t) 1 2 t d (fun x => plain (2 ^ t.width - 1 - x)) s

/-- VCMP: D is the left operand and the destination (R234). -/
def execVcmp (tm : Tm) (d a : Opnd) (u : VCond) (t : ElemT) (s : State) : Res :=
  vrun (.vcmp tm d a u t) 1 2 d (fun j l => lanewise t j.v.mask fun k =>
    let r := laneCmp t u (lane t.width (rowAt l 1) k) (lane t.width (rowAt l 0) k)
    (if r.1 then 2 ^ t.width - 1 else 0, r.2)) s

/-- VSEL (R235). -/
def execVsel (tm : Tm) (d a b : Opnd) (t : ElemT) (s : State) : Res :=
  vtern (.vsel tm d a b t) 2 t d (fun _ _ => laneSel t) s

/-! ## Conversion (R236-R239) -/

/-- VCVT: elements beyond the lesser count are 0, whatever the mask (R236). -/
def vcvtOut (j : Job) (dst src : ElemT) (rnd : CvtRnd) (a : Row) : VOut :=
  let n := Nat.min dst.count src.count
  let cm := j.v.mask
  let rs := (List.range n).map fun i =>
    if activeLane dst.width cm i then
      cvtElem dst src (Rm.ofCvt rnd) (j.vrnd.bits i) j.vrnd.nosat (lane src.width a i) else (0, 0)
  let lm := laneMask dst.width cm
  { row := rowOfLanes dst.width (rs.map Prod.fst)
    mask := maskOf fun b => lm.getLsbD b || decide (n * dst.width ≤ 8 * b)
    flags := orFlags rs }

/-- VCVT (R236). -/
def execVcvt (tm : Tm) (d a : Opnd) (src : ElemT) (rnd : CvtRnd) (dst : ElemT) (s : State) : Res :=
  vrun (.vcvt tm d a src rnd dst) 1 3 d (fun j l => vcvtOut j dst src rnd (rowAt l 0)) s

/-- The FP32 values of a row. -/
def fpLanes (r : Row) : List Fp := (lanesOf 32 32 r).map ElemT.f.fmt.value

/-- VQMX: two blocks quantised into their codes and scales (R237). -/
def execVqmx (tm : Tm) (d a b : Opnd) (t : ElemT) (s : State) : Res :=
  vrun (.vqmx tm d a b t) 2 6 d (fun j l =>
    let x := quantBlock t j.vrnd.nosat (fpLanes (rowAt l 0))
    let y := quantBlock t j.vrnd.nosat (fpLanes (rowAt l 1))
    { row := rowOfLanes 8 (x.2.1 ++ y.2.1 ++ [x.1, y.1]), mask := wholeRow, flags := x.2.2 ||| y.2.2 }) s

/-- VDQMX: lane `k` of a block dequantised (R238). -/
def laneDq (t : ElemT) (a : Row) (sb : W32) (k : Nat) : Nat × Flags :=
  let e := bitsAt sb.toNat 8 8
  if e = 255 then (ElemT.f.fmt.nanBits, 0)
  else ElemT.f.fmt.round .rne 0 ((t.fmt.value (lane 8 a (32 * bitsAt sb.toNat 0 2 + k))).scale ((e : Int) - 127))

/-- VDQMX (R238). -/
def execVdqmx (tm : Tm) (d a b : Opnd) (t : ElemT) (s : State) : Res :=
  issueJob s .v (.vdqmx tm d a b t) 1 fun j vs =>
    j.vout d 4 (lanewise .f j.v.mask (laneDq t ((argAt vs 0).vec j.v) ((argAt vs 1).scalar 32 (j.reg .v))))

/-- VSCL: A_i x 2^S(B_i), rounded once (R239). -/
def execVscl (tm : Tm) (d a b : Opnd) (t : ElemT) (s : State) : Res :=
  vbin (.vscl tm d a b t) 4 t d (fun r k x y =>
    rndTo t r k ((t.fmt.value x).scale (if y < 2 ^ (t.width - 1) then (y : Int) else (y : Int) - 2 ^ t.width), 0)) s

/-! ## Reductions and scans (R240, R241) -/

/-- Combine of a reduction; `k` is the lane of the element being added. -/
def combine (op : RedOp) (t : ElemT) (r : VRnd) (k acc x : Nat) : Nat × Flags :=
  match op with
  | .add => laneAdd t r k acc x
  | .min => laneMinMax t false acc x
  | .max => laneMinMax t true acc x
  | .and => plain (acc &&& x)
  | .or => plain (acc ||| x)
  | .xor => plain (acc ^^^ x)

/-- The identity of a reduction (R240). -/
def redIdentity (op : RedOp) (t : ElemT) : Nat :=
  match op with
  | .min => if t.isFlt then t.fmt.infBits else t.bitsOf t.range.2
  | .max => if t.isFlt then t.fmt.sign true + t.fmt.infBits else t.bitsOf t.range.1
  | .and => 2 ^ t.width - 1
  | _ => 0

/-- The running values after each lane, in lane order, with their flags: `acc` is empty before the first active lane. -/
def scanLanes (op : RedOp) (t : ElemT) (r : VRnd) (cm : Mask) :
    Option Nat → List (Nat × Nat) → List (Option Nat × Flags)
  | _, [] => []
  | acc, (x, i) :: xs =>
    let y : Option Nat × Flags :=
      if activeLane t.width cm i then
        match acc with
        | none => (some x, 0)
        | some z => let c := combine op t r i z x; (some c.1, c.2)
      else (acc, 0)
    y :: scanLanes op t r cm y.1 xs

/-- The loop of R240 over a row: the running values and the flags. -/
def scanRow (op : RedOp) (t : ElemT) (j : Job) (a : Row) : List Nat × Flags :=
  let l := scanLanes op t j.vrnd j.v.mask none ((lanesOf t.width t.count a).zipIdx)
  (l.map fun x => x.1.getD (redIdentity op t), l.foldl (fun f x => f ||| x.2) 0)

/-- LAT of a reduction (R225). -/
def latRed (op : RedOp) (t : ElemT) : Nat := if t.isFlt && decide (op = .add) then t.count + 2 else 4

/-- VRED (R240). -/
def execVred (tm : Tm) (d a : Opnd) (op : RedOp) (t : ElemT) (s : State) : Res :=
  vrun (.vred tm d a op t) 1 (latRed op t) d (fun j l =>
    let x := scanRow op t j (rowAt l 0)
    { row := rowOfLanes t.width [x.1.getLastD (redIdentity op t)], mask := wholeRow, flags := x.2 }) s

/-- VSCAN (R241). -/
def execVscan (tm : Tm) (d a : Opnd) (op : RedOp) (t : ElemT) (s : State) : Res :=
  vrun (.vscan tm d a op t) 1 (latRed op t) d (fun j l =>
    let x := scanRow op t j (rowAt l 0)
    { row := rowOfLanes t.width x.1, mask := wholeRow, flags := x.2 }) s

/-! ## Permutes and broadcast (R242-R244) -/

/-- Lane `k` of the table made of `a` and then `b`. -/
def pairLane (w n : Nat) (a b : Row) (k : Nat) : Nat := if k < n then lane w a k else lane w b (k - n)

/-- VPERM (R242). -/
def execVperm (tm : Tm) (d a b : Opnd) (t : ElemT) (s : State) : Res :=
  vrun (.vperm tm d a b t) 1 2 d (fun j l => lanewise t j.v.mask fun k =>
    plain (pairLane t.width t.count (rowAt l 0) (rowAt l 1) (lane t.width (rowAt l 2) k % (2 * t.count)))) s

/-- VROTM (R243). -/
def execVrotm (tm : Tm) (d a b : Opnd) (t : ElemT) (s : State) : Res :=
  vrun (.vrotm tm d a b t) 1 2 d (fun j l => lanewise .n8 j.v.mask fun k =>
    plain (pairLane 8 128 (rowAt l 0) (rowAt l 1) (lane 8 (rowAt l 2) 0 % 128 + k))) s

/-- A vector instruction with a scalar source. -/
def vfromScalar (i : Instr) (t : ElemT) (d : Opnd) (f : W32 → Nat → Nat × Flags) (s : State) : Res :=
  issueJob s .v i 1 fun j vs => j.vout d 2 (lanewise t j.v.mask (f ((argAt vs 0).scalar 32 (j.reg .v))))

/-- VBCST (R244). -/
def execVbcst (tm : Tm) (d a : Opnd) (t : ElemT) (s : State) : Res :=
  vfromScalar (.vbcst tm d a t) t d (fun x _ => plain (x.toNat % 2 ^ t.width)) s

/-! ## Mask instructions (R245-R247) -/

/-- E(A): ones in every byte of each lane that is not 0. -/
def nonZeroBytes (t : ElemT) (a : Row) : Mask := maskOf fun j => decide (lane t.width a (8 * j / t.width) ≠ 0)

/-- VMPUSH (R245). -/
def execVmpush (tm : Tm) (a : Opnd) (t : ElemT) (s : State) : Res :=
  issueJob s .v (.vmpush tm a t) 1 fun j vs =>
    { j with v := { j.v with masks := (j.v.mask &&& nonZeroBytes t ((argAt vs 0).vec j.v)) :: j.v.masks } }

/-- The mask stack after a VMINV (R245). -/
def invertTop : List Mask → List Mask
  | [] => []
  | top :: rest => (rest.headD wholeRow &&& ~~~top) :: rest

/-- VMINV (R245). -/
def execVminv (tm : Tm) (s : State) : Res :=
  issueJob s .v (.vminv tm) 1 fun j _ => { j with v := { j.v with masks := invertTop j.v.masks } }

/-- VMPOP (R245). -/
def execVmpop (tm : Tm) (s : State) : Res :=
  issueJob s .v (.vmpop tm) 1 fun j _ => { j with v := { j.v with masks := j.v.masks.tail } }

/-- VSKIP: where CM has no bit set, the region is skipped (R246). -/
def execVskip (tm : Tm) (n : BitVec 16) (s : State) : Res :=
  issueJob s .v (.vskip tm n) 1 fun j _ => { j with v := { j.v with skip := if j.v.mask = 0 then n.toNat else 0 } }

/-! ## Index and bitmap instructions (R248-R250) -/

/-- VIDXW (R248). -/
def execVidxw (tm : Tm) (d a : Opnd) (t : ElemT) (s : State) : Res :=
  vfromScalar (.vidxw tm d a t) t d (fun x k =>
    if t.isFlt then t.fmt.round .rne 0 (Fp.ofInt (x.toInt + k) 0 false)
    else plain ((x.toNat + k) % 2 ^ t.width)) s

/-- An instruction of V with a vector source and a scalar result; `f` takes the row and D as it was read. -/
def vtoScalar (i : Instr) (lat : Nat) (d : Opnd) (f : Job → Row → W32 → W32) (s : State) : Res :=
  issueJob s .v i 1 fun j vs =>
    j.sout d lat (f j ((argAt vs 0).vec j.v) ((argAt vs 1).scalar 32 (j.reg .v)))

/-- An element is not zero: for a float type neither zero is, and a NaN is not zero (R248). -/
def elemNonZero (t : ElemT) (x : Nat) : Bool := decide ((if t.isFlt then x % 2 ^ (t.width - 1) else x) ≠ 0)

/-- VIDXR (R248). -/
def execVidxr (tm : Tm) (d a : Opnd) (t : ElemT) (s : State) : Res :=
  vtoScalar (.vidxr tm d a t) 2 d (fun j r _ => BitVec.ofNat 32
    (((List.range t.count).find? fun k => activeLane t.width j.v.mask k && elemNonZero t (lane t.width r k)).getD
      t.count)) s

/-- VBITT (R249). -/
def execVbitt (tm : Tm) (d a : Opnd) (t : ElemT) (s : State) : Res :=
  vrun (.vbitt tm d a t) 1 3 d (fun j l => lanewise t j.v.mask fun k =>
    plain (if (rowAt l 0).getLsbD (lane t.width (rowAt l 1) k) then 2 ^ t.width - 1 else 0)) s

/-- The bits that the active lanes of a row name (R249). -/
def namedBits (t : ElemT) (cm : Mask) (a : Row) : Row :=
  (List.range t.count).foldl (fun r k =>
    if activeLane t.width cm k && decide (lane t.width a k < 1024) then r ||| BitVec.ofNat 1024 (2 ^ lane t.width a k)
    else r) 0

/-- VBITS (R249). -/
def execVbits (tm : Tm) (d a : Opnd) (t : ElemT) (s : State) : Res :=
  vrun (.vbits tm d a t) 1 3 d (fun j l =>
    { row := rowAt l 1 ||| namedBits t j.v.mask (rowAt l 0), mask := wholeRow, flags := 0 }) s

/-- VPOPM (R250). -/
def execVpopm (tm : Tm) (d a : Opnd) (s : State) : Res :=
  vtoScalar (.vpopm tm d a) 3 d (fun j r _ => BitVec.ofNat 32 (onesIn 1024 (r &&& maskRow j.v.mask).toNat)) s

/-! ## VMATCH (R251, R252) -/

/-- L: the lanes of the pattern before END, at most 31. -/
def patLen (e : Nat) (b : List Nat) : Nat := Nat.min (b.takeWhile fun x => decide (x ≠ e)).length 31

/-- Mt: the pattern positions that hold a token. -/
def patHits (tok : Nat) (pat : List Nat) : Nat := natOfLanes 1 (pat.map fun x => (decide (x = tok)).toNat)

/-- The loop of R252 over the tokens: the lanes of D, the final S, and whether a match completed. Where L is 0 and the first token is
END, the pseudocode leaves STATE as it was and the prose leaves it 0; the model takes the pseudocode, by a design choice (log 84). -/
def matchLoop (e : Nat) (pat : List Nat) : List Nat → Nat → List Nat × Nat × Bool
  | [], st => ([], st, false)
  | x :: xs, st =>
    if x = e then ([], st, false)
    else
      let st1 := (2 * st + 1) &&& patHits x pat
      let hit := decide (pat ≠ []) && st1.testBit (pat.length - 1)
      let r := matchLoop e pat xs st1
      ((if hit then e else 0) :: r.1, r.2.1, hit || r.2.2)

/-- VMATCH (R252). -/
def execVmatch (tm : Tm) (d a b : Opnd) (t : ElemT) (s : State) : Res :=
  issueJob s .v (.vmatch tm d a b t) 4 fun j vs =>
    let e := 2 ^ t.width - 1
    let bs := lanesOf t.width t.count ((argAt vs 1).vec j.v)
    let as := lanesOf t.width t.count ((argAt vs 0).vec j.v)
    let r := matchLoop e (bs.take (patLen e bs)) as (bitsAt j.v.vmst.toNat 0 31)
    let hit := j.v.vmst.getLsbD 31 || r.2.2
    let j1 := j.vout d 4 { row := rowOfLanes t.width r.1, mask := wholeRow, flags := 0 }
    j1.landIn 4 .vmst (BitVec.ofNat 1024 (hit.toNat * 2 ^ 31 + r.2.1 % 2 ^ 31)) 0

/-! ## Lane moves and walk moves (R254-R256) -/

/-- VLANE (R254). -/
def execVlane (tm : Tm) (d a : Opnd) (t : ElemT) (s : State) : Res :=
  vtoScalar (.vlane tm d a t) 2 d (fun _ r k =>
    let x := lane t.width r (k.toNat % t.count)
    if t.signed then BitVec.ofInt 32 (t.intOf x) else BitVec.ofNat 32 x) s

/-- VINS (R254). -/
def execVins (tm : Tm) (d a : Opnd) (t : ElemT) (s : State) : Res :=
  issueJob s .v (.vins tm d a t) 1 fun j vs =>
    let x := ((argAt vs 0).scalar 32 (j.reg .v)).toNat % 2 ^ t.width
    j.vout d 2
      { row := BitVec.ofNat 1024 (((argAt vs 1).vec j.v).toNat * 2 ^ t.width + x), mask := wholeRow, flags := 0 }

/-- VMOV: a row between V and the scratchpad row of a walk; CREDIT of a read walk falls at once, that of a write walk
when the row is written (R153, R255). -/
def execVmov (tm : Tm) (d : Opnd) (w : Fin 8) (s : State) : Res :=
  issue s .v (.vmov tm d w) 1 fun s c j =>
    let at_ := wantAddrs (vmovWants s c j w)
    let addr := (at_.map Prod.snd).headD 0
    let j0 := (j.claim .v at_).advanceWalk w 1
    if j.walkWrites w then
      let (j1, vs) := readFields j0 (fieldsOf j (.vmov tm d w))
      let st : VStore := { left := 1, pc := j.v.pc, walk := w, addr, mask := j1.v.mask, row := (argAt vs 0).vec j1.v }
      s.setJob c (Job.done { j1 with v := { j1.v with stores := j1.v.stores ++ [st] } } .v 1)
    else
      let o : VOut := { row := (s.core c).timedRow addr, mask := wholeRow, flags := 0 }
      s.setJob c (((j0.spendCredit (some w)).vout d 3 o).done .v 1)

end Sys2Proof.Machine
end

