-- ==== Sys2Proof/Machine/Cycle.lean ====
section
/-! DEFINITION. The end of an island's cycle (R280), the end of a hold (R43), the entry of asynchronous traps (R130, R131),
reserved encodings (R66), the continuity core (R285-R290) and single faults (R432). -/

namespace Sys2Proof.Machine

/-! ## Results that land (R76, R226, R255) -/

/-- A register result of V lands. -/
def VEng.land (m : VEng) (p : Pend) : VEng :=
  match p.dst with
  | .s n => { m with s := regWrite m.s n (p.val.setWidth 32) }
  | .v n => { m with v := m.v.set n.val ((p.val &&& maskRow p.mask) ||| (m.v[n.val] &&& ~~~ maskRow p.mask)) n.isLt }
  | .vmst => { m with vmst := p.val.setWidth 32 }

/-- A scalar result of M lands. -/
def MEng.land (m : MEng) (p : Pend) : MEng :=
  match p.dst with
  | .s n => { m with s := regWrite m.s n (p.val.setWidth 32) }
  | _ => m

/-- A take that passes for pending results: those that land, in the order of issue, and the rest with one take less. -/
def passTake (l : List Pend) : List Pend × List Pend :=
  (l.filter fun p => decide (p.left ≤ 1), (l.filter fun p => decide (1 < p.left)).map fun p => { p with left := p.left - 1 })

/-- The register results of V and M at the end of an unheld cycle. -/
def Job.landAll (j : Job) : Job :=
  let v := passTake j.v.pend
  let m := passTake j.m.pend
  { j with
    v := v.1.foldl VEng.land { j.v with pend := v.2 }
    m := m.1.foldl MEng.land { j.m with pend := m.2 } }

/-- A push in flight takes the slot that it reserved. -/
def Job.arrive (j : Job) (f : Flight) : Job :=
  match f.push with
  | none => j
  | some (q, r) =>
    let x := j.stream q
    j.setStream q { x.push r with reserved := x.reserved - 1 }

/-- The flags of the results that fall due. -/
def flagsOf (l : List Flight) : BitVec 6 := l.foldl (fun f x => f ||| x.flags) 0

/-- The flights still under way after a cycle. -/
def flyOn (l : List Flight) : List Flight :=
  (l.filter fun f => decide (0 < f.left)).map fun f => { f with left := f.left - 1 }

/-- The flights whose cycle has come. -/
def flyIn (l : List Flight) : List Flight := l.filter fun f => decide (f.left = 0)

/-- Pushes and flags in flight at the end of a cycle, held or not (R176, R226). -/
def Job.fly (j : Job) : Job :=
  let v := flyIn j.v.flights
  let m := flyIn j.m.flagFlights
  let j1 := { j with
    v := { j.v with flights := flyOn j.v.flights, fpflags := j.v.fpflags ||| flagsOf v }
    m := { j.m with flagFlights := flyOn j.m.flagFlights, fpflags := j.m.fpflags ||| flagsOf m } }
  (v ++ m).foldl Job.arrive j1

/-- One row that a VMOV writes in this cycle; the row must still be usable (R139, R255). -/
def State.storeRow (s : State) (c : CoreId) (x : VStore) : State :=
  match s.job c with
  | none => s
  | some j =>
    if s.rowUsable c x.addr then
      let k := s.core c
      State.setJob (s.setCore c { k with scr := k.scr.writeRow x.addr x.mask x.row }) c (j.spendCredit (some x.walk))
    else
      s.setJob c { j with raised := j.raised ++
        [{ eng := .v, cause := .rowRange, val := BitVec.ofNat 32 x.addr, pc := x.pc, classC := false, addr := 0 }] }

/-- The row writes of VMOV in a cycle. -/
def State.storeRows (s : State) (c : CoreId) : State :=
  match s.job c with
  | none => s
  | some j =>
    let rest := (j.v.stores.filter fun x => decide (0 < x.left)).map fun x => { x with left := x.left - 1 }
    (j.v.stores.filter fun x => decide (x.left = 0)).foldl (fun st x => st.storeRow c x)
      (s.setJob c { j with v := { j.v with stores := rest } })

/-! ## Counters and waits -/

/-- Claims on bank groups after an unheld cycle (R150). -/
def Job.passClaims (j : Job) : Job :=
  { j with claims := (j.claims.filter fun x => decide (0 < x.1)).map fun x => (x.1 - 1, x.2) }

/-- Credit that this cycle's fills added counts from the next cycle on (R207). -/
def Walk.tick (w : Walk) : Walk := { w with credit := w.credit + w.creditIn, creditIn := 0 }

/-- One more cycle of an elastic IDLE has passed (R79). -/
def Wait.tick (w : Wait) : Wait :=
  match w with
  | .idle n => if n ≤ 1 then .run else .idle (n - 1)
  | w => w

/-- TAKE and HOLDCYC (R38): after a slate's release TAKE is 0 in the next cycle (R40). From the stop take on both keep their values
(R438, R441). -/
def Job.countTake (j : Job) (held : Bool) : Job :=
  { j with
    take := if j.zeroed || held then j.take else j.take + 1
    holdcyc := if held && !j.atStop && j.holdcyc != BitVec.allOnes 32 then j.holdcyc + 1 else j.holdcyc
    zeroed := false, hold := held, cyc := j.cyc + 1 }

/-- Every engine may act again in the next cycle. -/
def Job.nextCycle (j : Job) : Job :=
  { j with
    c := { j.c with acted := false, wait := j.c.wait.tick }
    a := { j.a with acted := false, wait := j.a.wait.tick }
    v := { j.v with acted := false }
    m := { j.m with acted := false }
    streams := j.streams.map Stream.tick
    walks := j.walks.map Walk.tick }

/-! ## The continuity core (R285-R290) -/

/-- The comparison has agreed: the command issues in this cycle (R287, R288), which C's turn makes. -/
def State.agreed (s : State) (core : CoreId) (j : Job) : State :=
  match j.c.cmp with
  | none => s.setJob core j
  | some x =>
    { s.setJob core { j with c := { j.c with cmp := some { x with agreed := true }, acted := false } } with
      agenda := .eng core .c :: s.agenda }

/-- COMPARED_COMMAND_ISSUE: the checker reaches a compared command, 8 cycles or more after the primary, and the values that it carries are
there (R287, R288). -/
def execComparedCommandIssue (core : CoreId) (s : State) : Res :=
  match s.job core with
  | none => .next s
  | some j =>
    match j.c.cmp with
    | none => .next s
    | some x =>
      if x.agreed ∨ j.c.third.isSome ∨ !j.c.trail.isEmpty ∨ j.cyc < x.reach + 8 ∨ !s.live j.ctx then .next s
      else
        match s.instrAt core j j.c.arch.pc with
        | none => .next s
        | some i =>
          if (unready s core j i).isSome then .next s
          else if j.agrees i then .next (s.agreed core j)
          else .next (s.setJob core j.diverge)

/-- The job's node counts one more fault (R288). -/
def State.countMasked (s : State) (j : Job) : State :=
  match s.card j.cluster j.slot with
  | some x => s.setCard j.cluster j.slot { x with faults := x.faults + 1 }
  | none => s

/-- THIRD_RUN_END (R288, R290): the run agrees with a copy, and its command issues; or the core is quarantined and
DIVERGENCE_UNRESOLVED is raised. -/
def execThirdRunEnd (core : CoreId) (s : State) : Res :=
  match s.job core with
  | none => .next s
  | some j =>
    match j.c.third with
    | none => .next s
    | some t =>
      if !t.over ∨ !s.live j.ctx then .next s
      else if j.c.resolved t then
        let j1 := j.masked s core t
        .next (if t.command then (s.countMasked j).agreed core j1 else (s.countMasked j).setJob core j1)
      else
        let j1 := ({ j with c := { j.c with third := none } }).raise .c .divergenceUnresolved (j.c.arch.pc.setWidth 32)
        .next (((s.quarantine core).setJob core j1).resolveTraps core)

/-! ## Asynchronous traps (R130, R131) -/

/-- The µs to the wrap deadline of a job's partition. -/
def State.wrapMicros (s : State) (j : Job) : W32 := sat32 (((s.part j.part).wrapDl.toNat - s.time) / 1000)

/-- The handler is entered for the first pending cause in the order WRAP, PREEMPT, FLAG. -/
def State.asyncEntry (s : State) (j : Job) : Job :=
  let pc := j.c.arch.pc
  let enter := fun (j : Job) (x : Cause) (v : W32) => j.enter x v pc
  if j.c.pwrap then enter { j with c := { j.c with pwrap := false } } .wrap (s.wrapMicros j)
  else if j.c.ppre then enter { j with c := { j.c with ppre := false } } .preempt 0
  else enter { j with c := { j.c with pflag := false } } .flag (sat32 (toBoundary s.time))

/-- With EN = 0 a FLAG is accepted and notices are discarded; no wait is abandoned. -/
def Job.asyncDefault (j : Job) : Job :=
  { j with
    c := { j.c with pwrap := false, ppre := false, pflag := false }
    flag := if j.c.pflag then { j.flag with pend := false, ans := 0 } else j.flag }

/-- TRAP_ENTRY: the boundary of C judges the pending causes (R130, R131). -/
def execTrapEntry (core : CoreId) (s : State) : Res :=
  match s.job core with
  | none => .next s
  | some j =>
    if !j.asyncDue || j.atStop then .next s
    else .next (s.setJob core (if j.c.en then s.asyncEntry j else j.asyncDefault))

/-! ## Reserved encodings (R66) -/

/-- RESERVED_ENCODING: the engine in turn raises the cause with TRAPVAL the word (R66, R67). -/
def execReservedEncoding (word : W32) (cause : Cause) (s : State) : Res :=
  withJob s s.turnEng fun c j => s.setJob c (j.raise s.turnEng cause word)

/-! ## Holds and the cycle's end (R43, R280) -/

/-- The job has been held in this cycle: a hold is in force, or a due instruction has not issued. -/
def State.heldEnd (s : State) (c : CoreId) (j : Job) : Bool :=
  s.heldNow c j || (s.members c j).any fun d =>
    match s.job d with
    | none => false
    | some x => !x.atStop && ([Eng.v, .m].any fun e => decide (s.due d x e ≠ .no))

/-- A hold cause that was in force when this cycle began persists: a timed engine waits, or a due instruction is not ready. -/
def State.holdStays (s : State) (c : CoreId) (j : Job) : Bool :=
  j.atStop || (s.members c j).any fun d =>
    match s.job d with
    | none => false
    | some x => !x.atStop && ([Eng.v, .m].any fun e => x.meets e || s.adds d x e true)

/-- The members of the job's gang that have not stopped, which hold and release as one (R313). -/
def State.holders (s : State) (c : CoreId) (j : Job) : List CoreId :=
  (s.members c j).filter fun d => match s.job d with
    | some x => !x.atStop
    | none => false

/-- The core's job is held no longer. -/
def State.unhold (s : State) (c : CoreId) : State :=
  match s.job c with
  | some j => s.setJob c { j with hold := false }
  | none => s

/-- HOLD_END: every waiting instruction is ready at the start of a cycle; all members of the gang go on, and the instructions issue in
this cycle, in the turns of V and M (R43, R313). -/
def execHoldEnd (core : CoreId) (s : State) : Res :=
  match s.job core with
  | none => .next s
  | some j =>
    let l := s.holders core j
    if !(l.any fun d => match s.job d with
        | some x => x.hold
        | none => false) || s.holdStays core j then .next s
    else
      .next { l.foldl State.unhold s with agenda := l.flatMap (fun d => [.eng d .v, .eng d .m]) ++ s.agenda }

/-- Each stream of the job waits at a slate, a rendezvous or its end (R82). -/
def Job.allWait (j : Job) : Bool :=
  !j.atStop && !j.asyncDue && allEngs.all fun e => !j.has e || j.meets e || decide (j.wait e = .final)

/-- A stream of the job waits at a slate that reaches its gang. -/
def Job.atGroupSlate (j : Job) (e : Eng) : Bool :=
  match j.wait e with
  | .slate g _ _ => g
  | _ => false

/-- The job waits for nothing that can come (R82). -/
def Job.deadlocked (j : Job) : Bool :=
  j.allWait && allEngs.any (fun e => j.has e && j.meets e) && allEngs.any (fun e => j.has e && !j.atGroupSlate e)

/-- A gang in which every stream of every member waits, not all at their end (R314). -/
def State.gangDeadlock (s : State) (c : CoreId) (j : Job) : Bool :=
  let l := (s.members c j).filterMap s.job
  decide (1 < l.length) && l.all Job.allWait && l.any fun x => allEngs.any fun e => x.has e && x.meets e

/-- Waits that cannot complete raise SCHED_MISS in C (R82), in a gang that waits whole in its first member (R314). Where a trap of
the job or its gang has been raised already, a mismatch for one, it alone stops them (R40, R84). -/
def State.deadlock (s : State) (c : CoreId) : State :=
  match s.job c with
  | none => s
  | some j =>
    if (s.members c j).any fun d => (s.job d).any fun x => !x.raised.isEmpty then s
    else if s.gangDeadlock c j then (if j.member = 0 then s.setJob c (j.raise .c .schedMiss 0xFFFFFFFE) else s)
    else if j.deadlocked then s.setJob c (j.raise .c .schedMiss 0xFFFFFFFF)
    else s

/-- The levels that a task has met (R398). -/
def State.noteLevel (s : State) (c : CoreId) (j : Job) : State :=
  match s.card j.cluster j.slot with
  | none => s
  | some x => s.setCard j.cluster j.slot (x.note (s.level c))

/-- The task's energy of this cycle (R110, R295), and the levels that it has met. That of a third run is none of the task's. -/
def State.chargeCycle (s : State) (c : CoreId) (j : Job) : State :=
  (s.noteLevel c j).spendKind c (if j.c.third.isSome then 1 else 0)

/-- The end of a cycle for one core (R280 step 6), whose jobs have no trap of the cycle any more. -/
def State.coreCycle (s : State) (c : CoreId) (held : Bool) : State :=
  match s.job c with
  | none => s.setCore c { s.core c with olds := [] }
  | some j =>
    let s1 := (s.setJob c j.fly).storeRows c
    let s2 := if held then s1 else s1.tickM c
    match s2.job c with
    | none => s2
    | some j2 =>
      let j3 := if held then j2 else j2.landAll.passClaims
      let j4 := ((Job.continuity s2 c j3).countTake held).nextCycle
      (State.setCore s2 c { s2.core c with olds := [], job := some j4 }).chargeCycle c j4

/-- Every stream of the job has come to its end (R34). -/
def Job.final (j : Job) : Bool := allEngs.all fun e => !j.has e || decide (j.wait e = .final)

/-- A card whose last stream has ended takes its place among the finished (R310). -/
def State.stampCard (s : State) (c : CoreId) : State :=
  match s.job c with
  | none => s
  | some j =>
    match s.card j.cluster j.slot with
    | none => s
    | some x =>
      if x.ended.isNone && decide (x.phase = .running) && x.cores.all fun d => (s.job d).any Job.final then
        { s.setCard j.cluster j.slot { x with ended := some s.endSeq } with endSeq := s.endSeq + 1 }
      else s

/-- A twin level that is no longer permitted is left (R344, R353). -/
def State.twinGuard (s : State) (i : IslId) : State :=
  if isTwin (s.island i).level && !s.twinOk i then s.leaveTwin i else s

/-- An island counts its cycle, and those that a droop lengthens (R348). -/
def Island.tick (x : Island) : Island :=
  { x with cycles := x.cycles + 1, droopLen := if x.droop then x.droopLen + 1 else x.droopLen }

/-- ISLAND_CYCLE: one cycle of an island ends in each of its cores (R280). Traps raised in it stop their jobs first; then each core
that still has a job counts, lands and accesses rows; a trap of these accesses stops its job at the end. -/
def execIslandCycle (island : IslId) (s : State) : Res :=
  let l := islCores island
  let s1 := l.foldl State.resolveTraps (l.foldl State.deadlock s)
  let held := l.map fun c => (c, match s1.job c with
    | some j => s1.heldEnd c j
    | none => false)
  let s2 := held.foldl (fun st h => st.coreCycle h.1 h.2) s1
  let s3 := (l.foldl State.stampCard (l.foldl State.resolveTraps s2)).ownOn
  .next ((s3.setIsland island (s3.island island).tick).twinGuard island)

/-! ## Single faults (R432) -/

/-- C with a register of one copy flipped: the primary's, the checker's, or that of a third run in progress. Only FULL keeps copies
(R431). -/
def Job.flipC (j : Job) (f : CArch → CArch) (who : Fin 3) : Job :=
  match who with
  | 0 => { j with c := { j.c with arch := f j.c.arch } }
  | 1 => if j.prof = 0 then { j with c := { j.c with chk := f j.c.chk } } else j
  | _ => { j with c := { j.c with third := j.c.third.map fun t => { t with arch := f t.arch } } }

/-- Level `n` of the active loops changed. -/
def onLevel (n : Nat) (f : LoopLvl → LoopLvl) (l : List LoopLvl) : List LoopLvl := l.zipIdx.map fun x => if x.2 = n then f x.1 else x.1

/-- A cell of C's control path changed by a fault (R432). -/
def strikeCell (k : CCell) (a : CArch) : CArch :=
  match k with
  | .pc x => { a with pc := a.pc ^^^ x }
  | .pred n => a.setPred n (!a.pred n)
  | .loopFirst n x => { a with loops := onLevel n.val (fun l => { l with first := l.first ^^^ x }) a.loops }
  | .loopLast n x => { a with loops := onLevel n.val (fun l => { l with last := l.last ^^^ x }) a.loops }
  | .loopLeft n x => { a with loops := onLevel n.val (fun l => { l with left := l.left ^^^ x.toNat }) a.loops }
  | .ras n x => { a with ras := { a.ras with pos := a.ras.pos.set n.val (a.ras.pos[n.val] ^^^ x) n.isLt } }
  | .held x => { a with ras := { a.ras with held := Nat.min 16 (a.ras.held ^^^ x.toNat) } }
  | .spilled x => { a with ras := { a.ras with spilled := a.ras.spilled ^^^ x.toNat } }
  | .window x => { a with ras := { a.ras with win := a.ras.win ^^^ (x &&& 0x0FFFFFF8) } }
  | .inh => { a with inh := !a.inh }

/-- A register with bits flipped. -/
def flipReg (n : Fin 32) (x : W32) (a : CArch) : CArch := { a with s := regWrite a.s n (regRead a.s n ^^^ x) }

/-- A job of a core changed. -/
def State.mapJob (s : State) (c : CoreId) (f : Job → Job) : State :=
  match s.job c with
  | some j => s.setJob c (f j)
  | none => s

/-- SINGLE_FAULT: the cells that correction masks count as corrected at their next read, which is taken at once; the others
change what the checkers watch (R432). -/
def execSingleFault (kind : FaultKind) (s : State) : Res :=
  .next (match kind with
    | .scratchCell c a =>
      let b := a.toNat / 65536
      s.scrubRow c b ((s.core c).mapped b (a.toNat / 128 % 512)) .corrected
    | .lineCell n => s.scrubLine n .corrected
    | .frameCell n =>
      s.frameCorrected n
    | .primaryC c n x => s.mapJob c fun j => j.flipC (flipReg n x) 0
    | .checkerC c n x => s.mapJob c fun j => j.flipC (flipReg n x) 1
    | .thirdC c n x => s.mapJob c fun j => j.flipC (flipReg n x) 2
    | .controlC c who k => s.mapJob c fun j => j.flipC (strikeCell k) who
    -- correction masks them at the next read
    | .accCell _ _ _ | .regCell _ _ _ => s
    | .epilogue c => s.setCore c { s.core c with latent := (s.core c).latent ++ [kind] }
    | .accElement c k n x => s.mapJob c fun j => { j with m := j.m.setAcc k ((j.m.accAt k).strike n x) }
    | .storePath c => s.setCore c { s.core c with latent := (s.core c).latent ++ [kind] }
    | .addressAdder c => s.setCore c { s.core c with latent := (s.core c).latent ++ [kind] })

end Sys2Proof.Machine
end

