-- ==== Sys2Proof/Machine/Governor.lean ====
section
/-! DEFINITION. The governor (R352-R363): the interval boundary, the choice of a step, the evacuation, the change of level, flags,
and droops (R348). -/

namespace Sys2Proof.Machine

/-! ## The boundary (R352) -/

/-- The pool that the islands share, in BU. -/
def State.pool (s : State) : Nat := Nat.min s.penv s.ppkg * 20 - s.hallow

/-- The sum of the islands' weights. -/
def State.sumWeight (s : State) : Nat := s.islands.toList.foldl (fun n i => n + i.weight) 0

/-- f of the boundary procedure: twice the distance to the temperature limit, between 0 and 16. -/
def heatFactor (tlim temp : Nat) : Nat := Nat.min (2 * (tlim - temp)) 16

/-- inc of the boundary procedure, in BU. -/
def increment (pool weight f sum : Nat) : Nat := if sum = 0 then 0 else pool * weight * f / (16 * sum)

/-- The boundary for one island: account, stretch and flag (R352), and what R353 remembers. Accounts stand in 1/64 BU. -/
def Island.boundary (i : Island) (pool sum : Nat) (x : IslSense) : Island :=
  let inc := increment pool i.weight (heatFactor i.tlim x.temp) sum
  let refill := Nat.min (64 * i.rsvtgt - i.res) (64 * inc)
  let bal : Int := min (i.bal + 64 * inc - refill - 64 * x.ovh) (4 * 64 * inc)
  let cause := decide (bal < 0) || decide (i.tlim ≤ x.temp + 1)
  let n := if cause then (if i.flagged then Nat.min (i.stretch + 4) 12 else i.stretch) else i.stretch - 4
  let short := decide (bal < 0) || decide (bal + 64 * inc - 64 * x.meas < 0)
  let hot := decide (i.tlim ≤ x.temp + 2)
  { i with
    inc, bal, res := i.res + refill, stretch := n
    flagged := (cause || short || hot) && decide (n < 12)
    flagCause := BitVec.ofNat 2 (short.toNat + 2 * hot.toNat)
    was12 := decide (n = 12)
    rich := if 3 * 64 * (inc : Int) ≤ bal then satTo 4 (i.rich + 1) else 0 }

/-! ## The choice of a step (R353) -/

/-- The cases of R353. -/
inductive StepCase
  | down
  | up
  | none
  deriving DecidableEq, Repr

/-- The clusters of an island. -/
def islClus (i : IslId) : List CluId := (List.finRange 32).filter fun k => cluIsl k = i

/-- A card of the island waits on capacity (R359). -/
def State.capacityWait (s : State) (i : IslId) : Bool :=
  (islClus i).any fun k => (s.cluster k).cards.any fun e => e.2.capSince.isSome

/-- The island's lowest level (R140). -/
def State.lowest (s : State) (i : IslId) : Nat := Nat.max (s.island i).lmin (s.floorLevel i)

/-- The first case of R353 that applies; `was12` says that N was 12 at the boundary before. -/
def State.stepCase (s : State) (i : IslId) (was12 : Bool) (temp : Nat) : StepCase :=
  let x := s.island i
  if x.lmax < x.level then .down
  else if x.level < s.lowest i ∨ (x.level < x.lmax ∧ s.capacityWait i) then .up
  else if was12 ∧ x.stretch = 12 ∧ s.lowest i < x.level then .down
  else if x.stretch = 0 ∧ x.rich = 4 ∧ temp + 4 ≤ x.tlim ∧ x.level < x.lmax then .up
  else .none

/-- A demotion of a core of the island waits for the end of a job: the island steps no level down (R142). -/
def State.pendingDemotion (s : State) (i : IslId) : Bool := (islCores i).any fun c => !(s.core c).pendDem.isEmpty

/-- What keeps a step down from starting: a capacity wait, a wrap that is vacating, a pending demotion (R353). -/
def State.noStepDown (s : State) (i : IslId) : Bool :=
  s.capacityWait i
    || ((List.finRange 24).any fun p => decide ((s.part p).wrapPhase = .vacating) && match (s.part p).desc with
        | some d => (islClus i).any fun k => d.clmask.getLsbD k.val
        | none => false)
    || s.pendingDemotion i

/-- R362 refuses the step to `l2`: a protected row would not stay usable. -/
def State.refuses (s : State) (i : IslId) (l2 : Nat) : Bool :=
  (islCores i).any fun c => (List.range 32).any fun b =>
    let u := usable (s.core c) b (s.level c)
    let u2 := usable (s.core c) b l2
    (List.range (u - u2)).any fun k => s.protects c b (u2 + k)

/-- A move in a bank of a core is still due, and yields to a timed access of the bank's group (R149, R363). -/
def State.moveYields (s : State) (c : CoreId) (l2 b : Nat) : Bool := (s.core c).toMove l2 b && s.yieldsAt c (b * 65536)

/-- The moves of R362 on the cores of an island, bank by bank, but for those that yield in this cycle (R363). -/
def State.evacuate (s : State) (i : IslId) (l2 : Nat) : State :=
  (islCores i).foldl (fun st c => (List.range 32).foldl (fun t b =>
    if t.moveYields c l2 b then t else t.setCore c ((t.core c).evacuate (s.island i).level l2 b)) st) s

/-- Some move of an evacuation still waits (R363). -/
def State.evacWaits (s : State) (i : IslId) (l2 : Nat) : Bool :=
  (islCores i).any fun c => (List.range 32).any fun b => s.moveYields c l2 b

/-- A step down is tried: it may not start, be refused and stay pending, or evacuate (R353, R362). -/
def State.tryDown (s : State) (i : IslId) : State :=
  let x := s.island i
  let l2 := s.nextLevel i false
  if x.level = 0 ∨ l2 < s.floorLevel i ∨ s.noStepDown i then s
  else if s.refuses i l2 then s.setIsland i { x with pendingDown := true }
  else
    (s.evacuate i l2).setIsland i
      { x with step := some { target := l2, since := s.time }, evacSince := some s.time, pendingDown := false }

/-- A step up starts; a pending step down is cancelled (R353). -/
def State.startUp (s : State) (i : IslId) : State :=
  s.setIsland i { s.island i with
    step := some { target := Nat.min (s.nextLevel i true) 14, since := s.time }, pendingDown := false }

/-- At most one change of level starts on an island. -/
def State.chooseStep (s : State) (i : IslId) (was12 : Bool) (temp : Nat) : State :=
  let x := s.island i
  if x.step.isSome then s
  else
    match s.stepCase i was12 temp with
    | .down => s.tryDown i
    | .up => s.startUp i
    | .none => if x.pendingDown then s.tryDown i else s

/-- A flag reaches every job that runs on the island (R357). -/
def State.flagIsland (s : State) (i : IslId) : State :=
  let x := s.island i
  if x.flagged then (islCores i).foldl (fun st c => st.mapJob c fun j => j.flagged x.flagCause (toBoundary s.time)) s else s

/-- The boundary of one island with the flag and the step that it leads to. -/
def State.islandBoundary (s : State) (pool sum : Nat) (i : IslId) (x : IslSense) : State :=
  let was12 := (s.island i).was12
  let s1 := s.setIsland i ((s.island i).boundary pool sum x)
  let s2 := (s1.flagIsland i).chooseStep i was12 x.temp
  let s3 := s2.twinGuard i
  s3.sample 2 (some i) ((s3.island i).bal / 64)

/-- GOVERNOR_INTERVAL: the boundary of the eight islands, the host allowance, the VF budgets (R397) and the tests of stalled
PHASEs (R352, R353, R356, R360). -/
def execGovernorInterval (sense : Vector IslSense 8) (s : State) : Res :=
  let pool := s.pool
  let sum := s.sumWeight
  let s1 := (List.finRange 8).foldl (fun st i => st.islandBoundary pool sum i (sense[i.val]'i.isLt)) s
  let s2 := { s1 with
    hostAllow := 64 * s1.hallow
    ctxs := s1.ctxs.map fun c => { c with rem := 64 * c.budget } }
  .next ((List.finRange 8).foldl State.retryPhases s2)

/-! ## Changes of level (R346, R347, R363) -/

/-- A step is given up; a step down stays pending. -/
def State.abandonStep (s : State) (i : IslId) (down : Bool) : State :=
  let x := s.island i
  s.setIsland i { x with step := none, evacSince := none, pendingDown := x.pendingDown || down }

/-- EVACUATION_TIMEOUT: an evacuation that has run for 50 us is abandoned (R363). -/
def execEvacuationTimeout (island : IslId) (s : State) : Res :=
  match (s.island island).evacSince with
  | none => .next s
  | some t => if s.time < t + 50000 then .next s else .next (s.abandonStep island true)

/-- The new level takes effect: levels, row maps and usable rows change in one cycle (R347). -/
def State.relevel (s : State) (i : IslId) (l2 : Nat) : State :=
  let l := (s.island i).level
  let s1 := (islCores i).foldl (fun st c => { st.setCore c ((st.core c).relevel st.fresh l l2) with fresh := st.fresh + 1 }) s
  s1.setIsland i { s1.island i with level := l2, step := none, evacSince := none }

/-- LEVEL_CHANGE: a transition ends (R347). A twin that is no longer permitted, rows that R141 protects, or a step down while a
demotion is pending (R142), end it without effect. It waits for moves that yield (R363). -/
def execLevelChange (island : IslId) (s : State) : Res :=
  let x := s.island island
  match x.step with
  | none => .next s
  | some t =>
    if isTwin t.target && !s.twinOk island then .next (s.abandonStep island false)
    else if x.level ≤ t.target then .next ((s.relevel island t.target).retryPhases island)
    else if s.refuses island t.target || decide (t.target < s.floorLevel island) || s.pendingDemotion island then .next (s.abandonStep island true)
    else
      let s1 := s.evacuate island t.target
      .next (if s1.evacWaits island t.target then s1 else (s1.relevel island t.target).retryPhases island)

/-- PHASE_CAPWAIT_TIMEOUT: a PHASE has waited for capacity for CAPWAIT us (R360). -/
def execPhaseCapwaitTimeout (core : CoreId) (s : State) : Res :=
  match s.job core with
  | none => .next s
  | some j =>
    match j.c.wait with
    | .phase since _ =>
      if s.time < since + 1000 * j.capwait ∨ j.trapped .c then .next s else .next (s.capShort core j)
    | _ => .next s

/-! ## Droops (R348) -/

/-- DROOP_DETECT: every cycle of the island is lengthened until its supply recovers; the cycles are counted. -/
def execDroopDetect (island : IslId) (s : State) : Res :=
  let x := s.island island
  .next (s.setIsland island { x with droop := true, droopLen := if x.droop then x.droopLen else 0 })

/-- DROOP_RECOVER: the stretch ends, and monitor 1 samples the depth; the length stays recorded (R348, R461; log 84). -/
def execDroopRecover (island : IslId) (depth : Nat) (s : State) : Res :=
  let x := s.island island
  if !x.droop then .next s
  else .next ((s.setIsland island { x with droop := false }).sample 1 (some island) (depth : Int))

/-! ## The clock (R6, R343, R348, R349) -/

/-- The present cycle of an island is lengthened to two periods: N of every 16, and every one in a droop. -/
def Island.lengthened (i : Island) : Bool := i.droop || decide (i.cycles % 16 < i.stretch)

/-- The time base after one cycle of an island, a new instant; 5,544 units are 1 ns. -/
def State.passCycle (s : State) (i : IslId) : State :=
  let x := s.island i
  let t := s.frac + 55440 / clock10 x.level * (if x.lengthened then 2 else 1)
  { s.markAll with time := s.time + t / 5544, frac := t % 5544, now := [] }

end Sys2Proof.Machine
end

