-- ==== Sys2Proof/Machine/Queues.lean ====
section
/-! DEFINITION. Queues of packets: doorbells and states (R388-R390), packets (R391-R393), operators and castling (R394-R397),
resets of functions and TDI states (R384, R385). -/

namespace Sys2Proof.Machine

/-! ## Positions and states -/

/-- The levels after a packet at the innermost one is done, and whether the ring advances (R393). -/
def nextPacket : List Indirect → List Indirect × Bool
  | [] => ([], true)
  | l :: ls => if l.next + 1 < l.count then ({ l with next := l.next + 1 } :: ls, false) else nextPacket ls

/-- The fetcher goes on, or is idle at TAIL. -/
def Queue.goOn (u : Queue) : Queue :=
  { u with state := if u.levels.isEmpty && u.empty then .idle else .fetching }

/-- The packet in hand is done: HEAD or the position in a buffer advances (R392, R393). -/
def Queue.advance (u : Queue) : Queue :=
  let (ls, up) := nextPacket u.levels
  Queue.goOn { u with levels := ls, head := if up then (u.head + 1) % 2 ^ 32 else u.head, stale := 0, held := none, opsLeft := 0 }

/-- The queue halts with an error record (R399). -/
def State.queueHalt (s : State) (ctx : CtxId) (q code addr detail : Nat) (head : List Byte) : State :=
  let u := s.queue ctx q
  let s1 := s.queueError ctx q code u.levels.length u.expected addr detail head
  s1.setQueue ctx q { s1.queue ctx q with state := .halted, levels := [], held := none, opsLeft := 0, fails := [] }

/-- The fetcher posts a page request; its queue waits for the answer (R390, R401). The fifth failure of one page in a row acts as a
deny (R378). -/
def State.queueFault (s : State) (ctx : CtxId) (q : Nat) (w : WalkStop) (va : Nat) : State :=
  let u := s.queue ctx q
  match s.ctxPart ctx with
  | none => s
  | some p =>
    if 5 ≤ SMap.get 0 u.fails (va / 4096) + 1 then s.queueHalt ctx q 5 va 0 []
    else
      (s.setQueue ctx q { u with state := .fetchFault, fails := failAgain u.fails va }).askPage p ctx 0 w.reason w.level 6 va noCore
        (.queue ctx q)

/-- A read of the fetcher: its bytes, or the state in which the queue waits or has halted with FETCH_DENIED (R390, R401). -/
def State.queueRead (s : State) (ctx : CtxId) (q va n : Nat) : Except State (List Byte) :=
  match s.devRead ctx va n with
  | .data bs => .ok bs
  | .noLeaf w a => .error (s.queueFault ctx q w a)
  | .forbidden | .failed _ => .error (s.queueHalt ctx q 5 va 0 [])
  | .fill f => .error (s.ownFill ctx f)
  | .draw => .error s

/-! ## Packets (R391, R392) -/

/-- What a packet asks for. -/
inductive Packet
  | nop
  | operators (count addr : Nat)
  | indirect (count addr : Nat)
  | signal
  | wait
  deriving DecidableEq, Repr

/-- A 64-byte-aligned virtual address. -/
def queueVa (a : Nat) : Bool := decide (a % 64 = 0) && decide (a < 2 ^ 48)

/-- The first offset of a list of checks that fails. -/
def firstOff : List (Bool × Nat) → Option Nat
  | [] => none
  | (bad, o) :: l => if bad then some o else firstOff l

/-- Field of `n` bytes at byte `o`. -/
def packFld (bs : List Byte) (o n : Nat) : Nat := natOfBytes ((bs.drop o).take n)

/-- Reads a packet: its type, or the offset of the first field that is wrong (R391, R392). -/
def packetOf (bs : List Byte) : Except Nat Packet :=
  let f := packFld bs
  let addr := (!queueVa (f 8 8), 8)
  let tail := [(decide (f 56 4 ≠ 0), 56), (!crcOk bs, 60)]
  let run := fun (l : List (Bool × Nat)) (p : Packet) =>
    match firstOff ((decide (f 5 3 ≠ 0), 5) :: l ++ tail) with
    | some o => .error o
    | none => .ok p
  match f 4 1 with
  | 0 => run [(decide (f 16 40 ≠ 0), 16)] .nop
  | 1 => run [addr, (decide (f 16 2 = 0 ∨ 256 < f 16 2), 16), (decide (f 18 38 ≠ 0), 18)] (.operators (f 16 2) (f 8 8))
  | 2 => run [addr, (decide (f 16 2 = 0 ∨ 4096 < f 16 2), 16), (decide (f 18 38 ≠ 0), 18)] (.indirect (f 16 2) (f 8 8))
  | 3 => run [(decide (f 26 2 ≠ 0), 26), (decide (f 34 22 ≠ 0), 34)] .signal
  | 4 => run [(decide (f 26 2 ≠ 0), 26), (decide (f 32 24 ≠ 0), 32)] .wait
  | _ => .error 4

/-- The fetcher may take a packet of the queue. -/
def Queue.fetches (u : Queue) : Bool := decide (u.state = .fetching) && u.held.isNone && decide (u.opsLeft = 0)

/-- Reads the next packet of a queue and acts on it; `k` takes the packet, `stale` what a stale one leads to. -/
def State.withPacket (s : State) (ctx : CtxId) (q : QueueId) (stale : State → List Byte → State)
    (k : State → List Byte → Except Nat Packet → State) : State :=
  let u := s.queue ctx q.val
  if !u.fetches || !s.live ctx then s
  else if u.levels.isEmpty && u.empty then s.setQueue ctx q.val u.goOn
  else
    match s.queueRead ctx q.val u.packetVa 1 with
    | .error s1 => s1
    | .ok bs =>
      let s1 := (s.devDrawn ctx u.packetVa 1).setQueue ctx q.val { u with fails := [] }
      if packFld bs 0 4 = u.expected then k s1 bs (packetOf bs) else stale s1 bs

/-- NOP_PACKET (R392). -/
def execNopPacket (ctx : CtxId) (queue : QueueId) (s : State) : Res :=
  .next (s.withPacket ctx queue (fun s _ => s) fun s _ p =>
    match p with
    | .ok .nop => s.setQueue ctx queue.val (s.queue ctx queue.val).advance
    | _ => s)

/-- BADPACKET: a packet that is wrong halts its queue with code 2 (R392). -/
def execBadpacket (ctx : CtxId) (queue : QueueId) (s : State) : Res :=
  .next (s.withPacket ctx queue (fun s _ => s) fun s bs p =>
    match p with
    | .error o => s.queueHalt ctx queue.val 2 (s.queue ctx queue.val).packetVa o bs
    | .ok _ => s)

/-- STALE_REREAD: a stale packet is read again; the eighth stale read parks the queue (R392). -/
def execStaleReread (ctx : CtxId) (queue : QueueId) (s : State) : Res :=
  let q := queue.val
  .next (s.withPacket ctx queue
    (fun s bs =>
      let u := s.queue ctx q
      if u.stale < 7 then s.setQueue ctx q { u with stale := u.stale + 1 }
      else
        let s1 := s.queueError ctx q 1 u.levels.length u.expected u.packetVa 0 bs
        let u1 := s1.queue ctx q
        s1.setQueue ctx q { u1 with state := .parked, stale := 0, stalecnt := satTo 255 (u1.stalecnt + 1) })
    fun s _ _ => s.setQueue ctx q { s.queue ctx q with stale := 0 })

/-! ## Indirect buffers (R393) -/

/-- Two ranges of bytes meet. -/
def rangesMeet (a n b m : Nat) : Bool := decide (a < b + m) && decide (b < a + n)

/-- A range overlaps the ring or an active buffer. -/
def Queue.loops (u : Queue) (a n : Nat) : Bool :=
  rangesMeet a n (bitsAt u.qbase.toNat 12 36 * 4096) (64 * u.size) || u.levels.any fun l => rangesMeet a n l.addr (64 * l.count)

/-- INDIRECT: fetching goes on in the buffer (R393). -/
def execIndirect (ctx : CtxId) (queue : QueueId) (s : State) : Res :=
  let q := queue.val
  .next (s.withPacket ctx queue (fun s _ => s) fun s bs p =>
    let u := s.queue ctx q
    match p with
    | .ok (.indirect count addr) =>
      if u.levels.length = 4 then s.queueHalt ctx q 3 u.packetVa 0 bs
      else if u.loops addr (64 * count) then s.queueHalt ctx q 4 u.packetVa 0 bs
      else s.setQueue ctx q { u with levels := { addr, count, next := 0 } :: u.levels, stale := 0 }
    | _ => s)

/-! ## SIGNAL and WAIT (R392) -/

/-- The semaphore and counter that a packet names; an offset that fails R395. -/
def State.packetNames (s : State) (ctx : CtxId) (bs : List Byte) : Except Nat (Option Nat × Option Nat) :=
  let n := packFld bs 28 4
  match s.cardSem ctx (packFld bs 24 2) with
  | none => .error 24
  | some sem => if s.ctrOk ctx n then .ok (sem, if n = 0xFFFFFFFF then none else some n) else .error 28

/-- A SIGNAL or WAIT packet is taken in hand. -/
def State.takePacket (s : State) (ctx : CtxId) (q : Nat) (bs : List Byte) (wait : Bool) : State :=
  let u := s.queue ctx q
  match s.packetNames ctx bs with
  | .error o => s.queueHalt ctx q 7 u.packetVa o bs
  | .ok (sem, ctr) =>
    let h : QHeld := { wait, bits := BitVec.ofNat 64 (packFld bs 16 8), sem, ctr, value := packFld bs 32 2 }
    s.setQueue ctx q { u with held := some h, stale := 0, state := if wait then .waiting else u.state }

/-- SIGNAL (R392). -/
def execSignal (ctx : CtxId) (queue : QueueId) (s : State) : Res :=
  .next (s.withPacket ctx queue (fun s _ => s) fun s bs p =>
    match p with
    | .ok .signal => s.takePacket ctx queue.val bs false
    | _ => s)

/-- WAIT (R392). -/
def execWait (ctx : CtxId) (queue : QueueId) (s : State) : Res :=
  .next (s.withPacket ctx queue (fun s _ => s) fun s bs p =>
    match p with
    | .ok .wait => s.takePacket ctx queue.val bs true
    | _ => s)

/-- A card of the queue has not retired: its latest operator has not. -/
def State.queueBusy (s : State) (ctx : CtxId) (q : Nat) : Bool :=
  s.allCards.any fun e => decide (e.2.2.ctx = ctx) && decide (e.2.2.queue = q)

/-- SIGNAL_PACKET_PERFORM: every earlier operator has retired; the bits are ORed and then the counter is set (R392), before the launch
clears, SIG ORs and decrements of the same cycle (R307). -/
def execSignalPacketPerform (ctx : CtxId) (queue : QueueId) (s : State) : Res :=
  let q := queue.val
  let u := s.queue ctx q
  match u.held with
  | none => .next s
  | some h =>
    if h.wait ∨ u.state ≠ .fetching ∨ u.pending.isSome ∨ s.queueBusy ctx q ∨ !s.live ctx then .next s
    else
      let s1 := match h.sem with
        | some n => s.semPacket n h.bits
        | none => s
      let s2 := match h.ctr with
        | some n => s1.ctrPacket n h.value
        | none => s1
      .next (s2.setQueue ctx q u.advance)

/-- WAIT_PACKET_RELEASE: the test of R309 passes (R392). -/
def execWaitPacketRelease (ctx : CtxId) (queue : QueueId) (s : State) : Res :=
  let u := s.queue ctx queue.val
  match u.held with
  | none => .next s
  | some h =>
    if !h.wait ∨ u.state ≠ .waiting ∨ !s.waitPasses h.ctr h.sem h.bits then .next s
    else .next (s.setQueue ctx queue.val u.advance)

/-! ## Operators (R394, R395) -/

/-- The offset of the first field of an operator record that is wrong. -/
def recordFault (bs : List Byte) : Option Nat :=
  let f := packFld bs
  firstOff [(decide (64 < f 0 1), 0), (decide (2 ≤ f 1 1), 1), (decide (f 3 5 ≠ 0), 3),
    (decide (f 0 1 ≠ 0 ∧ (f 8 8 % 128 ≠ 0 ∨ 2 ^ 48 ≤ f 8 8)), 8), (decide (f 2 1 ≠ 0) && !queueVa (f 16 8), 16),
    (decide (f 24 36 ≠ 0), 24), (!crcOk bs, 60)]

/-- SHADOW of an operator (R394). -/
def shadowOf (active : Vector W64 8) (wmask : Nat) (vals : List Byte) : Vector W64 8 :=
  Vector.ofFn fun i : Fin 8 => if wmask.testBit i.val then BitVec.ofNat 64 (packFld vals (8 * i.val) 8) else active[i.val]

/-- Reads and checks the templates of an operator, `n` of them from index `k` (R395). -/
def State.templates (s : State) (ctx : CtxId) (q cards : Nat) : Nat → Nat → Except State (List Card)
  | _, 0 => .ok []
  | k, n + 1 =>
    match s.queueRead ctx q (cards + 128 * k) 2 with
    | .error s1 => .error s1
    | .ok bs =>
      match s.cardOf 0 ctx q bs none with
      | none => .error (s.queueHalt ctx q 7 (cards + 128 * k) k bs)
      | some x =>
        match s.templates ctx q cards (k + 1) n with
        | .error s1 => .error s1
        | .ok l => .ok (x :: l)

/-- CARDQ of a context; a steward context has no quota (R396). -/
def State.overQuota (s : State) (ctx : CtxId) (n : Nat) : Bool := decide (ctx.val < 384) && decide ((s.ctx ctx).cardq < n)

/-- Expands one operator record: its cards are held for castling (R394, R397). -/
def State.expand (s : State) (ctx : CtxId) (q : Nat) : State :=
  let u := s.queue ctx q
  match s.queueRead ctx q u.opsAddr 1 with
  | .error s1 => s1
  | .ok bs =>
    match recordFault bs with
    | some o => s.queueHalt ctx q 6 u.opsAddr o bs
    | none =>
      let n := packFld bs 0 1
      let wmask := packFld bs 2 1
      if s.overQuota ctx n then s.queueHalt ctx q 7 u.opsAddr 0 bs
      else
        match (if wmask = 0 then .ok [] else s.queueRead ctx q (packFld bs 16 8) 1), s.templates ctx q (packFld bs 8 8) 0 n with
        | .ok vals, .ok cards =>
          let s1 := (s.devDrawn ctx u.opsAddr 1).devDrawn ctx (packFld bs 16 8) (if wmask = 0 then 0 else 1)
          (s1.devDrawn ctx (packFld bs 8 8) (2 * n)).setQueue ctx q { u with
            shadow := shadowOf u.active wmask vals, state := .waiting, fails := []
            pending := some { cards, argbank := decide (packFld bs 1 1 = 1), castled := false } }
        | .error s1, _ => s1
        | _, .error s1 => s1

/-- OPERATORS: takes the packet, or the next record of its chain (R392, R394). Nothing expands while an operator waits for
castling. -/
def execOperators (ctx : CtxId) (queue : QueueId) (s : State) : Res :=
  let q := queue.val
  let u := s.queue ctx q
  if u.pending.isSome then .next s
  else if 0 < u.opsLeft ∧ u.state = .fetching ∧ s.live ctx then .next (s.expand ctx q)
  else
    .next (s.withPacket ctx queue (fun s _ => s) fun s _ p =>
      match p with
      | .ok (.operators count addr) =>
        (s.setQueue ctx q { s.queue ctx q with opsLeft := count, opsAddr := addr, stale := 0 }).expand ctx q
      | _ => s)

/-! ## Castling and the quota (R394, R397) -/

/-- The dispatchers of a context's partition with a free slot. -/
def State.roomy (s : State) (ctx : CtxId) : List CluId :=
  match s.ctxPart ctx with
  | none => []
  | some p => (s.partClus p).filter fun k => (s.cluster k).freeSlot.isSome

/-- A card goes to a dispatcher of its partition (log 23). -/
def State.placeCard (s : State) (x : Card) : State :=
  let l := s.roomy x.ctx
  let home := l.getD (Config.homePick s.fresh % l.length) 0
  match { s with fresh := s.fresh + 1 }.enqueue home { x with home, age := s.time } with
  | some s1 => s1
  | none => s

/-- Free slots of the dispatchers of a context's partition. -/
def State.freeSlots (s : State) (ctx : CtxId) : Nat :=
  match s.ctxPart ctx with
  | none => 0
  | some p => (s.partClus p).foldl (fun n k => n + (512 - (s.cluster k).cards.length)) 0

/-- The cards of an operator that has castled are queued once the quota and the dispatchers have room; the next record or
packet follows. A WAIT packet that a reset queue has in hand goes on waiting (R390). -/
def State.queueCards (s : State) (ctx : CtxId) (q : Nat) (p : QPend) : State :=
  let u := s.queue ctx q
  if s.overQuota ctx ((s.ctx ctx).ncards + p.cards.length) || decide (s.freeSlots ctx < p.cards.length) then
    s.setQueue ctx q { u with pending := some { p with castled := true } }
  else
    let args := if p.argbank then some u.active else none
    let s1 := p.cards.foldl (fun st x => st.placeCard { x with args }) s
    let u1 : Queue := { s1.queue ctx q with pending := none }
    s1.setQueue ctx q (
      if u1.opsLeft = 0 then (if u1.state = .waiting ∧ u1.held = none then u1.goOn else u1)
      else if u1.opsLeft = 1 then u1.advance
      else { u1 with opsLeft := u1.opsLeft - 1, opsAddr := u1.opsAddr + 64, state := .fetching })

/-- The queue's operator may castle or queue its cards: it waits, or a reset has left it behind (R390). -/
def Queue.mayCastle (u : Queue) : Bool :=
  decide (u.state = .waiting) || (decide (u.opsLeft = 0) && decide (u.state ≠ .suspended))

/-- The queue was suspended at this instant, while its operator waited to castle (R394). -/
def State.justSuspended (s : State) (ctx : CtxId) (q : Nat) : Bool :=
  decide ((s.queue ctx q).state = .suspended) && decide ((s.queue ctx q).prev = .waiting) && decide (.suspend ctx q ∈ s.now)

/-- CASTLING: every card of the previous operator has retired; ACTIVE becomes SHADOW (R394). A suspension at the same instant comes
after it, and stops the fetcher at the next packet boundary (R121). -/
def execCastling (ctx : CtxId) (queue : QueueId) (s : State) : Res :=
  let q := queue.val
  let u := s.queue ctx q
  match u.pending with
  | none => .next s
  | some p =>
    if p.castled ∨ s.queueBusy ctx q ∨ !s.live ctx then .next s
    else if s.justSuspended ctx q then
      let s1 := (s.setQueue ctx q { u with state := .waiting, active := u.shadow }).queueCards ctx q p
      .next (s1.setQueue ctx q (s1.queue ctx q).stop)
    else if !u.mayCastle then .next s
    else .next ((s.setQueue ctx q { u with active := u.shadow }).queueCards ctx q p)

/-- QUOTA_WAIT_RELEASE: CARDS + NCARD is at most CARDQ (R397). -/
def execQuotaWaitRelease (ctx : CtxId) (queue : QueueId) (s : State) : Res :=
  let u := s.queue ctx queue.val
  match u.pending with
  | none => .next s
  | some p => if !p.castled ∨ !u.mayCastle ∨ !s.live ctx then .next s else .next (s.queueCards ctx queue.val p)

/-! ## Doorbells and resets of queues (R388-R390) -/

/-- DOORBELL (R388-R390, R456). -/
def execDoorbell (ctx : CtxId) (value : W64) (s : State) : Res :=
  let v := value.toNat
  let q := bitsAt v 16 6
  if s.stage ≠ .ready then .next s.dropEarly
  else if (s.ctxPart ctx).isNone then .next s.pf0Error
  else if v / 2 ^ 22 ≠ 0 ∨ bitsAt v 14 2 ≠ 0 ∨ queueCount ctx ≤ q then .next (s.reserved (.queues ctx))
  else
    let u : Queue := { s.queue ctx q with tail := v % 2 ^ 14 }
    .next (s.setQueue ctx q (
      if u.state = .idle then u.goOn
      else if u.fetches && u.levels.isEmpty then u.goOn else u))

/-- QCTL_RESET: a write of QCTL with RESET puts the queue into IDLE, from which a doorbell takes it on (R389, R390). Cards held for
castling are unaffected, and a page request is abandoned. A parked queue that goes on at its HEAD goes on at its packet (R390,
R393). -/
def execQctlReset (ctx : CtxId) (queue : QueueId) (value : W64) (s : State) : Res :=
  let q := queue.val
  let u := s.queue ctx q
  if s.stage ≠ .ready then .next s.dropEarly
  else if queueCount ctx ≤ q ∨ !value.getLsbD 63 then .next s
  else
    let head := bitsAt value.toNat 0 32
    let stay := decide (u.state = .parked) && decide (u.head = head)
    let s1 : State := { s with
      parts := s.parts.map fun p => ({ p with reqs := p.reqs.filter fun r => decide (r.owner ≠ ReqOwner.queue ctx q) } : Part) }
    .next (s1.setQueue ctx q { u with
      state := .idle, head, levels := if stay then u.levels else [], stale := 0, held := none, opsLeft := 0, prev := .idle
      frozen := false, stopping := false, fails := [] })

/-! ## Function-level reset and TDIs (R384, R385) -/

/-- The context of a VF. -/
def vfCtx (v : Fin 384) : CtxId := ⟨v.val, by have := v.isLt; omega⟩

/-- A TDI is no longer in RUN: its context is killed, and vector 3 says so (R385, R386). -/
def State.leaveRun (s : State) (v : Fin 384) (t : Tdi) : State :=
  let c := vfCtx v
  let s1 := s.setCtx c { s.ctx c with tdi := t }
  if !(s.ctx c).killed then s1.kill c
  else if (s.ctx c).tdi = .run then s1.vfIrq c 3 else s1

/-- FUNCTION_LEVEL_RESET (R385, R455). -/
def execFunctionLevelReset (vf : Fin 384) (s : State) : Res :=
  .next (s.leaveRun vf (if (s.ctx (vfCtx vf)).tdi = .unlocked then .unlocked else .error))

/-- TDI_LEAVE_RUN (R385). -/
def execTdiLeaveRun (vf : Fin 384) (s : State) : Res :=
  if (s.ctx (vfCtx vf)).tdi = .run then .next (s.leaveRun vf .error) else .next s

/-- TDISP_MESSAGE: lock, start and stop move a TDI through its states (R384); a message that its state does not allow changes
nothing. -/
def execTdispMessage (vf : Fin 384) (msg : TdMsg) (s : State) : Res :=
  let c := vfCtx vf
  let moved := fun (t : Tdi) => s.setCtx c { s.ctx c with tdi := t }
  .next (match msg, (s.ctx c).tdi with
    | .lock, .unlocked => moved .locked
    | .start, .locked => moved .run
    | .stop, .run => s.leaveRun vf .unlocked
    | .stop, _ => moved .unlocked
    | _, _ => s)

end Sys2Proof.Machine
end

