-- ==== Sys2Proof/Machine/Spdm.lean ====
section
/-! DEFINITION. The SPDM responder and KEYSET (R458). The contents of responses that the spec leaves to the package are opaque
(log 15). -/

namespace Sys2Proof.Machine

/-- A response with bytes that the package makes; `kind` names the message. -/
def State.respond (s : State) (kind : Nat) : State :=
  { s with fresh := s.fresh + 1 }.send (.spdm true (Config.message kind s.fresh))

/-- A response with these bytes. -/
def State.answerWith (s : State) (bs : List Byte) : State := s.send (.spdm true bs)

/-- The response VERSION, which offers 1.3 alone (log 15). -/
def versionBytes : List Byte := [0x10, 0x04, 0, 0, 0, 1, 0x00, 0x13]

/-- The response ALGORITHMS: SHA-384 for measurements, RSASSA-3072, SHA-384, and, in its two tables, secp384r1 and AES-256-GCM
(log 15). -/
def algorithmBytes : List Byte :=
  [0x13, 0x63, 2, 0, 44, 0, 1, 0] ++ bytesOfNat 4 4 ++ bytesOfNat 4 4 ++ bytesOfNat 4 2 ++ bytesOfNat 16 0
    ++ [2, 0x20, 0x10, 0, 3, 0x20, 2, 0]

/-- The transcript that a signature covers: the responses since the last VERSION (log 15). -/
def State.transcript (s : State) : List Byte :=
  s.outbox.foldl (fun t o => match o with
    | .spdm true bs => if bs = versionBytes then bs else t ++ bs
    | _ => t) []

/-- A vendor-defined measurement block (R458). -/
def vendorBlock (bs : List Byte) : List Byte := [0xFD, 0x01] ++ bytesOfNat 2 bs.length ++ bs

/-- The response ERROR, which changes nothing. -/
def State.spdmError (s : State) : State := s.send (.spdm false [])

/-- Answers a request where its condition holds, with ERROR elsewhere. -/
def State.spdmIf (s : State) (ok : Bool) (f : State → State) : Res := .next (if ok then f s else s.spdmError)

/-- GET_VERSION starts a negotiation anew. -/
def execGetVersion (s : State) : Res :=
  .next (State.answerWith { s with spdm := { version := true, caps := false, algs := false, sessions := [] } } versionBytes)

/-- GET_CAPABILITIES follows GET_VERSION. -/
def execGetCapabilities (s : State) : Res :=
  s.spdmIf s.spdm.version fun s => State.respond { s with spdm := { s.spdm with caps := true } } 1

/-- NEGOTIATE_ALGORITHMS selects RSASSA-3072, SHA-384, secp384r1 and AES-256-GCM, where the requester offers them. -/
def execNegotiateAlgorithms (offered : Bool) (s : State) : Res :=
  s.spdmIf (s.spdm.version && s.spdm.caps && offered) fun s =>
    State.answerWith { s with spdm := { s.spdm with algs := true } } algorithmBytes

/-- The certificate chain of slot 0, which the identity block holds: up to 48 KiB (R456). -/
def certChain : List Byte := (List.range (Config.certLen % 49153)).map Config.certByte

/-- GET_DIGESTS: the SHA-384 digest of the certificate chain. -/
def execGetDigests (s : State) : Res :=
  s.spdmIf s.spdm.algs fun s => s.send (.spdm true ((sha384 (certChain.map BitVec.toNat)).map (BitVec.ofNat 8)))

/-- GET_CERTIFICATE: a part of the certificate chain. -/
def execGetCertificate (offset len : BitVec 16) (s : State) : Res :=
  s.spdmIf s.spdm.algs fun s => s.send (.spdm true ((certChain.drop offset.toNat).take len.toNat))

/-- CHALLENGE: a signed response for the nonce. -/
def execChallenge (nonce : BitVec 256) (s : State) : Res :=
  s.spdmIf s.spdm.algs fun s =>
    let m := bytesOfNat 32 nonce.toNat ++ Config.message 5 s.fresh
    State.answerWith { s with fresh := s.fresh + 1 } (m ++ Config.sign 0 (s.transcript ++ m))

/-- GET_MEASUREMENTS: the measurements for the nonce, a vendor-defined block with the SLH-DSA signature of the transcript, and the
RSASSA signature of the same transcript (R458). -/
def execGetMeasurements (nonce : BitVec 256) (s : State) : Res :=
  s.spdmIf s.spdm.algs fun s =>
    let m := bytesOfNat 32 nonce.toNat ++ Config.message 6 s.fresh
    State.answerWith { s with fresh := s.fresh + 1 }
      (m ++ vendorBlock (Config.sign 1 (s.transcript ++ m)) ++ Config.sign 0 (s.transcript ++ m))

/-- The session exists; `up` says that it is secure. -/
def Spdm.has (x : Spdm) (session : BitVec 32) (up : Bool) : Bool :=
  x.sessions.any fun e => decide (e.1 = session) && e.2 == up

/-- The sessions without one. -/
def Spdm.without (x : Spdm) (session : BitVec 32) : List (BitVec 32 × Bool) :=
  x.sessions.filter fun e => decide (e.1 ≠ session)

/-- KEY_EXCHANGE opens a session, which FINISH makes secure. -/
def execKeyExchange (session : BitVec 32) (s : State) : Res :=
  s.spdmIf (s.spdm.algs && !s.spdm.has session true && !s.spdm.has session false) fun s =>
    State.respond { s with spdm := { s.spdm with sessions := s.spdm.sessions ++ [(session, false)] } } 7

/-- FINISH: a requester that does not verify ends the session's handshake. -/
def execFinish (session : BitVec 32) (verified : Bool) (s : State) : Res :=
  if !s.spdm.has session false then .next s.spdmError
  else if verified then
    .next (State.respond { s with spdm := { s.spdm with sessions := s.spdm.without session ++ [(session, true)] } } 8)
  else .next (State.spdmError { s with spdm := { s.spdm with sessions := s.spdm.without session } })

/-- END_SESSION. -/
def execEndSession (session : BitVec 32) (s : State) : Res :=
  s.spdmIf (s.spdm.has session true) fun s =>
    State.respond { s with spdm := { s.spdm with sessions := s.spdm.without session } } 9

/-- KEYSET: installs a key within a secure session; during a sweep of the context it is refused (R413, R414, R458). -/
def execKeyset (session : BitVec 32) (ctx : CtxId) (kind : KeyKind) (key : BitVec 256) (s : State) : Res :=
  if !s.spdm.has session true ∨ (s.ctx ctx).key.sweep then .next s.spdmError
  else
    match kind with
    | .sealing =>
      match s.keyInstall ctx key with
      | some s1 => .next (s1.respond 10)
      | none => .next s.spdmError
    | .ide => .next (State.respond (s.setCtx ctx { s.ctx ctx with key := { (s.ctx ctx).key with ide := some key } }) 10)

end Sys2Proof.Machine
end

