-- ==== Sys2Proof/Machine/Bringup.lean ====
section
/-! DEFINITION. Resets (R455), bring-up (R456, R457), frame intake (R459, R460) and the clears of monitors (R461, R462). -/

namespace Sys2Proof.Machine

/-! ## Resets (R455) -/

/-- The row map of a bank over its good physical rows at a level, in ascending order (R141). -/
def Core.freshMap (c : Core) (b lvl : Nat) : Core :=
  let good := (List.range 544).filter fun p => decide (c.grade b p ≤ lvl)
  (List.range (usable c b lvl)).foldl (fun x r => x.setMap b r (good.getD r r)) { c with rowmap := c.rowmap.filter fun e =>
    !(decide (b * 512 ≤ e.1) && decide (e.1 < b * 512 + 512)) }

/-- The demotion log as a reset finds it: pending grades count (R142, R455). -/
def Core.log (c : Core) : SMap Nat := c.pendDem.foldl (fun m d => SMap.set 0 m d.1 d.2) c.grades

/-- A core after a device reset: only the demotion log is left, and the row map is made from it. -/
def Core.afterReset (c : Core) : Core :=
  let x : Core := { Core.init with grades := c.log }
  (List.range 32).foldl (fun y b => y.freshMap b 6) x

/-- Everything but fuses, the demotion log and the identity block, which has no state of its own (log 80), is reset, and bring-up
starts at stage ROM. The host's memory, what the device has sent, and the model's own fields are not part of the device. -/
def State.deviceReset (s : State) : State :=
  { State.reset with
    cores := s.cores.map Core.afterReset
    mem := s.mem.filter fun e => decide (hostBase ≤ e.1)
    outbox := s.outbox, agenda := s.agenda, turn := s.turn, fresh := s.fresh }

/-- POWER_ON_RESET. -/
def execPowerOnReset (s : State) : Res := .next s.deviceReset

/-- PCIE_HOT_RESET. -/
def execPcieHotReset (s : State) : Res := .next s.deviceReset

/-- DEVRST: a write of 1 to STATUS.DEVRST. -/
def execDevrst (s : State) : Res := .next s.deviceReset

/-- Everything in a core's scratchpad is lost. -/
def Core.loseAll (c : Core) (n : Nat) : Core :=
  { c with scr := (List.range 32).foldl (fun m b => loseRows n m b 0 512) c.scr }

/-- A core reset: engines, TLB and side cache are reset, the scratchpad is undefined, and the self-test starts. A node that
runs there is discarded as one that a node-fatal trap stops. -/
def State.coreReset (s : State) (c : CoreId) : State :=
  let s1 := s.nodeFails c .halt 0
  let x := (s1.core c).loseAll s1.fresh
  { s1.setCore c { x with tlb := [], side := [], latent := [], olds := [], selfTest := true } with fresh := s1.fresh + 1 }

/-- CORERST: firmware resets a core. -/
def execCorerst (core : CoreId) (s : State) : Res := .next (s.coreReset core)

/-- CORE_SELF_TEST_END: the core leaves quarantine only if every test has passed. -/
def execCoreSelfTestEnd (core : CoreId) (passed : BitVec 4) (s : State) : Res :=
  let x := s.core core
  let all := decide (passed = 15)
  if !x.selfTest then .next s
  else
    .next (s.setCore core { x with
      selfTest := false, quarantined := x.quarantined && !all, faultTimes := if all then [] else x.faultTimes })

/-! ## Bring-up (R456, R457) -/

/-- The stage that follows; none after READY and FAILED. -/
def Stage.next : Stage → Option Stage
  | .rom => some .verify
  | .verify => some .train
  | .train => some .firmware
  | .firmware => some .ready
  | .ready | .failed => none

/-- A partition may be formed: whole clusters and VFs that no other holds, and a ring size of R387. -/
def State.canForm (s : State) (f : PartForm) : Bool :=
  (s.part f.part).desc.isNone && decide (f.clmask ≠ 0) && decide (f.vfbase + f.vfn ≤ 384)
    && (List.range 11).any (fun k => decide (f.prqn = 2 ^ (k + 6)))
    && (List.finRange 24).all fun p => match (s.part p).desc with
      | none => true
      | some d => decide (d.clmask &&& f.clmask = 0)
          && (decide (f.vfn = 0 ∨ d.vfn = 0) || decide (d.vfbase + d.vfn ≤ f.vfbase) || decide (f.vfbase + f.vfn ≤ d.vfbase))

/-- Forms a partition; its launch counter is 0 (R36, R387). -/
def State.formPart (s : State) (f : PartForm) : State :=
  if s.canForm f then
    let d : PartDesc :=
      { clmask := f.clmask, vfbase := f.vfbase, vfn := f.vfn, ctxtab := f.ctxtab, stopbase := f.stopbase, prqbase := f.prqbase,
        prqn := f.prqn, replaylim := f.replaylim.toNat }
    s.setPart f.part { s.part f.part with launches := 0, desc := some d }
  else s

/-- Tags a semaphore with its owning VF (R306). -/
def State.ownSemaphore (s : State) (n vf : Nat) : State :=
  let c := s.cluster (semClu n)
  s.setCluster (semClu n) { c with semOwner := SMap.set 0 c.semOwner (n % 256) vf }

/-- Field of `n` bytes at byte `o` of an intake descriptor. -/
def inFld (d o n : Nat) : Nat := bitsAt d (8 * o) (8 * n)

/-- The limits of R459 on an intake descriptor. -/
def intakeOk (d : Nat) : Bool :=
  decide (inFld d 2 1 ≤ 2 ∧ inFld d 3 1 ≤ 1 ∧ inFld d 4 2 % 2 = 0 ∧ inFld d 6 2 % 2 = 0)
    && decide (inFld d 8 2 % 64 = 0 ∧ inFld d 10 2 % 64 = 0 ∧ inFld d 20 8 % 4096 = 0)
    && decide (2 ≤ inFld d 28 2 ∧ inFld d 28 2 ≤ 64 ∧ inFld d 40 24 = 0)

/-- Sets an intake stream from its descriptor (R459). The model's choice: one outside the limits sets nothing, since the spec gives it
no effect (log 24). -/
def State.setIntake (s : State) (k : Fin 48) (d : BitVec 512) : State :=
  if !intakeOk d.toNat then s else
  { s with intake := s.intake.set k.val { desc := some d.toNat, frame := 0, dropped := 0, written := 0 } k.isLt }

/-- Bytes of a table that fall into one frame of device memory are sealed there under the key of the frame's context; a frame whose
context has no key takes none (R406, R415; log 30). A part of a block is merged with its dirty lines and with the rest of the block,
which must have a base that can be trusted (R411). -/
def State.tableFrame (s : State) (pa : Nat) (bs : List Byte) (f : Nat) : State :=
  let lo := Nat.max pa (f * 4096)
  let hi := Nat.min (pa + bs.length) (f * 4096 + 4096)
  match (ctxOfNum (s.metaOf f).ctx.toNat).bind fun c => (s.ctx c).key.cur.map fun k => (c, k) with
  | none => s
  | some (c, key) =>
    let part := (bs.drop (lo - pa)).take (hi - lo)
    if frameCount ≤ f ∨ (s.metaOf f).state = 2 then s
    else if part.length = 4096 then s.sealWrite c key f lo part
    else if (s.blockLines f).length ≠ 32 ∧ blockEnd (s.metaOf f) (s.ctx c).key (s.readMeets f .verified) ≠ .install then
      s.resealFails c { frame := f, victim := none, sweep := false }
    else (s.writeBlock f none).sealWrite c key f lo part

/-- Firmware writes a table to physical memory, which is the host's from `hostBase` up. -/
def State.setTable (s : State) (pa : Nat) (bs : List Byte) : State :=
  if hostBase ≤ pa then { s with mem := s.mem.writeBytes pa bs }
  else
    (List.range ((pa + bs.length + 4095) / 4096 - pa / 4096)).foldl (fun st k => st.tableFrame pa bs (pa / 4096 + k)) s

/-- What an invalidation by firmware covers (R376). -/
def shootCovers (x : ShootForm) : Option Covers :=
  match x with
  | .all => some .all
  | .ctx n => (ctxOfNum n).map Covers.ctx
  | .page n va => (ctxOfNum n).map fun c => .page c va

/-- An invalidation that firmware issues in a partition (R376). -/
def State.shootBy (s : State) (p : PartId) (x : ShootForm) : State :=
  match shootCovers x with
  | some v => s.shootStart p v 0
  | none => s

/-- What firmware has set up takes effect: partitions, tables, owners of semaphores, intake streams, frames that it takes back into
use (R435), and invalidations (R376). -/
def State.setUp (s : State) (u : Setup) : State :=
  let s1 := u.parts.foldl State.formPart s
  let s2 := u.tables.foldl (fun st e => st.setTable e.1 e.2) s1
  let s3 := u.owners.foldl (fun st e => st.ownSemaphore e.1 e.2) s2
  let s4 := u.intake.foldl (fun st e => st.setIntake e.1 e.2) s3
  let s5 := { s4 with badFrames := s4.badFrames.filter fun f => decide (f ∉ u.lifted) }
  u.shoots.foldl (fun st e => st.shootBy e.1 e.2) s5

/-- Bring-up fails with an error; PF0's vector 69 announces it (R386). -/
def State.stageFails (s : State) (err : Fin 6) : State := State.irq { s with stage := .failed, stageErr := err } none 69

/-- VERIFY has completed: a firmware image or certificate that is rejected fails it; a configuration counts as signed where it is
accepted (R457). -/
def State.verified (s : State) (x : BootObjects) : State :=
  match bootErr x with
  | (0, signed, e) => { s with stage := .train, cfgSigned := signed, stageErr := e }
  | (e, _, _) => s.stageFails e

/-- BRINGUP_STAGE_ADVANCE: a stage has completed or failed; PF0's vector 69 announces READY and FAILED (R386). The model's choice: no
row of the opcode table carries what firmware sets up later, and a READY device takes it here, at the same stage (log 30). -/
def execBringupStageAdvance (outcome : StageEnd) (s : State) : Res :=
  .next (match s.stage.next, outcome with
    | none, .ok _ setup => if s.stage = .ready then s.setUp setup else s
    | none, .failed _ => s
    | some _, .failed err => if err = 0 then s else s.stageFails err
    | some .train, .ok objects _ => s.verified objects
    | some .ready, .ok _ setup => (State.setUp { s with stage := .ready } setup).irq none 69
    | some t, .ok _ _ => { s with stage := t })

/-! ## Frame intake (R459, R460) -/

/-- The bytes of one plane. -/
def planeBytes (d : Nat) : Nat := inFld d 8 2 * inFld d 10 2 * (if inFld d 3 1 = 1 then 2 else 1)

/-- The bytes of a slot: three planes, and the record at its end in a block of its own (log 24). -/
def slotBytes (d : Nat) : Nat := 3 * planeBytes d + 4096

/-- The .BF element whose value is `code` / (2^depth - 1), rounded to nearest even (R459). -/
def bfSample (code depth : Nat) : Nat :=
  if code = 0 then 0
  else
    let den := 2 ^ depth - 1
    let q := code * 2 ^ 64 / den
    (ElemT.bf.fmt.roundNum .rne 0 false false (2 * q + (if code * 2 ^ 64 % den = 0 then 0 else 1)) (-65)).1

/-- A sample as the stream's OUT stores it: .N8 or .BF (R459). -/
def sampleBytes (d : Nat) (deep : Bool) (code : BitVec 10) : List Byte :=
  if inFld d 3 1 = 1 then bytesOfNat 2 (bfSample (if deep then code.toNat else code.toNat % 256) (if deep then 10 else 8))
  else [if deep then Config.narrow code else code.setWidth 8]

/-- The decoders support the bitstream of a frame: its codec is the stream's, with a profile of R459 at a depth that it has, and its
size and rate are within the limits. -/
def supported (x : Pixels) (d : Nat) : Bool :=
  decide (x.width ≤ 3840 ∧ x.height ≤ 2160 ∧ x.rate ≤ 60) && (match x.profile with
    | .av1Main => decide (inFld d 2 1 = 0)
    | .hevcMain => decide (inFld d 2 1 = 1) && !x.deep
    | .hevcMain10 => decide (inFld d 2 1 = 1)
    | .h264High => decide (inFld d 2 1 = 2) && !x.deep
    | .other => false)

/-- The status of a frame: 2 for one that the decoders do not support, else what the decoder reports, 1 for a bitstream error (R459,
R460). -/
def frameStatus (x : Pixels) (d : Nat) (status : BitVec 32) : BitVec 32 := if supported x d then status else 2

/-- The three planes as they are stored: the crop of each, as tiles of 64 x 64 elements in row-major order (R459). -/
def planesBytes (d : Nat) (x : Pixels) : List Byte :=
  let w := inFld d 8 2
  let h := inFld d 10 2
  let codes := x.codes.toArray
  (List.range 3).flatMap fun k => (List.range (w * h)).flatMap fun o =>
    let col := o / 4096 % (w / 64) * 64 + o % 64
    let row := o / 4096 / (w / 64) * 64 + o / 64 % 64
    sampleBytes d x.deep (codes.getD (k * x.width * x.height + (row + inFld d 6 2) * x.width + (col + inFld d 4 2)) 0)

/-- The blocks of a frame, by virtual address: its planes, unless it was not decoded, and the block whose end its record fills
(R460; log 24). -/
def State.frameBlocks (s : State) (d f : Nat) (data : Pixels) (status : BitVec 32) (pts : W64) : List (Nat × List Byte) :=
  let slot := inFld d 20 8 + slotBytes d * (f % inFld d 28 2)
  let n := 3 * planeBytes d
  let planes : List (Nat × List Byte) := if frameStatus data d status = 2 then [] else blocksOf (n / 4096) 0 (planesBytes d data)
  let rec64 := bytesOfNat 8 f ++ bytesOfNat 8 (frameStatus data d status).toNat ++ bytesOfNat 8 pts.toNat ++ bytesOfNat 8 s.time ++ bytesOfNat 32 0
  (planes ++ [(n, List.replicate 4032 (0 : Byte) ++ rec64)]).map fun b => (slot + b.1, b.2)

/-- Writes a block to a page of host memory, line by line (R367). -/
def State.hostBlockWrite (s : State) (ctx : CtxId) (pa : Nat) (bs : List Byte) : Except ImageStop State :=
  let lines := (List.range 32).map fun k => pa + 128 * k
  match (lines.map fun a => s.writeGate ctx a).find? fun g => decide (g ≠ .ready) with
  | some g => .error (.wait g)
  | none =>
    .ok ((List.range 32).foldl (fun st k => st.commit ctx none (pa + 128 * k) ((bs.drop (128 * k)).take 128)) s)

/-- Writes one block of a frame, which draws on the host allowance (R354, R356). -/
def State.intakeWrite (s : State) (ctx : CtxId) (va : Nat) (bs : List Byte) : Except ImageStop State :=
  if !s.hostCovers then .error (.wait .host)
  else
    match s.blockLeaf ctx va with
    | .error x => .error x
    | .ok e =>
      let r := if e.kind = 1 ∧ e.wr then s.hostBlockWrite ctx (e.pa va) bs else s.leafWrite ctx e va bs
      match r with
      | .error x => .error x
      | .ok s1 => .ok (s1.meterBlock none)

/-- How far the blocks of a frame have come: all are written, or a number of them before a wait, or one cannot be written. -/
inductive IntakeEnd
  | done (s : State)
  | wait (s : State) (n : Nat) (g : WGate)
  | fail (s : State)

/-- Writes the blocks of a frame in order, `n` having been written. -/
def State.intakeLoop (s : State) (ctx : CtxId) (n : Nat) : List (Nat × List Byte) → IntakeEnd
  | [] => .done s
  | (va, bs) :: rest =>
    match s.intakeWrite ctx va bs with
    | .ok s1 => s1.intakeLoop ctx (n + 1) rest
    | .error (.wait g) => .wait s n g
    | .error (.fail _ _) => .fail s

/-- SEM of a stream takes the bit of a frame, through the context's map (R460). -/
def State.intakeSignal (s : State) (ctx : CtxId) (d f : Nat) : State :=
  match s.semMapped ctx (inFld d 30 2) with
  | some k => s.semOr k ((1 : W64) <<< (f % 64))
  | none => s

/-- CONSUMED of a stream, as the device reads the 64 bytes that hold it. -/
def State.consumed (s : State) (ctx : CtxId) (d : Nat) : DevRead := s.devRead64 ctx (inFld d 32 8 / 64 * 64)

/-- Sets an intake stream. -/
def State.putIntake (s : State) (k : Fin 48) (x : Intake) : State := { s with intake := s.intake.set k.val x k.isLt }

/-- The frame of a stream goes to its slot (R460): its blocks in order, its record as the end of the last, then the semaphore's bit. A
block that must wait is written when the frame is offered again; a frame that cannot be written is dropped. -/
def State.intakeFrame (s : State) (k : Fin 48) (x : Intake) (ctx : CtxId) (d : Nat) (data : Pixels) (status : BitVec 32)
    (pts : W64) : State :=
  match s.intakeLoop ctx x.written ((s.frameBlocks d x.frame data status pts).drop x.written) with
  | .done s1 => (s1.putIntake k { x with frame := x.frame + 1, written := 0 }).intakeSignal ctx d x.frame
  | .wait s1 n g => (s1.putIntake k { x with written := n }).forGate ctx none g
  | .fail s1 => s1.putIntake k { x with dropped := x.dropped + 1, written := 0 }

/-- FRAME_DECODED: the frame is written to its slot, or dropped and counted where software has not released the slot or its count
cannot be read (R460). The decoder offers a frame again while it waits (R356). -/
def execFrameDecoded (stream : Fin 48) (data : Pixels) (status : BitVec 32) (pts : W64) (s : State) : Res :=
  let x := s.intake[stream.val]'stream.isLt
  match x.desc with
  | none => .next s
  | some d =>
    match ctxOfNum (inFld d 0 2) with
    | none => .next s
    | some ctx =>
      if !s.live ctx then .next s
      else if x.written ≠ 0 then .next (s.intakeFrame stream x ctx d data status pts)
      else
        match s.consumed ctx d with
        | .data bs =>
          let k := natOfBytes ((bs.drop (inFld d 32 8 % 64)).take 4)
          if k + inFld d 28 2 < x.frame + 1 then .next (s.putIntake stream { x with dropped := x.dropped + 1 })
          else .next ((s.devDrawn ctx (inFld d 32 8 / 64 * 64) 1).intakeFrame stream x ctx d data status pts)
        | r =>
          if r.waits then .next (s.devWait ctx r) else .next (s.putIntake stream { x with dropped := x.dropped + 1 })

/-! ## Monitors (R461, R462) -/

/-- A monitor's bins and extremes cleared. -/
def Monitor.clear (m : Monitor) : Monitor := { m with bin := Vector.replicate 16 0, min := 2 ^ 63 - 1, max := -2 ^ 63 }

/-- Sets a monitor. -/
def State.setMonitor (s : State) (m : Fin 5) (x : Monitor) : State := { s with monitors := s.monitors.set m.val x m.isLt }

/-- Clears a monitor; the samples of the same instant count after the clear (R12, R461; log 78). -/
def State.clearMonitor (s : State) (m : Fin 5) : State :=
  s.setMonitor m (s.now.foldl (fun x e => match e with
    | .sample k v => if k = m then x.take v else x
    | _ => x) (s.monitors[m.val]'m.isLt).clear)

/-- MONITOR_CLR. -/
def execMonitorClr (m : Fin 5) (s : State) : Res :=
  if s.stage ≠ .ready then .next s.dropEarly else .next (s.clearMonitor m)

/-- Entries that full fast sets have returned at this instant (R12, R462; log 78). -/
def State.nowFast (s : State) : Nat :=
  s.now.foldl (fun n e => match e with
    | .fastOut k => n + k
    | _ => n) 0

/-- FASTSET_COUNT_CLEAR: a write of any value. -/
def execFastsetCountClear (s : State) : Res :=
  if s.stage ≠ .ready then .next s.dropEarly else .next { s with fastOut := s.nowFast }

end Sys2Proof.Machine
end

