-- ==== Sys2Proof/Machine/Fabric.lean ====
section
/-! DEFINITION. The fabric: what arrives at a peer port (R464, R465), and requests of and responses to peers (R467-R471). -/

namespace Sys2Proof.Machine

/-! ## Ports (R464-R466) -/

/-- A response, or an error, stands with its request. -/
def PeerWait.put (w : PeerWait) (tag : Nat) (bad : Bool) (bs : List Byte) : PeerWait :=
  { w with parts := w.parts.map fun p => if p.tag = tag then { p with reply := some (bad, bs) } else p }

/-- The access of A or the copy command that waits is told of its request's end. -/
def Job.peerReply (j : Job) (use : PeerUse) (tag : Nat) (bad : Bool) (bs : List Byte) : Job :=
  match use with
  | .access => { j with a := { j.a with peer := j.a.peer.map fun w => w.put tag bad bs } }
  | .copy e =>
    match j.headCopy e with
    | some x => j.setHead e { x with peer := x.peer.map fun w => w.put tag bad bs }
    | none => j
  | .posted => j

/-- An outstanding request ends, with a response or with an error (R469, R470). A store that fails is a deferred ECC_UE of
its node (R201, R426). -/
def State.peerEnd (s : State) (r : PeerOut) (bad : Bool) (bs : List Byte) : State :=
  let s1 := { s with peerReqs := s.peerReqs.filter fun x => decide (x.tag ≠ r.tag) }
  match s1.job r.core with
  | none => s1
  | some j =>
    match r.use with
    | .posted =>
      match j.a.posted.findIdx? fun x => match x with
        | .peer t _ _ _ => decide (t = r.tag)
        | _ => false with
      | none => s1
      | some n =>
        match bad, j.a.posted[n]? with
        | true, some (.peer _ (x :: _) _ _) => s1.postFails r.core j n .eccUe x.va
        | _, _ => s1.setJob r.core (j.unpost n)
    | u => s1.setJob r.core (j.peerReply u r.tag bad bs)

/-- A port changes its STATE, which PF0's vector announces (R386, R466). -/
def State.portState (s : State) (p : Fin 4) (st : Fin 4) : State :=
  if (s.port p).state = st then s
  else (s.setPort p { s.port p with state := st }).irq none (65 + p.val)

/-- A port goes down: every request outstanding on it ends with an error (R464, R470). -/
def State.portDown (s : State) (p : Fin 4) : State :=
  let s1 := (s.setPort p { s.port p with dead := true, waiting := Vector.replicate 3 [], nak := none }).portState p 0
  (s1.peerReqs.filter fun r => decide (r.port = p)).foldl (fun st r => st.peerEnd r true []) s1

/-- A flit that has arrived in order at a port with this key: one for another device, of whatever virtual channel, is forwarded
through the port that the route table names (R465). The message of one for this device arrives as PEER_REQUEST or
PEER_RESPONSE. -/
def State.deliver (s : State) (key : BitVec 256) (f : BitVec 2048) : State :=
  let d := flitDest f
  if !flitFormed f || decide (d.val = s.fabid.toNat) || !(SMap.get 0 s.routes d.val).getLsbD 2 then s
  else State.sendFlit { s with fresh := s.fresh + 1 } (s.peerPort d) (flitOpen key s.fresh f)

/-- FLIT_RECEIVE: CRC, MAC, order, then delivery (R464). A flit seen before is discarded and acknowledged again; one that is
ahead of its turn is NAKed; a port without a key takes none (R463). -/
def execFlitReceive (port : Fin 4) (flit : BitVec 2048) (macOk : Bool) (s : State) : Res :=
  let x := s.port port
  match x.key with
  | none => .next s
  | some key =>
  if x.state ≠ 2 then .next s
  else if !flitCrcOk flit then .next (s.send (.nak port x.rx))
  else if !macOk then .next ((s.portDown port).sealEvent 3 0xFFFF port.val)
  else if flitSeq flit = x.rx then
    .next (((s.setPort port { x with rx := x.rx + 1 }).send (.ack port x.rx)).deliver key flit)
  else if (x.rx - flitSeq flit).toNat ≤ 512 then .next (s.send (.ack port (flitSeq flit)))
  else .next (s.send (.nak port x.rx))

/-- A port retrains; the third time within a second it goes down (R464). -/
def State.retrain (s : State) (p : Fin 4) : State :=
  let x := s.port p
  let times := (x.times.filter fun t => decide (s.time < t + 1000000000)) ++ [s.time]
  let s1 := (s.setPort p { x with retrains := satTo 0xFFFF (x.retrains + 1), times, nak := none }).note (.retrains p 1)
  if 3 ≤ times.length then s1.portDown p else s1.portState p 1

/-- The flits of a port's replay buffer leave again, and are counted (R464, R466). -/
def State.replayAll (s : State) (p : Fin 4) : State :=
  let x := s.port p
  let s1 := (s.setPort p { x with replays := satTo 0xFFFFFFFF (x.replays + x.replay.length) }).note (.replays p x.replay.length)
  x.replay.foldl (fun st f => st.send (.flit p f)) s1

/-- FLIT_REPLAY: a NAK of a flit replays it and every later one; the eighth replay in a row retrains the port (R464). -/
def execFlitReplay (port : Fin 4) (seq : BitVec 12) (s : State) : Res :=
  let x := s.port port
  let l := x.replay.dropWhile fun f => decide (flitSeq f ≠ seq)
  if x.state ≠ 2 ∨ l = [] then .next s
  else
    let n := match x.nak with
      | some (q, k) => if q = seq then k + 1 else 1
      | none => 1
    let s1 := (s.setPort port { x with replay := l, nak := some (seq, n) }).replayAll port
    .next (if 8 ≤ n then s1.retrain port else s1)

/-- PORT_RETRAIN_COMPLETE: the port is keyed and up (R463), and its flits go on: those of the replay buffer, then those that
waited, where no response waits behind a request (R464, R465). A port that has not trained since the device reset comes up so
as well; one that went down does not (log 25). -/
def execPortRetrainComplete (port : Fin 4) (s : State) : Res :=
  let x := s.port port
  if x.dead ∨ 2 ≤ x.state then .next s
  else
    let key := x.key.getD (Config.linkKey port.val s.fresh)
    let s1 := State.portState ({ s with fresh := s.fresh + 1 }.setPort port
      { x with waiting := Vector.replicate 3 [], key := some key }) port 2
    .next ((x.waiting[2] ++ x.waiting[1] ++ x.waiting[0]).foldl (fun st f => st.sendFlit port f) (s1.replayAll port))

/-! ## Requests of peers (R468, R471) -/

/-- The operation writes (R468). -/
def peerWrites : PeerOp → Bool
  | .read _ => false
  | .write _ | .masked _ | .atomic _ _ _ | .swap _ _ | .cas _ _ _ => true

/-- The bytes from a request's address to the end of what it reads or writes. -/
def peerLen : PeerOp → Nat
  | .read n => n
  | .write bs => bs.length
  | .masked parts => parts.foldl (fun n p => Nat.max n (p.1 + p.2.length)) 0
  | .atomic _ w _ | .swap w _ | .cas w _ _ => atomBytes w

/-- The lines of a request, with the bytes in each. -/
def peerLines (addr : Nat) (bs : List Byte) : List (Nat × List Byte) := splitLines (bs.length / 128 + 2) addr bs

/-- The lines of what a request reads or writes; of a read or an atomic the bytes do not count. -/
def peerSpan (addr : Nat) : PeerOp → List (Nat × List Byte)
  | .write bs => peerLines addr bs
  | .masked parts => parts.flatMap fun p => peerLines (addr + p.1) p.2
  | op => peerLines addr (List.replicate (peerLen op) 0)

/-- The peer-map entry that serves a request (R468). -/
def State.peerEntry (s : State) (r : PeerReq) : Option W64 :=
  (s.peerMap.find? fun e => e.2.getLsbD 63 && decide (bitsAt e.2.toNat 58 5 = r.srcDev.val)
    && decide (bitsAt e.2.toNat 42 16 = r.srcCtx.toNat)).map Prod.snd

/-- The context that serves a request, where it is admitted (R468). -/
def State.peerAdmit (s : State) (r : PeerReq) : Option CtxId :=
  match s.peerEntry r with
  | none => none
  | some e =>
    match ctxOfNum (bitsAt e.toNat 26 16) with
    | none => none
    | some c =>
      let k := (s.ctx c).key
      if (k.cur.map kidOf = some r.kid ∨ k.prev.map kidOf = some r.kid) ∧ (peerWrites r.op → e.getLsbD 0)
          ∧ r.addr + (peerLen r.op) ≤ 2 ^ 47 ∧ (peerSpan r.addr r.op).all (fun p => !s.foreign c (frameOf p.1)) then some c
      else none

/-- What a peer's read finds: bytes with the poison indicator, a fill to wait for, or a refusal. -/
inductive PeerRead
  | data (bs : List Byte) (poison : Bool)
  | fill (frame : Nat)
  | refused
  deriving DecidableEq, Repr

/-- Reads the lines of a peer's request. -/
def State.peerRead (s : State) (ctx : CtxId) : List (Nat × List Byte) → PeerRead
  | [] => .data [] false
  | (a, bs) :: rest =>
    match s.lineOf ctx a with
    | none => if s.fillBarred ctx (frameOf a) then .refused else .fill (frameOf a)
    | some l =>
      match s.peerRead ctx rest with
      | .data xs p => .data (lineBytes l.data (a % 128) bs.length ++ xs) (p || l.poison.isSome)
      | r => r

/-- The first line of a peer's write that is not ready. -/
def State.peerGate (s : State) (ctx : CtxId) (l : List (Nat × List Byte)) : WGate :=
  ((l.map fun p => s.writeGate ctx p.1).find? fun g => decide (g ≠ .ready)).getD .ready

/-- What an atomic of a peer makes of the old value; none where it writes nothing (R211). -/
def peerApply (op : PeerOp) (old : Nat) : Option Nat :=
  match op with
  | .read _ | .write _ | .masked _ => none
  | .atomic o w x => some (atomOp o (8 * atomBytes w) old x.toNat)
  | .swap w x => some (x.toNat % 2 ^ (8 * atomBytes w))
  | .cas w x y => if old = x.toNat % 2 ^ (8 * atomBytes w) then some (y.toNat % 2 ^ (8 * atomBytes w)) else none

/-- A refused request: poisoned data for one that reads; a write is dropped (R468). -/
def State.peerRefuse (s : State) (r : PeerReq) : State :=
  match r.op with
  | .write _ | .masked _ => s.pf0Error
  | op => s.pf0Error.sendReply r.srcDev r.tag (allOnes (peerLen op)) true

/-- The writes of a peer perform, or wait, or are refused; `back` is what the response carries. -/
def State.peerWrite (s : State) (ctx : CtxId) (r : PeerReq) (l : List (Nat × List Byte)) (back : List Byte) : State :=
  match s.peerGate ctx l with
  | .ready => (l.foldl (fun st p => st.commit ctx none p.1 p.2) s).sendReply r.srcDev r.tag back false
  | .fail _ => s.peerRefuse r
  | g => s.forGate ctx none g

/-- A peer's request served for a context; its blocks draw on the host allowance (R471). One that must wait is offered
again. -/
def State.peerServe (s : State) (ctx : CtxId) (r : PeerReq) : State :=
  let span := peerSpan r.addr r.op
  match r.op with
  | .write _ | .masked _ => s.peerWrite ctx r span []
  | op =>
    match s.peerRead ctx span with
    | .fill f => s.ownFill ctx f
    | .refused => s.peerRefuse r
    | .data bs poison =>
      let s1 := span.foldl (fun st p => st.touch p.1) s
      if poison then s1.sendReply r.srcDev r.tag bs true
      else
        match peerApply op (natOfBytes bs) with
        | none => s1.sendReply r.srcDev r.tag bs false
        | some new => s1.peerWrite ctx r (peerLines r.addr (bytesOfNat (peerLen op) new)) bs

/-- PEER_REQUEST: admitted through the peer map, or refused. -/
def execPeerRequest (req : PeerReq) (s : State) : Res :=
  .next (match s.peerAdmit req with
    | none => s.peerRefuse req
    | some c => s.peerServe c req)

/-! ## Responses (R469, R470) -/

/-- PEER_RESPONSE: the access performs. -/
def execPeerResponse (tag : Nat) (poisoned : Bool) (data : List Byte) (s : State) : Res :=
  .next (match s.peerReqs.find? fun r => decide (r.tag = tag) with
    | none => s
    | some r => s.peerEnd r poisoned data)

/-- PEER_REQUEST_TIMEOUT: FTO µs after its sending a request without a response ends with an error. -/
def execPeerRequestTimeout (tag : Nat) (s : State) : Res :=
  .next (match s.peerReqs.find? fun r => decide (r.tag = tag) with
    | none => s
    | some r => if s.time < r.sentAt + 1000 * s.fto then s else s.peerEnd r true [])

end Sys2Proof.Machine
end

