-- ==== Sys2Proof/Machine/Regs.lean ====
section
/-! DEFINITION. Reads and writes of registers (R11-R14) at the addresses of R456: the identity and status blocks, the governor
(R140, R350, R351), the system cache (R366), firmware space (R389, R396, R401, R413, R417, R430, R447, R466, R468), the monitors
(R461, R462), and the register regions of VFs with their MSI-X tables (R386, R389, R400). -/

namespace Sys2Proof.Machine

/-! ## How a write applies (R11, R12, R14) -/

/-- A field of a block takes a value; a reserved one leaves it and sets the block's indication (R14). -/
def State.putField (s : State) (b : RegBlock) (ok : Bool) (f : State → State) : State := if ok then f s else s.reserved b

/-- W1C: each 1 clears its bit (R11). -/
def clearOnes (old ones w : Nat) : Nat := ((BitVec.ofNat w old) &&& ~~~(BitVec.ofNat w ones)).toNat

/-- A W1C count of `w` bits after a software write, where hardware has raised it by `n` at this instant: the write is applied first
(R12; log 78). -/
def clearCount (old ones w n : Nat) : Nat := satTo (2 ^ w - 1) (clearOnes (old - n) ones w + n)

/-- A write of a register that documents `n` bytes; one that is not 64-bit aligned, or of another width, is dropped and counted in its
block (R14). The entries of a class table, EDGE and BIN, which are 32 bits at every multiple of 4, are so written in 64-bit words of
two entries (log 74). -/
def State.wide (s : State) (b : RegBlock) (n addr width : Nat) (f : State → State) : State :=
  if width = n ∧ addr % 8 = 0 then f s else s.reserved b

/-- The state that an event leaves. -/
def stateOr (s : State) : Res → State
  | .next t => t
  | _ => s

/-! ## Blocks -/

/-- STATUS (R456): DEVRST acts, and CORERST where firmware writes it; the rest is read-only. -/
def State.putStatus (s : State) (firmware : Bool) (v : Nat) : State :=
  if bitsAt v 63 1 = 1 then s.deviceReset
  else
    let k := bitsAt v 48 8
    if k / 128 = 1 ∧ firmware then s.coreReset ⟨k % 128, Nat.mod_lt _ (by decide)⟩ else s

/-- GOVPKG (R350). -/
def State.putGovpkg (s : State) (v : Nat) : State :=
  let ok := fun (w : Nat) => decide (250 ≤ w ∧ w ≤ 750)
  let s1 := { s with hallow := bitsAt v 32 16 }
  let s2 := s1.putField .gov (ok (bitsAt v 16 10)) fun s => { s with ppkg := bitsAt v 16 10 }
  s2.putField .gov (ok (bitsAt v 0 10)) fun s => { s with penv := bitsAt v 0 10 }

/-- GOVISL (R351): an island at a twin level that is no longer permitted leaves it (R344). -/
def State.putGovisl (s : State) (i : IslId) (v : Nat) : State :=
  let x := s.island i
  let hi := bitsAt v 4 4
  let lo := bitsAt v 0 4
  let lmax := if hi % 2 = 1 then x.lmax else hi
  let lmin := if lo % 2 = 1 then x.lmin else lo
  let bad := decide (hi % 2 = 1 ∨ lo % 2 = 1)
  let y : Island := { x with
    rsvtgt := bitsAt v 48 16, tlim := bitsAt v 40 8, weight := bitsAt v 36 4, twinen := decide (bitsAt v 32 1 = 1)
    lmax := if lmax < lmin then x.lmax else lmax, lmin := if lmax < lmin then x.lmin else lmin }
  let s1 := (s.setIsland i y).putField .gov (!bad) id
  if s1.twinOk i then s1 else s1.leaveTwin i

/-- An entry of an island's class table, by 16 x level + class (R351). -/
def State.putClass (s : State) (i : IslId) (k v : Nat) : State :=
  s.setIsland i { s.island i with classes := SMap.set 0 (s.island i).classes k (BitVec.ofNat 32 v) }

/-- The registers of the governor block (R140, R350, R351); GOVSTAT and GOVFLR are read-only. A 64-bit write of the class table sets the
two entries that its 8 bytes hold. -/
def State.putGov (s : State) (o width v : Nat) : State :=
  if o = 0x8000 then s.wide .gov 8 o width fun s => s.putGovpkg v
  else if o < 0x8000 then
    let i : IslId := ⟨o / 0x1000 % 8, Nat.mod_lt _ (by decide)⟩
    let r := o % 0x1000
    if r < 0x3C0 then
      s.wide .gov 8 r width fun s => (s.putClass i (r / 4) (v % 2 ^ 32)).putClass i (r / 4 + 1) (v / 2 ^ 32)
    else if r = 0x400 then s.wide .gov 8 r width fun s => s.putGovisl i v
    else if r = 0x410 ∨ r = 0x418 then s.wide .gov 8 r width id
    else s.reserved .gov
  else s.reserved .gov

/-- The registers of the system cache (R366). -/
def State.putCache (s : State) (o width v : Nat) : State :=
  s.wide .cache 8 o width fun s =>
    if o % 16 = 0 then { s with limits := SMap.set limitInit s.limits (o / 16) (bitsAt v 0 22) } else s

/-- VFQUOTA of a VF (R396). A CARDQ above 16,384, which the table does not list as reserved, is held as written (R11; log 74). -/
def State.putVfquota (s : State) (c : CtxId) (v : Nat) : State :=
  let n := bitsAt v 20 12
  let base := bitsAt v 0 17
  let s1 := s.setCtx c { s.ctx c with cardq := bitsAt v 48 16, budget := bitsAt v 32 16, ctrn := n }
  s1.putField .firmware (decide (base % 4096 + n ≤ 4096)) fun s => s.setCtx c { s.ctx c with ctrbase := base }

/-- RELCFG (R430). -/
def State.putRelcfg (s : State) (p : PartId) (v : Nat) : State :=
  let s1 := s.setPart p { s.part p with resLim := bitsAt v 8 4 }
  let s2 := s1.putField .firmware (decide (bitsAt v 32 16 ≠ 0)) fun s => s.setPart p { s.part p with stageMax := bitsAt v 32 16 }
  match bitsAt v 0 2 with
  | 0 => s2.setPart p { s2.part p with prof := 0 }
  | 1 => s2.setPart p { s2.part p with prof := 1 }
  | 2 => s2.setPart p { s2.part p with prof := 2 }
  | _ => s2.reserved .firmware

/-- Seal events that have been lost at this instant (R12). -/
def State.nowSevLost (s : State) : Nat :=
  s.now.foldl (fun n e => match e with
    | .sevLost k => n + k
    | _ => n) 0

/-- Replays and retrains of a port at this instant (R12). -/
def State.nowPort (s : State) (p : Fin 4) : Nat × Nat :=
  s.now.foldl (fun n e => match e with
    | .replays q k => if q = p then (n.1 + k, n.2) else n
    | .retrains q k => if q = p then (n.1, n.2 + k) else n
    | _ => n) (0, 0)

/-- The seal event ring (R417), by the offset from 0xAF00. -/
def State.putSev (s : State) (o width v : Nat) : State :=
  if o = 0 then s.wide .firmware 8 o width fun s => State.sevDrain { s with sevBase := bitsAt v 12 40 }
  else if o = 8 then
    s.wide .firmware 8 o width fun s =>
      s.putField .firmware (decide (8 ≤ v % 32 ∧ v % 32 ≤ 16)) fun s => State.sevDrain { s with sevSize := v % 32 }
  else if o = 0x10 then s.wide .firmware 4 o width id
  else if o = 0x18 then s.wide .firmware 4 o width fun s => State.sevDrain { s with sevRd := BitVec.ofNat 32 v }
  else if o = 0x20 then
    s.wide .firmware 4 o width fun s => { s with sevLost := BitVec.ofNat 32 (clearCount s.sevLost.toNat v 32 s.nowSevLost) }
  else s.reserved .firmware

/-- FABCFG (R466). -/
def State.putFabcfg (s : State) (v : Nat) : State :=
  State.putField { s with fabid := BitVec.ofNat 5 v } .firmware (decide (bitsAt v 48 16 ≠ 0)) fun s =>
    { s with fto := bitsAt v 48 16 }

/-- The status of a peer port (R466): its counts are W1C. -/
def State.putPort (s : State) (p : Fin 4) (v : Nat) : State :=
  let x := s.port p
  s.setPort p { x with
    replays := clearCount x.replays (bitsAt v 32 32) 32 (s.nowPort p).1
    retrains := clearCount x.retrains (bitsAt v 16 16) 16 (s.nowPort p).2 }

/-- The bits of a peer-map entry that are not reserved. -/
def peerMask : W64 := 0xFFFFFFFFFC000001

/-- A peer-map entry (R468): one whose source matches that of another valid entry stays as it is. -/
def State.putPeer (s : State) (e : Nat) (v : W64) : State :=
  let other := s.peerMap.any fun x =>
    decide (x.1 ≠ e) && x.2.getLsbD 63 && decide (bitsAt x.2.toNat 42 21 = bitsAt v.toNat 42 21)
  s.putField .firmware (!other) fun s => { s with peerMap := SMap.set 0 s.peerMap e (v &&& peerMask) }

/-- The partition of an index in firmware space, with what is done there. -/
def State.atPart (s : State) (k : Nat) (f : PartId → State) : State :=
  if h : k < 24 then f ⟨k, h⟩ else s.reserved .firmware

/-- The registers of firmware space (R396, R401, R413, R417, R430, R447, R466, R468). -/
def State.putFirmware (s : State) (o width : Nat) (v : W64) : State :=
  let n := v.toNat
  let wide := s.wide .firmware 8 o width
  if h : o < 0x1800 then wide fun s => if o % 16 = 0 then s.putVfquota ⟨o / 16, by omega⟩ n else s
  else if 0x8000 ≤ o ∧ o < 0x8180 then
    wide fun s => s.atPart ((o - 0x8000) / 16) fun p =>
      if o % 16 = 8 then (s.setPart p { s.part p with prqRd := n }).prqDrain p else s
  else if 0x8400 ≤ o ∧ o < 0x8580 ∧ o / 8 % 2 = 0 then
    wide fun s => s.atPart ((o - 0x8400) / 16) fun p => stateOr s (execPageRequestAnswer p v s)
  else if 0xA000 ≤ o ∧ o < 0xACC0 then wide id
  else if 0xAF00 ≤ o ∧ o < 0xAF28 then s.putSev (o - 0xAF00) width n
  else if 0xB000 ≤ o ∧ o < 0xBCC0 then wide id
  else if 0xC000 ≤ o ∧ o < 0xC0C0 then wide fun s => s.atPart ((o - 0xC000) / 8) fun p => s.putRelcfg p n
  else if 0xE000 ≤ o ∧ o < 0xE180 then
    wide fun s => s.atPart ((o - 0xE000) / 16) fun p =>
      if o % 16 = 8 then stateOr s (execWrapPost p v s) else s.setPart p { s.part p with wrapDl := v }
  else if o / 8 = 0xF000 / 8 then wide fun s => s.putFabcfg n
  else if 0xF100 ≤ o ∧ o < 0xF140 ∧ o / 8 % 2 = 0 then
    wide fun s => s.putPort ⟨(o - 0xF100) / 16 % 4, Nat.mod_lt _ (by decide)⟩ n
  else if 0xF200 ≤ o ∧ o < 0xF300 then
    wide fun s => { s with routes := SMap.set 0 s.routes ((o - 0xF200) / 8) (BitVec.ofNat 64 (n % 8)) }
  else if 0xF400 ≤ o ∧ o < 0xF600 then wide fun s => s.putPeer ((o - 0xF400) / 8) v
  else s.reserved .firmware

/-- EDGE(i) of a monitor; a value below EDGE(i - 1) is reserved (R461). -/
def State.putEdge (s : State) (m : Fin 5) (i : Nat) (v : Nat) : State :=
  let x := s.monitors[m.val]'m.isLt
  let e := BitVec.ofNat 32 v
  let low := match i with
    | 0 => false
    | k + 1 => decide (e.toInt < (x.edge.toList.getD k 0).toInt)
  if 15 ≤ i then s else s.putField .monitors (!low) fun s => s.setMonitor m { x with edge := x.edge.set! i e }

/-- The registers of a monitor (R461), by the offset from its first. -/
def State.putMonitor (s : State) (m : Fin 5) (o width v : Nat) : State :=
  let x := s.monitors[m.val]'m.isLt
  if o = 0 then
    s.wide .monitors 8 o width fun s =>
      let s1 := s.setMonitor m { x with sel := bitsAt v 4 4, frz := decide (bitsAt v 1 1 = 1) }
      if bitsAt v 0 1 = 1 then s1.clearMonitor m else s1
  else if o = 8 ∨ o = 0x10 then s.wide .monitors 8 o width id
  else if 0x18 ≤ o ∧ o < 0x54 then
    let i := (o - 0x18) / 4
    s.wide .monitors 8 o width fun s => (s.putEdge m i (v % 2 ^ 32)).putEdge m (i + 1) (v / 2 ^ 32)
  else if 0x60 ≤ o ∧ o < 0xA0 then s.wide .monitors 8 o width id
  else s.reserved .monitors

/-- The registers of the monitor block (R461, R462). -/
def State.putMonitors (s : State) (o width v : Nat) : State :=
  if o < 0x500 then s.putMonitor ⟨o / 0x100 % 5, Nat.mod_lt _ (by decide)⟩ (o % 0x100) width v
  else if o = 0x800 then s.wide .monitors 8 o width fun s => { s with fastOut := s.nowFast }
  else s.reserved .monitors

/-- The identity block is read-only (R456); a write of another width than 64 bits, or at an address that holds no field, is counted. -/
def State.putIdentity (s : State) (o width : Nat) : State :=
  if o < 0x38 ∨ 0x1000 ≤ o ∧ o < 0x13C0 ∨ 0x4000 ≤ o then s.wide .identity 8 o width id
  else s.reserved .identity

/-! ## MSI-X tables (R386) -/

/-- A table entry as its 16 bytes: address, data, and the mask bit of its vector control. -/
def MsixEnt.word (e : MsixEnt) : Nat := e.addr.toNat + e.data.toNat * 2 ^ 64 + e.mask.toNat * 2 ^ 96

/-- Sends the vectors of a function, out of `n`, that are pending and no longer masked, in ascending order (R386). -/
def State.sendPending (s : State) (fn : Option (Fin 384)) (n : Nat) : State :=
  if !s.msixOn fn then s
  else
    (List.range n).foldl (fun st v =>
      let e := st.msixOf fn v
      if e.pending && !e.mask then
        State.irq { st with msix := SMap.set MsixEnt.init st.msix (msixKey fn v) { e with pending := false } } fn v
      else st) s

/-- The vectors of a function (R386). -/
def vectorCount (fn : Option (Fin 384)) : Nat := if fn.isNone then 2048 else 8

/-- Message Control of a function's MSI-X capability (R386; log 73): bit 15 enables MSI-X and bit 14 masks the whole function. -/
def State.putMsixCtl (s : State) (fn : Option (Fin 384)) (v : Nat) : State :=
  State.sendPending { s with msixCtl := SMap.set 0 s.msixCtl (fnNo fn) (v % 2 ^ 16 / 2 ^ 14 * 2 ^ 14) } fn (vectorCount fn)

/-- Writes 4 or 8 bytes of a table entry, as PCIe has its accesses; a vector that is pending is sent once nothing masks it. -/
def State.putMsix (s : State) (b : RegBlock) (fn : Option (Fin 384)) (vector o width v : Nat) : State :=
  if !(decide (width = 4 ∨ width = 8) && decide (o % width = 0)) then s.reserved b
  else
    let e := s.msixOf fn vector
    let bs := bytesOfNat 16 e.word
    let w := natOfBytes (bs.take o ++ bytesOfNat width v ++ bs.drop (o + width))
    let e1 : MsixEnt := { e with
      addr := BitVec.ofNat 64 (w % 2 ^ 64), data := BitVec.ofNat 32 (bitsAt w 64 32), mask := decide (bitsAt w 96 1 = 1) }
    let put := fun (x : MsixEnt) => { s with msix := SMap.set MsixEnt.init s.msix (msixKey fn vector) x }
    if e1.pending && !e1.mask && s.msixOn fn then (put { e1 with pending := false }).irq fn vector else put e1

/-- A 64-bit word of a table and of the pending bits behind it, by the byte offset, for a table of `n` vectors. -/
def State.msixWord (s : State) (fn : Option (Fin 384)) (n o : Nat) : Nat :=
  if o < 16 * n then (s.msixOf fn (o / 16)).word / 2 ^ (8 * (o % 16)) % 2 ^ 64
  else natOfLanes 1 ((List.range 64).map fun k =>
    let v := 8 * (o - 16 * n) + k
    if v < n then (s.msixOf fn v).pending.toNat else 0)

/-! ## Queue registers (R389) -/

/-- Where the model lays the registers of context `c`: `queueRegs` + 0x10000 x c, as BAR0 of its VF has them (log 26). -/
def queueRegs : Nat := 2 ^ 60

/-- Where the model lays PF0's MSI-X table, with its pending bits behind it (log 26, log 73). -/
def pf0Msix : Nat := queueRegs + 0x10000 * 408

/-- Where the model lays Message Control of each function's MSI-X capability, by `fnNo` and 8 bytes apart (log 73). -/
def msixCaps : Nat := pf0Msix + 0x10000

/-- The function of a number (`fnNo`); none beyond the last. -/
def fnOf (n : Nat) : Option (Option (Fin 384)) :=
  if n = 0 then some none else if h : n - 1 < 384 then some (some ⟨n - 1, h⟩) else none

/-- Where the model lays the window of PF0 BAR2, through which the host reaches the identity and status blocks and the monitors (R456;
log 26). -/
def pf0Bar2 : Nat := msixCaps + 0x10000

/-- The physical address behind an address in the window of PF0 BAR2 (R456). -/
def behindBar2 (addr : Nat) : Option Nat :=
  if addr < pf0Bar2 then none
  else
    let o := addr - pf0Bar2
    if o < 0x10000 then some (0x000FF0000000 + o)
    else if o < 0x11000 then some (0x000FF0010000 + (o - 0x10000))
    else if 0x20000 ≤ o ∧ o < 0x21000 then some (0x000FF0400000 + (o - 0x20000))
    else none

/-- QBASE: a SIZE of 9 to 15 is reserved. -/
def State.putQbase (s : State) (c : CtxId) (q : Nat) (v : W64) : State :=
  let u := s.queue c q
  let base : W64 := v &&& 0x0000FFFFFFFFF000
  let size : W64 := if bitsAt v.toNat 0 4 ≤ 8 then v &&& 0xF else u.qbase &&& 0xF
  (s.setQueue c q { u with qbase := base ||| size }).putField (.queues c) (decide (bitsAt v.toNat 0 4 ≤ 8)) id

/-- A register of a queue (R389): QHEAD and QSTAT are read-only. -/
def State.putQueue (s : State) (c : CtxId) (q : QueueId) (r width : Nat) (v : W64) : State :=
  if 0x28 ≤ r then s.reserved (.queues c)
  else
    s.wide (.queues c) 8 r width fun s =>
      if r = 0 then s.putQbase c q.val v
      else if r = 8 then s.setQueue c q.val { s.queue c q.val with qerr := v &&& 0xFFFFFFFFFFFFFFC0 }
      else if r = 0x20 then stateOr s (execQctlReset c q v s)
      else s

/-- The register region of a context: the doorbell, the stop count, which is read-only, its queues, and a VF's MSI-X table with its
pending bits (R386, R389, R400). -/
def State.putBar0 (s : State) (c : CtxId) (o width : Nat) (v : W64) : State :=
  if o / 8 = 0 then s.wide (.queues c) 8 o width fun s => stateOr s (execDoorbell c v s)
  else if o / 4 = 0x800 / 4 then s.wide (.queues c) 4 o width id
  else if h : 0x1000 ≤ o ∧ o < 0x1000 + 0x40 * queueCount c then
    s.putQueue c ⟨(o - 0x1000) / 0x40, by have := h.2; unfold queueCount at this; split at this <;> omega⟩ (o % 0x40) width v
  else if 0x8000 ≤ o ∧ o < 0x8080 then
    match ctxVf c with
    | some f => s.putMsix (.queues c) (some f) ((o - 0x8000) / 16) (o % 16) width v.toNat
    | none => s.reserved (.queues c)
  else if o / 8 = 0x8080 / 8 then s.wide (.queues c) 8 o width id
  else s.reserved (.queues c)

/-! ## REGISTER_WRITE -/

/-- A write of a register at a physical address, by firmware or by the host (R456). -/
def State.putReg (s : State) (firmware : Bool) (addr width : Nat) (value : W64) : State :=
  let v := value.toNat % 2 ^ (8 * width)
  let w := BitVec.ofNat 64 v
  let within := fun (base size : Nat) => decide (base ≤ addr ∧ addr < base + size)
  if within 0x000FF0000000 0x10000 then s.putIdentity (addr - 0x000FF0000000) width
  else if within 0x000FF0010000 0x1000 then
    (if addr / 8 = 0x000FF0010000 / 8 then s.wide .status 8 addr width fun s => s.putStatus firmware v else s.reserved .status)
  else if s.stage ≠ .ready then s.dropEarly
  else if within 0x000FF0100000 0x10000 then s.putGov (addr - 0x000FF0100000) width v
  else if within 0x000FF0200000 0x1000 then s.putCache (addr - 0x000FF0200000) width v
  else if within 0x000FF0300000 0x10000 then s.putFirmware (addr - 0x000FF0300000) width w
  else if within 0x000FF0400000 0x1000 then s.putMonitors (addr - 0x000FF0400000) width v
  else if h : queueRegs ≤ addr ∧ addr < queueRegs + 0x10000 * 408 then
    s.putBar0 ⟨(addr - queueRegs) / 0x10000, by omega⟩ ((addr - queueRegs) % 0x10000) width w
  else if within pf0Msix 0x8000 then
    s.putMsix .firmware none ((addr - pf0Msix) / 16) ((addr - pf0Msix) % 16) width v
  else if within (pf0Msix + 0x8000) 0x100 then s.wide .firmware 8 addr width id
  else if within msixCaps (8 * 385) then
    match fnOf ((addr - msixCaps) / 8) with
    | some fn => if addr % 8 = 0 ∧ width = 2 then s.putMsixCtl fn v else s
    | none => s
  else s

/-- REGISTER_WRITE: a write of a register: by firmware at its physical address, by the host through PF0 BAR2 or at the registers of a
VF. Before READY only the status and identity blocks answer (R456). A register whose write is a row of its own (the doorbell, QCTL,
PRA, WRAPCTL) has that row's effect. The model's choice: a write to an address that holds no register is counted by the block that
the address lies in, and outside every block it does nothing (log 74). -/
def execRegisterWrite (addr : Nat) (width : Nat) (value : W64) (s : State) : Res :=
  .next (match behindBar2 addr with
    | some a => s.putReg false a width value
    | none => s.putReg true addr width value)

/-! ## Reads of registers (R11) -/

/-- A signed number of 1/64 BU as a 32-bit signed number of BU, rounded toward minus infinity (R351, R396). -/
def floorBu (x : Int) : Nat := (BitVec.ofInt 32 (Int.fdiv x 64)).toNat

/-- The good cores as bits (R456). -/
def State.goodCores (s : State) : Nat :=
  natOfLanes 1 ((List.finRange 128).map fun c => (!(s.core c).mappedOut).toNat)

/-- An entry of the capacity table (R143): U of a bank at a level, the least of any good core, since the table has one entry for all of
them (log 80). -/
def State.capacity (s : State) (lvl b : Nat) : Nat :=
  ((List.finRange 128).filter fun c => !(s.core c).mappedOut).foldl (fun n c => Nat.min n (usable (s.core c) b lvl)) 512

/-- A 64-bit word of the identity block (R143, R456). -/
def State.identityWord (s : State) (o : Nat) : Nat :=
  if o = 0 then 0x0009A768 * 2 ^ 32
  else if o = 8 then Config.serial.toNat
  else if o = 0x10 then s.goodCores % 2 ^ 64
  else if o = 0x18 then s.goodCores / 2 ^ 64
  else if o = 0x20 then frameCount
  else if o = 0x28 then Config.qualified.toNat
  else if o = 0x30 then Config.securityVersion.toNat
  else if 0x1000 ≤ o ∧ o < 0x13C0 then
    natOfLanes 16 ((List.range 4).map fun k => s.capacity ((o - 0x1000) / 64) ((o - 0x1000) % 64 / 2 + k))
  else if 0x4000 ≤ o then natOfLanes 8 ((List.range 8).map fun k => (Config.certByte (o - 0x4000 + k)).toNat)
  else 0

/-- STAGE of STATUS (R456). -/
def Stage.code : Stage → Nat
  | .rom => 0
  | .verify => 1
  | .train => 2
  | .firmware => 3
  | .ready => 4
  | .failed => 5

/-- STATUS (R456). -/
def State.statusWord (s : State) : Nat :=
  s.drop % 2 ^ 16 * 2 ^ 32 + s.cfgSigned.toNat * 2 ^ 16 + s.stageErr.val * 2 ^ 8 + s.stage.code

/-- A 64-bit word of the governor block (R140, R350, R351). -/
def State.govWord (s : State) (o : Nat) : Nat :=
  if o = 0x8000 then s.hallow % 2 ^ 16 * 2 ^ 32 + s.ppkg * 2 ^ 16 + s.penv
  else if o < 0x8000 then
    let i : IslId := ⟨o / 0x1000 % 8, Nat.mod_lt _ (by decide)⟩
    let x := s.island i
    let r := o % 0x1000
    let cls := fun (k : Nat) => (SMap.get 0 x.classes k).toNat
    if r < 0x3C0 then cls (r / 4) + cls (r / 4 + 1) * 2 ^ 32
    else if r = 0x400 then
      x.rsvtgt * 2 ^ 48 + x.tlim * 2 ^ 40 + x.weight * 2 ^ 36 + x.twinen.toNat * 2 ^ 32 + x.lmax * 2 ^ 4 + x.lmin
    else if r = 0x410 then floorBu x.bal * 2 ^ 32 + satTo 0xFFFF x.inc * 2 ^ 16 + satTo 0xFFFF (x.res / 64)
    else if r = 0x418 then s.floorLevel i
    else 0
  else 0

/-- A 64-bit word of the system cache's registers (R366). -/
def State.cacheWord (s : State) (o : Nat) : Nat :=
  let g := o / 16
  if o % 16 = 0 then s.limitOf g else s.occ g % 2 ^ 22 + (s.over g).toNat * 2 ^ 32

/-- VFSTAT (R396). -/
def State.vfstatWord (s : State) (c : CtxId) : Nat := floorBu (s.ctx c).rem * 2 ^ 32 + (s.ctx c).ncards % 2 ^ 16

/-- SEALCTX of a slot (R413). -/
def KeySlot.word (k : KeySlot) : Nat :=
  k.swept % 2 ^ 32 * 2 ^ 8 + k.sweep.toNat * 2 ^ 7 + k.prev.isSome.toNat * 2 ^ 6 + k.cur.isSome.toNat * 2 ^ 5

/-- WRAPCTL of a partition (R447). -/
def State.wrapWord (s : State) (p : PartId) : Nat :=
  let q := s.part p
  q.wrapStatus * 2 ^ 56 + s.vmin p % 2 ^ 24 * 2 ^ 32 + q.wrapVft.toNat * 2 ^ 25 + q.wrapVf * 2 ^ 16

/-- A 64-bit word of firmware space (R396, R401, R413, R417, R430, R447, R466, R468). PRA is written only and reads 0. -/
def State.firmwareWord (s : State) (o : Nat) : Nat :=
  let part := fun (k : Nat) (f : PartId → Nat) => if h : k < 24 then f ⟨k, h⟩ else 0
  let slot := fun (k : Nat) (f : KeySlot → Nat) => if h : k < 408 then f (s.ctx ⟨k, h⟩).key else 0
  if h : o < 0x1800 then
    let c : CtxId := ⟨o / 16, by omega⟩
    let x := s.ctx c
    if o % 16 = 0 then x.cardq * 2 ^ 48 + x.budget * 2 ^ 32 + x.ctrn * 2 ^ 20 + x.ctrbase else s.vfstatWord c
  else if 0x8000 ≤ o ∧ o < 0x8180 then
    part ((o - 0x8000) / 16) fun p => if o % 16 = 0 then (s.part p).prqWr else (s.part p).prqRd
  else if 0xA000 ≤ o ∧ o < 0xACC0 then slot ((o - 0xA000) / 8) KeySlot.word
  else if o = 0xAF00 then s.sevBase * 2 ^ 12
  else if o = 0xAF08 then s.sevSize
  else if o = 0xAF10 then s.sevWr.toNat
  else if o = 0xAF18 then s.sevRd.toNat
  else if o = 0xAF20 then s.sevLost.toNat
  else if 0xB000 ≤ o ∧ o < 0xBCC0 then slot ((o - 0xB000) / 8) fun k => k.curGen * 2 ^ 8 + k.prevGen
  else if 0xC000 ≤ o ∧ o < 0xC0C0 then
    part ((o - 0xC000) / 8) fun p => (s.part p).stageMax * 2 ^ 32 + (s.part p).resLim * 2 ^ 8 + (s.part p).prof.val
  else if 0xE000 ≤ o ∧ o < 0xE180 then
    part ((o - 0xE000) / 16) fun p => if o % 16 = 0 then (s.part p).wrapDl.toNat else s.wrapWord p
  else if o = 0xF000 then s.fto * 2 ^ 48 + s.fabid.toNat
  else if 0xF100 ≤ o ∧ o < 0xF140 ∧ o % 16 = 0 then
    let x := s.port ⟨(o - 0xF100) / 16 % 4, Nat.mod_lt _ (by decide)⟩
    x.replays * 2 ^ 32 + x.retrains * 2 ^ 16 + x.state.val
  else if 0xF200 ≤ o ∧ o < 0xF300 then (SMap.get 0 s.routes ((o - 0xF200) / 8)).toNat
  else if 0xF400 ≤ o ∧ o < 0xF600 then (SMap.get 0 s.peerMap ((o - 0xF400) / 8)).toNat
  else 0

/-- A 64-bit word of the monitor block (R461, R462). -/
def State.monitorWord (s : State) (o : Nat) : Nat :=
  if o < 0x500 then
    let x := s.monitors[o / 0x100 % 5]'(Nat.mod_lt _ (by decide))
    let r := o % 0x100
    let edge := fun (i : Nat) => (x.edge.toList.getD i 0).toNat
    let bin := fun (i : Nat) => x.bin.toList.getD i 0
    if r = 0 then x.sel * 2 ^ 4 + x.frz.toNat * 2
    else if r = 8 then (BitVec.ofInt 64 x.min).toNat
    else if r = 0x10 then (BitVec.ofInt 64 x.max).toNat
    else if 0x18 ≤ r ∧ r < 0x54 then edge ((r - 0x18) / 4) + edge ((r - 0x18) / 4 + 1) * 2 ^ 32
    else if 0x60 ≤ r ∧ r < 0xA0 then bin ((r - 0x60) / 4) + bin ((r - 0x60) / 4 + 1) * 2 ^ 32
    else 0
  else if o = 0x800 then s.fastOut
  else 0

/-- STATE of QSTAT (R390). -/
def QState.code : QState → Nat
  | .idle => 0
  | .fetching => 1
  | .waiting => 2
  | .fetchFault => 3
  | .suspended => 4
  | .parked => 5
  | .halted => 6

/-- A 64-bit word of a context's register region (R386, R389, R400). The doorbell and QCTL are written only. -/
def State.bar0Word (s : State) (c : CtxId) (o : Nat) : Nat :=
  let u := s.queue c ((o - 0x1000) / 0x40)
  if o = 0x800 then (s.ctx c).stopcnt.toNat
  else if 0x1000 ≤ o ∧ o < 0x1000 + 0x40 * queueCount c then
    match o % 0x40 with
    | 0 => u.qbase.toNat
    | 8 => u.qerr.toNat
    | 0x10 => u.head
    | 0x18 => u.stalecnt * 2 ^ 24 + u.err * 2 ^ 16 + u.state.code
    | _ => 0
  else if 0x8000 ≤ o ∧ o < 0x8088 then
    match ctxVf c with
    | some f => s.msixWord (some f) 8 (o - 0x8000)
    | none => 0
  else 0

/-- The 64-bit word at an address that is a multiple of 8. Before READY only the identity and status blocks answer (R456). -/
def State.regWord (s : State) (a : Nat) : Nat :=
  let within := fun (base size : Nat) => decide (base ≤ a ∧ a < base + size)
  if within 0x000FF0000000 0x10000 then s.identityWord (a - 0x000FF0000000)
  else if a = 0x000FF0010000 then s.statusWord
  else if s.stage ≠ .ready then 0
  else if within 0x000FF0100000 0x10000 then s.govWord (a - 0x000FF0100000)
  else if within 0x000FF0200000 0x1000 then s.cacheWord (a - 0x000FF0200000)
  else if within 0x000FF0300000 0x10000 then s.firmwareWord (a - 0x000FF0300000)
  else if within 0x000FF0400000 0x1000 then s.monitorWord (a - 0x000FF0400000)
  else if h : queueRegs ≤ a ∧ a < queueRegs + 0x10000 * 408 then
    s.bar0Word ⟨(a - queueRegs) / 0x10000, by omega⟩ ((a - queueRegs) % 0x10000)
  else if within pf0Msix 0x8100 then s.msixWord none 2048 (a - pf0Msix)
  else if within msixCaps (8 * 385) then SMap.get 0 s.msixCtl ((a - msixCaps) / 8)
  else 0

/-- What a read of 1, 2, 4 or 8 bytes at a register address returns (R11): the current values of RO, RW and W1C fields, and zero for WO
and reserved ones. A read changes no state, and no row of the opcode table is one (log 74). -/
def State.readReg (s : State) (addr width : Nat) : W64 :=
  BitVec.ofNat 64 (s.regWord (((behindBar2 addr).getD addr) / 8 * 8) / 2 ^ (8 * (addr % 8)) % 2 ^ (8 * width))

end Sys2Proof.Machine
end

