-- ==== Sys2Proof/Machine/Dispatch.lean ====
section
/-! DEFINITION. The dispatch: one arm per constructor of Instr, each a direct call of its meaning. -/

namespace Sys2Proof.Machine

/-- What an instruction or a step of the device does. A word acts on the engine in turn (R53); a step of the device on
what its arguments name. -/
def exec (i : Instr) (s : State) : Host.Outcome State Fault Refusal :=
  match i with
  | .nop t => Sys2Proof.Machine.execNop t s
  | .idle t n => Sys2Proof.Machine.execIdle t n s
  | .atTake t d n => Sys2Proof.Machine.execAtTake t d n s
  | .slate t g k => Sys2Proof.Machine.execSlate t g k s
  | .rdv t m k => Sys2Proof.Machine.execRdv t m k s
  | .loop t l b c => Sys2Proof.Machine.execLoop t l b c s
  | .loopr t l b r => Sys2Proof.Machine.execLoopr t l b r s
  | .br o => Sys2Proof.Machine.execBr o s
  | .bz a o => Sys2Proof.Machine.execBz a o s
  | .bnz a o => Sys2Proof.Machine.execBnz a o s
  | .call o => Sys2Proof.Machine.execCall o s
  | .callr a => Sys2Proof.Machine.execCallr a s
  | .ret => Sys2Proof.Machine.execRet s
  | .lbrk => Sys2Proof.Machine.execLbrk s
  | .add t d a b => Sys2Proof.Machine.execAdd t d a b s
  | .sub t d a b => Sys2Proof.Machine.execSub t d a b s
  | .mul t d a b => Sys2Proof.Machine.execMul t d a b s
  | .mulh t d a b => Sys2Proof.Machine.execMulh t d a b s
  | .mulhn t d a b => Sys2Proof.Machine.execMulhn t d a b s
  | .and t d a b => Sys2Proof.Machine.execAnd t d a b s
  | .or t d a b => Sys2Proof.Machine.execOr t d a b s
  | .xor t d a b => Sys2Proof.Machine.execXor t d a b s
  | .shl t d a b => Sys2Proof.Machine.execShl t d a b s
  | .shr t d a b => Sys2Proof.Machine.execShr t d a b s
  | .sra t d a b => Sys2Proof.Machine.execSra t d a b s
  | .min t d a b => Sys2Proof.Machine.execMin t d a b s
  | .max t d a b => Sys2Proof.Machine.execMax t d a b s
  | .minn t d a b => Sys2Proof.Machine.execMinn t d a b s
  | .maxn t d a b => Sys2Proof.Machine.execMaxn t d a b s
  | .mad t d a b => Sys2Proof.Machine.execMad t d a b s
  | .slt t d a b => Sys2Proof.Machine.execSlt t d a b s
  | .sltn t d a b => Sys2Proof.Machine.execSltn t d a b s
  | .seq t d a b => Sys2Proof.Machine.execSeq t d a b s
  | .sel t d a b => Sys2Proof.Machine.execSel t d a b s
  | .clz t d a => Sys2Proof.Machine.execClz t d a s
  | .popc t d a => Sys2Proof.Machine.execPopc t d a s
  | .mov t d a => Sys2Proof.Machine.execMov t d a s
  | .addi t d a k => Sys2Proof.Machine.execAddi t d a k s
  | .andi t d a k => Sys2Proof.Machine.execAndi t d a k s
  | .ori t d a k => Sys2Proof.Machine.execOri t d a k s
  | .xori t d a k => Sys2Proof.Machine.execXori t d a k s
  | .shli t d a sc => Sys2Proof.Machine.execShli t d a sc s
  | .shri t d a sc => Sys2Proof.Machine.execShri t d a sc s
  | .srai t d a sc => Sys2Proof.Machine.execSrai t d a sc s
  | .movi t d k => Sys2Proof.Machine.execMovi t d k s
  | .movhi t d k => Sys2Proof.Machine.execMovhi t d k s
  | .mfs t d n => Sys2Proof.Machine.execMfs t d n s
  | .mts t a n => Sys2Proof.Machine.execMts t a n s
  | .pcmp p a b c => Sys2Proof.Machine.execPcmp p a b c s
  | .pcmpi c p a k => Sys2Proof.Machine.execPcmpi c p a k s
  | .plog d a b f => Sys2Proof.Machine.execPlog d a b f s
  | .pmovToPred p a => Sys2Proof.Machine.execPmovToPred p a s
  | .pmovFromPred d p => Sys2Proof.Machine.execPmovFromPred d p s
  | .bp p o => Sys2Proof.Machine.execBp p o s
  | .bnp p o => Sys2Proof.Machine.execBnp p o s
  | .selp d a b p => Sys2Proof.Machine.execSelp d a b p s
  | .sig a e => Sys2Proof.Machine.execSig a e s
  | .endJob sc => Sys2Proof.Machine.execEndJob sc s
  | .trap k => Sys2Proof.Machine.execTrap k s
  | .eret => Sys2Proof.Machine.execEret s
  | .bqry d k => Sys2Proof.Machine.execBqry d k s
  | .joule d k => Sys2Proof.Machine.execJoule d k s
  | .varreg q sc => Sys2Proof.Machine.execVarreg q sc s
  | .thrack a => Sys2Proof.Machine.execThrack a s
  | .eclass d c => Sys2Proof.Machine.execEclass d c s
  | .phase k => Sys2Proof.Machine.execPhase k s
  | .preempt d a => Sys2Proof.Machine.execPreempt d a s
  | .qsusp d a => Sys2Proof.Machine.execQsusp d a s
  | .qres d a => Sys2Proof.Machine.execQres d a s
  | .semmap a b => Sys2Proof.Machine.execSemmap a b s
  | .drainm d a => Sys2Proof.Machine.execDrainm d a s
  | .rseed a b => Sys2Proof.Machine.execRseed a b s
  | .yield => Sys2Proof.Machine.execYield s
  | .ald z d a k => Sys2Proof.Machine.execAld z d a k s
  | .ast z d a k => Sys2Proof.Machine.execAst z d a k s
  | .ard q a k => Sys2Proof.Machine.execArd q a k s
  | .awr q a k => Sys2Proof.Machine.execAwr q a k s
  | .afill q a w => Sys2Proof.Machine.execAfill q a w s
  | .adrain q a w => Sys2Proof.Machine.execAdrain q a w s
  | .wset w a k => Sys2Proof.Machine.execWset w a k s
  | .wadv w n => Sys2Proof.Machine.execWadv w n s
  | .gld z d a b c => Sys2Proof.Machine.execGld z d a b c s
  | .gst z d a b c => Sys2Proof.Machine.execGst z d a b c s
  | .ggath z q a b c => Sys2Proof.Machine.execGgath z q a b c s
  | .gscat z q a b c => Sys2Proof.Machine.execGscat z q a b c s
  | .aamo o d a sc r w c => Sys2Proof.Machine.execAamo o d a sc r w c s
  | .acas d a sc r w c => Sys2Proof.Machine.execAcas d a sc r w c s
  | .aswp d a sc r w c => Sys2Proof.Machine.execAswp d a sc r w c s
  | .samo o d a sc r w => Sys2Proof.Machine.execSamo o d a sc r w s
  | .rst z d a k => Sys2Proof.Machine.execRst z d a k s
  | .rld z d a k => Sys2Proof.Machine.execRld z d a k s
  | .binit d a k => Sys2Proof.Machine.execBinit d a k s
  | .barr a k => Sys2Proof.Machine.execBarr a k s
  | .bwait d a k => Sys2Proof.Machine.execBwait d a k s
  | .btest d a k => Sys2Proof.Machine.execBtest d a k s
  | .fenceAcq sc m => Sys2Proof.Machine.execFenceAcq sc m s
  | .fenceRel sc m => Sys2Proof.Machine.execFenceRel sc m s
  | .fenceFull sc m => Sys2Proof.Machine.execFenceFull sc m s
  | .fenceAsync sc m => Sys2Proof.Machine.execFenceAsync sc m s
  | .tlbp d a => Sys2Proof.Machine.execTlbp d a s
  | .tlbinvPage a b => Sys2Proof.Machine.execTlbinvPage a b s
  | .tlbinvCtx a b => Sys2Proof.Machine.execTlbinvCtx a b s
  | .tlbinvAll a b => Sys2Proof.Machine.execTlbinvAll a b s
  | .l1opLine a => Sys2Proof.Machine.execL1opLine a s
  | .l1opAll a => Sys2Proof.Machine.execL1opAll a s
  | .pref h a b c => Sys2Proof.Machine.execPref h a b c s
  | .vadd t d a b ty => Sys2Proof.Machine.execVadd t d a b ty s
  | .vsub t d a b ty => Sys2Proof.Machine.execVsub t d a b ty s
  | .vmul t d a b ty => Sys2Proof.Machine.execVmul t d a b ty s
  | .vmadd t d a b ty => Sys2Proof.Machine.execVmadd t d a b ty s
  | .vmin t d a b ty => Sys2Proof.Machine.execVmin t d a b ty s
  | .vmax t d a b ty => Sys2Proof.Machine.execVmax t d a b ty s
  | .vadds t d a b ty => Sys2Proof.Machine.execVadds t d a b ty s
  | .vand t d a b ty => Sys2Proof.Machine.execVand t d a b ty s
  | .vor t d a b ty => Sys2Proof.Machine.execVor t d a b ty s
  | .vxor t d a b ty => Sys2Proof.Machine.execVxor t d a b ty s
  | .vshl t d a b ty => Sys2Proof.Machine.execVshl t d a b ty s
  | .vshr t d a b ty => Sys2Proof.Machine.execVshr t d a b ty s
  | .vabs t d a ty => Sys2Proof.Machine.execVabs t d a ty s
  | .vneg t d a ty => Sys2Proof.Machine.execVneg t d a ty s
  | .vrcp t d a ty => Sys2Proof.Machine.execVrcp t d a ty s
  | .vrsq t d a ty => Sys2Proof.Machine.execVrsq t d a ty s
  | .vexp t d a ty => Sys2Proof.Machine.execVexp t d a ty s
  | .vpopc t d a ty => Sys2Proof.Machine.execVpopc t d a ty s
  | .vnot t d a ty => Sys2Proof.Machine.execVnot t d a ty s
  | .vfma t d a b ty => Sys2Proof.Machine.execVfma t d a b ty s
  | .vcmp t d a u ty => Sys2Proof.Machine.execVcmp t d a u ty s
  | .vsel t d a b ty => Sys2Proof.Machine.execVsel t d a b ty s
  | .vcvt t d a sc r ty => Sys2Proof.Machine.execVcvt t d a sc r ty s
  | .vqmx t d a b ty => Sys2Proof.Machine.execVqmx t d a b ty s
  | .vdqmx t d a b ty => Sys2Proof.Machine.execVdqmx t d a b ty s
  | .vscl t d a b ty => Sys2Proof.Machine.execVscl t d a b ty s
  | .vred t d a u ty => Sys2Proof.Machine.execVred t d a u ty s
  | .vscan t d a u ty => Sys2Proof.Machine.execVscan t d a u ty s
  | .vperm t d a b ty => Sys2Proof.Machine.execVperm t d a b ty s
  | .vrotm t d a b ty => Sys2Proof.Machine.execVrotm t d a b ty s
  | .vbcst t d a ty => Sys2Proof.Machine.execVbcst t d a ty s
  | .vmpush t a ty => Sys2Proof.Machine.execVmpush t a ty s
  | .vminv t => Sys2Proof.Machine.execVminv t s
  | .vmpop t => Sys2Proof.Machine.execVmpop t s
  | .vskip t n => Sys2Proof.Machine.execVskip t n s
  | .vidxw t d a ty => Sys2Proof.Machine.execVidxw t d a ty s
  | .vidxr t d a ty => Sys2Proof.Machine.execVidxr t d a ty s
  | .vbitt t d a ty => Sys2Proof.Machine.execVbitt t d a ty s
  | .vbits t d a ty => Sys2Proof.Machine.execVbits t d a ty s
  | .vpopm t d a => Sys2Proof.Machine.execVpopm t d a s
  | .vmatch t d a b ty => Sys2Proof.Machine.execVmatch t d a b ty s
  | .vlane t d a ty => Sys2Proof.Machine.execVlane t d a ty s
  | .vins t d a ty => Sys2Proof.Machine.execVins t d a ty s
  | .vmov t d w => Sys2Proof.Machine.execVmov t d w s
  | .tshape t d a b => Sys2Proof.Machine.execTshape t d a b s
  | .tcfg t a f => Sys2Proof.Machine.execTcfg t a f s
  | .tzero t c => Sys2Proof.Machine.execTzero t c s
  | .tmma t c a b n => Sys2Proof.Machine.execTmma t c a b n s
  | .tmmax t c a b n => Sys2Proof.Machine.execTmmax t c a b n s
  | .tmmat t c a b n => Sys2Proof.Machine.execTmmat t c a b n s
  | .tmmas t c a b m n => Sys2Proof.Machine.execTmmas t c a b m n s
  | .tret t c a k => Sys2Proof.Machine.execTret t c a k s
  | .tretq t c a k => Sys2Proof.Machine.execTretq t c a k s
  | .tspill t c a => Sys2Proof.Machine.execTspill t c a s
  | .tfill t c a => Sys2Proof.Machine.execTfill t c a s
  | .tacc t c sc => Sys2Proof.Machine.execTacc t c sc s
  | .tstat t d f => Sys2Proof.Machine.execTstat t d f s
  | .tchk t d a f => Sys2Proof.Machine.execTchk t d a f s
  | .holdEnd core => Sys2Proof.Machine.execHoldEnd core s
  | .trapEntry core => Sys2Proof.Machine.execTrapEntry core s
  | .haltLineArrival core => Sys2Proof.Machine.execHaltLineArrival core s
  | .dispatchRound cluster => Sys2Proof.Machine.execDispatchRound cluster s
  | .capacityWaitTimeout cluster slot => Sys2Proof.Machine.execCapacityWaitTimeout cluster slot s
  | .cardRetire cluster slot => Sys2Proof.Machine.execCardRetire cluster slot s
  | .copyGo core e value => Sys2Proof.Machine.execCopyGo core e value s
  | .copyCommandStart core e => Sys2Proof.Machine.execCopyCommandStart core e s
  | .copyBurstComplete core e => Sys2Proof.Machine.execCopyBurstComplete core e s
  | .copyFaultTrap core => Sys2Proof.Machine.execCopyFaultTrap core s
  | .comparedCommandIssue core => Sys2Proof.Machine.execComparedCommandIssue core s
  | .thirdRunEnd core => Sys2Proof.Machine.execThirdRunEnd core s
  | .governorInterval sense => Sys2Proof.Machine.execGovernorInterval sense s
  | .evacuationTimeout island => Sys2Proof.Machine.execEvacuationTimeout island s
  | .levelChange island => Sys2Proof.Machine.execLevelChange island s
  | .phaseCapwaitTimeout core => Sys2Proof.Machine.execPhaseCapwaitTimeout core s
  | .droopDetect island => Sys2Proof.Machine.execDroopDetect island s
  | .droopRecover island depth => Sys2Proof.Machine.execDroopRecover island depth s
  | .scrubRead unit found => Sys2Proof.Machine.execScrubRead unit found s
  | .pageWalkEnd cluster walk => Sys2Proof.Machine.execPageWalkEnd cluster walk s
  | .pageRequestAnswer part value => Sys2Proof.Machine.execPageRequestAnswer part value s
  | .shootdownComplete part => Sys2Proof.Machine.execShootdownComplete part s
  | .launchRecordWalk cluster slot => Sys2Proof.Machine.execLaunchRecordWalk cluster slot s
  | .launchRecordTimeout cluster slot => Sys2Proof.Machine.execLaunchRecordTimeout cluster slot s
  | .sealFillComplete frame found => Sys2Proof.Machine.execSealFillComplete frame found s
  | .resealComplete frame found => Sys2Proof.Machine.execResealComplete frame found s
  | .frameAssign frame ctx => Sys2Proof.Machine.execFrameAssign frame ctx s
  | .flushOrder frame => Sys2Proof.Machine.execFlushOrder frame s
  | .backInvalidateResponse line => Sys2Proof.Machine.execBackInvalidateResponse line s
  | .hostSnoop line kind => Sys2Proof.Machine.execHostSnoop line kind s
  | .hostMemRead req addr => Sys2Proof.Machine.execHostMemRead req addr s
  | .hostMemWrite req addr data => Sys2Proof.Machine.execHostMemWrite req addr data s
  | .doorbell ctx value => Sys2Proof.Machine.execDoorbell ctx value s
  | .nopPacket ctx queue => Sys2Proof.Machine.execNopPacket ctx queue s
  | .operators ctx queue => Sys2Proof.Machine.execOperators ctx queue s
  | .indirect ctx queue => Sys2Proof.Machine.execIndirect ctx queue s
  | .signal ctx queue => Sys2Proof.Machine.execSignal ctx queue s
  | .signalPacketPerform ctx queue => Sys2Proof.Machine.execSignalPacketPerform ctx queue s
  | .wait ctx queue => Sys2Proof.Machine.execWait ctx queue s
  | .waitPacketRelease ctx queue => Sys2Proof.Machine.execWaitPacketRelease ctx queue s
  | .staleReread ctx queue => Sys2Proof.Machine.execStaleReread ctx queue s
  | .castling ctx queue => Sys2Proof.Machine.execCastling ctx queue s
  | .quotaWaitRelease ctx queue => Sys2Proof.Machine.execQuotaWaitRelease ctx queue s
  | .qctlReset ctx queue value => Sys2Proof.Machine.execQctlReset ctx queue value s
  | .functionLevelReset vf => Sys2Proof.Machine.execFunctionLevelReset vf s
  | .tdiLeaveRun vf => Sys2Proof.Machine.execTdiLeaveRun vf s
  | .negotiateAlgorithms offered => Sys2Proof.Machine.execNegotiateAlgorithms offered s
  | .getCertificate offset len => Sys2Proof.Machine.execGetCertificate offset len s
  | .challenge nonce => Sys2Proof.Machine.execChallenge nonce s
  | .getMeasurements nonce => Sys2Proof.Machine.execGetMeasurements nonce s
  | .keyExchange session => Sys2Proof.Machine.execKeyExchange session s
  | .finish session verified => Sys2Proof.Machine.execFinish session verified s
  | .endSession session => Sys2Proof.Machine.execEndSession session s
  | .keyset session ctx kind key => Sys2Proof.Machine.execKeyset session ctx kind key s
  | .jobStop core => Sys2Proof.Machine.execJobStop core s
  | .saveComplete cluster slot => Sys2Proof.Machine.execSaveComplete cluster slot s
  | .wrapPost part value => Sys2Proof.Machine.execWrapPost part value s
  | .wrapCutoff part cluster => Sys2Proof.Machine.execWrapCutoff part cluster s
  | .wrapStopDeadline part core => Sys2Proof.Machine.execWrapStopDeadline part core s
  | .corerst core => Sys2Proof.Machine.execCorerst core s
  | .coreSelfTestEnd core passed => Sys2Proof.Machine.execCoreSelfTestEnd core passed s
  | .bringupStageAdvance outcome => Sys2Proof.Machine.execBringupStageAdvance outcome s
  | .frameDecoded stream data status pts => Sys2Proof.Machine.execFrameDecoded stream data status pts s
  | .monitorClr m => Sys2Proof.Machine.execMonitorClr m s
  | .fastsetCountClear => Sys2Proof.Machine.execFastsetCountClear s
  | .flitReceive port flit macOk => Sys2Proof.Machine.execFlitReceive port flit macOk s
  | .flitReplay port seq => Sys2Proof.Machine.execFlitReplay port seq s
  | .portRetrainComplete port => Sys2Proof.Machine.execPortRetrainComplete port s
  | .peerRequest req => Sys2Proof.Machine.execPeerRequest req s
  | .peerResponse tag poisoned data => Sys2Proof.Machine.execPeerResponse tag poisoned data s
  | .peerRequestTimeout tag => Sys2Proof.Machine.execPeerRequestTimeout tag s
  | .registerWrite addr width value => Sys2Proof.Machine.execRegisterWrite addr width value s
  | .islandCycle island => Sys2Proof.Machine.execIslandCycle island s
  | .reservedEncoding word cause => Sys2Proof.Machine.execReservedEncoding word cause s
  | .accessPerformsAtHome core n => Sys2Proof.Machine.execAccessPerformsAtHome core n s
  | .badpacket ctx queue => Sys2Proof.Machine.execBadpacket ctx queue s
  | .singleFault kind => Sys2Proof.Machine.execSingleFault kind s
  | .tdispMessage vf msg => Sys2Proof.Machine.execTdispMessage vf msg s
  | .keySlotErase slot => Sys2Proof.Machine.execKeySlotErase slot s
  | .getVersion => Sys2Proof.Machine.execGetVersion s
  | .getCapabilities => Sys2Proof.Machine.execGetCapabilities s
  | .getDigests => Sys2Proof.Machine.execGetDigests s
  | .powerOnReset => Sys2Proof.Machine.execPowerOnReset s
  | .pcieHotReset => Sys2Proof.Machine.execPcieHotReset s
  | .devrst => Sys2Proof.Machine.execDevrst s

end Sys2Proof.Machine
end

