-- ==== Sys2Proof/Machine/Step.lean ====
section
/-! DEFINITION. The step of the machine (log 1): the next turn is an engine of a core, which fetches, decodes and runs
one instruction; an event of the device; or a wait. -/

namespace Sys2Proof.Machine

/-- The instruction of the opcode table that an engine reads from a word; a word that it does not decode is the event
RESERVED_ENCODING (R66). -/
def instrOf (e : Eng) (w : W32) : Instr :=
  match decode e w with
  | .ok i => i
  | .error cause => .reservedEncoding w cause

/-- The turn of one engine of a core. -/
def runEngine (s : State) (c : CoreId) (e : Eng) : Res :=
  match s.job c with
  | none => .next s
  | some j =>
    if decide (e = .c) && j.asyncDue then exec (.trapEntry c) s
    else if decide (e = .a) && j.copyDue then exec (.copyFaultTrap c) s
    else if !j.ready e then .next s
    else if !e.elastic && !reached j.take (j.base e) then .next s
    else
      match s.fetchFor c j e (j.pc e) with
      | .word w => if dueNow j e w then exec (instrOf e w) (s.fetchUse c j e) else .next s
      | f => .next (s.fetchMiss c j e f)

/-- A step of the device that carries its own data: every row of the opcode table without a word, but for
RESERVED_ENCODING, which belongs to the turn of an engine. -/
def isEvent (i : Instr) : Bool :=
  match i with
  | .reservedEncoding _ _ => false
  | i => (encode i).isNone

/-- Runs one turn. -/
def runTurn (s : State) (t : Turn) : Res :=
  match t with
  | .eng c e => runEngine { s with turn := .eng c e } c e
  | .event i => if isEvent i then exec i s else .next s
  | .wait ns => .next (if ns = 0 then s else { s.markAll with time := s.time + ns, now := [] })
  | .period i => .next (s.passCycle i)

/-- What is in flight for a core, in the order in which the default schedule lets it end (log 1). -/
def pendingFor (s : State) (c : CoreId) : List Turn :=
  s.halts.flatMap (fun h => h.2.map fun d => .event (.haltLineArrival d))
  ++ [.event (.comparedCommandIssue c), .event (.thirdRunEnd c), .event (.accessPerformsAtHome c 0),
    .event (.copyCommandStart c 0), .event (.copyCommandStart c 1), .event (.copyBurstComplete c 0),
    .event (.copyBurstComplete c 1)]
  ++ (List.finRange 16).map (fun w => .event (.pageWalkEnd (coreClu c) w))
  ++ s.fills.map (fun f => .event (.sealFillComplete f.frame .verified))
  ++ s.reseals.map (fun r => .event (.resealComplete r.frame .verified))

/-- The default schedule: one cycle of the core in turn, what is in flight for it, and one cycle of its island (R280, log 1). -/
def defaultPlan (s : State) : List Turn :=
  let c := s.turnCore
  [.event (.holdEnd c), .eng c .v, .eng c .m, .eng c .c, .eng c .a] ++ pendingFor s c
    ++ [.event (.islandCycle (coreIsl c)), .period (coreIsl c)]

/-- One step: the first turn of the agenda; an empty agenda is first filled by the default schedule. -/
def step (s : State) : Res :=
  match s.agenda with
  | t :: rest => runTurn { s with agenda := rest } t
  | [] =>
    match defaultPlan s with
    | t :: rest => runTurn { s with agenda := rest } t
    | [] => .next s

/-- The virtual page and the frame where `withFetchWord` places an instruction. -/
def fetchPage : Nat := 1

/-- The job that `withFetchWord` gives to core 0, with the streams that the engine needs; a timed instruction is due at
its idle count (R39). -/
def fetchJob (e : Eng) (w : Nat) : Job :=
  let j := Job.blank 0 0 (BitVec.ofNat 48 (4096 * fetchPage))
  { j with
    hasA := decide (e = .a), hasV := decide (e = .v), hasM := decide (e = .m)
    take := if e.elastic then 0 else BitVec.ofNat 32 (bitsAt w 23 3) }

/-- The state in which the next step fetches and runs the instruction with these bits: core 0 runs a job whose engine
stands at the word, its page is translated and the word's line is present. The device is past bring-up. -/
def State.withFetchWord (s : State) (nbits w : Nat) : State :=
  if nbits = 0 then s else
  let e := match tableEng w with
    | some (e, _) => e
    | none => .c
  let ent : TlbEnt :=
    { ctx := 0, vpage := fetchPage, frame := fetchPage, size := 0, kind := 0, rd := true, wr := false, ex := true }
  let line : Line :=
    { data := BitVec.ofNat 1024 (natOfBytes (wordBytes w)), dirty := false, poison := none, ctx := 0, mesi := .i,
      age := s.lastUse, writer := none, wrote := 0 }
  let core := { s.core 0 with job := some (fetchJob e w), tlb := [ent] }
  { s.setCore 0 core with
    lines := s.lines.insert (4096 * fetchPage / 128) line
    stage := .ready
    agenda := [.eng 0 e] }

end Sys2Proof.Machine
end

