-- ==== Sys2Proof/Safety.lean ====
section
/-! DEFINITION. What the claims about runs speak of. -/

namespace Sys2Proof.Machine

/-- A step that ended well: the machine has a next state. -/
def Runs (r : Res) : Prop := ∃ s, r = .next s

/-- Engine `e` of core `c` is in turn, and it has a stream of the job `j` that the core runs (R30, R31). -/
structure InTurn (s : State) (c : CoreId) (e : Eng) (j : Job) : Prop where
  turn : s.turn = .eng c e
  job : s.job c = some j
  has : j.has e = true

/-- The instruction `i` of engine `e` issues in this cycle: it passes the checks of its decoding and issue, its operands
are ready, no hold is in force, and no fault of the address adders meets it (R43, R66, R67, R78, R132, R293). -/
structure Issues (s : State) (c : CoreId) (e : Eng) (j : Job) (i : Instr) : Prop extends InTurn s c e j where
  go : gate s c j e i = .go
  adder : s.adderTrap c j i = false

/-- The canonical form of what the machine holds sparsely: device memory, each scratchpad, the metadata of the frames, the
limits of the cache and the queues of each context. No run leaves it; a state that no run reaches may lack it. -/
structure State.Tidy (s : State) : Prop where
  mem : s.mem.wf = true
  scr : ∀ c, (s.core c).scr.wf = true
  metas : SMap.wf Meta.init s.sealMeta = true
  limits : SMap.wf limitInit s.limits = true
  queues : ∀ c, SMap.wf Queue.init (s.ctx c).queues = true

/-- What every instruction that issues does to its job before its own effect: C under FULL notes the instruction for its checker
(R285), and an M instruction counts in RDEPTH (R275). -/
def Job.issuing (j : Job) (e : Eng) (i : Instr) : Job := (j.begun e i).deepen e

/-- The sources of an instruction, in the order in which it reads them. -/
def sourcesOf (j : Job) (e : Eng) (i : Instr) : List Val := (readFields (j.issuing e i) (fieldsOf (j.issuing e i) i)).2

/-- The job after an instruction has read its sources and popped their streams. -/
def Job.sourced (j : Job) (e : Eng) (i : Instr) : Job := (readFields (j.issuing e i) (fieldsOf (j.issuing e i) i)).1

/-- The state after a scalar instruction with occupancy 1 that writes `f` of its sources to `d` and goes on (R75, R76):
`x n` is the `n`-th source at the engine's width. -/
def scalarDone (s : State) (c : CoreId) (e : Eng) (j : Job) (i : Instr) (d : Opnd)
    (f : (w : Nat) → (Nat → BitVec w) → BitVec w) : State :=
  s.setJob c (((j.sourced e i).result e d fun get =>
    (f (engWidth e) fun n => (argAt (sourcesOf j e i) n).scalar _ get).setWidth 64).done e 1)

/-- The `n`-th source of an instruction of C, as the primary reads it. -/
def srcC (j : Job) (i : Instr) (n : Nat) : W32 := (argAt (sourcesOf j .c i) n).scalar 32 (j.reg .c)

/-- The `n`-th source of an instruction of A. -/
def srcA (j : Job) (i : Instr) (n : Nat) : W64 := (argAt (sourcesOf j .a i) n).scalar 64 (j.reg .a)

/-- The address that a base and a 10-bit immediate form (R188). -/
def immAddr (j : Job) (i : Instr) (k : BitVec 10) : Nat := (((srcA j i 0).toNat + k.toInt) % 2 ^ 64).toNat

/-- The value of `n` bytes as a two's complement integer, the first lowest. -/
def signedBytes (bs : List Byte) : Int :=
  if 2 * natOfBytes bs < 256 ^ bs.length then natOfBytes bs else natOfBytes bs - (256 ^ bs.length : Int)

/-- What a load of a size writes (R191). -/
def loaded64 (z : Size) (bs : List Byte) : W64 :=
  match z with
  | .s8 | .s16 => BitVec.ofInt 64 (signedBytes bs)
  | _ => BitVec.ofNat 64 (natOfBytes bs)

/-- The state after an instruction of A that writes `x` to `d` and changes nothing but `t` says. -/
def gives (t : State) (c : CoreId) (j : Job) (d : Opnd) (x : W64) : State :=
  t.setJob c ((j.result .a d fun _ => x).done .a 1)

/-- The `n`-th source row of an instruction of V, in the order A, B, D. -/
def srcRow (j : Job) (i : Instr) (n : Nat) : Row :=
  rowAt ((sourcesOf j .v i).map fun v => v.vec (j.sourced .v i).v) n

/-- The `n`-th source of an instruction of V, as a scalar. -/
def srcV (j : Job) (i : Instr) (n : Nat) : W32 := (argAt (sourcesOf j .v i) n).scalar 32 (j.reg .v)

/-- The state after an instruction of V with occupancy `occ` that delivers the result `o` after `lat` takes (R225). -/
def vecDone (s : State) (c : CoreId) (j : Job) (i : Instr) (occ lat : Nat) (d : Opnd) (o : VOut) : State :=
  s.setJob c (((j.sourced .v i).vout d lat o).done .v occ)

/-- A row that every byte of the destination takes. -/
def whole (r : Row) (f : Flags) : VOut := { row := r, mask := BitVec.allOnes 128, flags := f }

/-! ## Frames -/

/-- Nothing but the job of core `c` differs between two states: every other core, the scratchpad, the row map and the caches of
this one, and every other field of the machine are as they were. -/
structure JobOnly (c : CoreId) (s t : State) : Prop where
  others : ∀ d, d ≠ c → t.core d = s.core d
  own : { t.core c with job := none } = { s.core c with job := none }
  rest : { t with cores := s.cores } = s

/-- What no result of a scalar instruction touches in its job: the other engines, the predicates, the trap registers, the
vector registers and masks, the accumulators and their configuration, the walks, the command windows, the card's
selections, and how far the job has come. -/
structure Job.Beside (e : Eng) (j k : Job) : Prop where
  pc : ∀ x, x ≠ e → k.pc x = j.pc x ∧ k.loops x = j.loops x
  ras : ∀ x, k.ras x = j.ras x ∧ k.shadow x = j.shadow x
  preds : k.c.arch.p = j.c.arch.p ∧ k.c.arch.inh = j.c.arch.inh
  traps : k.c.vec = j.c.vec ∧ k.c.code = j.c.code ∧ k.c.tpc = j.c.tpc ∧ k.c.tval = j.c.tval ∧ k.c.pwrap = j.c.pwrap ∧
    k.c.ppre = j.c.ppre ∧ k.c.pflag = j.c.pflag
  access : k.a.posted = j.a.posted ∧ k.a.acls = j.a.acls
  vector : k.v.v = j.v.v ∧ k.v.masks = j.v.masks ∧ k.v.skip = j.v.skip ∧ k.v.vmst = j.v.vmst ∧ k.v.fpflags = j.v.fpflags ∧
    k.v.fpmode = j.v.fpmode ∧ k.v.stores = j.v.stores
  matrix : k.m.acc = j.m.acc ∧ k.m.tcfg = j.m.tcfg ∧ k.m.retcnt = j.m.retcnt ∧ k.m.unchk = j.m.unchk ∧
    k.m.fpflags = j.m.fpflags ∧ k.m.fpmode = j.m.fpmode ∧ k.m.flights = j.m.flights
  shared : k.walks = j.walks ∧ k.win = j.win ∧ k.copies = j.copies ∧ k.fmt = j.fmt ∧ k.flag = j.flag ∧ k.var = j.var ∧
    k.slots = j.slots ∧ k.rowMode = j.rowMode
  job : k.take = j.take ∧ k.holdcyc = j.holdcyc ∧ k.jobid = j.jobid ∧ k.nodeid = j.nodeid ∧ k.domain = j.domain ∧
    k.ctx = j.ctx ∧ k.rseed = j.rseed ∧ k.raised = j.raised ∧ k.progress = j.progress

/-- The scalar instructions that write a register or a stream (R92-R95), with all their operands. -/
def scalarForms (t : Tm) (d a b : Opnd) (k : BitVec 10) (h : BitVec 6) (m : BitVec 16) : List Instr :=
  [.add t d a b, .sub t d a b, .mul t d a b, .mulh t d a b, .mulhn t d a b, .and t d a b, .or t d a b, .xor t d a b,
    .shl t d a b, .shr t d a b, .sra t d a b, .min t d a b, .max t d a b, .minn t d a b, .maxn t d a b, .mad t d a b,
    .slt t d a b, .sltn t d a b, .seq t d a b, .sel t d a b, .clz t d a, .popc t d a, .mov t d a, .addi t d a k, .andi t d a k,
    .ori t d a k, .xori t d a k, .shli t d a h, .shri t d a h, .srai t d a h, .movi t d m, .movhi t d m]

/-- The instructions of V that deliver a row or a scalar to D and have no other effect (R231-R244, R248-R254). -/
def vectorForms (t : Tm) (d a b : Opnd) (ty src : ElemT) (u : VCond) (r : CvtRnd) (o : RedOp) : List Instr :=
  [.vadd t d a b ty, .vsub t d a b ty, .vmul t d a b ty, .vmadd t d a b ty, .vmin t d a b ty, .vmax t d a b ty, .vadds t d a b ty,
    .vand t d a b ty, .vor t d a b ty, .vxor t d a b ty, .vshl t d a b ty, .vshr t d a b ty, .vabs t d a ty, .vneg t d a ty,
    .vrcp t d a ty, .vrsq t d a ty, .vexp t d a ty, .vpopc t d a ty, .vnot t d a ty, .vfma t d a b ty, .vcmp t d a u ty,
    .vsel t d a b ty, .vcvt t d a src r ty, .vqmx t d a b ty, .vdqmx t d a b ty, .vscl t d a b ty, .vred t d a o ty,
    .vscan t d a o ty, .vperm t d a b ty, .vrotm t d a b ty, .vbcst t d a ty, .vidxw t d a ty, .vidxr t d a ty,
    .vbitt t d a ty, .vbits t d a ty, .vpopm t d a, .vlane t d a ty, .vins t d a ty]

end Sys2Proof.Machine
end

