-- ==== Sys2Proof/Certificates/Slice0/Obligations.lean ====
section
/-! DEFINITION. The statements for the provers: what the rules of spec/ say that the machine does. -/

open Sys2Proof Sys2Proof.Machine

/-- R92: the results of the two-source and three-source groups, each with its own arithmetic on integers: an instruction
that issues writes the result to D and goes on. -/
def Obligations.AluGroupResults : Prop :=
  ∀ (s : State) (c : CoreId) (e : Eng) (j : Job) (t : Tm) (d a b : Opnd),
    (∀ i, i = Instr.add t d a b → Issues s c e j i → exec i s = .next (scalarDone s c e j i d fun w x =>
      BitVec.ofNat w ((x 0).toNat + (x 1).toNat))) ∧
    (∀ i, i = Instr.sub t d a b → Issues s c e j i → exec i s = .next (scalarDone s c e j i d fun w x =>
      BitVec.ofInt w ((x 0).toNat - (x 1).toNat : Int))) ∧
    (∀ i, i = Instr.mul t d a b → Issues s c e j i → exec i s = .next (scalarDone s c e j i d fun w x =>
      BitVec.ofNat w ((x 0).toNat * (x 1).toNat))) ∧
    (∀ i, i = Instr.mulh t d a b → Issues s c e j i → exec i s = .next (scalarDone s c e j i d fun w x =>
      BitVec.ofInt w (((x 0).toInt * (x 1).toInt) / 2 ^ w))) ∧
    (∀ i, i = Instr.mulhn t d a b → Issues s c e j i → exec i s = .next (scalarDone s c e j i d fun w x =>
      BitVec.ofNat w (((x 0).toNat * (x 1).toNat) / 2 ^ w))) ∧
    (∀ i, i = Instr.and t d a b → Issues s c e j i → exec i s = .next (scalarDone s c e j i d fun w x =>
      BitVec.ofNat w ((x 0).toNat &&& (x 1).toNat))) ∧
    (∀ i, i = Instr.or t d a b → Issues s c e j i → exec i s = .next (scalarDone s c e j i d fun w x =>
      BitVec.ofNat w ((x 0).toNat ||| (x 1).toNat))) ∧
    (∀ i, i = Instr.xor t d a b → Issues s c e j i → exec i s = .next (scalarDone s c e j i d fun w x =>
      BitVec.ofNat w ((x 0).toNat ^^^ (x 1).toNat))) ∧
    (∀ i, i = Instr.shl t d a b → Issues s c e j i → exec i s = .next (scalarDone s c e j i d fun w x =>
      BitVec.ofNat w ((x 0).toNat * 2 ^ ((x 1).toNat % w)))) ∧
    (∀ i, i = Instr.shr t d a b → Issues s c e j i → exec i s = .next (scalarDone s c e j i d fun w x =>
      BitVec.ofNat w ((x 0).toNat / 2 ^ ((x 1).toNat % w)))) ∧
    (∀ i, i = Instr.sra t d a b → Issues s c e j i → exec i s = .next (scalarDone s c e j i d fun w x =>
      BitVec.ofInt w ((x 0).toInt / 2 ^ ((x 1).toNat % w)))) ∧
    (∀ i, i = Instr.min t d a b → Issues s c e j i → exec i s = .next (scalarDone s c e j i d fun w x =>
      BitVec.ofInt w (Min.min (x 0).toInt (x 1).toInt))) ∧
    (∀ i, i = Instr.max t d a b → Issues s c e j i → exec i s = .next (scalarDone s c e j i d fun w x =>
      BitVec.ofInt w (Max.max (x 0).toInt (x 1).toInt))) ∧
    (∀ i, i = Instr.minn t d a b → Issues s c e j i → exec i s = .next (scalarDone s c e j i d fun w x =>
      BitVec.ofNat w (Min.min (x 0).toNat (x 1).toNat))) ∧
    (∀ i, i = Instr.maxn t d a b → Issues s c e j i → exec i s = .next (scalarDone s c e j i d fun w x =>
      BitVec.ofNat w (Max.max (x 0).toNat (x 1).toNat))) ∧
    (∀ i, i = Instr.mad t d a b → Issues s c e j i → exec i s = .next (scalarDone s c e j i d fun w x =>
      BitVec.ofNat w ((x 2).toNat + (x 0).toNat * (x 1).toNat)))

/-- R92 and R93 to R95: the second group, the one-source forms and the immediate forms. -/
def Obligations.ScalarResults : Prop :=
  ∀ (s : State) (c : CoreId) (e : Eng) (j : Job) (t : Tm) (d a b : Opnd) (k : BitVec 10) (h : BitVec 6) (m : BitVec 16),
    (∀ i, i = Instr.slt t d a b → Issues s c e j i → exec i s = .next (scalarDone s c e j i d fun w x =>
      if (x 0).toInt < (x 1).toInt then BitVec.ofNat w 1 else BitVec.ofNat w 0)) ∧
    (∀ i, i = Instr.sltn t d a b → Issues s c e j i → exec i s = .next (scalarDone s c e j i d fun w x =>
      if (x 0).toNat < (x 1).toNat then BitVec.ofNat w 1 else BitVec.ofNat w 0)) ∧
    (∀ i, i = Instr.seq t d a b → Issues s c e j i → exec i s = .next (scalarDone s c e j i d fun w x =>
      if (x 0).toNat = (x 1).toNat then BitVec.ofNat w 1 else BitVec.ofNat w 0)) ∧
    (∀ i, i = Instr.sel t d a b → Issues s c e j i → exec i s = .next (scalarDone s c e j i d fun _ x =>
      if (x 2).toNat ≠ 0 then x 0 else x 1)) ∧
    (∀ i, i = Instr.clz t d a → Issues s c e j i → exec i s = .next (scalarDone s c e j i d fun w x =>
      BitVec.ofNat w ((List.range w).reverse.takeWhile fun n => !(x 0).getLsbD n).length)) ∧
    (∀ i, i = Instr.popc t d a → Issues s c e j i → exec i s = .next (scalarDone s c e j i d fun w x =>
      BitVec.ofNat w ((List.range w).filter fun n => (x 0).getLsbD n).length)) ∧
    (∀ i, i = Instr.mov t d a → Issues s c e j i → exec i s = .next (scalarDone s c e j i d fun _ x => x 0)) ∧
    (∀ i, i = Instr.addi t d a k → Issues s c e j i → exec i s = .next (scalarDone s c e j i d fun w x =>
      BitVec.ofInt w ((x 0).toNat + k.toInt))) ∧
    (∀ i, i = Instr.andi t d a k → Issues s c e j i → exec i s = .next (scalarDone s c e j i d fun w x =>
      x 0 &&& BitVec.ofInt w k.toInt)) ∧
    (∀ i, i = Instr.ori t d a k → Issues s c e j i → exec i s = .next (scalarDone s c e j i d fun w x =>
      x 0 ||| BitVec.ofInt w k.toInt)) ∧
    (∀ i, i = Instr.xori t d a k → Issues s c e j i → exec i s = .next (scalarDone s c e j i d fun w x =>
      x 0 ^^^ BitVec.ofInt w k.toInt)) ∧
    (∀ i, i = Instr.shli t d a h → Issues s c e j i → exec i s = .next (scalarDone s c e j i d fun w x =>
      BitVec.ofNat w ((x 0).toNat * 2 ^ h.toNat))) ∧
    (∀ i, i = Instr.shri t d a h → Issues s c e j i → exec i s = .next (scalarDone s c e j i d fun w x =>
      BitVec.ofNat w ((x 0).toNat / 2 ^ h.toNat))) ∧
    (∀ i, i = Instr.srai t d a h → Issues s c e j i → exec i s = .next (scalarDone s c e j i d fun w x =>
      BitVec.ofInt w ((x 0).toInt / 2 ^ h.toNat))) ∧
    (∀ i, i = Instr.movi t d m → Issues s c e j i → exec i s = .next (scalarDone s c e j i d fun w _ =>
      BitVec.ofInt w m.toInt)) ∧
    (∀ i, i = Instr.movhi t d m → Issues s c e j i → exec i s = .next (scalarDone s c e j i d fun w x =>
      (x 0 <<< 16) ||| BitVec.ofNat w m.toNat))

/-- R41, R42, R45, R75: what a source yields. A register yields its value, register 0 yields 0; a stream yields its
oldest entry, of which a 32-bit engine takes bits [31:0], and is popped; two sources from one stream pop in the order A,
B; a destination is not read. R41, R46, R75, R76: where a scalar result goes. In C and A the register holds it at once,
a write to register 0 is discarded, and every other register keeps its value; in V and M it lands one take later; a
stream takes it zero-extended from the engine's width, and its consumer sees it from the next cycle on. R30, R39, R86:
how an instruction that transfers no control ends. The program counter advances by 4, or returns to the first word of
the innermost body whose last word this was while that level has iterations left; and the next timed instruction counts
its idle count from the take at which this one's occupancy ends. -/
def Obligations.ScalarOperandsAndEnd : Prop :=
  (∀ (j : Job) (e : Eng) (n : Fin 32) (q : Fin 16) (r r2 : Row) (rest : List Row),
    (∀ w, ((readField j (fA (.reg n))).2.scalar w (j.reg e)) = (j.reg e n).setWidth w
      ∧ (readField j (fA (.reg n))).1 = j) ∧
    j.reg e 0 = 0 ∧
    ((j.stream q).q = r :: rest →
      (∀ w, (readField j (fA (.q q))).2.scalar w (j.reg e) = r.setWidth w)
      ∧ ((readField j (fA (.q q))).1.stream q).q = rest
      ∧ ((readField j (fA (.q q))).1.stream q).popped = (j.stream q).popped + 1
      ∧ ∀ p, p ≠ q → (readField j (fA (.q q))).1.stream p = j.stream p) ∧
    ((j.stream q).q = r :: r2 :: rest → ∀ d, (readFields j [fA (.q q), fB (.q q), fD d]).2 = [.ent r, .ent r2])) ∧
  (∀ (j : Job) (n m : Fin 32) (q : Fin 16) (f : (Fin 32 → W64) → W64),
    ((j.result .a (.reg n) f).reg .a m = if m = n ∧ n ≠ 0 then f (j.reg .a) else j.reg .a m) ∧
    ((j.result .c (.reg n) f).reg .c m =
      if m = n ∧ n ≠ 0 then BitVec.ofNat 64 ((f (j.reg .c)).toNat % 2 ^ 32) else j.reg .c m) ∧
    ((j.result .v (.reg n) f).v.pend =
      j.v.pend ++ [{ left := 1, dst := .s n, val := BitVec.ofNat 1024 ((f (j.reg .v)).toNat % 2 ^ 32), mask := BitVec.allOnes 128 }]
      ∧ (j.result .v (.reg n) f).reg .v m = j.reg .v m) ∧
    ((j.result .m (.reg n) f).m.pend =
      j.m.pend ++ [{ left := 1, dst := .s n, val := BitVec.ofNat 1024 ((f (j.reg .m)).toNat % 2 ^ 32), mask := BitVec.allOnes 128 }]
      ∧ (j.result .m (.reg n) f).reg .m m = j.reg .m m) ∧
    (∀ e, ((j.result e (.q q) f).stream q).q = (j.stream q).q
      ∧ ((j.result e (.q q) f).stream q).tick.q = (j.stream q).q ++ (j.stream q).incoming ++
          [BitVec.ofNat 1024 ((f (j.reg e)).toNat % 2 ^ engWidth e)]
      ∧ (∀ x n, (j.result e (.q q) f).reg x n = j.reg x n)
      ∧ ∀ p, p ≠ q → (j.result e (.q q) f).stream p = j.stream p)) ∧
  (∀ (j : Job) (e : Eng) (occ : Nat),
    (j.loops e = [] → (j.done e occ).pc e = j.pc e + 4 ∧ (j.done e occ).loops e = []) ∧
    (∀ l ls, j.loops e = l :: ls → j.pc e ≠ l.last →
      (j.done e occ).pc e = j.pc e + 4 ∧ (j.done e occ).loops e = l :: ls) ∧
    (∀ l ls, j.loops e = l :: ls → j.pc e = l.last → 1 < l.left →
      (j.done e occ).pc e = l.first ∧ (j.done e occ).loops e = { l with left := l.left - 1 } :: ls) ∧
    (∀ l, j.loops e = [l] → j.pc e = l.last → l.left ≤ 1 →
      (j.done e occ).pc e = j.pc e + 4 ∧ (j.done e occ).loops e = []) ∧
    (∀ l k ls, j.loops e = l :: k :: ls → j.pc e = l.last → l.left ≤ 1 → j.pc e = k.last → 1 < k.left →
      (j.done e occ).pc e = k.first ∧ (j.done e occ).loops e = { k with left := k.left - 1 } :: ls) ∧
    (e.elastic = false → (j.done e occ).base e = j.take + BitVec.ofNat 32 occ) ∧
    (∀ x n, (j.done e occ).reg x n = j.reg x n) ∧ (j.done e occ).streams = j.streams ∧
    (∀ x, x ≠ e → (j.done e occ).pc x = j.pc x ∧ (j.done e occ).loops x = j.loops x))

/-- R66, R77: in C and A, every scalar instruction whose operands are registers issues in its turn, whatever else the
machine holds. -/
def Obligations.RegisterFormsIssue : Prop :=
  ∀ (s : State) (c : CoreId) (e : Eng) (j : Job) (d a b : Fin 32) (k : BitVec 10) (h : BitVec 6) (m : BitVec 16),
    InTurn s c e j → e.elastic = true →
    ∀ i ∈ ([.nop ⟨0, false⟩, .idle ⟨0, false⟩ m, .add ⟨0, false⟩ (.reg d) (.reg a) (.reg b), .sub ⟨0, false⟩ (.reg d) (.reg a) (.reg b),
      .mul ⟨0, false⟩ (.reg d) (.reg a) (.reg b), .mulh ⟨0, false⟩ (.reg d) (.reg a) (.reg b),
      .mulhn ⟨0, false⟩ (.reg d) (.reg a) (.reg b), .and ⟨0, false⟩ (.reg d) (.reg a) (.reg b),
      .or ⟨0, false⟩ (.reg d) (.reg a) (.reg b), .xor ⟨0, false⟩ (.reg d) (.reg a) (.reg b),
      .shl ⟨0, false⟩ (.reg d) (.reg a) (.reg b), .shr ⟨0, false⟩ (.reg d) (.reg a) (.reg b),
      .sra ⟨0, false⟩ (.reg d) (.reg a) (.reg b), .min ⟨0, false⟩ (.reg d) (.reg a) (.reg b),
      .max ⟨0, false⟩ (.reg d) (.reg a) (.reg b), .minn ⟨0, false⟩ (.reg d) (.reg a) (.reg b),
      .maxn ⟨0, false⟩ (.reg d) (.reg a) (.reg b), .mad ⟨0, false⟩ (.reg d) (.reg a) (.reg b),
      .slt ⟨0, false⟩ (.reg d) (.reg a) (.reg b), .sltn ⟨0, false⟩ (.reg d) (.reg a) (.reg b),
      .seq ⟨0, false⟩ (.reg d) (.reg a) (.reg b), .sel ⟨0, false⟩ (.reg d) (.reg a) (.reg b),
      .clz ⟨0, false⟩ (.reg d) (.reg a), .popc ⟨0, false⟩ (.reg d) (.reg a), .mov ⟨0, false⟩ (.reg d) (.reg a),
      .addi ⟨0, false⟩ (.reg d) (.reg a) k, .andi ⟨0, false⟩ (.reg d) (.reg a) k, .ori ⟨0, false⟩ (.reg d) (.reg a) k,
      .xori ⟨0, false⟩ (.reg d) (.reg a) k, .shli ⟨0, false⟩ (.reg d) (.reg a) h, .shri ⟨0, false⟩ (.reg d) (.reg a) h,
      .srai ⟨0, false⟩ (.reg d) (.reg a) h, .movi ⟨0, false⟩ (.reg d) m, .movhi ⟨0, false⟩ (.reg d) m,
      .br (m.setWidth 23), .bz (.reg a) m, .bnz (.reg a) m, .call (m.setWidth 23), .callr (.reg a), .ret] : List Instr),
      Issues s c e j i

/-- R79, R80: NOP has no effect; IDLE waits max(n, 1) cycles; AT makes the next instruction's idle count run from its
target take, or from the next take where the target is the current one. -/
def Obligations.NopIdleAt : Prop :=
  ∀ (s : State) (c : CoreId) (e : Eng) (j : Job) (t : Tm) (n : BitVec 16) (r : Fin 32),
    (∀ i, i = Instr.nop t → Issues s c e j i → exec i s = .next (s.setJob c ((j.issuing e i).done e 1))) ∧
    (∀ i, i = Instr.idle t n → Issues s c e j i → e.elastic = true →
      exec i s = .next (s.setJob c (((j.issuing e i).setWait e (.idle (Nat.max n.toNat 1))).done e (Nat.max n.toNat 1)))) ∧
    (∀ i, i = Instr.idle t n → Issues s c e j i → e.elastic = false →
      exec i s = .next (s.setJob c ((j.issuing e i).done e (Nat.max n.toNat 1)))) ∧
    (∀ i, i = Instr.atTake t (.reg r) n → Issues s c e j i → ∀ x d : W32,
      x = (j.reg e r).setWidth 32 + n.setWidth 32 → d = x - j.take →
      exec i s = .next (s.setJob c ((j.issuing e i).done e (if d = 0 then 1 else d.toNat))))

/-- R40, R438: a stream that reaches a SLATE of job scope waits there; with it the last, TAKE becomes 0 and every stream
leaves in the same cycle, unless the job is held at its stop take. R34, R84: an RDV with identifier 0 ends its stream;
with another identifier the stream waits until every present engine that the mask names waits at an RDV with the same
identifier and mask, and then all leave in the same cycle, a timed one one take later; a mask that names no other stream
is met at once. -/
def Obligations.StreamsMeet : Prop :=
  (∀ (s : State) (c : CoreId) (e : Eng) (j : Job) (t : Tm) (k : BitVec 9),
    ∀ i, i = Instr.slate t false k → Issues s c e j i → (e = .a → j.a.ownPosted c = false) →
      let waiting := ((j.issuing e i).setWait e (.slate false k j.cyc)).act e
      ((∃ x, x ≠ e ∧ j.has x = true ∧ ∀ since id, j.wait x ≠ .slate false id since) ∨ waiting.atStop = true →
        exec i s = .next (s.setJob c waiting)) ∧
      ((∀ x, x ≠ e → j.has x = true → ∃ since, j.wait x = .slate false k since) → waiting.atStop = false →
        ∃ t j2, exec i s = .next t ∧ t.job c = some j2 ∧ j2.take = 0 ∧
          (∀ x, j.has x = true → j2.wait x = .run ∧ j2.acted x = true) ∧
          (∀ x, j.has x = true → j.loops x = [] → j2.pc x = j.pc x + 4) ∧
          (∀ x, x.elastic = false → j.has x = true → j2.base x = 0) ∧
          (∀ x n, j2.reg x n = j.reg x n) ∧ (∀ d, d ≠ c → t.core d = s.core d) ∧ t.mem = s.mem)) ∧
  (∀ (s : State) (c : CoreId) (e : Eng) (j : Job) (t : Tm) (m : BitVec 4) (k : BitVec 6),
    ∀ i, i = Instr.rdv t m k → Issues s c e j i →
      (k = 0 → exec i s = .next (s.setJob c (((j.issuing e i).setWait e .final).act e))) ∧
      (k ≠ 0 → (∃ x, x ≠ e ∧ maskHas m x = true ∧ j.has x = true ∧ ∀ id mask since, j.wait x ≠ .rdv id mask since) →
        (∀ x, x ≠ e → j.has x = true → ∀ mask since, j.wait x = .rdv k mask since → mask = m) →
        exec i s = .next (s.setJob c (((j.issuing e i).setWait e (.rdv k m j.cyc)).act e))) ∧
      (k ≠ 0 → (∀ x, x ≠ e → maskHas m x = true → j.has x = true → ∃ since, j.wait x = .rdv k m since) →
        ((∀ x, x ≠ e → maskHas m x = false) ∨
          (j.atStop = false ∧ ∀ x, x ≠ e → maskHas m x = false → ∀ id mask since, j.wait x ≠ .rdv id mask since)) →
        maskHas m e = true →
        ∃ t j2, exec i s = .next t ∧ t.job c = some j2 ∧ j2.take = j.take ∧
          (∀ x, maskHas m x = true → j.has x = true → j2.wait x = .run) ∧
          (∀ x, maskHas m x = true → j.has x = true → j.loops x = [] → j2.pc x = j.pc x + 4) ∧
          (∀ x, x.elastic = false → maskHas m x = true → j.has x = true → j2.base x = j.take + 1) ∧
          (∀ x n, j2.reg x n = j.reg x n) ∧ (∀ d, d ≠ c → t.core d = s.core d) ∧ t.mem = s.mem))

/-- R86, R87, R88: a count of 0 skips the body, and a back-edge that ends there is tested; another count opens a level
whose body is the next words; LOOPR takes its count from a register; LBRK pops the innermost level and goes on after its
last word, by way of the next level's back-edge. -/
def Obligations.LoopsOpenAndClose : Prop :=
  ∀ (s : State) (c : CoreId) (e : Eng) (j : Job) (t : Tm) (l : Fin 4) (b n : BitVec 10) (r : Fin 32),
    (∀ i, i = Instr.loop t l b n → Issues s c e j i → exec i s = .next (s.setJob c
      (((j.issuing e i).flow e fun p ls =>
        if n = 0 then backEdge (p + BitVec.ofNat 48 (4 * b.toNat)) (p + BitVec.ofNat 48 (4 * b.toNat) + 4) ls
        else (p + 4, { first := p + 4, last := p + BitVec.ofNat 48 (4 * b.toNat), left := n.toNat } :: ls)).issued e 1))) ∧
    (∀ i, i = Instr.loopr t l b (.reg r) → Issues s c e j i → exec i s = .next (s.setJob c
      (((j.issuing e i).flowBy e fun get p ls =>
        if get r = 0 then backEdge (p + BitVec.ofNat 48 (4 * b.toNat)) (p + BitVec.ofNat 48 (4 * b.toNat) + 4) ls
        else (p + 4, { first := p + 4, last := p + BitVec.ofNat 48 (4 * b.toNat), left := (get r).toNat } :: ls)).issued
          e 1))) ∧
    (∀ i, i = Instr.lbrk → Issues s c e j i → j.loops e ≠ [] ∧
      exec i s = .next (s.setJob c (((j.issuing e i).flow e fun p ls =>
        match ls with
        | [] => (p + 4, [])
        | x :: xs => backEdge x.last (x.last + 4) xs).issued e 1)))

/-- R47, R55, R89, R102: a branch that is taken goes on at P + 4 × offset and ends every level whose body excludes the
target; one that is not taken goes on as any instruction does. BZ and BNZ test all bits of A, BP and BNP a predicate.
R48, R90, R91: CALL and CALLR push the address of the next instruction on a store that is not full and go on at the
target, levels unchanged; on a full store the oldest entry goes to the spill window first. RET pops the newest entry and
goes on there; from an empty store it reads the newest spilled entry from the spill window. R48, R50: the store itself.
A push on a store that is not full writes position HELD and counts it; on a full one position 0 goes, the others move
down and SPILLED counts; a drop takes the newest away. -/
def Obligations.BranchesAndCalls : Prop :=
  (∀ (s : State) (c : CoreId) (e : Eng) (j : Job) (o : BitVec 16) (o23 : BitVec 23) (a : Opnd) (p : Fin 8),
    let taken := fun (b : Bool) (pc t : VAddr) (ls : List LoopLvl) =>
      if b then (t, ls.filter fun l => decide (l.first.toNat ≤ t.toNat ∧ t.toNat ≤ l.last.toNat)) else backEdge pc (pc + 4) ls
    let goal := fun (w : Nat) (o : BitVec w) (pc : VAddr) => pc + BitVec.ofInt 48 (4 * o.toInt)
    let zero := fun i get => decide (((argAt (sourcesOf j e i) 0).scalar (engWidth e) get).toNat = 0)
    (∀ i, i = Instr.br o23 → Issues s c e j i →
      exec i s = .next (s.setJob c (((j.issuing e i).flow e fun pc ls => taken true pc (goal 23 o23 pc) ls).issued e 1))) ∧
    (∀ i, i = Instr.bz a o → Issues s c e j i → exec i s = .next (s.setJob c
      (((j.sourced e i).flowBy e fun get pc ls => taken (zero i get) pc (goal 16 o pc) ls).issued e 1))) ∧
    (∀ i, i = Instr.bnz a o → Issues s c e j i → exec i s = .next (s.setJob c
      (((j.sourced e i).flowBy e fun get pc ls => taken (!zero i get) pc (goal 16 o pc) ls).issued e 1))) ∧
    (∀ i, i = Instr.bp p o → Issues s c .c j i → ∃ j2 : Job,
      exec i s = .next (s.setJob c (j2.issued .c 1)) ∧
        (j2.pc .c, j2.loops .c) = taken (j.c.arch.pred p) (j.pc .c) (goal 16 o (j.pc .c)) (j.loops .c) ∧
        (∀ x n, j2.reg x n = j.reg x n) ∧ j2.streams = j.streams) ∧
    (∀ i, i = Instr.bnp p o → Issues s c .c j i → ∃ j2 : Job,
      exec i s = .next (s.setJob c (j2.issued .c 1)) ∧
        (j2.pc .c, j2.loops .c) = taken (!j.c.arch.pred p) (j.pc .c) (goal 16 o (j.pc .c)) (j.loops .c) ∧
        (∀ x n, j2.reg x n = j.reg x n) ∧ j2.streams = j.streams)) ∧
  (∀ (s : State) (c : CoreId) (e : Eng) (j : Job) (o : BitVec 23) (a : Fin 32),
    (∀ i, i = Instr.call o → Issues s c e j i → (j.ras e).held < 16 → exec i s = .next (s.setJob c
      ((((j.issuing e i).updRas e fun r => r.push ((j.pc e + 4).setWidth 64)).flowBy e
        fun _ p ls => (p + BitVec.ofInt 48 (4 * o.toInt), ls)).issued e 1))) ∧
    (∀ i, i = Instr.call o → Issues s c e j i → (j.ras e).held = 16 → (j.ras e).spilled < 16 * (j.ras e).len →
      spillGate s c (j.issuing e i) ((j.ras e).spillAddr (j.ras e).spilled) = .ok →
      exec i s = .next ((s.scrWrite c ((j.ras e).spillAddr (j.ras e).spilled) (bytesOfNat 8 (j.ras e).pos[0].toNat)).setJob c
        ((((j.issuing e i).updRas e fun r => r.push ((j.pc e + 4).setWidth 64)).flowBy e
          fun _ p ls => (p + BitVec.ofInt 48 (4 * o.toInt), ls)).issued e 1))) ∧
    (∀ i, i = Instr.callr (.reg a) → Issues s c e j i → (j.ras e).held < 16 → (j.reg e a).toNat % 4 = 0 →
      exec i s = .next (s.setJob c
        ((((j.issuing e i).updRas e fun r => r.push ((j.pc e + 4).setWidth 64)).flowBy e
          fun get p ls => (match e with
            | .c => BitVec.ofNat 48 (p.toNat / 2 ^ 32 * 2 ^ 32 + (get a).toNat % 2 ^ 32)
            | _ => BitVec.ofNat 48 (get a).toNat, ls)).issued e 1))) ∧
    (∀ i, i = Instr.ret → Issues s c e j i → ∀ n x, (j.ras e).held = n + 1 → (j.ras e).pos.toList[n]? = some x →
      x.toNat % 4 = 0 →
      exec i s = .next (s.setJob c
        ((((j.issuing e i).updRas e fun r => r.drop).flow e fun _ ls => (BitVec.ofNat 48 x.toNat, ls)).issued e 1))) ∧
    (∀ i, i = Instr.ret → Issues s c e j i → (j.ras e).held = 0 → 0 < (j.ras e).spilled →
      spillGate s c (j.issuing e i) ((j.ras e).spillAddr ((j.ras e).spilled - 1)) = .ok →
      ∀ x, x = BitVec.ofNat 64 (natOfBytes (s.scrRead c ((j.ras e).spillAddr ((j.ras e).spilled - 1)) 8)) → x.toNat % 4 = 0 →
      exec i s = .next (s.setJob c (((((j.issuing e i).log e x).updRas e fun r => r.drop).flow e
        fun _ ls => (BitVec.ofNat 48 x.toNat, ls)).issued e 1)))) ∧
  (∀ (r : Ras) (x : W64) (n : Fin 16),
    (r.held < 16 → (r.push x).held = r.held + 1 ∧ (r.push x).spilled = r.spilled ∧
      (r.push x).pos[n.val] = if n.val = r.held then x else r.pos[n.val]) ∧
    (r.held = 16 → (r.push x).held = 16 ∧ (r.push x).spilled = (r.spilled + 1) % 2 ^ 16 ∧
      ((r.push x).pos[n.val] = if h : n.val + 1 < 16 then r.pos[n.val + 1] else x)) ∧
    (0 < r.held → r.drop.held = r.held - 1 ∧ r.drop.spilled = r.spilled) ∧
    (r.held = 0 → 0 < r.spilled → r.drop.held = 0 ∧ r.drop.spilled = r.spilled - 1) ∧
    (r.push x).win = r.win ∧ r.drop.win = r.win ∧ r.drop.pos = r.pos)

/-- R96, R97, R98: MFS writes the special register to D, and one of TIME takes the shadow; MTS writes its source to the
special register. Both then go on. R50, R68, R69, R97, R128, R129: what the special registers hold. R11, R50, R69, R128,
R145, R193: what a write of a special register does: TRAPVEC keeps no bit 1, TRAPCAUSE takes its code only, FPFLAGS its
6 flags, RASDEPTH its two counts and neither store nor window, and VMST is seen one take later. -/
def Obligations.SpecialRegisters : Prop :=
  (∀ (s : State) (c : CoreId) (e : Eng) (j : Job) (t : Tm) (d a : Opnd) (n : BitVec 10),
    (∀ i, i = Instr.mfs t d n → Issues s c e j i → n ≠ 0x016 → ∀ x, x = srRead s c (j.issuing e i) e n.toNat →
      exec i s = .next (s.setJob c ((((j.issuing e i).log e x).result e d fun _ => x).done e 1))) ∧
    (∀ i, i = Instr.mfs t d 0x016 → Issues s c e j i → exec i s = .next (s.setJob c
      (((((j.issuing e i).setShadow e (BitVec.ofNat 32 (s.time / 2 ^ 32))).log e (BitVec.ofNat 64 s.time)).result e d
        fun _ => BitVec.ofNat 64 s.time).done e 1))) ∧
    (∀ i, i = Instr.mts t a n → Issues s c e j i → exec i s = .next (s.setJob c
      (((j.sourced e i).srWrite e n.toNat ((argAt (sourcesOf j e i) 0).scalar 32 ((j.sourced e i).reg e))).done e 1)))) ∧
  (∀ (s : State) (c : CoreId) (j : Job) (e : Eng),
    srRead s c j e 0x001 = j.take.setWidth 64 ∧ srRead s c j e 0x002 = j.holdcyc.setWidth 64 ∧
    srRead s c j e 0x003 = j.jobid.setWidth 64 ∧ srRead s c j e 0x004 = j.nodeid.setWidth 64 ∧
    srRead s c j e 0x005 = BitVec.ofNat 64 c.val ∧ srRead s c j e 0x006 = j.domain.setWidth 64 ∧
    srRead s c j e 0x00A = BitVec.ofNat 64 j.a.acls.val ∧ srRead s c j e 0x00C = j.rseed.setWidth 64 ∧
    srRead s c j .v 0x00D = j.v.fpflags.setWidth 64 ∧ srRead s c j .m 0x00D = j.m.fpflags.setWidth 64 ∧
    srRead s c j .v 0x00E = j.v.fpmode.setWidth 64 ∧ srRead s c j .m 0x00E = j.m.fpmode.setWidth 64 ∧
    srRead s c j .c 0x00F = BitVec.ofNat 64 ((j.c.arch.ras.spilled * 65536 + j.c.arch.ras.held) % 2 ^ 32) ∧
    srRead s c j .a 0x00F = BitVec.ofNat 64 ((j.a.ras.spilled * 65536 + j.a.ras.held) % 2 ^ 32) ∧
    srRead s c j .a 0x010 = j.a.ras.win.setWidth 64 ∧ srRead s c j e 0x011 = j.c.vec.setWidth 64 ∧
    srRead s c j e 0x012 = BitVec.ofNat 64 ((if j.c.pwrap then 1024 else 0) + (if j.c.ppre then 512 else 0)
      + (if j.c.pflag then 256 else 0) + (if j.c.arch.inh then 128 else 0) + j.c.code.toNat) ∧
    srRead s c j e 0x013 = j.c.tpc.setWidth 64 ∧ srRead s c j e 0x014 = j.c.tval.setWidth 64 ∧
    srRead s c j e 0x016 = BitVec.ofNat 64 s.time ∧
    (∀ x, j.shadow e = some x → srRead s c j e 0x017 = x.setWidth 64) ∧
    (j.shadow e = none → srRead s c j e 0x017 = BitVec.ofNat 64 (s.time / 2 ^ 32 % 2 ^ 32)) ∧
    srRead s c j e 0x018 = j.v.vmst.setWidth 64 ∧
    (∀ n : Fin 32, srRead s c j e (0x20 + n.val) = (j.fmt[n.val]).setWidth 64) ∧
    (∀ x, (j.setShadow e x).shadow e = some x)) ∧
  (∀ (j : Job) (x : W32),
    (j.srWrite .c 0x011 x).c.vec = BitVec.ofNat 32 (x.toNat / 4 * 4 + x.toNat % 2) ∧
    (j.srWrite .c 0x012 x).c.code = BitVec.ofNat 5 (x.toNat % 32) ∧
    (j.srWrite .c 0x013 x).c.tpc = x ∧
    (j.srWrite .a 0x00A x).a.acls.val = x.toNat % 16 ∧
    (j.srWrite .v 0x00D x).v.fpflags = BitVec.ofNat 6 (x.toNat % 64) ∧
    (j.srWrite .m 0x00D x).m.fpflags = BitVec.ofNat 6 (x.toNat % 64) ∧
    (x.toNat % 8 < 6 → (j.srWrite .v 0x00E x).v.fpmode = x &&& 0x17) ∧
    (x.toNat % 32 ≤ 16 → (j.srWrite .a 0x00F x).a.ras =
      { j.a.ras with held := x.toNat % 32, spilled := x.toNat / 65536 }) ∧
    (16 < x.toNat % 32 → (j.srWrite .a 0x00F x).a.ras = { j.a.ras with spilled := x.toNat / 65536 }) ∧
    (j.srWrite .a 0x010 x).a.ras = { j.a.ras with win := x &&& 0x0FFFFFF8 } ∧
    (j.srWrite .v 0x018 x).v.vmst = j.v.vmst ∧
    (j.srWrite .v 0x018 x).v.pend = j.v.pend ++ [{ left := 1, dst := .vmst, val := x.setWidth 1024, mask := 0 }] ∧
    (∀ e n m, (j.srWrite e n x).reg e m = j.reg e m) ∧ (∀ e n, (j.srWrite e n x).pc e = j.pc e))

/-- R45, R46, R99, R100, R101, R103: what the predicate instructions set: the predicate takes the truth of the condition
or the operation, p0 stays true, and every other predicate, every register and every stream keeps its value; PMOV and
SELP write their result to D. The opcodes, and where the words hold the condition, the form and the predicate of SELP.
-/
def Obligations.PredicateResults : Prop :=
  ∀ (s : State) (c : CoreId) (j : Job) (p q r : Fin 8) (a b d : Opnd) (k : BitVec 10) (cond : Cond) (f : PLogOp),
    let holds := fun (x y : W32) => match cond with
      | .eq => x.toNat = y.toNat
      | .ne => x.toNat ≠ y.toNat
      | .lt => x.toInt < y.toInt
      | .ge => y.toInt ≤ x.toInt
      | .ltn => x.toNat < y.toNat
      | .gen => y.toNat ≤ x.toNat
    let condCode := match cond with
      | .eq => 0
      | .ne => 1
      | .lt => 2
      | .ge => 3
      | .ltn => 4
      | .gen => 5
    let sets := fun (i : Instr) (v : Prop) => ∃ j2, exec i s = .next (s.setJob c (Job.done j2 .c 1)) ∧
      (p ≠ 0 → (j2.c.arch.pred p = true ↔ v)) ∧ j2.c.arch.pred 0 = true ∧
      (∀ n, n ≠ p → j2.c.arch.pred n = j.c.arch.pred n) ∧ (∀ x n, j2.reg x n = j.reg x n) ∧
      j2.streams = (j.sourced .c i).streams ∧ j2.a = j.a ∧ j2.v = j.v ∧ j2.m = j.m
    (∀ i, i = Instr.pcmp p a b cond → Issues s c .c j i → sets i (holds (srcC j i 0) (srcC j i 1))) ∧
    (∀ i, i = Instr.pcmpi cond p a k → Issues s c .c j i → sets i (holds (srcC j i 0) (BitVec.ofInt 32 k.toInt))) ∧
    (∀ i, i = Instr.plog p q r f → Issues s c .c j i → sets i (match f with
      | .and => j.c.arch.pred q = true ∧ j.c.arch.pred r = true
      | .or => j.c.arch.pred q = true ∨ j.c.arch.pred r = true
      | .xor => j.c.arch.pred q ≠ j.c.arch.pred r
      | .andn => j.c.arch.pred q = true ∧ j.c.arch.pred r = false
      | .orn => j.c.arch.pred q = true ∨ j.c.arch.pred r = false)) ∧
    (∀ i, i = Instr.pmovToPred p a → Issues s c .c j i → sets i ((srcC j i 0).toNat ≠ 0)) ∧
    (∀ i, i = Instr.pmovFromPred d p → Issues s c .c j i → exec i s = .next (s.setJob c
      (((j.issuing .c i).resultC d fun x => if x.pred p = true then 1 else 0).done .c 1))) ∧
    (∀ i, i = Instr.selp d a b p → Issues s c .c j i → exec i s = .next (s.setJob c
      (((j.sourced .c i).resultC d fun x => if x.pred p = true then cArg x (sourcesOf j .c i) 0
        else cArg x (sourcesOf j .c i) 1).done .c 1))) ∧
    (∀ w, encode (.pcmp p a b cond) = some w → w.toNat / 2 ^ 26 = 0x20 ∧ w.toNat % 16 = condCode) ∧
    (∀ w, encode (.pcmpi cond p a k) = some w → w.toNat / 2 ^ 26 = 0x21 ∧ w.toNat / 2 ^ 23 % 8 = condCode ∧
      w.toNat % 2 ^ 10 = k.toNat) ∧
    (∀ w, encode (.plog p q r f) = some w → w.toNat / 2 ^ 26 = 0x22) ∧
    (∀ w, encode (.pmovToPred p a) = some w → w.toNat / 2 ^ 26 = 0x23 ∧ w.toNat % 16 = 0) ∧
    (∀ w, encode (.pmovFromPred d p) = some w → w.toNat / 2 ^ 26 = 0x23 ∧ w.toNat % 16 = 1) ∧
    (∀ w, encode (.selp d a b p) = some w → w.toNat / 2 ^ 26 = 0x26 ∧ w.toNat % 8 = p.val)

/-- R104, R105, R106: a SIG to a semaphore of the node's own VF is staged; one to another VF's is an escaping effect
that sets the bit at issue; a bad number raises PROTECTION with TRAPVAL s[A]. END records the status and waits for the
other streams. R107, R108, R130: TRAP enters the handler: TRAPPC holds the address of the next instruction, TRAPVAL the
code, TRAPCAUSE its cause, the handler runs inhibited at TRAPVEC within the 4 GiB region of the program counter; ERET
goes on at TRAPPC within that region and ends handler state. Registers and predicates keep their values. -/
def Obligations.SignalsEndAndTraps : Prop :=
  (∀ (s : State) (c : CoreId) (j : Job) (a : Opnd) (b : Fin 64) (st : BitVec 16),
    (∀ i, i = Instr.sig a b → Issues s c .c j i → (srcC j i 0).toNat < 1024 →
      ∀ n, s.semMapped j.ctx (srcC j i 0).toNat = some n → s.semOwnerOf n = ctxNum j.ctx →
      ∀ x, s.card j.cluster j.slot = some x →
        exec i s = .next ((s.setCard j.cluster j.slot { x with sigs := x.sigs ++ [((srcC j i 0).toNat, b)] }).setJob c
          ((j.sourced .c i).done .c 1))) ∧
    (∀ i, i = Instr.sig a b → Issues s c .c j i → (srcC j i 0).toNat < 1024 →
      ∀ n, s.semMapped j.ctx (srcC j i 0).toNat = some n → s.semOwnerOf n ≠ ctxNum j.ctx →
      (j.hasA = true → j.a.beforeMeet = 0) → s.live j.ctx = true →
      ∀ s1, s.escape c (j.issuing .c i) = .go s1 →
        exec i s = .next ((s1.semOr n ((1 : W64) <<< b.val)).setJob c ((j.sourced .c i).done .c 1))) ∧
    (∀ i, i = Instr.sig a b → Issues s c .c j i →
      (1024 ≤ (srcC j i 0).toNat ∨ s.semMapped j.ctx (srcC j i 0).toNat = none) →
        exec i s = .next (s.setJob c ((j.issuing .c i).raise .c .protection (srcC j i 0)))) ∧
    (∀ i, i = Instr.endJob st → Issues s c .c j i →
      exec i s = .next (s.setJob c (({ j.issuing .c i with endStatus := st }.setWait .c .final).act .c)))) ∧
  (∀ (s : State) (c : CoreId) (j : Job) (k : BitVec 16),
    (∀ i, i = Instr.trap k → Issues s c .c j i → j.c.vec.getLsbD 0 = true → j.c.arch.inh = false →
      ∃ t j2, exec i s = .next t ∧ t = s.setJob c j2 ∧
        j2.c.tpc = BitVec.ofNat 32 (j.c.arch.pc + 4).toNat ∧ j2.c.tval = BitVec.ofNat 32 k.toNat ∧ j2.c.code = 0x1C ∧
        j2.c.arch.inh = true ∧
        j2.c.arch.pc.toNat = j.c.arch.pc.toNat / 2 ^ 32 * 2 ^ 32 + j.c.vec.toNat / 4 * 4 ∧
        j2.c.arch.s = j.c.arch.s ∧ j2.c.arch.p = j.c.arch.p ∧ j2.c.arch.loops = j.c.arch.loops ∧
        j2.c.arch.ras = j.c.arch.ras ∧ j2.a = j.a ∧ j2.v = j.v ∧ j2.m = j.m ∧ j2.streams = j.streams) ∧
    (∀ i, i = Instr.trap k → Issues s c .c j i → (j.c.vec.getLsbD 0 = false ∨ j.c.arch.inh = true) →
      exec i s = .next (s.setJob c { j.issuing .c i with raised := j.raised ++
        [{ eng := .c, cause := .trapSw, val := BitVec.ofNat 32 k.toNat, pc := j.c.arch.pc + 4, classC := true, addr := 0 }] })) ∧
    (∀ i, i = Instr.eret → Issues s c .c j i → j.c.tpc.toNat % 4 = 0 →
      ∃ j2, exec i s = .next (s.setJob c j2) ∧ j2.c.arch.inh = false ∧
        j2.c.arch.pc.toNat = j.c.arch.pc.toNat / 2 ^ 32 * 2 ^ 32 + j.c.tpc.toNat ∧
        j2.c.arch.s = j.c.arch.s ∧ j2.c.arch.p = j.c.arch.p ∧ j2.c.tpc = j.c.tpc ∧ j2.a = j.a ∧ j2.v = j.v ∧ j2.m = j.m) ∧
    (∀ i, i = Instr.eret → Issues s c .c j i → j.c.tpc.toNat % 4 ≠ 0 →
      exec i s = .next (s.setJob c ((j.issuing .c i).raise .c .align j.c.tpc))))

/-- R109, R110, R111: BQRY, JOULE and ECLASS write what they read and change nothing else. R112, R115, R116, R117:
VARREG registers the record at the head of the stream in its slot and pops it, or raises ILLEGAL_OPERAND and leaves it;
THRACK answers the pending flag, and R358's fields of FLAGSTAT record the answer; PHASE without a registered slot writes
its identifier; YIELD of a job that can be saved stops C after itself and asks its card to stop. R440: where SAVE is 0
YIELD has no effect and the answer 2 acts as the answer 0. What a yield is beyond that is the model's reading (log 76).
-/
def Obligations.EnergyAndVariants : Prop :=
  (∀ (s : State) (c : CoreId) (j : Job) (d : Opnd) (n : Fin 16),
    let sat := fun n : Nat => if n ≤ 0xFFFFFFFF then BitVec.ofNat 32 n else (0xFFFFFFFF : W32)
    let isl := s.island (coreIsl c)
    let writes := fun (i : Instr) (j1 : Job) (x : W32) =>
      exec i s = .next (s.setJob c (((j1.log .c (x.setWidth 64)).result .c d fun _ => x.setWidth 64).done .c 1))
    (∀ i, i = Instr.bqry d 0 → Issues s c .c j i → writes i (j.issuing .c i) (BitVec.ofInt 32 (isl.bal / 64))) ∧
    (∀ i, i = Instr.bqry d 1 → Issues s c .c j i → writes i (j.issuing .c i) (sat isl.inc)) ∧
    (∀ i, i = Instr.bqry d 2 → Issues s c .c j i → writes i (j.issuing .c i) (sat (classCost isl j.var.ecl))) ∧
    (∀ i, i = Instr.bqry d 3 → Issues s c .c j i →
      ∃ x, 1 ≤ x ∧ x ≤ 20000 ∧ (s.time + x) % 20000 = 0 ∧ writes i (j.issuing .c i) (BitVec.ofNat 32 x)) ∧
    (∀ i, i = Instr.joule d false → Issues s c .c j i →
      writes i { j.issuing .c i with jshadow := BitVec.ofNat 32 (s.jouleOf (j.issuing .c i) / 2 ^ 32) }
        (BitVec.ofNat 32 (s.jouleOf (j.issuing .c i)))) ∧
    (∀ i, i = Instr.joule d true → Issues s c .c j i → writes i (j.issuing .c i) j.jshadow) ∧
    (∀ i, i = Instr.eclass d n → Issues s c .c j i → writes i (j.issuing .c i) (sat (classCost isl n)))) ∧
  (∀ (s : State) (c : CoreId) (j : Job) (q : Fin 16) (k : Fin 8) (f : FlagAns) (n : BitVec 10),
    (∀ i, i = Instr.varreg q k → Issues s c .c j i → ∀ v, variantOf ((j.stream q).head.toNat % 2 ^ 256) = some v →
      exec i s = .next (s.setJob c
        (({ (j.issuing .c i).pop q with slots := j.slots.set k.val (some v) k.isLt } : Job).done .c 1))) ∧
    (∀ i, i = Instr.varreg q k → Issues s c .c j i → variantOf ((j.stream q).head.toNat % 2 ^ 256) = none →
      ∃ x, exec i s = .next (s.setJob c ((j.issuing .c i).raise .c .illegalOperand x))) ∧
    (∀ i, i = Instr.thrack f → Issues s c .c j i → exec i s = .next (s.setJob c
      (({ j.issuing .c i with flag :=
          if j.flag.pend = false then j.flag
          else if f = .downgrade then { j.flag with pend := false, ans := 1, dgreq := true }
          else if f = .yield ∧ j.save ≠ 0 then { j.flag with pend := false, ans := 2, yreq := true }
          else { j.flag with pend := false, ans := 0 } } : Job).done .c 1))) ∧
    (∀ i, i = Instr.phase n → Issues s c .c j i → j.flag.yreq = false → (∀ x ∈ j.slots.toList, x = none) →
      exec i s = .next (s.setJob c
        ((({ j.issuing .c i with
          var := { j.var with phase := n.setWidth 16 }, progress := n, progressAt := s.time
          flag := { j.flag with dgreq := false } } : Job).setWait .c .run).done .c 1))) ∧
    (∀ i, i = Instr.yield → Issues s c .c j i → j.save = 0 → exec i s = .next (s.setJob c ((j.issuing .c i).done .c 1))) ∧
    (∀ i, i = Instr.yield → Issues s c .c j i → j.save ≠ 0 →
      exec i s = .next ((s.setJob c (((j.issuing .c i).done .c 1).setWait .c .yielded)).yieldCard (j.issuing .c i))))

/-- R118 to R122: PREEMPT, QSUSP and QRES act on what a handle of the job's partition names and write a status; a
PREEMPT of a context with running jobs or with a fetcher within a packet, and a QSUSP of a queue within a packet, wait
for their end; a PREEMPT of a context that a wrap is vacating is REFUSED; SEMMAP sets or removes an entry of a context's
map, and raises PROTECTION for what the partition does not have. R123, R124: DRAINM of a drained core writes DONE, and
of another core waits; in task mode a core other than the job's own raises PROTECTION. RSEED leaves its seed pending in
the job that it names. That REFUSED comes before BUSY and NONE, and the choice of TRAPVAL where both operands of SEMMAP
are bad, are the model's (log 84). -/
def Obligations.StewardOperations : Prop :=
  (∀ (s : State) (c : CoreId) (j : Job) (d a b : Opnd), j.c.wait = .run →
    let reports := fun (i : Instr) (t : State) (code : W64) => exec i s = .next (t.setJob c
      ((((((j.sourced .c i).log .c code).result .c d fun _ => code).setWait .c .run).done .c 1)))
    let waits := fun (i : Instr) (t : State) (more : List W64) => exec i s = .next (t.setJob c
      ((((j.sourced .c i).stand).setWait .c (.op ((srcC j i 0).setWidth 64 :: more))).act .c))
    let vacated := fun x => s.vacating x = true ∧ (s.part j.part).wrapPhase = .vacating
    let stopped := fun x q =>
      let t := s.setQueue x q (s.queue x q).suspend
      if (s.queue x q).state = .waiting then t.note (.suspend x q) else t
    (∀ i, i = Instr.preempt d a → Issues s c .c j i → s.ctxHandle j.part (srcC j i 0).toNat = none → reports i s 2) ∧
    (∀ i, i = Instr.preempt d a → Issues s c .c j i →
      ∀ x, s.ctxHandle j.part (srcC j i 0).toNat = some x → (x = j.ctx ∨ vacated x) → reports i s 4) ∧
    (∀ i, i = Instr.preempt d a → Issues s c .c j i →
      ∀ x, s.ctxHandle j.part (srcC j i 0).toNat = some x → x ≠ j.ctx → ¬ vacated x → s.preemptBusy x = false →
        s.runningOf x = [] →
        ((s.suspendAll x).fetchersStopped x = true → reports i (s.suspendAll x) 1) ∧
        ((s.suspendAll x).fetchersStopped x = false → waits i (s.preempt x c j.jobid) [1])) ∧
    (∀ i, i = Instr.preempt d a → Issues s c .c j i →
      ∀ x, s.ctxHandle j.part (srcC j i 0).toNat = some x → x ≠ j.ctx → ¬ vacated x → s.preemptBusy x = true →
        reports i s 3) ∧
    (∀ i, i = Instr.preempt d a → Issues s c .c j i →
      ∀ x, s.ctxHandle j.part (srcC j i 0).toNat = some x → x ≠ j.ctx → ¬ vacated x → s.preemptBusy x = false →
        s.runningOf x ≠ [] → waits i (s.preempt x c j.jobid) [0]) ∧
    (∀ i, i = Instr.qsusp d a → Issues s c .c j i → s.queueHandle j.part (srcC j i 0).toNat = none → reports i s 2) ∧
    (∀ i, i = Instr.qsusp d a → Issues s c .c j i →
      ∀ x q, s.queueHandle j.part (srcC j i 0).toNat = some (x, q) → (s.queue x q).barred = false →
        (¬ ((s.queue x q).state = .fetching ∧ 0 < (s.queue x q).opsLeft) →
          reports i (stopped x q) 0) ∧
        ((s.queue x q).state = .fetching ∧ 0 < (s.queue x q).opsLeft →
          waits i (s.setQueue x q { s.queue x q with stopping := true }) [])) ∧
    (∀ i, i = Instr.qsusp d a → Issues s c .c j i →
      ∀ x q, s.queueHandle j.part (srcC j i 0).toNat = some (x, q) → (s.queue x q).barred = true → reports i s 1) ∧
    (∀ i, i = Instr.qres d a → Issues s c .c j i → s.queueHandle j.part (srcC j i 0).toNat = none → reports i s 2) ∧
    (∀ i, i = Instr.qres d a → Issues s c .c j i →
      ∀ x q, s.queueHandle j.part (srcC j i 0).toNat = some (x, q) →
        (s.queue x q).state ∈ [QState.idle, .fetching, .waiting, .fetchFault] → reports i s 1) ∧
    (∀ i, i = Instr.qres d a → Issues s c .c j i →
      ∀ x q, s.queueHandle j.part (srcC j i 0).toNat = some (x, q) → (s.queue x q).state = .suspended →
        reports i (s.setQueue x q (s.queue x q).resume) 0) ∧
    (∀ i, i = Instr.qres d a → Issues s c .c j i →
      ∀ x q, s.queueHandle j.part (srcC j i 0).toNat = some (x, q) →
        ((s.queue x q).state = .parked ∨ (s.queue x q).state = .halted) → reports i s 4) ∧
    (∀ i, i = Instr.semmap a b → Issues s c .c j i →
      ((srcC j i 0).toNat / 1024 % 64 ≠ 0 ∨ s.ctxHandle j.part ((srcC j i 0).toNat / 65536) = none) →
        exec i s = .next (s.setJob c ((j.issuing .c i).raise .c .protection (srcC j i 0)))) ∧
    (∀ i, i = Instr.semmap a b → Issues s c .c j i → (srcC j i 0).toNat / 1024 % 64 = 0 →
      ∀ x, s.ctxHandle j.part ((srcC j i 0).toNat / 65536) = some x →
      ((srcC j i 1).toNat = 0xFFFFFFFF →
        exec i s = .next ((s.setCtx x { s.ctx x with semmap := SMap.set 0 (s.ctx x).semmap ((srcC j i 0).toNat % 1024) 0 }).setJob
          c ((j.sourced .c i).done .c 1))) ∧
      ((srcC j i 1).toNat < 8192 → s.cluPart (semClu (srcC j i 1).toNat) = some j.part →
        exec i s = .next ((s.setCtx x { s.ctx x with
          semmap := SMap.set 0 (s.ctx x).semmap ((srcC j i 0).toNat % 1024) ((srcC j i 1).toNat + 1) }).setJob c
            ((j.sourced .c i).done .c 1))) ∧
      ((srcC j i 1).toNat ≠ 0xFFFFFFFF →
        (8192 ≤ (srcC j i 1).toNat ∨ s.cluPart (semClu (srcC j i 1).toNat) ≠ some j.part) →
        exec i s = .next (s.setJob c ((j.issuing .c i).raise .c .protection (srcC j i 1)))))) ∧
  (∀ (s : State) (c : CoreId) (j : Job) (d a b : Opnd), j.c.wait = .run →
    let drained := fun j : Job => j.m.flights = [] ∧ j.m.pend = [] ∧ j.m.flagFlights = []
    let empty := fun k : CoreId => ∀ x, s.job k = some x → drained x
    let done := fun (i : Instr) (code : W64) => exec i s = .next (s.setJob c
        (((((j.sourced .c i).log .c code).result .c d fun _ => code).setWait .c .run).done .c 1))
    let waits := fun (i : Instr) => exec i s = .next (s.setJob c
        ((((j.sourced .c i).stand).setWait .c (.op [(srcC j i 0).setWidth 64])).act .c))
    (∀ i, i = Instr.drainm d a → Issues s c .c j i → j.steward = false → (srcC j i 0).toNat = c.val →
      (drained j → done i 0) ∧ (¬ drained j → waits i)) ∧
    (∀ i, i = Instr.drainm d a → Issues s c .c j i → j.steward = true →
      (s.coreHandle j.part (srcC j i 0).toNat = none → done i 2) ∧
      (∀ k, s.coreHandle j.part (srcC j i 0).toNat = some k → (empty k → done i 0) ∧ (¬ empty k → waits i))) ∧
    (∀ i, i = Instr.drainm d a → Issues s c .c j i → j.steward = false → (srcC j i 0).toNat ≠ c.val →
      exec i s = .next (s.setJob c (j.raise .c .protection (srcC j i 0)))) ∧
    (∀ i, i = Instr.rseed a b → Issues s c .c j i → j.steward = true → srcC j i 0 ≠ j.jobid →
      ∀ k o, s.jobNamed j.part (srcC j i 0) = some (k, o) → exec i s = .next
        ((s.setJob k { o with nseed := some (srcC j i 1) }).setJob c ((j.sourced .c i).done .c 1))) ∧
    (∀ i, i = Instr.rseed a b → Issues s c .c j i → srcC j i 0 = j.jobid → exec i s = .next (s.setJob c
      ({ j.sourced .c i with nseed := some (srcC j i 1) }.done .c 1))) ∧
    (∀ i, i = Instr.rseed a b → Issues s c .c j i → j.steward = false → srcC j i 0 ≠ j.jobid →
      exec i s = .next (s.setJob c ((j.issuing .c i).raise .c .protection (srcC j i 0)))))

/-- R135, R137, R139, R149, R189, R190, R192: the checks of an access to the own scratchpad or a scratchpad of the
cluster, in order: a range that the instruction does not reach raises PROTECTION, a misaligned address ALIGN, a row that
is not usable ROW_RANGE; the access is made when no posted access comes before it and no timed access takes its bank
group. R192, R200, R201: an access that fails a check raises its trap at the instruction, with the address, and changes
nothing else: no stream is popped, no register and no byte is written. -/
def Obligations.LocalAccessChecks : Prop :=
  (∀ (s : State) (c : CoreId) (j : Job) (addr n align : Nat) (win clu load : Bool) (b : Nat) (k : CoreIx),
    s.job c = some j → (win = true → ¬ (0x800000 ≤ addr ∧ addr < 0x800080)) →
    let g := s.localGate c j addr n align win clu load
    let checked := fun (d : CoreId) (b : Nat) =>
      (addr % align ≠ 0 → g = .trap .align) ∧
      (addr % align = 0 → b / 128 % 512 ≥ usable (s.core d) (b / 65536 % 32) (s.level d) → g = .trap .rowRange) ∧
      (addr % align = 0 → b / 128 % 512 < usable (s.core d) (b / 65536 % 32) (s.level d) →
        j.mustWait j.a.acls load false b n = false → s.yieldsAt d b = false → g = .at_ d b)
    (addr < 0x200000 → checked c addr) ∧
    (addr = 0x1000000 + k.val * 0x200000 + b → b < 0x200000 → clu = true →
      (s.sharesCtx (corePeer c k) j.ctx = true → checked (corePeer c k) b) ∧
      (s.sharesCtx (corePeer c k) j.ctx = false → g = .trap .protection)) ∧
    (0x1000000 ≤ addr → addr < 0x1800000 → clu = false → g = .trap .protection) ∧
    (0x200000 ≤ addr → addr < 0x1000000 → g = .trap .protection) ∧
    (0x1800000 ≤ addr → g = .trap .protection)) ∧
  (∀ (s : State) (c : CoreId) (j : Job) (z : Size) (d a : Opnd) (q : Fin 16) (k : BitVec 10) (cause : Cause),
    let n := sizeBytes z
    let traps := fun i => exec i s = .next (s.setJob c (j.raiseAt cause (immAddr j i k)))
    (∀ i, i = Instr.ald z d a k → Issues s c .a j i →
      s.localGate c j (immAddr j i k) n n true false true = .trap cause → traps i) ∧
    (∀ i, i = Instr.ast z d a k → Issues s c .a j i →
      s.localGate c j (immAddr j i k) n n true false false = .trap cause → traps i) ∧
    (∀ i, i = Instr.rld z d a k → Issues s c .a j i →
      s.localGate c j (immAddr j i k) n n false true true = .trap cause → traps i) ∧
    (∀ i, i = Instr.rst z d a k → Issues s c .a j i →
      s.localGate c j (immAddr j i k) n n false true false = .trap cause → traps i) ∧
    (∀ i, i = Instr.ard q a k → Issues s c .a j i →
      s.localGate c j (immAddr j i k) 128 128 false false true = .trap cause → traps i) ∧
    (∀ i, i = Instr.awr q a k → Issues s c .a j i →
      s.localGate c j (immAddr j i k) 128 128 false false false = .trap cause → traps i))

/-- R191, R200, R201: loads and stores of a scratchpad, of scalars and of rows: an access that passes its checks reads
or writes exactly the bytes at its address; RST posts its bytes for the job that the core named runs, and RLD and RST
bear the energy of a remote access. R137, R200: a store to a scratchpad writes its own bytes only: each byte of the
range reads as stored, every other byte of that scratchpad and every other scratchpad keep their bytes, and the rest of
the machine is as it was. -/
def Obligations.LocalLoadsAndStores : Prop :=
  (∀ (s : State) (c : CoreId) (j : Job) (z : Size) (d a : Opnd) (q : Fin 16) (k : BitVec 10) (x : CoreId) (b : Nat),
    let n := sizeBytes z
    (∀ i, i = Instr.ald z d a k → Issues s c .a j i →
      s.localGate c j (immAddr j i k) n n true false true = .at_ x b →
      exec i s = .next (gives s c (j.sourced .a i) d (loaded64 z (s.scrRead x b n)))) ∧
    (∀ i, i = Instr.rld z d a k → Issues s c .a j i →
      s.localGate c j (immAddr j i k) n n false true true = .at_ x b →
      exec i s = .next (gives (s.spendKind c 3) c (j.sourced .a i) d (loaded64 z (s.scrRead x b n)))) ∧
    (∀ i, i = Instr.ast z d a k → Issues s c .a j i →
      s.localGate c j (immAddr j i k) n n true false false = .at_ x b →
      exec i s = .next ((s.scrWrite x b (bytesOfNat n (srcA j i 1).toNat)).setJob c ((j.sourced .a i).done .a 1))) ∧
    (∀ i, i = Instr.rst z d a k → Issues s c .a j i →
      localAt c (immAddr j i k) = some (x, b) → (∀ cause, s.localGate c j (immAddr j i k) n n false true false ≠ .trap cause) →
      exec i s = .next ((s.spendKind c 3).setJob c (((j.sourced .a i).post
        (.scratch x b (bytesOfNat n (srcA j i 1).toNat) j.a.acls (s.jobidAt x) j.a.pc)).done .a 1))) ∧
    (∀ i, i = Instr.ard q a k → Issues s c .a j i →
      s.localGate c j (immAddr j i k) 128 128 false false true = .at_ x b →
      exec i s = .next (s.setJob c (((j.sourced .a i).push q
        (BitVec.ofNat 1024 (natOfBytes (s.scrRead x (b / 128 * 128) 128)))).done .a 1))) ∧
    (∀ i, i = Instr.awr q a k → Issues s c .a j i →
      s.localGate c j (immAddr j i k) 128 128 false false false = .at_ x b →
      exec i s = .next ((s.scrWrite x b (bytesOfNat 128 (j.stream q).head.toNat)).setJob c ((j.sourced .a i).done .a 1)))) ∧
  (∀ (s : State) (k : CoreId) (a : Nat) (bs : List Byte), Memory.wf (s.core k).scr = true →
    (∀ n (h : n < bs.length), (s.scrWrite k a bs).scrRead k (a + n) 1 = [bs[n]]) ∧
    (∀ b, (b < a ∨ a + bs.length ≤ b) → (s.scrWrite k a bs).scrRead k b 1 = s.scrRead k b 1) ∧
    (∀ c, c ≠ k → (s.scrWrite k a bs).core c = s.core c) ∧
    (s.scrWrite k a bs).job = s.job ∧ (s.scrWrite k a bs).mem = s.mem ∧ (s.scrWrite k a bs).lines = s.lines ∧
    (s.scrWrite k a bs).clusters = s.clusters ∧ (s.scrWrite k a bs).islands = s.islands ∧
    (s.scrWrite k a bs).ctxs = s.ctxs ∧ (s.scrWrite k a bs).parts = s.parts ∧ (s.scrWrite k a bs).time = s.time)

/-- R151, R152, R202, R203, R207: WSET loads every field of a good record and sets STEP, FSTEP and CREDIT from it; WADV
advances FSTEP, and CREDIT of a tracked walk at the end of the cycle; AFILL and ADRAIN end at a count of 0, and else
move one row and count it. -/
def Obligations.WalkInstructions : Prop :=
  ∀ (s : State) (c : CoreId) (j : Job) (q : Fin 16) (a : Opnd) (r : Fin 32) (w : Fin 8) (k m : BitVec 10) (x : CoreId)
    (b addr : Nat) (rec : WalkRec),
    let moved := fun (j : Job) => j.setWalk w { j.walk w with
      fstep := rec.advance (j.walk w).fstep 1
      creditIn := if rec.track then (j.walk w).creditIn + 1 else (j.walk w).creditIn }
    let ends := fun (t : State) (j : Job) =>
      let y := j.reg .a r - 1
      if y = 0 then t.setJob c ((j.write .a r fun _ => y).done .a 1) else t.setJob c ((j.write .a r fun _ => y).act .a)
    (∀ i, i = Instr.wset w a k → Issues s c .a j i →
      s.localGate c j (immAddr j i k) 64 64 false false true = .at_ x b →
      walkError (natOfBytes (s.scrRead x b 64)) = none → j.pendingRows w = 0 →
      let f := fun o n => natOfBytes (s.scrRead x b 64) / 2 ^ (8 * o) % 2 ^ (8 * n)
      let z : WalkRec := {
        base := f 0 4, dir := (f 4 2).testBit 0, track := (f 4 2).testBit 1, cyclic := (f 4 2).testBit 2, levels := f 4 2 / 8 % 4 + 1
        window := f 6 2, count := #v[f 8 2, f 10 2, f 12 2, f 14 2]
        stride := Vector.ofFn fun k =>
          let n := f (16 + 4 * k.val) 4
          if n < 2 ^ 31 then (n : Int) else (n : Int) - 2 ^ 32
        lo := f 32 4, hi := f 36 4 }
      exec i s = .next (s.setJob c (((j.sourced .a i).setWalk w { j.walk w with
        record := some z, step := f 40 4, fstep := f 40 4, creditIn := 0
        credit := if z.track && z.dir then z.window else 0 }).done .a 1))) ∧
    (∀ i, i = Instr.wadv w m → Issues s c .a j i → (j.walk w).record = some rec →
      (rec.cyclic = true ∨ (j.walk w).fstep + m.toNat ≤ rec.period) →
      (rec.track = false ∨ (j.walk w).credit + (j.walk w).creditIn + m.toNat ≤ 65535) →
      exec i s = .next (s.setJob c ((j.setWalk w { j.walk w with
        fstep := rec.advance (j.walk w).fstep m.toNat
        creditIn := if rec.track then (j.walk w).creditIn + m.toNat else (j.walk w).creditIn }).done .a 1))) ∧
    (∀ i, i = Instr.afill q (.reg r) w → Issues s c .a j i → (j.walk w).record = some rec → rec.dir = false →
      (j.reg .a r = 0 → exec i s = .next (s.setJob c (j.done .a 1))) ∧
      (j.reg .a r ≠ 0 → walkRow s c rec (j.walk w).fstep = .ok addr →
        (rec.track = false ∨ (j.walk w).credit + (j.walk w).creditIn + 1 ≤ 65535) →
        j.mustWait j.a.acls false false addr 128 = false → s.yields c j addr = false → (j.stream q).q ≠ [] →
        exec i s = .next (ends (s.scrWrite c addr (bytesOfNat 128 (j.stream q).head.toNat)) (moved (j.pop q))))) ∧
    (∀ i, i = Instr.adrain q (.reg r) w → Issues s c .a j i → (j.walk w).record = some rec → rec.dir = true →
      (j.reg .a r = 0 → exec i s = .next (s.setJob c (j.done .a 1))) ∧
      (j.reg .a r ≠ 0 → walkRow s c rec (j.walk w).fstep = .ok addr →
        (rec.track = false ∨ ((j.walk w).credit + (j.walk w).creditIn + 1 ≤ 65535 ∧
          (j.walk w).credit + (j.walk w).creditIn < rec.window)) →
        j.mustWait j.a.acls true false addr 128 = false → s.yields c j addr = false → (j.stream q).canPush = true →
        exec i s = .next (ends s (moved (j.push q
          (BitVec.ofNat 1024 (natOfBytes (s.scrRead c (addr / 128 * 128) 128)))))))) ∧
    (∀ i, i = Instr.afill q (.reg r) w → Issues s c .a j i → (j.walk w).record = some rec → rec.dir = true →
      exec i s = .next (s.setJob c (j.raise .a .walkFault 0xFFFFFFFE))) ∧
    (∀ i, i = Instr.adrain q (.reg r) w → Issues s c .a j i → (j.walk w).record = some rec → rec.dir = false →
      exec i s = .next (s.setJob c (j.raise .a .walkFault 0xFFFFFFFE)))

/-- R160, R161, R214: the count barriers of a scratchpad. BINIT sets TARGET and clears all but GEN; BARR adds 1 once
every posted access has performed; BWAIT waits while GEN is as it last read it and then writes it; BTEST writes GEN and
the flags. R161: an addition at a barrier: below TARGET only ACC grows; at TARGET ACC starts anew and GEN counts; beyond
it OVER is set; with TARGET 0 OVER is set and nothing is added. -/
def Obligations.CountBarriers : Prop :=
  (∀ (s : State) (c : CoreId) (j : Job) (d a : Opnd) (k : BitVec 10) (x : CoreId) (b : Nat),
    let v := natOfBytes (s.scrRead x b 32)
    let gen := v / 2 ^ 128 % 2 ^ 32
    (∀ i, i = Instr.binit d a k → Issues s c .a j i →
      s.localGate c j (immAddr j i k) 32 32 false true false = .at_ x b →
      exec i s = .next ((s.scrWrite x b (bytesOfNat 32 ((srcA j i 1).toNat + gen * 2 ^ 128))).setJob c
        ((j.sourced .a i).done .a 1))) ∧
    (∀ i, i = Instr.barr a k → Issues s c .a j i →
      s.localGate c j (immAddr j i k) 32 32 false true false = .at_ x b → j.a.posted = [] →
      exec i s = .next ((s.scrWrite x b (bytesOfNat 32 (barAdd v 1))).setJob c ((j.sourced .a i).done .a 1))) ∧
    (∀ i, i = Instr.bwait d a k → Issues s c .a j i →
      s.localGate c j (immAddr j i k) 32 32 false true true = .at_ x b → gen ≠ (srcA j i 1).toNat % 2 ^ 32 →
      exec i s = .next (gives s c (j.sourced .a i) d (BitVec.ofNat 64 gen))) ∧
    (∀ i, i = Instr.bwait d a k → Issues s c .a j i →
      s.localGate c j (immAddr j i k) 32 32 false true true = .at_ x b → gen = (srcA j i 1).toNat % 2 ^ 32 →
      exec i s = .next s) ∧
    (∀ i, i = Instr.btest d a k → Issues s c .a j i →
      s.localGate c j (immAddr j i k) 32 32 false true true = .at_ x b →
      exec i s = .next (gives s c (j.sourced .a i) d (BitVec.ofNat 64 (gen + v / 2 ^ 160 % 2 * 2 ^ 32
        + (if v % 2 ^ 64 = 0 then 2 ^ 33 else 0)))))) ∧
  (∀ (target acc gen flags top n : Nat), target < 2 ^ 64 → acc + n < 2 ^ 64 → gen < 2 ^ 32 → flags < 2 ^ 16 → top < 2 ^ 80 →
    let x := target + acc * 2 ^ 64 + gen * 2 ^ 128 + flags * 2 ^ 160 + top * 2 ^ 176
    (target = 0 → barAdd x n = acc * 2 ^ 64 + gen * 2 ^ 128 + (flags ||| 1) * 2 ^ 160 + top * 2 ^ 176) ∧
    (acc + n < target → barAdd x n = target + (acc + n) * 2 ^ 64 + gen * 2 ^ 128 + flags * 2 ^ 160 + top * 2 ^ 176) ∧
    (0 < target → acc + n = target →
      barAdd x n = target + (gen + 1) % 2 ^ 32 * 2 ^ 128 + flags * 2 ^ 160 + top * 2 ^ 176) ∧
    (0 < target → target < acc + n → barAdd x n = target + (acc + n - target) * 2 ^ 64 + (gen + 1) % 2 ^ 32 * 2 ^ 128
      + (flags ||| 1) * 2 ^ 160 + top * 2 ^ 176))

/-- R216, R217: a release fence orders later stores of its classes behind the posted accesses of those classes; a full
fence waits for them; an acquire at DIE scope or wider invalidates the side cache; an async fence waits for the copy
commands of its classes. R218, R219, R220, R221, R376: TLBP reads both TLBs and changes nothing but D; TLBINV starts an
invalidation in the partition and leaves A waiting for it, or raises PROTECTION for an address out of range or a context
that the partition does not have (where both are bad with the address, by the model's choice, log 84); L1OP removes a
line or all, and without a translation walks for one first; PREF reads what it can and changes no register. -/
def Obligations.FencesAndTranslation : Prop :=
  (∀ (s : State) (c : CoreId) (j : Job) (sc : Scope) (m : BitVec 16),
    let wide := sc = .die ∨ sc = .device ∨ sc = .system
    let done := fun (t : State) (j : Job) => Host.Outcome.next (ρ := Refusal) (φ := Fault) (t.setJob c (j.done .a 1))
    (∀ i, i = Instr.fenceAcq sc m → Issues s c .a j i →
      (wide → exec i s = done (s.sideFlushAll c j) j) ∧ (¬ wide → exec i s = done s j)) ∧
    (∀ i, i = Instr.fenceRel sc m → Issues s c .a j i →
      ((∀ p ∈ j.a.posted, p.inMask m = false) → exec i s = done s j) ∧
      ((∃ p ∈ j.a.posted, p.inMask m = true) → exec i s = done s (j.post (.fence m sc)))) ∧
    (∀ i, i = Instr.fenceFull sc m → Issues s c .a j i →
      ((∃ p ∈ j.a.posted, p.inMask m = true) → exec i s = .next s) ∧
      ((∀ p ∈ j.a.posted, p.inMask m = false) → wide → exec i s = done (s.sideFlushAll c j) j) ∧
      ((∀ p ∈ j.a.posted, p.inMask m = false) → ¬ wide → exec i s = done s j)) ∧
    (∀ i, i = Instr.fenceAsync sc m → Issues s c .a j i →
      ((∀ e, ∀ x ∈ j.copiesOf e, m.getLsbD (copyFields x.cmd).cls.val = false) → exec i s = done s j) ∧
      ((∃ e, ∃ x ∈ j.copiesOf e, m.getLsbD (copyFields x.cmd).cls.val = true) → exec i s = .next s))) ∧
  (∀ (s : State) (c : CoreId) (j : Job) (d a b : Opnd) (sc : Bool) (cls : Fin 16) (x : CtxId),
    let starts := fun (i : Instr) (v : Covers) => exec i s = .next ((s.shootStart j.part v c).setJob c
      (((j.sourced .a i).setWait .a (.op [BitVec.ofNat 64 ((s.shootStart j.part v c).part j.part).seq])).act .a))
    (∀ i, i = Instr.tlbp d a → Issues s c .a j i →
      exec i s = .next (gives s c (j.sourced .a i) d (s.tlbProbe c j.ctx (srcA j i 0)))) ∧
    (∀ i, i = Instr.tlbinvPage a b → Issues s c .a j i → j.a.wait = .run → (srcA j i 0).toNat < 2 ^ 48 →
      s.tlbCtx j.part (srcA j i 1) = some x → starts i (.page x (srcA j i 0).toNat)) ∧
    (∀ i, i = Instr.tlbinvPage a b → Issues s c .a j i → j.a.wait = .run → 2 ^ 48 ≤ (srcA j i 0).toNat →
      exec i s = .next (s.setJob c (j.raiseAt .protection (srcA j i 0).toNat))) ∧
    (∀ i, i = Instr.tlbinvPage a b → Issues s c .a j i → j.a.wait = .run → (srcA j i 0).toNat < 2 ^ 48 →
      s.tlbCtx j.part (srcA j i 1) = none → exec i s = .next (s.setJob c (j.raise .a .protection ((srcA j i 1).setWidth 32)))) ∧
    (∀ i, i = Instr.tlbinvCtx a b → Issues s c .a j i → j.a.wait = .run → s.tlbCtx j.part (srcA j i 0) = some x →
      starts i (.ctx x)) ∧
    (∀ i, i = Instr.tlbinvCtx a b → Issues s c .a j i → j.a.wait = .run → s.tlbCtx j.part (srcA j i 0) = none →
      exec i s = .next (s.setJob c (j.raise .a .protection ((srcA j i 0).setWidth 32)))) ∧
    (∀ i, i = Instr.tlbinvAll a b → Issues s c .a j i → j.a.wait = .run → starts i .all) ∧
    (∀ i, i = Instr.l1opAll a → Issues s c .a j i →
      exec i s = .next ((s.sideFlushAll c j).setJob c ((j.sourced .a i).done .a 1))) ∧
    (∀ i, i = Instr.l1opLine a → Issues s c .a j i → (srcA j i 0).toNat < 2 ^ 48 →
      ∀ e, s.tlbFind c j.ctx (srcA j i 0).toNat = some e → exec i s = .next
        ((if e.kind = 2 then s else s.sideDrop c j (e.pa (srcA j i 0).toNat)).setJob c ((j.sourced .a i).unprobe.done .a 1))) ∧
    (∀ i, i = Instr.l1opLine a → Issues s c .a j i → (srcA j i 0).toNat < 2 ^ 48 → s.tlbFind c j.ctx (srcA j i 0).toNat = none →
      (j.a.probed = some ((srcA j i 0).toNat / 4096) →
        exec i s = .next ((s.sideFlushAll c j).setJob c ((j.sourced .a i).unprobe.done .a 1))) ∧
      (j.a.probed ≠ some ((srcA j i 0).toNat / 4096) → exec i s = .next
        (s.needWalk (coreClu c) j.part j.ctx (srcA j i 0).toNat (.probe c)))) ∧
    (∀ i, i = Instr.pref sc a b cls → Issues s c .a j i → j.mustWait cls true true 0 0 = false →
      ∀ e va, va = (srcA j i 0 + srcA j i 1).toNat → s.tlbFind c j.ctx va = some e → va < 2 ^ 48 → e.rd = true →
        e.kind ≠ 2 → s.hostWaits j.ctx e.kind (e.pa va) = false →
        exec i s = .next ((s.prefetch c j sc (e.pa va) e.kind).setJob c ((j.sourced .a i).unprobe.done .a 1))) ∧
    (∀ i, i = Instr.pref sc a b cls → Issues s c .a j i → j.mustWait cls true true 0 0 = false →
      2 ^ 48 ≤ (srcA j i 0 + srcA j i 1).toNat → exec i s = .next (s.setJob c ((j.sourced .a i).unprobe.done .a 1))))

/-- R188, R191, R208: GLD of a line that the side cache holds reads that line; else it reads the system cache's line,
which enters the side cache. GGATH reads each element at its own address, gives zeros for a skipped one, and pushes the
row. R194, R195, R208, R210, R333, R421, R422: a store of a node that has not escaped is staged in its card; one of an
escaped node is posted, in order, with its class: as one store where its bytes lie in one unit of single-copy atomicity,
else as one for each; a GSCAT stages the elements that can be staged and posts one masked store for each unit that the
others touch. Both leave memory as it was until they perform. -/
def Obligations.GlobalAccesses : Prop :=
  (∀ (s : State) (c : CoreId) (j : Job) (z : Size) (d a b : Opnd) (q : Fin 16) (cls : Fin 16) (p : Piece) (r : Row)
    (l : Line),
    let n := sizeBytes z
    let piece := fun va => s.pieces c j .read n [va] = .ok [p] ∧ p.kind = 0 ∧ j.mustWait cls true true p.pa n = false
    let va := fun i => ((srcA j i 0) + (srcA j i 1) * BitVec.ofNat 64 (2 ^ sizeShift z)).toNat
    let part := fun r : Row => loaded64 z (bytesOfNat n (r.toNat / 2 ^ (8 * (p.pa % 128))))
    (∀ i, i = Instr.gld z d a b cls → Issues s c .a j i → piece (va i) →
      SMap.find (s.core (s.sideOwner c j p.pa)).side (p.pa / 128) = some r →
      exec i s = .next (gives s c (j.sourced .a i).loaded d (part r))) ∧
    (∀ i, i = Instr.gld z d a b cls → Issues s c .a j i → piece (va i) →
      SMap.find (s.core (s.sideOwner c j p.pa)).side (p.pa / 128) = none → s.stagedOf j = [] →
      SMap.find s.lines (p.pa / 128) = some l → l.ctx = j.ctx → l.poison = none →
      exec i s = .next (gives ((s.touch p.pa).sideFill c j p.pa l.data) c (j.sourced .a i).loaded d (part l.data))) ∧
    (∀ i, i = Instr.ggath z q a b cls → Issues s c .a j i →
      let g := gatherAddrs j z a b
      ∀ ps s1 vals, s.pieces c j .read n (g.2.filterMap id) = .ok ps →
        (∀ p ∈ ps, j.mustWait cls true true p.pa n = false) → s.loadElems c j n ps = .ok s1 vals →
        exec i s = .next (s1.setJob c ((g.1.loaded.push q
          (BitVec.ofNat 1024 (natOfBytes (gatherBytes n g.2 vals)))).done .a 1)))) ∧
  (∀ (s : State) (c : CoreId) (j : Job) (z : Size) (d a b : Opnd) (q : Fin 16) (cls : Fin 16) (p : Piece),
    let n := sizeBytes z
    let va := fun i => ((srcA j i 0) + (srcA j i 1) * BitVec.ofNat 64 (2 ^ sizeShift z)).toNat
    let unit := if j.rowMode then 128 else 32
    let ok := fun l => s.pieces c j .write n [l] = .ok [p] ∧ p.kind = 0 ∧ s.writeRefused j.ctx p.pa = false
    (∀ i, i = Instr.gst z d a b cls → Issues s c .a j i → ok (va i) → j.a.posted = [] → s.stageable j p = true →
      exec i s = .next ((s.stageWrite c j p (bytesOfNat n (srcA j i 2).toNat)).setJob c
        (((j.sourced .a i).clearPage .a).done .a 1))) ∧
    (∀ i, i = Instr.gst z d a b cls → Issues s c .a j i → ok (va i) → s.nodeEscaped j = true →
      let bs := bytesOfNat n (srcA j i 2).toNat
      let k := unit - p.pa % unit
      (n ≤ k → exec i s = .next (s.setJob c
        ((((j.sourced .a i).clearPage .a).post (.store p.kind [⟨p.pa, p.va, bs⟩] cls j.a.pc)).done .a 1))) ∧
      (k < n → exec i s = .next (s.setJob c
        (((((j.sourced .a i).clearPage .a).post (.store p.kind [⟨p.pa, p.va, bs.take k⟩] cls j.a.pc)).post
          (.store p.kind [⟨p.pa + k, p.va + k, bs.drop k⟩] cls j.a.pc)).done .a 1)))) ∧
    (∀ i, i = Instr.gscat z q a b cls → Issues s c .a j i →
      let g := gatherAddrs j z a b
      let bytes := bytesOfNat 128 (g.1.stream q).head.toNat
      let l := g.2.zipIdx.filterMap fun x => x.1.map fun va => (va, (bytes.drop (n * x.2)).take n)
      ∀ ps s1, s.pieces c j .write n (l.map Prod.fst) = .ok ps →
        (∀ p ∈ ps, p.kind = 0 → s.writeRefused j.ctx p.pa = false) → j.a.posted = [] →
        s.stageAll c j (ps.zip (l.map Prod.snd)) = some s1 →
        exec i s = .next (s1.setJob c (((g.1.pop q).clearPage .a).done .a 1))) ∧
    (∀ i, i = Instr.gscat z q a b cls → Issues s c .a j i →
      let g := gatherAddrs j z a b
      let bytes := bytesOfNat 128 (g.1.stream q).head.toNat
      let l := g.2.zipIdx.filterMap fun x => x.1.map fun va => (va, (bytes.drop (n * x.2)).take n)
      ∀ ps s1 rest, s.pieces c j .write n (l.map Prod.fst) = .ok ps →
        (∀ p ∈ ps, p.kind = 0 → s.writeRefused j.ctx p.pa = false) → j.a.posted = [] →
        s.stageMost c j (ps.zip (l.map Prod.snd)) = (s1, rest) →
        exec i s = .next (s1.setJob c (((unitStores unit rest).foldl
          (fun x w => x.post (.store w.1 w.2 cls j.a.pc)) ((g.1.pop q).clearPage .a)).done .a 1))) ∧
    (∀ (bs : List Byte) l, (s.stageable j p = true → s.stageMost c j ((p, bs) :: l) = (s.stageWrite c j p bs).stageMost c j l) ∧
      (s.stageable j p = false → s.stageMost c j ((p, bs) :: l) =
        ((s.stageMost c j l).1, (p, bs) :: (s.stageMost c j l).2))) ∧
    (∀ i, i = Instr.gscat z q a b cls → Issues s c .a j i → s.nodeEscaped j = true →
      let g := gatherAddrs j z a b
      let bytes := bytesOfNat 128 (g.1.stream q).head.toNat
      let l := g.2.zipIdx.filterMap fun x => x.1.map fun va => (va, (bytes.drop (n * x.2)).take n)
      ∀ ps, s.pieces c j .write n (l.map Prod.fst) = .ok ps →
        (∀ p ∈ ps, p.kind = 0 → s.writeRefused j.ctx p.pa = false) →
        exec i s = .next (s.setJob c (((unitStores unit (ps.zip (l.map Prod.snd))).foldl
          (fun x w => x.post (.store w.1 w.2 cls j.a.pc)) ((g.1.pop q).clearPage .a)).done .a 1)))) ∧
  (∀ (u : Nat) (ws : List (Piece × List Byte)), 0 < u → (∀ w ∈ ws, w.2.length ≤ u) →
    (∀ x ∈ unitStores u ws, x.2 ≠ [] ∧ ∀ y ∈ x.2, ∀ z ∈ x.2, y.pa / u = z.pa / u) ∧
    ((unitStores u ws).map fun x => (x.1, (x.2.headD ⟨0, 0, []⟩).pa / u)).Nodup)

/-- R198, R211, R212, R213, R217, R366, R423: an atomic reads its 4 or 8 bytes, writes the result of its operation at
the same address once its line is ready and the node has escaped, uses the line, and gives the old value; ACAS writes
only where the old value is the expected one; SAMO does the same in a scratchpad. R211: what the atomic operations give
at 32 or 64 bits. -/
def Obligations.Atomics : Prop :=
  (∀ (s s1 : State) (c : CoreId) (j : Job) (o : AtomOp) (d a : Opnd) (r : Fin 32) (sc : Scope) (ord : Order) (w : Bool)
    (cls : Fin 16) (p : Piece) (l : Line) (x : CoreId) (b : Nat),
    let n := if w then 8 else 4
    let acq := ord = .acq ∨ ord = .acqrel
    let wide := sc = .die ∨ sc = .device ∨ sc = .system
    let old := natOfBytes (bytesOfNat n (l.data.toNat / 2 ^ (8 * (p.pa % 128))))
    let ready := fun i => s.pieces c j .atomic n [(srcA j i 0).toNat] = .ok [p] ∧ p.kind = 0 ∧
      j.mustWait cls false true p.pa n = false ∧ s.live j.ctx = true ∧ s.stagedOf j = [] ∧
      SMap.find s.lines (p.pa / 128) = some l ∧ l.ctx = j.ctx ∧ l.poison = none ∧ (s.touch p.pa).escape c j = .go s1
    let writable := (s.touch p.pa).writeGate j.ctx p.pa = .ready ∧ s1.writeGate j.ctx p.pa = .ready
    let after := fun (t : State) => State.acquire (t.sideDrop c j p.pa) c j (decide acq) sc
    (∀ i, i = Instr.aamo o d a sc ord w cls → Issues s c .a j i → ready i → writable →
      exec i s = .next (gives (after (s1.commit j.ctx (some c) p.pa
        (bytesOfNat n (atomOp o (8 * n) old (srcA j i 1).toNat)))) c ((j.sourced .a i).clearPage .a) d (BitVec.ofNat 64 old))) ∧
    (∀ i, i = Instr.aswp d a sc ord w cls → Issues s c .a j i → ready i → writable →
      exec i s = .next (gives (after (s1.commit j.ctx (some c) p.pa
        (bytesOfNat n ((srcA j i 1).toNat % 2 ^ (8 * n))))) c ((j.sourced .a i).clearPage .a) d (BitVec.ofNat 64 old))) ∧
    (∀ i, i = Instr.acas (.reg r) a sc ord w cls → Issues s c .a j i → ready i → writable →
      old = (srcA j i 1).toNat % 2 ^ (8 * n) →
      exec i s = .next (gives (after (s1.commit j.ctx (some c) p.pa
        (bytesOfNat n ((j.reg .a (r + 1)).toNat % 2 ^ (8 * n))))) c ((j.sourced .a i).clearPage .a) (.reg r)
          (BitVec.ofNat 64 old))) ∧
    (∀ i, i = Instr.acas (.reg r) a sc ord w cls → Issues s c .a j i → ready i →
      old ≠ (srcA j i 1).toNat % 2 ^ (8 * n) →
      exec i s = .next (gives (after s1) c ((j.sourced .a i).clearPage .a) (.reg r) (BitVec.ofNat 64 old))) ∧
    (∀ i, i = Instr.samo o d a sc ord w → Issues s c .a j i →
      s.localGate c j (srcA j i 0).toNat n n false true false = .at_ x b →
      let v := natOfBytes (s.scrRead x b n)
      let t := s.scrWrite x b (bytesOfNat n (atomOp o (8 * n) v (srcA j i 1).toNat))
      exec i s = .next (gives (if acq ∧ wide then t.sideFlushAll c j else t) c (j.sourced .a i) d (BitVec.ofNat 64 v)))) ∧
  (∀ (w : Nat) (x y : BitVec w), 0 < w →
    atomOp .add w x.toNat y.toNat = (x.toNat + y.toNat) % 2 ^ w ∧
    atomOp .and w x.toNat y.toNat = (x &&& y).toNat ∧ atomOp .or w x.toNat y.toNat = (x ||| y).toNat ∧
    atomOp .xor w x.toNat y.toNat = (x ^^^ y).toNat ∧
    (BitVec.ofNat w (atomOp .min w x.toNat y.toNat)).toInt = Min.min x.toInt y.toInt ∧
    (BitVec.ofNat w (atomOp .max w x.toNat y.toNat)).toInt = Max.max x.toInt y.toInt ∧
    atomOp .minn w x.toNat y.toNat = Min.min x.toNat y.toNat ∧
    atomOp .maxn w x.toNat y.toNat = Max.max x.toNat y.toNat)

/-- R222, R228, R230: what an element-wise result holds: each lane whose mask bit is 1 holds its own value, and the
bytes of every other lane are not written. R41, R226, R230: how a vector result is delivered: a register takes the bytes
that the mask lets through LAT takes later, a stream takes the row with zeros in the others LAT cycles later, and
neither changes before. -/
def Obligations.VectorDelivery : Prop :=
  (∀ (t : ElemT) (cm : Mask) (f : Nat → Nat × Flags) (k b : Nat), k < t.count → b < 128 →
    (cm.getLsbD (t.width * k / 8) = true → lane t.width (lanewise t cm f).row k = (f k).1 % 2 ^ t.width) ∧
    (8 ≤ t.width → (lanewise t cm f).mask.getLsbD b = cm.getLsbD (t.width * (8 * b / t.width) / 8)) ∧
    (t.width < 8 → (lanewise t cm f).mask.getLsbD b = cm.getLsbD b)) ∧
  (∀ (j : Job) (lat : Nat) (o : VOut) (n : Fin 32) (q : Fin 16),
    ((j.vout (.reg n) lat o).v.v = j.v.v ∧
      (j.vout (.reg n) lat o).v.pend = j.v.pend ++ [{ left := lat, dst := .v n, val := o.row, mask := o.mask }] ∧
      (j.vout (.reg n) lat o).v.flights = j.v.flights ++ (if o.flags = 0 then [] else [⟨lat, none, o.flags⟩]) ∧
      (j.vout (.reg n) lat o).streams = j.streams) ∧
    ((j.vout (.q q) lat o).v.flights = j.v.flights ++ [⟨lat, some (q, o.row &&& maskRow o.mask), o.flags⟩] ∧
      (j.vout (.q q) lat o).v.pend = j.v.pend ∧ (j.vout (.q q) lat o).v.v = j.v.v ∧
      ((j.vout (.q q) lat o).stream q).reserved = (j.stream q).reserved + 1 ∧
      ((j.vout (.q q) lat o).stream q).q = (j.stream q).q ∧
      ∀ p, p ≠ q → (j.vout (.q q) lat o).stream p = j.stream p) ∧
    (∀ x, (j.vout x lat o).a = j.a ∧ (j.vout x lat o).c = j.c ∧ (j.vout x lat o).m = j.m ∧
      (j.vout x lat o).walks = j.walks ∧ (j.vout x lat o).v.masks = j.v.masks ∧ (j.vout x lat o).v.s = j.v.s))

/-- R164, R172, R225, R231, R232: the element-wise arithmetic. An integer lane wraps, or is clamped by VADDS; a
floating-point lane is the exact result rounded once under FPMODE. -/
def Obligations.VectorArithmetic : Prop :=
  ∀ (s : State) (c : CoreId) (j : Job) (tm : Tm) (d a b : Opnd) (t : ElemT),
    let w := t.width
    let at_ := fun (i : Instr) (n k : Nat) => lane w (srcRow j i n) k
    let val := fun (i : Instr) (n k : Nat) => t.fmt.value (at_ i n k)
    let rnd := fun (i : Instr) (k : Nat) (x : Fp × Flags) =>
      let y := t.fmt.round (j.sourced .v i).vrnd.mode ((j.sourced .v i).vrnd.bits k) x.1
      (y.1, x.2 ||| y.2)
    let mode := fun i : Instr => (j.sourced .v i).vrnd.mode
    let out := fun (i : Instr) (occ lat : Nat) (f : Nat → Nat × Flags) =>
      exec i s = .next (vecDone s c j i occ lat d (lanewise t j.v.mask f))
    (∀ i, i = Instr.vadd tm d a b t → Issues s c .v j i → t.isFlt = false →
      out i 1 2 fun k => ((at_ i 0 k + at_ i 1 k) % 2 ^ w, 0)) ∧
    (∀ i, i = Instr.vadd tm d a b t → Issues s c .v j i → t.isFlt = true →
      out i 1 4 fun k => rnd i k (Fp.add (mode i) (val i 0 k) (val i 1 k))) ∧
    (∀ i, i = Instr.vsub tm d a b t → Issues s c .v j i → t.isFlt = false →
      out i 1 2 fun k => ((2 ^ w + at_ i 0 k - at_ i 1 k) % 2 ^ w, 0)) ∧
    (∀ i, i = Instr.vsub tm d a b t → Issues s c .v j i → t.isFlt = true →
      out i 1 4 fun k => rnd i k (Fp.add (mode i) (val i 0 k) (val i 1 k).neg)) ∧
    (∀ i, i = Instr.vmul tm d a b t → Issues s c .v j i → t.isFlt = false →
      out i 1 4 fun k => (at_ i 0 k * at_ i 1 k % 2 ^ w, 0)) ∧
    (∀ i, i = Instr.vmul tm d a b t → Issues s c .v j i → t.isFlt = true →
      out i 1 4 fun k => rnd i k (Fp.mul (val i 0 k) (val i 1 k))) ∧
    (∀ i, i = Instr.vmadd tm d a b t → Issues s c .v j i →
      out i 1 4 fun k => ((at_ i 2 k + at_ i 0 k * at_ i 1 k) % 2 ^ w, 0)) ∧
    (∀ i, i = Instr.vfma tm d a b t → Issues s c .v j i →
      out i 1 4 fun k => rnd i k (Fp.fma (mode i) (val i 2 k) (val i 0 k) (val i 1 k))) ∧
    (∀ i, i = Instr.vmin tm d a b t → Issues s c .v j i → t.isFlt = false →
      out i 1 2 fun k => (if t.intOf (at_ i 0 k) < t.intOf (at_ i 1 k) then at_ i 0 k else at_ i 1 k, 0)) ∧
    (∀ i, i = Instr.vmax tm d a b t → Issues s c .v j i → t.isFlt = false →
      out i 1 2 fun k => (if t.intOf (at_ i 0 k) < t.intOf (at_ i 1 k) then at_ i 1 k else at_ i 0 k, 0)) ∧
    (∀ i, i = Instr.vmin tm d a b t → Issues s c .v j i → t.isFlt = true →
      out i 1 2 fun k => t.fmt.minmax false (at_ i 0 k) (at_ i 1 k)) ∧
    (∀ i, i = Instr.vmax tm d a b t → Issues s c .v j i → t.isFlt = true →
      out i 1 2 fun k => t.fmt.minmax true (at_ i 0 k) (at_ i 1 k)) ∧
    (∀ i, i = Instr.vadds tm d a b t → Issues s c .v j i →
      out i 1 2 fun k => let x := t.clamp (t.intOf (at_ i 0 k) + t.intOf (at_ i 1 k)); (x.1, if x.2 then fSAT else 0)) ∧
    (∀ i, i = Instr.vabs tm d a t → Issues s c .v j i → t.isFlt = false →
      out i 1 2 fun k => let x := t.clamp ((t.intOf (at_ i 0 k)).natAbs : Int); (x.1, if x.2 then fSAT else 0)) ∧
    (∀ i, i = Instr.vneg tm d a t → Issues s c .v j i → t.isFlt = false →
      out i 1 2 fun k => let x := t.clamp (-(t.intOf (at_ i 0 k))); (x.1, if x.2 then fSAT else 0)) ∧
    (∀ i, i = Instr.vabs tm d a t → Issues s c .v j i → t.isFlt = true →
      out i 1 2 fun k => if (val i 0 k).isNan then (t.fmt.nanBits, nanFlags (val i 0 k)) else (at_ i 0 k % 2 ^ (w - 1), 0)) ∧
    (∀ i, i = Instr.vneg tm d a t → Issues s c .v j i → t.isFlt = true →
      out i 1 2 fun k => if (val i 0 k).isNan then (t.fmt.nanBits, nanFlags (val i 0 k))
        else (at_ i 0 k ^^^ 2 ^ (w - 1), 0))

/-- R225, R231 to R235, R239, R249: the bitwise, shift, compare, select, scaling and function instructions. -/
def Obligations.VectorLogic : Prop :=
  ∀ (s : State) (c : CoreId) (j : Job) (tm : Tm) (d a b : Opnd) (t : ElemT) (u : VCond),
    let w := t.width
    let at_ := fun (i : Instr) (n k : Nat) => lane w (srcRow j i n) k
    let out := fun (i : Instr) (occ lat : Nat) (f : Nat → Nat × Flags) =>
      exec i s = .next (vecDone s c j i occ lat d (lanewise t j.v.mask f))
    let fn := fun (i : Instr) (f : Fp → Fp × Flags) (k : Nat) =>
      let x := f (t.fmt.value (at_ i 0 k))
      let y := t.fmt.round .rne 0 x.1
      (y.1, x.2 ||| y.2)
    let occ := if t = .f then 4 else 2
    (∀ i, i = Instr.vand tm d a b t → Issues s c .v j i → out i 1 2 fun k => (at_ i 0 k &&& at_ i 1 k, 0)) ∧
    (∀ i, i = Instr.vor tm d a b t → Issues s c .v j i → out i 1 2 fun k => (at_ i 0 k ||| at_ i 1 k, 0)) ∧
    (∀ i, i = Instr.vxor tm d a b t → Issues s c .v j i → out i 1 2 fun k => (at_ i 0 k ^^^ at_ i 1 k, 0)) ∧
    (∀ i, i = Instr.vnot tm d a t → Issues s c .v j i → out i 1 2 fun k => (2 ^ w - 1 - at_ i 0 k, 0)) ∧
    (∀ i, i = Instr.vpopc tm d a t → Issues s c .v j i →
      out i 1 2 fun k => (((List.range w).filter fun n => (at_ i 0 k).testBit n).length, 0)) ∧
    (∀ i, i = Instr.vshl tm d a b t → Issues s c .v j i →
      out i 1 2 fun k => (at_ i 0 k * 2 ^ (at_ i 1 k % w) % 2 ^ w, 0)) ∧
    (∀ i, i = Instr.vshr tm d a b t → Issues s c .v j i →
      out i 1 2 fun k => (((t.intOf (at_ i 0 k) / 2 ^ (at_ i 1 k % w)) % 2 ^ w).toNat, 0)) ∧
    (∀ i, i = Instr.vcmp tm d a u t → Issues s c .v j i → t.isFlt = false → u ≠ .un →
      out i 1 2 fun k =>
        let x := t.intOf (at_ i 1 k)
        let y := t.intOf (at_ i 0 k)
        (if (match u with
          | .eq => decide (x = y)
          | .ne => decide (x ≠ y)
          | .lt => decide (x < y)
          | .le => decide (x ≤ y)
          | .gt => decide (y < x)
          | .ge => decide (y ≤ x)
          | .un => false) then 2 ^ w - 1 else 0, 0)) ∧
    (∀ i, i = Instr.vcmp tm d a u t → Issues s c .v j i → t.isFlt = true →
      out i 1 2 fun k => let r := laneCmp t u (at_ i 1 k) (at_ i 0 k); (if r.1 then 2 ^ w - 1 else 0, r.2)) ∧
    (∀ i, i = Instr.vsel tm d a b t → Issues s c .v j i → t ≠ .t2 →
      out i 1 2 fun k => (if at_ i 2 k ≠ 0 then at_ i 0 k else at_ i 1 k, 0)) ∧
    (∀ i, i = Instr.vsel tm d a b .t2 → Issues s c .v j i →
      let code := fun n k => if lane 2 (srcRow j i n) k = 2 then 0 else lane 2 (srcRow j i n) k
      exec i s = .next (vecDone s c j i 1 2 d (lanewise .t2 j.v.mask fun k =>
        (if code 2 k ≠ 0 then code 0 k else code 1 k,
          if lane 2 (srcRow j i 0) k = 2 ∨ lane 2 (srcRow j i 1) k = 2 ∨ lane 2 (srcRow j i 2) k = 2 then fTRES else 0)))) ∧
    (∀ i, i = Instr.vscl tm d a b t → Issues s c .v j i → out i 1 4 fun k =>
      let n : Int := if 2 * at_ i 1 k < 2 ^ w then at_ i 1 k else at_ i 1 k - 2 ^ w
      let y := t.fmt.round (j.sourced .v i).vrnd.mode ((j.sourced .v i).vrnd.bits k) ((t.fmt.value (at_ i 0 k)).scale n)
      (y.1, y.2)) ∧
    (∀ i, i = Instr.vbitt tm d a t → Issues s c .v j i →
      out i 1 3 fun k => (if (srcRow j i 0).getLsbD (at_ i 1 k) then 2 ^ w - 1 else 0, 0)) ∧
    (∀ i, i = Instr.vrcp tm d a t → Issues s c .v j i → out i occ 10 (fn i Fp.recip)) ∧
    (∀ i, i = Instr.vrsq tm d a t → Issues s c .v j i → out i occ 10 (fn i Fp.rsqrt)) ∧
    (∀ i, i = Instr.vexp tm d a t → Issues s c .v j i → out i occ 10 (fn i Fp.exp))

/-- R236, R237, R238, R240, R241: conversions, block scaling, reductions and scans. R240: an integer reduction over all
lanes is what its operation gives of the lanes' values in any order: addition wraps, the least and greatest are taken,
and the bitwise operations combine. -/
def Obligations.VectorConversionsAndReductions : Prop :=
  (∀ (s : State) (c : CoreId) (j : Job) (tm : Tm) (d a b : Opnd) (t src : ElemT) (rnd : CvtRnd) (op : RedOp),
    let out := fun (i : Instr) (occ lat : Nat) (o : VOut) => exec i s = .next (vecDone s c j i occ lat d o)
    let lat := if t.isFlt = true ∧ op = .add then t.count + 2 else 4
    let scan := fun i => scanRow op t (j.sourced .v i) (srcRow j i 0)
    (∀ i, i = Instr.vcvt tm d a src rnd t → Issues s c .v j i →
      out i 1 3 (vcvtOut (j.sourced .v i) t src rnd (srcRow j i 0))) ∧
    (∀ i, i = Instr.vqmx tm d a b t → Issues s c .v j i →
      let x := quantBlock t (j.v.fpmode.getLsbD 4) (fpLanes (srcRow j i 0))
      let y := quantBlock t (j.v.fpmode.getLsbD 4) (fpLanes (srcRow j i 1))
      out i 2 6 (whole (rowOfLanes 8 (x.2.1 ++ y.2.1 ++ [x.1, y.1])) (x.2.2 ||| y.2.2))) ∧
    (∀ i, i = Instr.vdqmx tm d a b t → Issues s c .v j i →
      out i 1 4 (lanewise .f j.v.mask (laneDq t (srcRow j i 0) (srcV j i 1)))) ∧
    (∀ i, i = Instr.vred tm d a op t → Issues s c .v j i →
      out i 1 lat (whole (rowOfLanes t.width [(scan i).1.getLastD (redIdentity op t)]) (scan i).2)) ∧
    (∀ i, i = Instr.vscan tm d a op t → Issues s c .v j i →
      out i 1 lat (whole (rowOfLanes t.width (scan i).1) (scan i).2))) ∧
  (∀ (t : ElemT) (j : Job) (r : Row), t.isFlt = false → j.v.mask = BitVec.allOnes 128 →
    let last := fun op => (scanRow op t j r).1.getLastD (redIdentity op t)
    let xs := lanesOf t.width t.count r
    last .add = xs.foldl (· + ·) 0 % 2 ^ t.width ∧
    (∀ x ∈ xs, t.intOf (last .min) ≤ t.intOf x) ∧ last .min ∈ xs ∧
    (∀ x ∈ xs, t.intOf x ≤ t.intOf (last .max)) ∧ last .max ∈ xs ∧
    last .and = xs.foldl (· &&& ·) (2 ^ t.width - 1) ∧ last .or = xs.foldl (· ||| ·) 0 ∧
    last .xor = xs.foldl (· ^^^ ·) 0 ∧ ∀ op, (scanRow op t j r).2 = 0)

/-- R242, R243, R244, R248 to R250, R254: permutes, broadcasts, index, bitmap and lane instructions. -/
def Obligations.VectorPermutesAndLanes : Prop :=
  ∀ (s : State) (c : CoreId) (j : Job) (tm : Tm) (d a b : Opnd) (t : ElemT),
    let w := t.width
    let at_ := fun (i : Instr) (n k : Nat) => lane w (srcRow j i n) k
    let out := fun (i : Instr) (lat : Nat) (o : VOut) => exec i s = .next (vecDone s c j i 1 lat d o)
    let scalar := fun (i : Instr) (lat : Nat) (x : W32) =>
      exec i s = .next (s.setJob c (((j.sourced .v i).sout d lat x).done .v 1))
    (∀ i, i = Instr.vperm tm d a b t → Issues s c .v j i → out i 2 (lanewise t j.v.mask fun k =>
      let x := at_ i 2 k % (2 * t.count)
      (if x < t.count then at_ i 0 x else at_ i 1 (x - t.count), 0))) ∧
    (∀ i, i = Instr.vrotm tm d a b t → Issues s c .v j i → out i 2 (lanewise .n8 j.v.mask fun k =>
      let x := lane 8 (srcRow j i 2) 0 % 128 + k
      (if x < 128 then lane 8 (srcRow j i 0) x else lane 8 (srcRow j i 1) (x - 128), 0))) ∧
    (∀ i, i = Instr.vbcst tm d a t → Issues s c .v j i →
      out i 2 (lanewise t j.v.mask fun _ => ((srcV j i 0).toNat % 2 ^ w, 0))) ∧
    (∀ i, i = Instr.vidxw tm d a t → Issues s c .v j i → t.isFlt = false →
      out i 2 (lanewise t j.v.mask fun k => (((srcV j i 0).toNat + k) % 2 ^ w, 0))) ∧
    (∀ i, i = Instr.vidxw tm d a t → Issues s c .v j i → t.isFlt = true →
      out i 2 (lanewise t j.v.mask fun k => t.fmt.round .rne 0 (Fp.ofInt ((srcV j i 0).toInt + k) 0 false))) ∧
    (∀ i, i = Instr.vidxr tm d a t → Issues s c .v j i → scalar i 2 (BitVec.ofNat 32
      (((List.range t.count).find? fun k => j.v.mask.getLsbD (w * k / 8) &&
        decide ((if t.isFlt then at_ i 0 k % 2 ^ (w - 1) else at_ i 0 k) ≠ 0)).getD t.count))) ∧
    (∀ i, i = Instr.vbits tm d a t → Issues s c .v j i → ∃ r, out i 3 (whole r 0) ∧
      ∀ n, n < 1024 → (r.getLsbD n = true ↔ ((srcRow j i 1).getLsbD n = true ∨
        ∃ k, k < t.count ∧ j.v.mask.getLsbD (w * k / 8) = true ∧ at_ i 0 k = n))) ∧
    (∀ i, i = Instr.vpopm tm d a → Issues s c .v j i → scalar i 3 (BitVec.ofNat 32
      ((List.range 1024).filter fun n => (srcRow j i 0).getLsbD n && j.v.mask.getLsbD (n / 8)).length)) ∧
    (∀ i, i = Instr.vlane tm d a t → Issues s c .v j i → ∀ k, k = (srcV j i 1).toNat % t.count →
      scalar i 2 (if t.signed then BitVec.ofInt 32 (t.intOf (at_ i 0 k)) else BitVec.ofNat 32 (at_ i 0 k))) ∧
    (∀ i, i = Instr.vins tm d a t → Issues s c .v j i →
      out i 2 (whole (BitVec.ofNat 1024 ((srcRow j i 1).toNat * 2 ^ w + (srcV j i 0).toNat % 2 ^ w)) 0))

/-- R245, R246, R252, R255: the mask stack, skipped regions, the pattern matcher and walk moves. -/
def Obligations.MasksMatchAndMoves : Prop :=
  ∀ (s : State) (c : CoreId) (j : Job) (tm : Tm) (d a b : Opnd) (t : ElemT) (n : BitVec 16) (w : Fin 8) (addr : Nat),
    let e := 2 ^ t.width - 1
    let cm := j.v.masks.headD (BitVec.allOnes 128)
    let set := fun (i : Instr) (v : VEng → VEng) => exec i s = .next (s.setJob c
      (Job.done { j.sourced .v i with v := v (j.sourced .v i).v } .v 1))
    (∀ i, i = Instr.vmpush tm a t → Issues s c .v j i → set i fun v => { v with
      masks := (cm &&& maskOf fun b => decide (lane t.width (srcRow j i 0) (8 * b / t.width) ≠ 0)) :: j.v.masks }) ∧
    (∀ i, i = Instr.vminv tm → Issues s c .v j i → ∀ top rest, j.v.masks = top :: rest →
      set i fun v => { v with masks := (rest.headD (BitVec.allOnes 128) &&& ~~~top) :: rest }) ∧
    (∀ i, i = Instr.vmpop tm → Issues s c .v j i → set i fun v => { v with masks := j.v.masks.tail }) ∧
    (∀ i, i = Instr.vskip tm n → Issues s c .v j i → set i fun v => { v with skip := if cm = 0 then n.toNat else 0 }) ∧
    (∀ i, i = Instr.vmatch tm d a b t → Issues s c .v j i →
      let pat := (lanesOf t.width t.count (srcRow j i 1)).takeWhile (fun x => decide (x ≠ e)) |>.take 31
      let r := matchLoop e pat (lanesOf t.width t.count (srcRow j i 0)) (j.v.vmst.toNat % 2 ^ 31)
      let hit := j.v.vmst.getLsbD 31 || r.2.2
      exec i s = .next (s.setJob c
        ((((j.sourced .v i).vout d 4 (whole (rowOfLanes t.width r.1) 0)).landIn 4 .vmst
          (BitVec.ofNat 1024 ((if hit then 2 ^ 31 else 0) + r.2.1 % 2 ^ 31)) 0).done .v 4))) ∧
    (∀ i, i = Instr.vmov tm d w → Issues s c .v j i → j.walkWrites w = false →
      (wantAddrs (vmovWants s c j w)).map Prod.snd = [addr] →
      exec i s = .next (s.setJob c (((((j.claim .v (wantAddrs (vmovWants s c j w))).advanceWalk w 1).spendCredit (some w)).vout
        d 3 (whole ((s.core c).timedRow addr) 0)).done .v 1))) ∧
    (∀ i r q, (i = Instr.vmov tm (.reg r) w ∨ i = Instr.vmov tm (.q q) w) → Issues s c .v j i → j.walkWrites w = true →
      (wantAddrs (vmovWants s c j w)).map Prod.snd = [addr] →
      ∃ j2 : Job, exec i s = .next (s.setJob c (j2.done .v 1)) ∧ j2.v.stores = j.v.stores ++
        [{ left := 1, pc := j.v.pc, walk := w, addr, mask := cm
           row := if i = Instr.vmov tm (.reg r) w then j.v.v[r.val] else (j.stream q).head }])

/-- R75, R260, R261, R262, R268: TSHAPE sets n, k and m from s[A], s[B] and s[D], each 1 to 64; where one is not, it
raises ILLEGAL_OPERAND 0x101, whether or not the job is held. TCFG writes a configuration word, in which a reserved
value leaves its field as it was and sets RSVW; TZERO empties an accumulator. -/
def Obligations.MatrixConfiguration : Prop :=
  ∀ (s : State) (c : CoreId) (j : Job) (tm : Tm) (d a b : Opnd) (n : Fin 8),
    let src := fun (i : Instr) (n : Nat) => ((argAt (sourcesOf j .m i) n).scalar 32 (j.reg .m)).toNat
    let set := fun (i : Instr) (f : MEng → MEng) => exec i s = .next (s.setJob c
      (Job.done { j.sourced .m i with m := f (j.sourced .m i).m } .m 1))
    let configures := fun (i : Instr) (f : Fin 4) (x : Nat) (bad : Prop) => ∃ r, (r = true ↔ (j.m.rsvw = true ∨ bad)) ∧
      exec i s = .next (s.setJob c (Job.done { j.sourced .m i with
        twinWait := false, m := { (j.sourced .m i).m with tcfg := j.m.tcfg.set f.val (BitVec.ofNat 32 x), rsvw := r } } .m 1))
    (∀ i, i = Instr.tshape tm d a b → Issues s c .m j i → (∀ n ∈ [0, 1, 2], 1 ≤ src i n ∧ src i n ≤ 64) →
      set i fun m => { m with shapeN := src i 0, shapeK := src i 1, shapeM := src i 2 }) ∧
    (∀ i, i = Instr.tshape tm d a b → InTurn s c .m j → preciseFault s c j .m i = none → timedReady s c j i = .ok →
      (∃ n ∈ [0, 1, 2], src i n = 0 ∨ 64 < src i n) → exec i s = .next (s.setJob c (j.raise .m .illegalOperand 0x101))) ∧
    (∀ i, i = Instr.tcfg tm a 0 → Issues s c .m j i →
      let x := src i 0
      let old := (j.m.tcfg[0]).toNat
      let kind := x / 4 % 4 = 1 ∨ x / 4 % 4 = 2
      configures i 0 ((if x / 2 ^ 24 = 0 then old / 2 ^ 24 else x / 2 ^ 24) * 2 ^ 24 + x / 16 % 4 * 16
        + (if kind then x / 4 % 4 else old / 4 % 4) * 4 + x % 4) (x / 2 ^ 24 = 0 ∨ ¬ kind)) ∧
    (∀ i, i = Instr.tcfg tm a 1 → Issues s c .m j i →
      let x := src i 0
      let old := (j.m.tcfg[1]).toNat
      configures i 1 ((if x / 2 ^ 12 % 4 ≤ 1 then x / 2 ^ 12 % 4 else old / 2 ^ 12 % 4) * 2 ^ 12 + x / 2 ^ 9 % 8 * 2 ^ 9
        + if x % 16 ≤ 10 then x % 16 else old % 16) (1 < x / 2 ^ 12 % 4 ∨ 10 < x % 16)) ∧
    (∀ i f, i = Instr.tcfg tm a f → (f = 2 ∨ f = 3) → Issues s c .m j i → configures i f (src i 0) False) ∧
    (∀ i, i = Instr.tzero tm n → Issues s c .m j i → ∃ m, (exec i s = .next (s.setJob c
      (Job.done { j.issuing .m i with m := m } .m 1))) ∧
        (∀ p, p < 4096 → (m.accAt n).el p = 0) ∧ (m.accAt n).kind = .none ∧ m.unchk.getLsbD n.val = false ∧
        (∀ q, q ≠ n → m.accAt q = j.m.accAt q ∧ m.unchk.getLsbD q.val = j.m.unchk.getLsbD q.val) ∧
        m.retcnt = j.m.retcnt ∧ m.s = j.m.s ∧ m.tcfg = j.m.tcfg)

/-- R259, R265, R266, R267: a reduction issues: NEW clears its accumulator, which takes the kind of its operands and
joins UNCHK; its walks step past the rows that it will read, and the reads of its window are to come. -/
def Obligations.ReductionsIssue : Prop :=
  ∀ (s : State) (c : CoreId) (j : Job) (tm : Tm) (n a b w : Fin 8) (new : Bool) (need : AccKind),
    let win := fun i => mWindow s c (j.issuing .m i) i
    let ready := fun i => Issues s c .m j i ∧ needKind (j.issuing .m i) i (win i).wants = some need
    let started := fun i : Instr =>
      let m := (j.issuing .m i).m
      let acc : Acc := if new = true then { e := Vector.replicate 4096 0, kind := need, res := [], ck := [] }
        else { j.m.accAt n with kind := need }
      let m1 := { m.setAcc n acc with unchk := m.unchk ||| BitVec.ofNat 8 (2 ^ n.val) }
      Job.launchM { j.issuing .m i with m := m1 } i (win i) [] 0 none
    (∀ i, (i = Instr.tmma tm n a b new ∨ i = Instr.tmmax tm n a b new ∨ i = Instr.tmmat tm n a b new) → ready i →
      exec i s = .next (s.setJob c ((started i).done .m (win i).occ))) ∧
    (∀ i, i = Instr.tmmas tm n a b w new → ready i →
      exec i s = .next (s.setJob c (((started i).spendMany b (128 - j.m.spn)).done .m (win i).occ)))

/-- R166, R181, R265: what a reduction of integers leaves in its accumulator once its rows are read: each element of the
tile is the old one plus the sum of the products of its line of A and its line of B, modulo 2^32, and every other
element is unchanged. R179, R182: one step of a floating-point reduction rounds the exact sum of the element and the
exact product once to FP32 under RNE, and records NV and OF only; a line is reduced in ascending order. -/
def Obligations.ReductionSums : Prop :=
  (∀ (f : MFlight) (acc : Acc) (tm : Tm) (n a b : Fin 8) (new : Bool) (p : Nat),
    (f.instr = .tmma tm n a b new ∨ f.instr = .tmmat tm n a b new) → p < 4096 →
    let ra := f.rows (some a)
    let rb := f.rows (some b)
    (f.typeOf ra).isFlt = false → (f.typeOf ra).isFp8 = false →
    ((p / 64 < f.shape.1 ∧ p % 64 < f.shape.2.1) → ((f.reduce acc).1.el p) = BitVec.ofInt 32 ((acc.el p).toInt +
      ((lineI ra (f.typeOf ra) (p / 64) f.shape.2.2).zipWith (· * ·) (lineI rb (f.typeOf rb) (p % 64) f.shape.2.2)).sum)) ∧
    (¬ (p / 64 < f.shape.1 ∧ p % 64 < f.shape.2.1) → (f.reduce acc).1.el p = acc.el p) ∧
    (f.reduce acc).1.kind = acc.kind) ∧
  (∀ (t : ElemT) (a b : Elem) (as bs : List Elem) (x : Nat) (g : Flags),
    dotF t 0 (a :: as) (b :: bs) (x, g) = dotF t 0 as bs (accumF (x, g) (stepProd t 0 a b)) ∧
    (∀ p q, (accumF (x, g) (p, q)).1 = (fp32.round .rne 0 (Fp.add .rne (fp32.value x) p).1).1) ∧
    (∀ p q, (accumF (x, g) (p, q)).2 &&& ~~~(fNV ||| fOF) = g &&& ~~~(fNV ||| fOF)) ∧
    (a.scale = 127 → b.scale = 127 → ∀ m n e k, a.val = .num false m e → b.val = .num false n k → 0 < m → 0 < n →
      ∃ z : Nat, (stepProd t 0 a b).1 = .num false (m * n * 2 ^ z) (e + k - (z : Int))))

/-- R258, R268, R269, R270, R272: a retirement issues: the rows that it writes are formed from its accumulator and its
walk steps past them; C leaves UNCHK; TRET and TRETQ count, and without KEEP empty the accumulator; an accumulator that
fails its check, and a fault of the epilogue's arithmetic (R432), bring RESIDUE unless the profile is BASIC. TFILL
starts its check state afresh with the kind of FKIND. R273, R274: the checksum word of a row is the sum of its words
modulo 2^32 - 1, and TSPILL's rows hold the accumulator's elements, two rows to an accumulator row. -/
def Obligations.Retirements : Prop :=
  (∀ (s : State) (c : CoreId) (j : Job) (tm : Tm) (n w : Fin 8) (keep : Bool),
    let j0 := fun i => j.issuing .m i
    let win := fun i => mWindow s c (j0 i) i
    let hit := (s.core c).faulty inEpilogue = true
    let bad := if ((j.m.accAt n).intact = false ∨ hit) ∧ j.prof ≠ 2 then some Cause.residue else none
    let t := if hit then { s.setCore c ((s.core c).sound inEpilogue) with fresh := s.fresh + 1 } else s
    let out := fun (i : Instr) (rows : List Row) (fl : Flags) (after : MEng → MEng) => (hit → j.prof ≠ 2) → exec i s = .next (t.setJob c
      (Job.done { (j0 i).launchM i (win i) rows fl bad with
        m := (after ((j0 i).launchM i (win i) rows fl bad).m).mark n false } .m (win i).occ))
    let retire := fun (m : MEng) => if keep = true then { m with retcnt := m.retcnt + 1 }
      else { m with retcnt := m.retcnt + 1 }.setAcc n { e := Vector.replicate 4096 0, kind := .none, res := [], ck := [] }
    (∀ i, i = Instr.tret tm n w keep → Issues s c .m j i → out i (tretRows (j0 i) n).1 (tretRows (j0 i) n).2 retire) ∧
    (∀ i, i = Instr.tretq tm n w keep → Issues s c .m j i → out i (tretqRows (j0 i) n).1 (tretqRows (j0 i) n).2 retire) ∧
    (∀ i, i = Instr.tspill tm n w → Issues s c .m j i → out i (spillRows (j.m.accAt n)) 0 id) ∧
    (∀ i, i = Instr.tfill tm n w → Issues s c .m j i → exec i s = .next (s.setJob c
      ((Job.launchM { j0 i with m := ((j0 i).m.setAcc n { j.m.accAt n with
          kind := (if j.m.tcfg[0].toNat / 4 % 4 = 2 then .int else .flt), res := [], ck := [] }).mark n false } i (win i) [] 0
            none).done .m (win i).occ)))) ∧
  (∀ (a : Acc) (r : Row) (i k : Nat), i < 128 → k < 32 →
    (spillRows a).length = 128 ∧
    lane 32 ((spillRows a).getD i 0) k = (a.el (64 * (i / 2) + 32 * (i % 2) + k)).toNat ∧
    (cswOf r).toNat = ((List.range 32).map fun n => r.toNat / 2 ^ (32 * n) % 2 ^ 32).sum % (2 ^ 32 - 1))

/-- R259, R268, R274, R275: TACC adds every element of one accumulator to another's, modulo 2^32 or rounded once to FP32
under RNE by their kind; TSTAT and TCHK deliver their item, two takes and OCC + 2 takes later, and change no
accumulator. What tests 0 to 2 of TCHK find is free among the results that the rule lists (log 82). -/
def Obligations.MatrixMovesAndStatus : Prop :=
  ∀ (s : State) (c : CoreId) (j : Job) (tm : Tm) (n q : Fin 8) (d a : Opnd),
    let used : State := { s with fresh := s.fresh + 1 }
    (∀ i, i = Instr.tacc tm n q → Issues s c .m j i →
      let kind := if (j.m.accAt n).kind = .none then (j.m.accAt q).kind else (j.m.accAt n).kind
      ∃ j2 : Job, exec i s = .next (s.setJob c (j2.done .m 64)) ∧ (j2.m.accAt n).kind = kind ∧
        (kind = .int → ∀ p, p < 4096 → (j2.m.accAt n).el p = (j.m.accAt n).el p + (j.m.accAt q).el p) ∧
        (kind = .flt → ∀ p, p < 4096 → (j2.m.accAt n).el p = BitVec.ofNat 32 (fp32.round .rne 0
          (Fp.add .rne (fp32.value ((j.m.accAt n).el p).toNat) (fp32.value ((j.m.accAt q).el p).toNat)).1).1) ∧
        (∀ r, r ≠ n → j2.m.accAt r = j.m.accAt r) ∧ j2.m.unchk.getLsbD n.val = true) ∧
    (∀ i, i = Instr.tstat tm d 0 → Issues s c .m j i → exec i s = .next (s.setJob c
      (((j.issuing .m i).moutAt d 2 (BitVec.ofNat 32 (j.m.unchk.toNat * 2 ^ 24 + j.m.depth % 256 * 2 ^ 16 +
        natOfLanes 2 (j.m.acc.toList.map fun x => match x.kind with
          | .none => 0
          | .flt => 1
          | .int => 2)))).done .m 1))) ∧
    (∀ i, i = Instr.tstat tm d 2 → Issues s c .m j i → exec i s = .next (s.setJob c
      (((j.issuing .m i).moutAt d 2 j.m.retcnt).done .m 1))) ∧
    (∀ i, i = Instr.tstat tm d 3 → Issues s c .m j i → exec i s = .next (s.setJob c
      (((j.issuing .m i).moutAt d 2 j.m.csw).done .m 1))) ∧
    (∀ i, i = Instr.tstat tm d 1 → Issues s c .m j i → ∀ j1 : Job, j1 = (j.issuing .m i).moutAt d 2 (BitVec.ofNat 32
        ((if j.m.rsvw then 2 ^ 31 else 0) + j.m.shapeM * 2 ^ 14 + j.m.shapeN * 2 ^ 7 + j.m.shapeK)) →
      exec i s = .next (s.setJob c (Job.done { j1 with m := { j1.m with rsvw := false } } .m 1))) ∧
    (∀ i f, i = Instr.tchk tm d a f → f.val < 3 → Issues s c .m j i → ∃ occ x,
      exec i s = .next (used.setJob c (((j.sourced .m i).moutAt d (occ + 2) (BitVec.ofNat 32 x)).done .m occ)) ∧
        (f = 0 → occ = 64 ∧ x ≤ 4096) ∧ (f ≠ 0 → occ = 4 ∧ x ≤ 1)) ∧
    (∀ i, i = Instr.tchk tm d a 3 → Issues s c .m j i → ∀ x : W32, x = (argAt (sourcesOf j .m i) 0).scalar 32 (j.reg .m) →
      x.toNat < 32768 → exec i s = .next (used.setJob c
        (((j.sourced .m i).moutAt d 3 ((j.m.accAt ⟨x.toNat / 4096 % 8, Nat.mod_lt _ (by decide)⟩).el (x.toNat % 4096))).done
          .m 1))) ∧
    (∀ i, (i = Instr.tchk tm d a 3 ∨ i = Instr.tchk tm d a 7) → InTurn s c .m j → preciseFault s c j .m i = none →
      timedReady s c j i = .ok → 32768 ≤ ((argAt (sourcesOf j .m i) 0).scalar 32 (j.reg .m)).toNat →
      exec i s = .next (s.setJob c (j.raise .m .illegalOperand 0x106))) ∧
    (∀ i ty, ((i = Instr.tchk tm d a 4 ∧ ty = .bf) ∨ (i = Instr.tchk tm d a 5 ∧ ty = .h)) → Issues s c .m j i →
      ∀ x : W32, x = (argAt (sourcesOf j .m i) 0).scalar 32 (j.reg .m) → exec i s = .next (used.setJob c
        (((j.sourced .m i).moutAt d 3 (BitVec.ofNat 32 (fp32.round .rne 0 (prodOf ty (2 * (j.m.tcfg[0].toNat % 4))
          (ty.fmt.value (x.toNat / 65536)) (ty.fmt.value (x.toNat % 65536))).1).1)).done .m 1))) ∧
    (∀ i, i = Instr.tchk tm d a 7 → Issues s c .m j i → ∀ x : W32, x = (argAt (sourcesOf j .m i) 0).scalar 32 (j.reg .m) →
      x.toNat < 32768 → exec i s = .next (used.setJob c (((j.sourced .m i).moutAt d 3 (BitVec.ofNat 32
        (gen j.rseed j.nodeid (j.m.retcnt.setWidth 16) (BitVec.ofNat 16 (0x8000 + x.toNat / 4096)) (x.toNat % 4096)))).done
          .m 1))) ∧
    (∀ i, i = Instr.tchk tm d a 6 → Issues s c .m j i → exec i s = .next (used.setJob c
      (((j.sourced .m i).moutAt d 3 (BitVec.ofNat 32 j.m.depthMax)).done .m 1)))

/-- R43, R66, R313: when every waiting instruction is ready the hold ends, in all members of a gang as one, and their V
and M have their turns in this cycle; a word that an engine does not decode raises its cause with the word as TRAPVAL,
at the engine's pc. R126, R128, R129, R130, R131: at a boundary of C with a notice pending and TRAPVEC.EN 1, C goes on
at the handler with INH set; TRAPPC is the boundary's pc, CODE the first pending cause in the order WRAP, PREEMPT, FLAG,
and only that notice is taken. With EN 0 every notice is discarded and C stays where it is. -/
def Obligations.HoldsTrapsAndHandler : Prop :=
  (∀ (s : State) (c : CoreId) (e : Eng) (j : Job) (w : W32) (cause : Cause),
    let held := fun d => ∃ x, s.job d = some x ∧ x.hold = true
    (s.job c = some j → s.members c j = [c] → j.hold = true → s.holdStays c j = false →
      exec (.holdEnd c) s = .next { s.setJob c { j with hold := false } with
        agenda := .eng c .v :: .eng c .m :: s.agenda }) ∧
    (s.job c = some j → (∃ d ∈ s.holders c j, held d) → s.holdStays c j = false → ∃ t, exec (.holdEnd c) s = .next t ∧
      t.agenda = (s.holders c j).flatMap (fun d => [.eng d .v, .eng d .m]) ++ s.agenda ∧
      (∀ d ∈ s.holders c j, ∀ x, s.job d = some x → t.job d = some { x with hold := false }) ∧
      (∀ d, d ∉ s.holders c j → t.core d = s.core d) ∧ t.mem = s.mem ∧ t.clusters = s.clusters) ∧
    (s.job c = some j → ((¬ ∃ d ∈ s.holders c j, held d) ∨ s.holdStays c j = true) → exec (.holdEnd c) s = .next s) ∧
    (InTurn s c e j → ∃ j2, exec (.reservedEncoding w cause) s = .next (s.setJob c j2) ∧ j2.pc e = j.pc e ∧
      (∀ x n, j2.reg x n = j.reg x n) ∧ j2.raised = j.raised ++
        [{ eng := e, cause, val := w, pc := j.pc e, classC := causeClass cause = .c, addr := 0 }])) ∧
  (∀ (s : State) (c : CoreId) (j : Job), s.job c = some j → j.asyncDue = true → j.atStop = false →
    (j.c.vec.toNat % 2 = 1 → ∃ j2, exec (.trapEntry c) s = .next (s.setJob c j2) ∧
      j2.c.arch = { j.c.arch with
        pc := BitVec.ofNat 48 (j.c.arch.pc.toNat / 2 ^ 32 * 2 ^ 32 + j.c.vec.toNat / 4 * 4), inh := true } ∧
      j2.c.tpc = j.c.arch.pc.setWidth 32 ∧ j2.c.wait = .run ∧
      (j.c.pwrap = true → j2.c.code = 0x1E ∧ j2.c.pwrap = false ∧ j2.c.ppre = j.c.ppre ∧ j2.c.pflag = j.c.pflag ∧
        j2.c.tval = s.wrapMicros j) ∧
      (j.c.pwrap = false → j.c.ppre = true → j2.c.code = 0x1D ∧ j2.c.ppre = false ∧ j2.c.pflag = j.c.pflag ∧ j2.c.tval = 0) ∧
      (j.c.pwrap = false → j.c.ppre = false → j2.c.code = 0x19 ∧ j2.c.pflag = false ∧ j2.c.tval = sat32 (toBoundary s.time)) ∧
      j2.a = j.a ∧ j2.v = j.v ∧ j2.m = j.m ∧ j2.streams = j.streams ∧ j2.take = j.take) ∧
    (j.c.vec.toNat % 2 = 0 → ∃ j2, exec (.trapEntry c) s = .next (s.setJob c j2) ∧ j2.c.arch = j.c.arch ∧
      j2.c.pwrap = false ∧ j2.c.ppre = false ∧ j2.c.pflag = false ∧ (j.c.pflag = true → j2.flag.pend = false ∧ j2.flag.ans = 0) ∧
      j2.a = j.a ∧ j2.v = j.v ∧ j2.m = j.m))

/-- R38, R42, R280: the end of a cycle, for an island on which one job runs with nothing of V or M in flight: TAKE rises
by one and HOLDCYC keeps its value in a cycle without a hold; TAKE stays and HOLDCYC rises, up to its greatest value and
not past the stop of the job, in a held one; what was pushed in the cycle can be popped from now on; and the island has
passed one cycle more. -/
def Obligations.EndOfCycle : Prop :=
  ∀ (s : State) (i : IslId) (c : CoreId) (j : Job), coreIsl c = i → s.job c = some j →
    (∀ d, coreIsl d = i → d ≠ c → s.job d = none) → s.members c j = [c] →
    j.raised = [] → j.v.pend = [] → j.v.flights = [] → j.v.stores = [] → j.m.pend = [] → j.m.flights = [] → j.m.flagFlights = [] →
    j.deadlocked = false →
    ∃ t j2, exec (.islandCycle i) s = .next t ∧ t.job c = some j2 ∧ (t.island i).cycles = (s.island i).cycles + 1 ∧
      j2.c.arch = j.c.arch ∧ j2.a.x = j.a.x ∧ j2.v.s = j.v.s ∧ j2.v.v = j.v.v ∧ j2.m.s = j.m.s ∧ j2.m.acc = j.m.acc ∧
      (∀ q, (j2.stream q).q = (j.stream q).q ++ (j.stream q).incoming ∧ (j2.stream q).incoming = []) ∧
      (s.heldEnd c j = false → j2.take = (if j.zeroed then j.take else j.take + 1) ∧ j2.holdcyc = j.holdcyc) ∧
      (s.heldEnd c j = true → j2.take = j.take ∧
        j2.holdcyc = if j.holdcyc = 0xFFFFFFFF ∨ j.atStop = true then j.holdcyc else j.holdcyc + 1)

/-- R133, R278, R438: the halt line of a context that reaches a core stops the context's job there with its records, and
the core waits for it no more, whether or not it still runs a job; a job that stands at its stop take with nothing under
way has stopped, unless an accumulator that was not checked fails its check. R359, R360, R380, R381, R441: a capacity
wait ends after CAPWAIT us with a last try or CAP_SHORT, a PHASE's with its own CAP_SHORT; the launch record of a ready
card is read once and worked through page by page, and one that breaks its table is passed over; it holds the card back
while an entry with ACTION 0 or 2 is left, and 100 us after the card became ready its migrations do so no more; a saved
card stands stopped in its home dispatcher, and a failure of the save is a node-fatal trap. -/
def Obligations.StopsAndWaits : Prop :=
  (∀ (s : State) (c : CoreId) (j : Job), s.job c = some j →
    ((s.halts.any fun h => decide (h.1 = j.ctx) && h.2.contains c) = true → exec (.haltLineArrival c) s = .next
      (let s1 := ((s.stopRecords c j (firstRaised (j.raised.map fun r => (c, r))) true).dropJob c).vfIrq j.ctx 2
       State.haltSettle { s1 with halts := s1.halts.map fun h => (h.1, h.2.filter fun k => decide (k ≠ c)) })) ∧
    ((s.halts.any fun h => decide (h.1 = j.ctx) && h.2.contains c) = false → exec (.haltLineArrival c) s = .next
      (State.haltSettle { s with halts := s.halts.map fun h => (h.1, h.2.filter fun k => decide (k ≠ c)) })) ∧
    (∀ d, s.job d = none → exec (.haltLineArrival d) s = .next
      (State.haltSettle { s with halts := s.halts.map fun h => (h.1, h.2.filter fun k => decide (k ≠ d)) })) ∧
    (j.still = true → s.live j.ctx = true → j.m.flights = [] → (j.hasM = true → j.stopFails = false) →
      exec (.jobStop c) s = .next ((s.setJob c { j with stopped := true }).toSave j.cluster j.slot)) ∧
    (j.still = true → s.live j.ctx = true → j.m.flights = [] → j.hasM = true → j.stopFails = true →
      exec (.jobStop c) s = .next (State.resolveTraps (s.setJob c (j.raise .m .residue (j.m.pc.setWidth 32))) c))) ∧
  (∀ (s : State) (k : CluId) (n : SlotId) (x : Card) (c : CoreId) (j : Job) (since : Nat), s.card k n = some x → s.job c = some j →
    (x.capSince = some since → since + 1000 * x.capWait ≤ s.time → s.unlaunched k n = true → s.cardReady x = true →
      s.flagBar (cluIsl k) = false → s.promotedOrder k = [] → exec (.capacityWaitTimeout k n) s = .next
        (let t := (s.tryCard k n).noteLaunch s k n
         if t.unlaunched k n then t.dropCard k n 0xFF01 0x1A else t)) ∧
    (x.capSince = some since → s.time < since + 1000 * x.capWait → exec (.capacityWaitTimeout k n) s = .next s) ∧
    (∀ id, j.c.wait = .phase since id → j.trapped .c = false → since + 1000 * j.capwait ≤ s.time →
      exec (.phaseCapwaitTimeout c) s = .next (s.capShort c j)) ∧
    (∀ id, j.c.wait = .phase since id → s.time < since + 1000 * j.capwait → exec (.phaseCapwaitTimeout c) s = .next s) ∧
    (x.launchRec ≠ 0 → x.readySince = some since → x.recordDone = false → x.recEnts = none →
      (∀ l, s.readRecord x = .entries l → exec (.launchRecordWalk k n) s = .next
        ((s.devDrawn x.ctx x.launchRec ((16 + 16 * l.length + 63) / 64)).recSet k n l)) ∧
      (s.readRecord x = .bad → exec (.launchRecordWalk k n) s = .next
        (State.recSet (s.setCluster k { s.cluster k with errlog := (s.cluster k).errlog + 1 }) k n []))) ∧
    (∀ p w l, x.launchRec ≠ 0 → x.readySince = some since → x.recordDone = false → s.cluPart k = some p → x.recEnts = some (w :: l) →
      (∃ v ∈ (s.cluster k).walks.toList, v = none) → w.base < 2 ^ 48 →
      (∀ z, s.walkTables x.ctx w.base = .stop z →
        exec (.launchRecordWalk k n) s = .next ((s.walkUsed x.ctx w.base).recSet k n (recAdvance 1 w l))) ∧
      (∀ t u, s.walkTables x.ctx w.base = .leaf t → (s.walkUsed x.ctx w.base).recLeaf p k n x.ctx w t = some u →
        exec (.launchRecordWalk k n) s = .next (u.recSet k n (recAdvance (recPassed w t) w l))) ∧
      (w.action = 0 → ∀ t, ∃ u, s.recLeaf p k n x.ctx w t = some u ∧ (u.cluster k).tlb2 = tlbInsert 4096 s.fresh (s.cluster k).tlb2 t ∧
        u.cores = s.cores ∧ u.mem = s.mem)) ∧
    (∀ l, (s.recSet k n l).card k n = some { x with recEnts := some l, recordDone := l.all fun e => decide (e.action = 1) }) ∧
    (x.readySince = some since → since + 100000 ≤ s.time →
      exec (.launchRecordTimeout k n) s = .next (s.setCard k n { x with migrations := [] })) ∧
    (∀ s1 l, x.phase = .saving → s.live x.ctx = true → s.saveAll x x.cores = .ok (s1, l) → exec (.saveComplete k n) s = .next
      (x.cores.foldl State.dropJob
        ((s1.settle k n x.isl).requeue k n fun y => { y with phase := .stopped, images := l }))) ∧
    (∀ d cause va, x.phase = .saving → s.live x.ctx = true → s.saveAll x x.cores = .error (d, .fail cause va) →
      exec (.saveComplete k n) s = .next (s.nodeFails d cause va)) ∧
    (∀ d g, x.phase = .saving → s.live x.ctx = true → s.saveAll x x.cores = .error (d, .wait g) →
      exec (.saveComplete k n) s = .next (s.forGate x.ctx (some d) g)))

/-- R315, R316, R317, R359, R357: a dispatch round without a steal. With no ready card and a free core the cluster's
idle time runs; with one ready card the card is tried where a core is free, and one that stays gains a waiting round and
is promoted by the eighth; in the last 10 us before the boundary of a flagged island nothing launches. R35, R36, R354,
R359: a launch that starts a card's jobs: a descriptor that breaks its table ends the card with STATUS 0xFF05; a good
one starts one job of each core of the gang, with the engines, program counters and argument words that the descriptor
names, JOBID from the partition's launch count and the member's index, and the charge taken from the account of the
island. R344: a job with an M stream does not start at a twin level; that its launch only makes the island leave the
level, and the card waits for a later round, is the model's choice (log 51). -/
def Obligations.DispatchAndLaunch : Prop :=
  (∀ (s : State) (k : CluId) (n : SlotId), (s.cluPart k).isSome = true →
    let s00 := (s.comeHome k).markReady k
    let s0 := (s00.roundOrder k).foldl (fun st m => st.considered k m) s00
    let idle := fun (t : State) (since : Option Nat) => t.setCluster k { t.cluster k with idleSince := since }
    let tried := (s0.tryCard k n).noteLaunch s0 k n
    s0.promotedOrder k = [] →
    (s0.readyCards k = [] → (∃ c ∈ cluCores k, s0.coreFree c = true) →
      (∀ since, (s0.cluster k).idleSince = some since → s0.time < since + 2000) →
      exec (.dispatchRound k) s = .next (idle s0 (some ((s0.cluster k).idleSince.getD s0.time)))) ∧
    (s0.roundOrder k = [n] → s0.flagBar (cluIsl k) = false → (∃ c ∈ cluCores k, s0.coreFree c = true) →
      tried.idleCluster k = false → exec (.dispatchRound k) s = .next (idle (tried.gainRound k n) none)) ∧
    (s0.roundOrder k = [n] → (∀ c ∈ cluCores k, s0.coreFree c = false) →
      exec (.dispatchRound k) s = .next (idle (s0.gainRound k n) none)) ∧
    (s0.roundOrder k = [n] → s0.flagBar (cluIsl k) = true → s0.idleCluster k = false →
      exec (.dispatchRound k) s = .next (idle (s0.gainRound k n) none)) ∧
    (∀ (t : State) (x : Card), t.card k n = some x → t.unlaunched k n = true → ∃ y,
      (t.gainRound k n).card k n = some y ∧ y.rounds = x.rounds + 1 ∧ y.promoted = (x.promoted || decide (8 ≤ x.rounds + 1))) ∧
    (∀ (t : State) (x : Card), t.card k n = some x → t.cardReady x = true → t.recordOver x = true → x.page = none →
      ∀ t0 y, t.consider k n x = .ok t0 y → let t1 := t0.setCard k n y
      (∀ cores v charge, t1.fit k y = .go cores v charge → t.tryCard k n = t1.launch k n y cores v charge) ∧
      (t1.fit k y = .budget ∨ t1.fit k y = .cores → t.tryCard k n = t1) ∧
      (t1.fit k y = .capacity → y.phase ≠ .stopped → y.capWait = 0 → t.tryCard k n = t1.dropCard k n 0xFF01 0x1A) ∧
      (t1.fit k y = .capacity → y.phase ≠ .stopped → y.capWait ≠ 0 → t.tryCard k n =
        t1.setCard k n { y with capSince := some (y.capSince.getD t.time) }))) ∧
  (∀ (s : State) (k : CluId) (n : SlotId) (x : Card) (c : CoreId) (v : Fin 8 × Variant) (charge : Nat) (p : PartId) (bs : List Byte),
    s.card k n = some x → x.phase = .queued → s.cluPart k = some p → x.jobDesc % 64 = 0 → x.jobDesc < 2 ^ 48 →
    s.cardRead k n x x.jobDesc 5 = .data bs →
    (descOk bs = false → s.launch k n x [c] v charge = s.dropCard k n 0xFF05 0) ∧
    (descOk bs = true → descHas (natOfBytes bs) .m = true → isTwin (s.island (coreIsl c)).level = true →
      s.launch k n x [c] v charge = s.leaveTwin (coreIsl c)) ∧
    (descOk bs = true → (descHas (natOfBytes bs) .m = true → isTwin (s.island (coreIsl c)).level = false) → x.fuse = false →
      (s.island (coreIsl c)).flagged = false →
      ((s.launch k n x [c] v charge).island (cluIsl k)).bal = (s.island (cluIsl k)).bal - ((charge + x.metered : Nat) : Int) ∧
      (∃ y, (s.launch k n x [c] v charge).card k n = some y ∧ y.phase = .running ∧ y.cores = [c] ∧ y.charge = charge ∧
        y.jobid = (s.nextSeq p).1) ∧
      ∃ j, (s.launch k n x [c] v charge).job c = some j ∧ j.ctx = x.ctx ∧ j.part = p ∧ j.nodeid = BitVec.ofNat 32 x.nodeid ∧
        j.jobid = BitVec.ofNat 32 (s.nextSeq p).1 ∧ j.hasA = descHas (natOfBytes bs) .a ∧ j.hasV = descHas (natOfBytes bs) .v ∧
        j.hasM = descHas (natOfBytes bs) .m ∧ j.pc .c = descPc (natOfBytes bs) 8 ∧ j.pc .a = descPc (natOfBytes bs) 16 ∧
        j.pc .v = descPc (natOfBytes bs) 24 ∧ j.pc .m = descPc (natOfBytes bs) 32 ∧ j.take = 0 ∧ j.holdcyc = 0 ∧
        (∀ e m, m.val ≤ 8 → 1 ≤ m.val → e ∈ [Eng.c, .a] → j.reg e m =
          if e = .a then argWord x (natOfBytes bs) m.val else (argWord x (natOfBytes bs) m.val).setWidth 32 |>.setWidth 64)))

/-- R309, R310, R423, R474: a card of which every job has ended retires: where a staged write is not ready it waits for
the line, else its staged writes perform, its staged signals, its record with the END status, its counter and its
semaphore, and its jobs leave their cores; while its record waits to be written, the rest waits too; one that meets a
fault before is a node-fatal trap of the card, of which member 0's record of C is the origin, with the cause and the
failing write's address; and none retires before another that finished earlier. -/
def Obligations.CardRetirement : Prop :=
  ∀ (s : State) (k : CluId) (n : SlotId) (x : Card) (c : CoreId) (j : Job), s.card k n = some x → x.phase = .running →
    x.cores = [c] → s.job c = some j → j.ended = true → s.live x.ctx = true →
    let next := s.retiresNext x = true
    (∀ (e : CluId × Nat × Card) (m r : Nat), e ∈ s.allCards → e.2.2.phase = .running → s.live e.2.2.ctx = true →
      e.2.2.ended = some m → x.ended = some r → m < r → exec (.cardRetire k n) s = .next s) ∧
    (next → x.recorded = false → s.firstUnready x.ctx x.staged = none → exec (.cardRetire k n) s = .next
      (let r := (s.commitAll x.ctx (some c) x.staged).performSigs x.ctx x.sigs
       let y := { x.note (s.island x.isl).level with staged := [], sigs := [], sigdrop := x.sigdrop || r.2, sel := j.var }
       let s2 := (r.1.setCard k n y).settle k n x.isl
       let y2 := { (s2.card k n).getD y with recorded := true }
       ((s2.setCard k n y2).writeRecord (s2.reported y2) j.endStatus.toNat).retireEnd k n y2)) ∧
    (next → x.recorded = true → exec (.cardRetire k n) s = .next (s.drainRecs.retireEnd k n x)) ∧
    (∀ (t : State) (y : Card), t.retireEnd k n y = if t.recordWaits y = true then t else (t.finishCard k n y).leaveCores y) ∧
    (∀ w g, next → x.recorded = false → s.firstUnready x.ctx x.staged = some (w, g) → (∀ cause, g ≠ .fail cause) →
      exec (.cardRetire k n) s = .next (s.forGate x.ctx c g)) ∧
    (∀ w cause, next → x.recorded = false → s.firstUnready x.ctx x.staged = some (w, .fail cause) →
      exec (.cardRetire k n) s = .next (s.nodeFails c cause w.va)) ∧
    (∀ cause va, s.nodeFails c cause va =
      let r : Raised := { eng := .c, cause, val := BitVec.ofNat 32 va, pc := j.pc .c, classC := false, addr := va }
      (s.setJob c { j with raised := j.raised ++ [r] }).nodeTrap j.cluster j.slot (c, r)) ∧
    (∀ (t : State) (y : Card), t.original y = none → t.finishCard k n y = (t.signalCard y).removeCard k n) ∧
    (∀ (t : State) (y : Card) (d m : Nat), y.decCtr = some d → y.ssem = some m →
      t.signalCard y = (t.ctrDec d).semOr m y.sigMask)

/-- R10, R11, R156, R158, R334: the command window: a value written to CMD0-CMD3 is read back; a store to GO waits for
the earlier accesses that its command is to follow, and while four commands are queued; else it queues the window's
command, not started, with the tag in bits [15:0] of the value where its checks pass, and with the seed, the formats of
its ends and the cluster's jobs of this moment, and otherwise sets STAT.ERR and counts STAT.REJ. The tag is read in
STAT. R159: the codes of a rejected copy command: 1 for a length or a number of lines of 0, or 2^32 bytes or more in
all; 2 for a barrier that is not 32-byte aligned or not in a usable row; 3 for a reserved bit that is set. -/
def Obligations.CopyWindow : Prop :=
  (∀ (s : State) (c : CoreId) (e : CopyId) (j : Job) (go : W64), s.job c = some j →
    let w := j.winAt e
    let f := copyFields w.cmd
    (4 ≤ (j.copiesOf e).length → exec (.copyGo c e go) s = .next s) ∧
    (j.goWaits c f = true → exec (.copyGo c e go) s = .next s) ∧
    ((j.copiesOf e).length < 4 → j.goWaits c f = false → s.copyCode c j w go = 0 → ∃ j2 x,
      exec (.copyGo c e go) s = .next (s.setJob c j2) ∧
      j2.copiesOf e = j.copiesOf e ++ [x] ∧ x.cmd = w.cmd ∧ x.tag = go.setWidth 16 ∧ x.cur = 0 ∧ x.started = false ∧
      x.seed = j.rseed ∧ x.srcFmt = (s.endFmt c j.ctx f.srcl f.src).getD 0 ∧ x.dstFmt = (s.endFmt c j.ctx f.dstl f.dst).getD 0 ∧
      (∀ i : Fin 4, x.jobs[i] = (s.job (corePeer c i)).map Job.jobid) ∧
      (j2.winAt e) = { w with tag := go.setWidth 16 } ∧ (∀ k, k ≠ e → j2.copiesOf k = j.copiesOf k ∧ j2.winAt k = j.winAt k) ∧
      j2.a = j.a ∧ j2.c = j.c) ∧
    ((j.copiesOf e).length < 4 → j.goWaits c f = false → s.copyCode c j w go ≠ 0 → ∃ j2,
      exec (.copyGo c e go) s = .next (s.setJob c j2) ∧
      j2.copiesOf e = j.copiesOf e ∧ j2.winAt e = { w with
        err := BitVec.ofNat 8 (s.copyCode c j w go), rej := if w.rej + 1 ≤ 255 then w.rej + 1 else 255 }) ∧
    (∀ (n : Fin 4) (x : W64), ∃ j2, s.windowStore c j (64 * e.val + 8 * n.val) x = some j2 ∧
      j2.windowLoad (64 * e.val + 8 * n.val) = x ∧ ∀ m : Fin 4, m ≠ n →
        j2.windowLoad (64 * e.val + 8 * m.val) = j.windowLoad (64 * e.val + 8 * m.val)) ∧
    j.windowLoad (64 * e.val + 0x20) = 0 ∧ (w.rej ≤ 255 → (j.statWord e).toNat / 65536 % 65536 = w.tag.toNat ∧
      (j.statWord e).toNat / 256 % 256 = w.err.toNat)) ∧
  (∀ (s : State) (c : CoreId) (j : Job) (w : CmdWin) (go : W64),
    let len := w.cmd[2].toNat / 2 ^ 40
    let lines := w.cmd[2].toNat / 2 ^ 24 % 2 ^ 16
    let bar := w.cmd[2].toNat % 2 ^ 21
    (len = 0 ∨ lines = 0 ∨ 2 ^ 32 ≤ len * lines → s.copyCode c j w go = 1) ∧
    (len ≠ 0 → lines ≠ 0 → len * lines < 2 ^ 32 → (bar % 32 ≠ 0 ∨ s.rowUsable c bar = false) → s.copyCode c j w go = 2) ∧
    (len ≠ 0 → lines ≠ 0 → len * lines < 2 ^ 32 → bar % 32 = 0 → s.rowUsable c bar = true →
      (w.cmd[2].toNat / 2 ^ 21 % 8 ≠ 0 ∨ w.cmd[3].toNat % 2 ^ 10 ≠ 0 ∨ 2 ^ 16 ≤ go.toNat) → s.copyCode c j w go = 3))

/-- R196, R303, R304, R305, R472: the oldest command of a job on an engine translates all its lines, of each the source
before the destination (log 84), and then starts; one that was queued behind another does not start while a page fault,
a W wait or the stall wire holds the job, but one that finds its engine free does (log 85); one that finds no
translation walks for it, and one that a line's translation forbids gives A its fault. A burst performs in the core's
turn, at one point of time (log 34), and with it the turn goes on: one of a line from a scratchpad to a scratchpad moves
its bytes. A command at its end adds its bytes once to its barrier and leaves the queue; before its end it only
advances. A takes a command's fault with its cause and address at its next boundary. -/
def Obligations.CopyEngines : Prop :=
  ∀ (s : State) (c : CoreId) (e : CopyId) (j : Job) (x : CopyCmd), s.job c = some j → j.headCopy e = some x →
    let f := copyFields x.cmd
    let places : List (Acc4 × Int) := (List.range f.lines).flatMap fun k =>
      (if f.srcl then [] else (endPages ((f.src : Int) + (k : Int) * f.sstride) f.len).map fun a => (Acc4.read, a))
        ++ if f.dstl then [] else (endPages ((f.dst : Int) + (k : Int) * f.dstride) f.len).map fun a => (Acc4.write, a)
    let fails := fun (k : Cause) (va : Nat) =>
      (.next (s.setJob c { j with a := { j.a with copyFault := some { e := e, cause := k, addr := va } } }) : Res)
    (x.started = false → s.copyLive j = true → j.atStop = false → j.copyDenied e = none →
      (x.behind = true → x.begun = false → s.copyHeld c j = false) →
      (∀ l, s.xlAll c j e places x.xl = .ok l → ∃ j2, exec (.copyCommandStart c e) s = .next (s.setJob c j2) ∧
        j2.headCopy e = some { x with xl := l, started := true, begun := true } ∧
        j2.a = j.a ∧ j2.c = j.c ∧ j2.v = j.v ∧ j2.m = j.m) ∧
      (∀ k va, s.xlAll c j e places x.xl = .fault k va → exec (.copyCommandStart c e) s = fails k va) ∧
      (∀ a va l, s.xlAll c j e places x.xl = .miss a va l → j.copyPage e va = none → exec (.copyCommandStart c e) s = .next
        ((s.setJob c (j.setHead e { x with xl := l })).needWalk (coreClu c) j.part j.ctx va
          (.copy c e (if a = .write then 5 else 4))))) ∧
    (x.started = false → s.copyLive j = true → j.atStop = false →
      ∀ k va, j.copyDenied e = some (k, va) → exec (.copyCommandStart c e) s = fails k va) ∧
    (x.behind = true → x.begun = false → j.copyDenied e = none → s.copyHeld c j = true →
      exec (.copyCommandStart c e) s = .next s) ∧
    (x.started = true ∨ s.copyLive j = false ∨ j.atStop = true → exec (.copyCommandStart c e) s = .next s) ∧
    (s.copyTurn (coreClu c) e = some c → ∃ t : State, t.mem = s.mem ∧ t.lines = s.lines ∧ t.cores = s.cores ∧
      (∀ k, t.card (coreClu c) k = s.card (coreClu c) k) ∧
      exec (.copyBurstComplete c e) s = .next (t.burst c j e x) ∧
      (f.srcl = true → f.dstl = true → f.lines = 1 → x.cur < f.len → f.src + f.len ≤ 0x200000 → f.dst + f.len ≤ 0x200000 →
        x.srcFmt = x.dstFmt → x.peer = none → (∀ b, t.yieldsAt c b = false) →
        let n := Min.min 4096 (f.len - x.cur)
        t.burst c j e x = (t.scrWrite c (f.dst + x.cur) (t.scrRead c (f.src + x.cur) n)).burstDone c j e x f n)) ∧
    (s.copyTurn (coreClu c) e ≠ some c → exec (.copyBurstComplete c e) s = .next s) ∧
    (∀ n, f.len * f.lines ≤ x.cur + n → ∃ (j2 : Job) (t : State), s.burstDone c j e x f n = (t.barApply c f.bar (f.len * f.lines)).setJob c j2 ∧
      j2.copiesOf e = (j.copiesOf e).tail ∧ t.mem = s.mem ∧ (∀ d, (t.core d).scr = (s.core d).scr) ∧
      ((t.cluster (coreClu c)).served[e.val]).val = c.val % 4 ∧ (t.cluster (coreClu c)).serving[e.val] = none) ∧
    (∀ n, x.cur + n < f.len * f.lines → ∃ (j2 : Job) (t : State), s.burstDone c j e x f n = t.setJob c j2 ∧
      j2.headCopy e = some { x with cur := x.cur + n, peer := none } ∧ t.mem = s.mem ∧ (∀ d, (t.core d).scr = (s.core d).scr) ∧
      ((t.cluster (coreClu c)).served[e.val]).val = c.val % 4 ∧ (t.cluster (coreClu c)).serving[e.val] = none) ∧
    (∀ g, j.a.copyFault = some g → j.copyDue = true → ∃ j2, exec (.copyFaultTrap c) s = .next (s.setJob c j2) ∧
      (∀ y m, j2.reg y m = j.reg y m) ∧ j2.raised = j.raised ++ [
        { eng := .a, cause := g.cause, val := BitVec.ofNat 32 g.addr, pc := j.a.pc, classC := causeClass g.cause = .c, addr := g.addr }])

/-- R285, R287, R288, R290: a compared command issues no earlier than 8 cycles after the primary reached it, once the
checker has made every step before it, its values are there and the copies agree; where they disagree a third run begins
at the last boundary's checkpoint, which takes 4 cycles to restore and one for each instruction of the span. A third run
that agrees with a copy gives its state to the primary and the checker, lets the command issue and counts one fault
masked. With three different states the core is quarantined and DIVERGENCE_UNRESOLVED is raised. A, V and M are as they
were. That the third run of a digest leaves a primary that it agrees with as it stands, with the checker taking up the
steps since, and makes a wrong primary's steps since the digest again, is the model's choice (log 56), as is the step of
an instruction that issued before the span, which costs no cycle (log 57). -/
def Obligations.Comparison : Prop :=
  ∀ (s : State) (c : CoreId) (j : Job), s.job c = some j → s.live j.ctx = true →
    (∀ x i, j.c.cmp = some x → x.agreed = false → j.c.third = none → j.c.trail = [] → x.reach + 8 ≤ j.cyc →
      s.instrAt c j j.c.arch.pc = some i → unready s c j i = none →
      (j.agrees i = true → exec (.comparedCommandIssue c) s = .next { s.setJob c
        { j with c := { j.c with cmp := some { x with agreed := true }, acted := false } } with
          agenda := .eng c .c :: s.agenda }) ∧
      (j.agrees i = false → ∃ (j2 : Job) (tr : ThirdRun), exec (.comparedCommandIssue c) s = .next (s.setJob c j2) ∧ j2.c.third = some tr ∧
        tr.arch = j.c.ckpt ∧ tr.todo = j.c.span ∧ tr.ins = j.c.spanIn ∧ tr.command = true ∧ j2.c.arch = j.c.arch ∧
        j2.c.chk = j.c.chk ∧ j2.a = j.a ∧ j2.v = j.v ∧ j2.m = j.m)) ∧
    (∀ x, j.c.cmp = some x → j.cyc < x.reach + 8 ∨ j.c.trail ≠ [] → exec (.comparedCommandIssue c) s = .next s) ∧
    (∀ i, j.c.chk = j.c.arch → j.agrees i = true) ∧
    (∀ tr, j.c.third = some tr →
      (tr.over = false → exec (.thirdRunEnd c) s = .next s) ∧
      (∀ fetch fields cyc,
        (tr.wait ≠ 0 → (∀ st l, tr.todo = st :: l → st.tail = false) →
          (j.c.tick fetch fields cyc).third = some { tr with wait := tr.wait - 1 }) ∧
        (∀ st l, tr.todo = st :: l → tr.wait = 0 ∨ st.tail = true → ∃ y, (j.c.tick fetch fields cyc).third = some y ∧
          y.wait = tr.wait - 1 ∧ y.todo = l ∧ (y.arch, y.ins) = CArch.follow fetch fields st (tr.arch, tr.ins))) ∧
      (tr.over = true → tr.command = true → tr.arch = j.c.arch ∨ tr.arch = j.c.chk → ∃ (t : State) (j2 : Job),
        exec (.thirdRunEnd c) s = .next t ∧ t.job c = some j2 ∧ j2.c.arch = tr.arch ∧ j2.c.chk = tr.arch ∧ j2.c.ckpt = tr.arch ∧
        j2.c.third = none ∧ j2.c.span = [] ∧ j2.a = j.a ∧ j2.v = j.v ∧ j2.m = j.m ∧
        (∀ x, j.c.cmp = some x → j2.c.cmp = some { x with agreed := true } ∧ t.agenda = .eng c .c :: s.agenda) ∧
        (∀ x, s.card j.cluster j.slot = some x → t.card j.cluster j.slot = some { x with faults := x.faults + 1 })) ∧
      (tr.over = true → tr.command = false → tr.arch = j.c.primary tr →
        ∃ t : State, exec (.thirdRunEnd c) s = .next (t.setJob c { j with c := { j.c with
            chk := tr.arch, chkIn := j.c.later, digest := none, third := none } }) ∧
          t.cores = s.cores ∧
          (∀ x, s.card j.cluster j.slot = some x → t.card j.cluster j.slot = some { x with faults := x.faults + 1 })) ∧
      (tr.over = true → tr.command = false → tr.arch ≠ j.c.primary tr → tr.arch = j.c.chk →
        let y := j.c.trail.foldl (fun x st => CArch.follow (s.instrAt c j) (fieldsOf j) st x) (tr.arch, j.c.later)
        ∃ (t : State) (j2 : Job), exec (.thirdRunEnd c) s = .next t ∧ t.job c = some j2 ∧ j2.c.arch = y.1 ∧ j2.c.chk = y.1 ∧
          j2.c.third = none ∧ j2.a = j.a ∧ j2.v = j.v ∧ j2.m = j.m) ∧
      (tr.over = true → j.c.resolved tr = false → ∃ (t : State) (j2 : Job), exec (.thirdRunEnd c) s = .next (State.resolveTraps t c) ∧
        (t.core c).quarantined = true ∧ t.job c = some j2 ∧ j2.c.arch = j.c.arch ∧ j2.a = j.a ∧ j2.v = j.v ∧ j2.m = j.m ∧
        j2.raised = j.raised ++ [{ eng := .c, cause := .divergenceUnresolved, val := j.c.arch.pc.setWidth 32, pc := j.c.arch.pc
                                   classC := causeClass .divergenceUnresolved = .c, addr := 0 }]))

/-- R142, R149, R356, R404, R432, R433, R434: a scrub that corrects a row demotes it by two grades, unless it yields to
a timed access; one that corrects a line or a frame enters it in its fast set, and is counted against the frame; a scrub
of a frame waits for the host allowance; a row that is lost with no job to stop for it is counted. A fault in a register
of C, or in a cell of its control path, strikes one copy only; one in a cell of the memory, the cache, an accumulator or
a register file that correction masks changes no contents; one in the epilogue, the store path or an address adder stays
until a check meets it. R455: a core reset empties the core's TLB and side cache, starts its self-test and leaves the
other memory alone where no job runs on the core; at the end of the test the core takes jobs again, and a quarantine
ends only where every test has passed. -/
def Obligations.FaultsAndCoreResets : Prop :=
  (∀ (s : State) (c : CoreId) (b : Fin 32) (n : Nat) (r : Fin 32) (x : W32) (a : BitVec 21) (j : Job),
    (∀ u, exec (.scrubRead u .clean) s = .next (match u with
      | .frame _ => if 8 ≤ s.hostAllow then s.meterBlock none else s
      | _ => s)) ∧
    (s.yieldsAt c (b.val * 65536) = false → ((s.demote c b.val n).core c).belowFloor 14 = false →
      exec (.scrubRead (.row c b n) .corrected) s = .next (s.demote c b.val n)) ∧
    (∀ e, s.yieldsAt c (b.val * 65536) = true → exec (.scrubRead (.row c b n) e) s = .next s) ∧
    (∀ e, s.hostAllow < 8 → exec (.scrubRead (.frame n) e) s = .next s) ∧
    ((s.core c).pendDem = [] → (s.core c).mustDefer (s.level c) b.val n (Min.min ((s.core c).grade b.val n + 2) 15) = false →
      s.demote c b.val n = { s.setCore c ((s.core c).applyGrade s.fresh (s.level c) b.val n
        (Min.min ((s.core c).grade b.val n + 2) 15)) with fresh := s.fresh + 1 }) ∧
    (exec (.scrubRead (.line n) .corrected) s = .next (s.fastLine n)) ∧
    (n ∈ (s.fastLine n).fastLines) ∧
    (8 ≤ s.hostAllow → ∃ t, exec (.scrubRead (.frame n) .corrected) s = .next t ∧ n ∈ t.fastFrames ∧
      SMap.get 0 t.frameErrs n = SMap.get 0 s.frameErrs n + 1 ∧ t.mem = s.mem) ∧
    (∀ p q, s.protector c p q = none → (s.rowLost c p q).rowsLost = s.rowsLost + 1 ∧ (s.rowLost c p q).mem = s.mem) ∧
    (8 ≤ s.hostAllow → ∃ t, exec (.scrubRead (.frame n) .uncorrectable) s = .next t ∧ n ∈ t.badFrames ∧ t.mem = s.mem ∧
      t.lines = s.lines) ∧
    (s.job c = some j →
      (∃ j2, exec (.singleFault (.checkerC c r x)) s = .next (s.setJob c j2) ∧ j2.c.arch = j.c.arch ∧ j2.c.third = j.c.third ∧
        j2.c.chk = if j.prof = 0 then flipReg r x j.c.chk else j.c.chk) ∧
      (∃ j2, exec (.singleFault (.thirdC c r x)) s = .next (s.setJob c j2) ∧ j2.c.arch = j.c.arch ∧ j2.c.chk = j.c.chk ∧
        j2.c.third = j.c.third.map fun t => { t with arch := flipReg r x t.arch }) ∧
      (∃ j2, exec (.singleFault (.primaryC c r x)) s = .next (s.setJob c j2) ∧ j2.c.arch = flipReg r x j.c.arch ∧
        j2.c.chk = j.c.chk ∧ j2.c.third = j.c.third)) ∧
    (∀ (e : Eng) (k : Fin 8) (m : Fin 4096), exec (.singleFault (.accCell c k m)) s = .next s ∧
      exec (.singleFault (.regCell c e r)) s = .next s) ∧
    (∀ f ∈ ([.epilogue c, .storePath c, .addressAdder c] : List FaultKind), exec (.singleFault f) s = .next
      (s.setCore c { s.core c with latent := (s.core c).latent ++ [f] })) ∧
    (∀ k, s.job c = some j → ∃ j2, exec (.singleFault (.controlC c 0 k)) s = .next (s.setJob c j2) ∧
      j2.c.arch = strikeCell k j.c.arch ∧ j2.c.chk = j.c.chk ∧ j2.c.third = j.c.third) ∧
    (s.job c = none → ∃ t, exec (.singleFault (.scratchCell c a)) s = .next t ∧ t.mem = s.mem ∧ t.lines = s.lines) ∧
    (∃ t, exec (.singleFault (.lineCell n)) s = .next t ∧ t.lines = s.lines ∧ t.mem = s.mem ∧ t.cores = s.cores) ∧
    (∃ t, exec (.singleFault (.frameCell n)) s = .next t ∧ t.lines = s.lines ∧ t.mem = s.mem ∧ t.cores = s.cores)) ∧
  (∀ (s : State) (c : CoreId),
    (s.job c = none → ∃ t, exec (.corerst c) s = .next t ∧ (t.core c).tlb = [] ∧ (t.core c).side = [] ∧ t.job c = none ∧
      (t.core c).selfTest = true ∧ (t.core c).grades = (s.core c).grades ∧ (t.core c).quarantined = (s.core c).quarantined ∧
      (∀ d, d ≠ c → t.core d = s.core d) ∧ t.mem = s.mem ∧ t.lines = s.lines) ∧
    (∀ passed, (s.core c).selfTest = true → ∃ t, exec (.coreSelfTestEnd c passed) s = .next t ∧ (t.core c).selfTest = false ∧
      (t.core c).quarantined = ((s.core c).quarantined && !(decide (passed = 15))) ∧ (∀ d, d ≠ c → t.core d = s.core d) ∧
      t.mem = s.mem) ∧
    (∀ passed, (s.core c).selfTest = false → exec (.coreSelfTestEnd c passed) s = .next s))

/-- R352: what the boundary of an interval makes of an island's account: the increment is the island's share of the pool
by its weight and its distance to the temperature limit, in 16ths; the reserve is refilled first; the balance is at most
four increments; and stretching falls by 4 where nothing calls for it. R348, R352, R356, R363, R397, R461, R462: a
governor interval sets the host allowance anew and gives each context its budget; an evacuation that has run 50 us is
given up and its step stays pending; a droop lengthens cycles until the supply recovers, and counts them; the clears of
a monitor and of the fast set's count. R344, R346, R347, R362: a transition that ends: a step up takes effect on every
core of the island; a step down first moves what stands in rows that the new level loses, and waits while a move yields
to a timed access (R149), unless a protected row would be lost or the level lies below the floor or a demotion is
pending, which leaves it pending; a step to a twin that is not permitted any more is given up, and a twin level that is
not is left for the level of the same clock. The model's choices are the length of a droop, which the end of it leaves
standing (log 84), and the moves at the change of level with a target below the floor given up there (log 67). -/
def Obligations.Governor : Prop :=
  (∀ (i : Island) (pool sum : Nat) (x : IslSense), sum ≠ 0 →
    let f := Min.min (2 * (i.tlim - x.temp)) 16
    let inc := pool * i.weight * f / (16 * sum)
    let refill := Min.min (64 * i.rsvtgt - i.res) (64 * inc)
    let b := i.boundary pool sum x
    b.inc = inc ∧ b.res = i.res + refill ∧
    b.bal = Min.min (i.bal + 64 * inc - refill - 64 * x.ovh) (256 * (inc : Int)) ∧
    (0 ≤ b.bal → x.temp + 1 < i.tlim → b.stretch = i.stretch - 4) ∧
    ((b.bal < 0 ∨ i.tlim ≤ x.temp + 1) → i.flagged = true → b.stretch = Min.min (i.stretch + 4) 12) ∧
    ((b.bal < 0 ∨ i.tlim ≤ x.temp + 1) → i.flagged = false → b.stretch = i.stretch) ∧
    (b.stretch = 12 → b.flagged = false) ∧ b.level = i.level ∧ b.weight = i.weight ∧ b.tlim = i.tlim) ∧
  (∀ (s : State) (i : IslId) (m : Fin 5),
    (∀ sense, (∀ c, s.job c = none) → ∃ t, exec (.governorInterval sense) s = .next t ∧ t.hostAllow = 64 * s.hallow ∧
      (∀ c, (t.ctx c).rem = 64 * (s.ctx c).budget) ∧ ∀ k : IslId,
        let b := (s.island k).boundary s.pool s.sumWeight (sense[k.val])
        (t.island k).bal = b.bal ∧ (t.island k).res = b.res ∧ (t.island k).stretch = b.stretch ∧ (t.island k).flagged = b.flagged ∧
        (t.island k).level = (s.island k).level) ∧
    (∀ n, (s.island i).evacSince = some n → n + 50000 ≤ s.time → ∃ t, exec (.evacuationTimeout i) s = .next t ∧
      (t.island i).step = none ∧ (t.island i).evacSince = none ∧ (t.island i).pendingDown = true ∧
      (t.island i).level = (s.island i).level ∧ t.cores = s.cores) ∧
    (∀ n, (s.island i).evacSince = some n → s.time < n + 50000 → exec (.evacuationTimeout i) s = .next s) ∧
    (∃ t, exec (.droopDetect i) s = .next t ∧ (t.island i).droop = true ∧ (t.island i).lengthened = true ∧ t.cores = s.cores ∧
      ((s.island i).droop = false → (t.island i).droopLen = 0)) ∧
    (∀ x : Island, x.tick.cycles = x.cycles + 1 ∧ x.tick.droopLen = x.droopLen + x.droop.toNat ∧ x.tick.level = x.level) ∧
    (∀ d, (s.island i).droop = true → ∃ t, exec (.droopRecover i d) s = .next t ∧ (t.island i).droop = false ∧
      (t.island i).stretch = (s.island i).stretch ∧ (t.island i).droopLen = (s.island i).droopLen ∧ t.cores = s.cores ∧
      ((s.monitors[1]).sel = 15 ∨ (s.monitors[1]).sel = i.val → t.monitors[1] = (s.monitors[1]).take d)) ∧
    (∀ d, (s.island i).droop = false → exec (.droopRecover i d) s = .next s) ∧
    (s.stage = .ready → ∃ t, exec (.monitorClr m) s = .next t ∧
      (s.now = [] → (t.monitors[m.val]).bin = Vector.replicate 16 0) ∧
      (t.monitors[m.val]).sel = (s.monitors[m.val]).sel ∧ (t.monitors[m.val]).edge = (s.monitors[m.val]).edge) ∧
    (s.stage = .ready → exec .fastsetCountClear s = .next { s with fastOut := s.nowFast } ∧ (s.now = [] → s.nowFast = 0)) ∧
    (isTwin (s.island i).level = true → s.twinOk i = false → (s.island i).step = none →
      (s.twinGuard i).island i =
        { s.island i with step := some { target := (s.island i).level + 1, since := s.time } })) ∧
  (∀ (s : State) (i : IslId) (x : LevelStep), (s.island i).step = some x →
    ((isTwin x.target = false ∨ s.twinOk i = true) → (s.island i).level ≤ x.target →
      exec (.levelChange i) s = .next ((s.relevel i x.target).retryPhases i)) ∧
    ((isTwin x.target = false ∨ s.twinOk i = true) → x.target < (s.island i).level → s.refuses i x.target = false →
      s.floorLevel i ≤ x.target → s.pendingDemotion i = false →
      let s1 := s.evacuate i x.target
      exec (.levelChange i) s = .next (if s1.evacWaits i x.target = true then s1 else (s1.relevel i x.target).retryPhases i)) ∧
    ((isTwin x.target = false ∨ s.twinOk i = true) → x.target < (s.island i).level →
      (s.refuses i x.target = true ∨ x.target < s.floorLevel i ∨ s.pendingDemotion i = true) → ∃ t, exec (.levelChange i) s = .next t ∧
        (t.island i).level = (s.island i).level ∧ (t.island i).step = none ∧ (t.island i).pendingDown = true ∧ t.cores = s.cores) ∧
    (isTwin x.target = true → s.twinOk i = false → ∃ t, exec (.levelChange i) s = .next t ∧
      (t.island i).level = (s.island i).level ∧ (t.island i).step = none ∧ t.cores = s.cores) ∧
    (∀ l, (s.relevel i l).island i = { s.island i with level := l, step := none, evacSince := none }))

/-- R373, R376, R377, R378, R401: a walk that ends installs its translation in both levels and frees its place, starts
again where it was killed, waits where a table's block is absent, and posts one page request where it finds no leaf; a
fifth failure in a row denies the page, in C at once for a fetch; a walk of a PREF or an L1OP that finds no leaf posts
none. A stale or unknown answer is counted; a good one ends its request and reaches its owner; that a value with one of
the bits [15:1] set is dropped and counted as a reserved write is the model's choice (log 50). -/
def Obligations.WalksAndAnswers : Prop :=
  ∀ (s : State) (k : CluId) (w : Fin 16) (f : WalkFlight) (p : PartId) (v : W64), (s.cluster k).walks[w.val] = some f →
    (f.killed = true → ∀ q, s.ctxPart f.ctx = some q → ∃ t, exec (.pageWalkEnd k w) s = .next t ∧
      (t.cluster k).walks[w.val] = some { f with killed := false, seq := (s.part q).seq } ∧ t.cores = s.cores) ∧
    (f.killed = false → ∀ e, s.walkTables f.ctx f.va = .leaf e → ∃ t, exec (.pageWalkEnd k w) s = .next t ∧
      (t.cluster k).walks[w.val] = none ∧ e ∈ (t.core f.use.user.1).tlb ∧ e ∈ (t.cluster k).tlb2 ∧ t.mem = s.mem ∧
      (∀ n l, SMap.find s.lines n = some l → ∃ a, SMap.find t.lines n = some { l with age := a }) ∧
      (∀ n, SMap.find s.lines n = none → SMap.find t.lines n = none)) ∧
    (∀ n, f.killed = false → s.walkTables f.ctx f.va = .fill n → exec (.pageWalkEnd k w) s = .next
      (s.needFill { frame := n, ctx := f.ctx, core := some f.use.user.1, quiet := f.use.isProbe })) ∧
    (f.killed = false → f.use.isProbe = true → (∃ x, s.walkTables f.ctx f.va = .stop x) ∨ (∃ x, s.walkTables f.ctx f.va = .bad x) →
      ∃ t, exec (.pageWalkEnd k w) s = .next t ∧ (t.cluster k).walks[w.val] = none ∧ t.parts = s.parts ∧ t.mem = s.mem ∧
        ∀ j, s.job f.use.user.1 = some j → j.ctx = f.ctx →
          t.job f.use.user.1 = some { j with a := { j.a with probed := some (f.va / 4096) } }) ∧
    (∀ cause, f.use.isProbe = false → f.killed = false → s.walkTables f.ctx f.va = .bad cause → ∃ t, exec (.pageWalkEnd k w) s = .next t ∧
      (t.cluster k).walks[w.val] = none ∧ t.mem = s.mem ∧ ∀ j, s.job f.use.user.1 = some j → j.ctx = f.ctx →
        t.job f.use.user.1 = some (j.pageFails f.use.user.2 f.use.kind f.va cause 0)) ∧
    (∀ x, f.use.isProbe = false → f.killed = false → s.walkTables f.ctx f.va = .stop x → ∃ t, exec (.pageWalkEnd k w) s = .next t ∧
      (t.cluster k).walks[w.val] = none ∧ ∀ j, s.job f.use.user.1 = some j → j.ctx = f.ctx → j.pages = [] → ∃ j2,
        t.job f.use.user.1 = some j2 ∧ j2.pages =
          [{ user := f.use.user.2, va := f.va, tag := some (s.pageTag j.part j.ctx), fails := 1, denied := none }]) ∧
    (∀ c u y j, (c, u) = f.use.user → s.job c = some j → j.ctx = f.ctx → j.pages = [y] → y.at_ u f.va = true → y.fails = 4 → ∀ x,
      ∃ j2, (s.walkBad f x).job c = some j2 ∧
        (f.use.kind ≠ 3 → ∃ z, j2.pages = [z] ∧ z.denied = some .pageDenied ∧ z.tag = none ∧ z.user = u) ∧
        (f.use.kind = 3 → ∀ e, u = .eng e → j2.pages = [] ∧
          j2.raised = (j.raiseFetch .pageDenied (BitVec.ofNat 48 f.va)).raised)) ∧
    (∃ t, exec (.shootdownComplete p) s = .next t ∧ ∀ x, x ∈ (t.part p).shoots ↔ x ∈ (s.part p).shoots ∧
      ∃ c ∈ s.partClus p, ∃ g, some g ∈ (s.cluster c).walks.toList ∧ g.seq < x.s) ∧
    (s.stage ≠ .ready → exec (.pageRequestAnswer p v) s = .next s.dropEarly) ∧
    (s.stage = .ready → v.toNat % 2 ^ 16 / 2 ≠ 0 → exec (.pageRequestAnswer p v) s = .next (s.reserved .firmware)) ∧
    (s.stage = .ready → v.toNat % 2 ^ 16 / 2 = 0 →
      ((s.part p).reqs.find? fun r => decide (r.tag = v.toNat / 2 ^ 32) && r.posted) = none →
      exec (.pageRequestAnswer p v) s = .next (s.setPart p { s.part p with late := (s.part p).late + 1 })) ∧
    (∀ r, s.stage = .ready → v.toNat % 2 ^ 16 / 2 = 0 → ((s.part p).reqs.find? fun r => decide (r.tag = v.toNat / 2 ^ 32) && r.posted) = some r →
      (v.toNat / 2 ^ 16 % 2 ^ 16 ≠ s.ctxGen r.ctx →
        exec (.pageRequestAnswer p v) s = .next (s.setPart p { s.part p with late := (s.part p).late + 1 })) ∧
      (v.toNat / 2 ^ 16 % 2 ^ 16 = s.ctxGen r.ctx → exec (.pageRequestAnswer p v) s = .next
        (State.answer (s.setPart p { s.part p with reqs := (s.part p).reqs.filter fun x => decide (x.tag ≠ r.tag) }) r
          (decide (v.toNat % 2 = 1)))))

/-- R406, R408, R411, R415, R416, R434: how a fill ends: one for another context, or without a key, brings nothing; a
block whose data cannot be corrected, or whose frame a scrub has logged, is poisoned with ECC_UE; one that fails its tag
is poisoned and becomes SUSPECT, and at a second failure its context is killed; a good one is installed. The fill is
over then. A frame that firmware assigns is EMPTY and reads as zeros; a destroyed context's slot holds no key, and its
blocks keep their last seal. R410, R411: a reseal of a block that is wholly present, which waits for the host allowance
where no task pays for it, writes its dirty lines to memory, counts its version up by one, and gives it the present key
generation; its lines are clean then. VER 2^28 - 1 exhausts the block. A flush order reseals a block only where a line
of it is dirty. R354, R356: a fill and a reseal that no running task pays for, and that no card has paid for before,
wait for the host allowance. The model's choices are that a reseal waits so and draws for the blocks that it reads and
writes (log 6), that the device's own accesses that wait for blocks go on after each of these, without any of which
nothing more happens (log 45), and that a block that fails its tag when it is EMPTY becomes SUSPECT too. -/
def Obligations.SealedMemory : Prop :=
  (∀ (s : State) (n : Nat) (f : Fill) (r : FillResult),
    let m := s.metaOf n
    let k := (s.ctx f.ctx).key
    (s.fills = [f] → f.frame = n → s.reseals = [] → (f.prepaid = true ∨ (s.taskCore f.payer).isSome = true ∨ 8 ≤ s.hostAllow) →
      (m.ctx.toNat ≠ ctxNum f.ctx ∨ (m.state ≠ 0 ∧ k.cur = none) → ∃ t, exec (.sealFillComplete n r) s = .next (State.ownOn t) ∧
        t.fills = [] ∧ t.lines = s.lines ∧ t.mem = s.mem ∧ t.sealMeta = s.sealMeta ∧ t.recs = s.recs) ∧
      (m.ctx.toNat = ctxNum f.ctx → n < frameCount → n ∉ s.badFrames → m.state = 0 → r = .verified ∨ r = .corrected → s.hasRoom f.ctx n = true →
        (s.makeRooms f.ctx n) = s → ∃ t, exec (.sealFillComplete n r) s = .next (State.ownOn t) ∧ t.fills = [] ∧
          t.lines = (s.install f.ctx n none).lines ∧ t.sealMeta = s.sealMeta ∧ t.mem = s.mem)) ∧
    (s.fills = [f] → f.frame = n → f.prepaid = false → s.taskCore f.payer = none → s.hostAllow < 8 →
      exec (.sealFillComplete n r) s = .next s) ∧
    (s.recs = [] → (∀ e ∈ s.allCards, e.2.2.compDue = none) → s.ownOn = s) ∧
    (m.ctx.toNat = ctxNum f.ctx → n < frameCount → f.frame = n → k.cur.isSome = true → n ∈ s.badFrames →
      fillEnd s f r = .poison .eccUe) ∧
    (m.ctx.toNat = ctxNum f.ctx → n < frameCount → f.frame = n → k.cur.isSome = true → n ∉ s.badFrames →
      (r = .dataUncorrectable → fillEnd s f r = .poison .eccUe) ∧
      (r = .metaUncorrectable → fillEnd s f r = .tagFail) ∧
      (m.state ≠ 0 → r = .tagMismatch → fillEnd s f r = .tagFail) ∧
      (m.state = 0 → r = .verified ∨ r = .corrected → fillEnd s f r = .install) ∧
      (3 < m.state.toNat → r ≠ .dataUncorrectable → fillEnd s f r = .tagFail) ∧
      (1 ≤ m.state.toNat ∧ m.state.toNat ≤ 3 → r = .verified ∨ r = .corrected → fillEnd s f r =
        if m.kgen.toNat = k.curGen ∨ (k.prev.isSome = true ∧ m.kgen.toNat = k.prevGen) then .install else .tagFail)) ∧
    (m.state ≠ 3 → (s.tagFailed n).sealMeta = SMap.set Meta.init s.sealMeta n { m with state := 3 }) ∧
    (∀ c, m.state = 3 → ctxOfNum m.ctx.toNat = some c → s.tagFailed n = (s.sealEvent 3 m.ctx.toNat n).kill c) ∧
    (∀ ctx, n ∉ s.badFrames → n < frameCount → s.Tidy → ∃ t, exec (.frameAssign n ctx) s = .next (State.ownOn t) ∧
      (t.metaOf n).ctx = ctx ∧ (t.metaOf n).state = 0 ∧ (∀ a, a / 4096 = n → t.mem.read a = 0) ∧
      (∀ a, a / 4096 ≠ n → a < hostBase → t.mem.read a = s.mem.read a) ∧ t.cores = s.cores) ∧
    (∀ ctx, n ∈ s.badFrames ∨ frameCount ≤ n → exec (.frameAssign n ctx) s = .next s) ∧
    (∀ c, ∃ t, exec (.keySlotErase c) s = .next t ∧ (t.ctx c).key = KeySlot.init ∧ t.mem = s.mem ∧ t.sealMeta = s.sealMeta ∧
      (∀ d, d ≠ c → t.ctx d = s.ctx d))) ∧
  (∀ (s : State) (n : Nat) (r : Reseal),
    let m := s.metaOf n
    (∀ c key found, s.Tidy → s.reseals = [r] → r.frame = n → r.sweep = false → r.victim = none → (s.blockLines n).length = 32 →
      ctxOfNum m.ctx.toNat = some c → (s.ctx c).key.cur = some key → (s.blockWriter n).isSome = true ∨ 8 ≤ s.hostAllow →
      ∃ t, exec (.resealComplete n found) s = .next (State.ownOn t) ∧
        ((s.ctx c).key.sweep = false → (t.metaOf n).ver.toNat ≠ 2 ^ 28 - 2 ^ 16 → t.reseals = []) ∧
        (t.metaOf n).kgen = BitVec.ofNat 8 (s.ctx c).key.curGen ∧
        (t.metaOf n).ver = BitVec.ofNat 28 (if m.state = 0 then 1 else m.ver.toNat + 1) ∧ (t.metaOf n).ctx = m.ctx ∧
        ((t.metaOf n).state = 1 ∨ (t.metaOf n).state = 2) ∧
        ((t.metaOf n).state = 2 ↔ (if m.state = 0 then 1 else m.ver.toNat + 1) = 2 ^ 28 - 1)) ∧
    (∀ found, s.reseals = [r] → r.frame = n → s.blockWriter n = none →
      s.hostAllow < (if (s.blockLines n).length = 32 then 8 else 16) →
      (∃ c, ctxOfNum m.ctx.toNat = some c ∧ (s.ctx c).key.cur.isSome = true) → exec (.resealComplete n found) s = .next s) ∧
    (s.Tidy → ∀ e, s.blockLines n = [e] → e.2.dirty = true →
      (s.writeBlock n none).mem.readBytes (e.1 * 128) 128 = bytesOfRow e.2.data) ∧
    ((s.blockLines n).any (fun e => e.2.dirty) = true → exec (.flushOrder n) s = .next (s.needReseal n none false)) ∧
    ((s.blockLines n).any (fun e => e.2.dirty) = false → exec (.flushOrder n) s = .next s))

/-- R337, R367, R418, R456: a host read of device memory is admitted for the context that owns the frame, in RUN and
over a stream keyed for its TDI, which takes an IDE key that KEYSET has installed; then it returns the line's 64 bytes,
with the poison indicator of a poisoned line; one that is not admitted returns all ones with poison and counts an error,
and a write is dropped so. A snoop of host memory writes a modified line back, once the host allowance covers it (R354,
R356), and leaves it shared or gone. -/
def Obligations.HostAccesses : Prop :=
  ∀ (s : State) (q : HostReq) (a : Nat) (x : BitVec 512), s.stage = .ready → a % 64 = 0 →
    let out := fun (t : State) => t.outbox
    (s.hostAdmit q a = none → (∃ t, exec (.hostMemRead q a) s = .next t ∧
        out t = out (s.irq none 64) ++ [.hostData a (List.replicate 64 0xFF) true] ∧ t.pf0err = s.pf0err + 1 ∧ t.mem = s.mem ∧ t.lines = s.lines) ∧
      exec (.hostMemWrite q a x) s = .next s.pf0Error) ∧
    (∀ c l, s.hostAdmit q a = some c → SMap.find s.lines (a / 128) = some l → ∃ t, exec (.hostMemRead q a) s = .next t ∧
      out t = out s ++ [.hostData a (lineBytes l.data (a % 128) 64) l.poison.isSome] ∧ t.mem = s.mem ∧ t.cores = s.cores) ∧
    (∀ c, s.hostAdmit q a = some c → (s.writeGate c a = .ready ∨ ∃ n, s.writeGate c a = .snoop n) →
      exec (.hostMemWrite q a x) s = .next (s.commit c none a (bytesOfNat 64 x.toNat))) ∧
    (∀ c cause, s.hostAdmit q a = some c → s.writeGate c a = .fail cause → exec (.hostMemWrite q a x) s = .next s.pf0Error) ∧
    (∀ c, s.hostAdmit q a = some c → (s.metaOf (a / 4096)).ctx.toNat = q.vf.val ∧ q.keyed = true ∧
      (s.ctx c).tdi = .run ∧ (s.ctx c).key.ide.isSome = true) ∧
    (∀ n l k, hostBase ≤ n * 128 → SMap.find s.lines n = some l → l.dirty = true → s.hostAllow < 8 →
      exec (.hostSnoop n k) s = .next s) ∧
    (∀ n l, hostBase ≤ n * 128 → SMap.find s.lines n = some l → (l.dirty = true → 8 ≤ s.hostAllow) → ∃ t,
      exec (.hostSnoop n .share) s = .next t ∧
      SMap.find t.lines n = some { l with dirty := false, mesi := .s } ∧
      (l.dirty = true → t.mem = s.mem.writeBytes (n * 128) (bytesOfRow l.data) ∧ out t = out s ++ [.writeBack n]) ∧
      (l.dirty = false → t.mem = s.mem ∧ out t = out s)) ∧
    (∀ n l, hostBase ≤ n * 128 → SMap.find s.lines n = some l → l.dirty = true → 8 ≤ s.hostAllow → ∃ t,
      exec (.hostSnoop n (.invalidate none)) s = .next t ∧ t.lines = s.lines.erase n ∧
      t.mem = s.mem.writeBytes (n * 128) (bytesOfRow l.data) ∧ out t = out s ++ [.writeBack n]) ∧
    (∀ n, n ∈ s.backInv → ∃ t, exec (.backInvalidateResponse n) s = .next (State.ownOn t) ∧ n ∉ t.backInv ∧ n ∉ t.snoop ∧
      t.mem = s.mem ∧ t.lines = s.lines ∧ t.cores = s.cores) ∧
    (∀ n, n ∉ s.backInv → exec (.backInvalidateResponse n) s = .next s)

/-- R388, R389, R390, R456: a doorbell sets TAIL of the queue that it names, and an idle queue with packets fetches; one
that names no queue or sets a reserved bit is dropped and counted, and so is one before READY. A reset of a queue leaves
it IDLE, sets HEAD and abandons what its fetcher held; cards held for castling stay. -/
def Obligations.Doorbells : Prop :=
  ∀ (s : State) (c : CtxId) (v : W64) (q : QueueId),
    (s.stage ≠ .ready → exec (.doorbell c v) s = .next s.dropEarly) ∧
    (s.Tidy → s.stage = .ready → (s.ctxPart c).isSome = true → v.toNat < 2 ^ 22 → v.toNat / 2 ^ 14 % 4 = 0 →
      v.toNat / 2 ^ 16 < queueCount c → ∃ t, exec (.doorbell c v) s = .next t ∧
        (t.queue c (v.toNat / 2 ^ 16)).tail = v.toNat % 2 ^ 14 ∧
        (t.queue c (v.toNat / 2 ^ 16)).head = (s.queue c (v.toNat / 2 ^ 16)).head ∧
        ((s.queue c (v.toNat / 2 ^ 16)).state = .idle → (s.queue c (v.toNat / 2 ^ 16)).levels = [] →
          (s.queue c (v.toNat / 2 ^ 16)).stopping = false →
          (t.queue c (v.toNat / 2 ^ 16)).state = if (t.queue c (v.toNat / 2 ^ 16)).empty then .idle else .fetching) ∧
        t.cores = s.cores ∧ t.mem = s.mem) ∧
    (s.stage = .ready → (s.ctxPart c).isSome = true →
      2 ^ 22 ≤ v.toNat ∨ v.toNat / 2 ^ 14 % 4 ≠ 0 ∨ queueCount c ≤ v.toNat / 2 ^ 16 % 2 ^ 6 →
      exec (.doorbell c v) s = .next (s.reserved (.queues c))) ∧
    (s.stage = .ready → s.ctxPart c = none → exec (.doorbell c v) s = .next s.pf0Error) ∧
    (s.stage ≠ .ready → exec (.qctlReset c q v) s = .next s.dropEarly) ∧
    (s.Tidy → s.stage = .ready → q.val < queueCount c → v.toNat / 2 ^ 63 = 1 → ∃ t, exec (.qctlReset c q v) s = .next t ∧
      (t.queue c q.val).head = v.toNat % 2 ^ 32 ∧ (t.queue c q.val).held = none ∧ (t.queue c q.val).stale = 0 ∧
      (t.queue c q.val).opsLeft = 0 ∧ (t.queue c q.val).state = .idle ∧
      ((s.queue c q.val).state ≠ .parked → (t.queue c q.val).levels = []) ∧
      (t.queue c q.val).pending = (s.queue c q.val).pending ∧ t.cores = s.cores)

/-- R389, R391, R392, R393, R399: what the fetcher does with a packet in its place whose sequence word is right: NOP
advances the queue; a wrong packet halts it with code 2 and the offset of its first wrong field; INDIRECT goes on in the
buffer, a fifth level halts with code 3 and an overlap with code 4; SIGNAL and WAIT are taken in hand. With a wrong
sequence word the packet is read again, and the eighth stale read parks the queue. The read of a packet that stands in
host memory draws on the host allowance (R354), and a fetch that succeeds counts no failures any more. R395: a SIGNAL or
WAIT whose semaphore is not mapped or whose counter lies outside its function's window halts the queue; that this is
code 7 is the model's choice (log 61). R307, R309, R392, R394, R397: a SIGNAL performs when every earlier operator of
its queue has retired: its bits are ORed and then its counter is set, before what else the same instant does to them; a
WAIT ends when the test of R309 passes; an operator castles when the one before it has retired: ACTIVE becomes SHADOW,
and its cards are queued, or wait for the quota; where the same instant has suspended the waiting queue the castling
still comes, and the queue stops after it. -/
def Obligations.PacketsAndCastling : Prop :=
  (∀ (s : State) (c : CtxId) (q : QueueId) (bs : List Byte),
    let u := s.queue c q.val
    let t := (s.devDrawn c u.packetVa 1).setQueue c q.val { u with fails := [] }
    let v := t.queue c q.val
    (s.Tidy → u.stopping = false → v = { u with fails := [] }) ∧ t.cores = s.cores ∧ t.mem = s.mem ∧
    (u.fetches = true → s.live c = true → (u.levels = [] → u.empty = false) → s.devRead c u.packetVa 1 = .data bs →
    (packFld bs 0 4 = u.expected →
      (packetOf bs = .ok .nop → exec (.nopPacket c q) s = .next (t.setQueue c q.val v.advance)) ∧
      (∀ o, packetOf bs = .error o → exec (.badpacket c q) s = .next (t.queueHalt c q.val 2 v.packetVa o bs)) ∧
      (∀ n a, packetOf bs = .ok (.indirect n a) → v.levels.length ≠ 4 → v.loops a (64 * n) = false →
        exec (.indirect c q) s = .next (t.setQueue c q.val
          { v with levels := { addr := a, count := n, next := 0 } :: v.levels, stale := 0 })) ∧
      (∀ n a, packetOf bs = .ok (.indirect n a) → v.levels.length = 4 →
        exec (.indirect c q) s = .next (t.queueHalt c q.val 3 v.packetVa 0 bs)) ∧
      (∀ n a, packetOf bs = .ok (.indirect n a) → v.levels.length ≠ 4 → v.loops a (64 * n) = true →
        exec (.indirect c q) s = .next (t.queueHalt c q.val 4 v.packetVa 0 bs)) ∧
      (∀ sem ctr, t.packetNames c bs = .ok (sem, ctr) →
        let h : QHeld := { wait := true, bits := BitVec.ofNat 64 (packFld bs 16 8), sem, ctr, value := packFld bs 32 2 }
        (packetOf bs = .ok .wait → exec (.wait c q) s = .next
          (t.setQueue c q.val { v with held := some h, stale := 0, state := .waiting })) ∧
        (packetOf bs = .ok .signal → exec (.signal c q) s = .next
          (t.setQueue c q.val { v with held := some { h with wait := false }, stale := 0 }))) ∧
      (∀ o, t.packetNames c bs = .error o →
        (packetOf bs = .ok .wait → exec (.wait c q) s = .next (t.queueHalt c q.val 7 v.packetVa o bs)) ∧
        (packetOf bs = .ok .signal → exec (.signal c q) s = .next (t.queueHalt c q.val 7 v.packetVa o bs))) ∧
      (∀ n a, packetOf bs = .ok (.operators n a) → u.pending = none → exec (.operators c q) s = .next
        ((t.setQueue c q.val { v with opsLeft := n, opsAddr := a, stale := 0 }).expand c q.val))) ∧
    (packFld bs 0 4 ≠ u.expected →
      (v.stale < 7 → exec (.staleReread c q) s = .next (t.setQueue c q.val { v with stale := v.stale + 1 })) ∧
      (7 ≤ v.stale → ∃ t2, exec (.staleReread c q) s = .next (t2.setQueue c q.val
        { t2.queue c q.val with state := .parked, stale := 0, stalecnt := satTo 255 ((t2.queue c q.val).stalecnt + 1) }) ∧
        t2 = t.queueError c q.val 1 v.levels.length v.expected v.packetVa 0 bs)))) ∧
  (∀ (s : State) (c : CtxId) (q : QueueId),
    let u := s.queue c q.val
    (∀ h sem ctr, u.held = some h → h.wait = false → u.state = .fetching → u.pending = none → s.queueBusy c q.val = false →
      s.live c = true → h.sem = some sem → h.ctr = some ctr → exec (.signalPacketPerform c q) s = .next
        (((s.semPacket sem h.bits).ctrPacket ctr h.value).setQueue c q.val u.advance)) ∧
    (∀ n x k, s.now = [] → (s.semPacket n x) = s.semSet n (s.semGet n ||| x) ∧ s.ctrPacket n k = s.ctrSet n k) ∧
    (∀ h, u.held = some h → s.queueBusy c q.val = true → exec (.signalPacketPerform c q) s = .next s) ∧
    (∀ h, u.held = some h → h.wait = true → u.state = .waiting → s.waitPasses h.ctr h.sem h.bits = true →
      exec (.waitPacketRelease c q) s = .next (s.setQueue c q.val u.advance)) ∧
    (∀ h, u.held = some h → s.waitPasses h.ctr h.sem h.bits = false → exec (.waitPacketRelease c q) s = .next s) ∧
    (∀ p, u.pending = some p → p.castled = false → u.state = .waiting ∨ (u.opsLeft = 0 ∧ u.state ≠ .suspended) →
      s.queueBusy c q.val = false → s.live c = true →
      exec (.castling c q) s = .next ((s.setQueue c q.val { u with active := u.shadow }).queueCards c q.val p)) ∧
    (∀ p, u.pending = some p → p.castled = false → s.justSuspended c q.val = true → s.queueBusy c q.val = false → s.live c = true →
      let s1 := (s.setQueue c q.val { u with state := .waiting, active := u.shadow }).queueCards c q.val p
      exec (.castling c q) s = .next (s1.setQueue c q.val (s1.queue c q.val).stop)) ∧
    (∀ p, u.pending = some p → s.queueBusy c q.val = true → exec (.castling c q) s = .next s) ∧
    (∀ p, u.pending = some p → p.castled = true → u.state = .waiting ∨ (u.opsLeft = 0 ∧ u.state ≠ .suspended) → s.live c = true →
      exec (.quotaWaitRelease c q) s = .next (s.queueCards c q.val p)) ∧
    (∀ p, s.overQuota c ((s.ctx c).ncards + p.cards.length) = true →
      s.queueCards c q.val p = s.setQueue c q.val { u with pending := some { p with castled := true } }))

/-- R384, R385: the states of a TDI: lock, start and stop move it from CONFIG_UNLOCKED to CONFIG_LOCKED to RUN and back,
and a TDI that leaves RUN, by a stop, an error or a reset of its function, kills its context. R458: the SPDM responder:
each message answers where its condition holds and answers ERROR, changing nothing else, where it does not; a session is
secure from a FINISH that verifies to its end; KEYSET installs a key within a secure session only, and not during a
sweep. The order of the messages is the model's reading of the protocol (log 15). -/
def Obligations.FunctionsAndSessions : Prop :=
  (∀ (s : State) (v : Fin 384),
    let c := vfCtx v
    let moved := fun (t : Tdi) => s.setCtx c { s.ctx c with tdi := t }
    ((s.ctx c).tdi = .unlocked → exec (.tdispMessage v .lock) s = .next (moved .locked)) ∧
    ((s.ctx c).tdi = .locked → exec (.tdispMessage v .start) s = .next (moved .run)) ∧
    ((s.ctx c).tdi ≠ .unlocked → exec (.tdispMessage v .lock) s = .next s) ∧
    ((s.ctx c).tdi ≠ .locked → exec (.tdispMessage v .start) s = .next s) ∧
    ((s.ctx c).tdi = .run → (s.ctx c).killed = false →
      exec (.tdispMessage v .stop) s = .next ((moved .unlocked).kill c) ∧ exec (.tdiLeaveRun v) s = .next ((moved .error).kill c) ∧
      exec (.functionLevelReset v) s = .next ((moved .error).kill c)) ∧
    ((s.ctx c).tdi = .run → (s.ctx c).killed = true →
      exec (.tdispMessage v .stop) s = .next ((moved .unlocked).vfIrq c 3) ∧ exec (.tdiLeaveRun v) s = .next ((moved .error).vfIrq c 3)) ∧
    ((s.ctx c).tdi ≠ .unlocked → (s.ctx c).killed = false → exec (.functionLevelReset v) s = .next ((moved .error).kill c)) ∧
    ((s.ctx c).tdi = .unlocked → (s.ctx c).killed = false → exec (.functionLevelReset v) s = .next ((moved .unlocked).kill c)) ∧
    ((s.ctx c).tdi ≠ .run → (s.ctx c).killed = true → exec (.functionLevelReset v) s = .next
      (moved (if (s.ctx c).tdi = .unlocked then .unlocked else .error))) ∧
    ((s.ctx c).tdi ≠ .run → exec (.tdiLeaveRun v) s = .next s) ∧
    ((s.ctx c).tdi ≠ .run → exec (.tdispMessage v .stop) s = .next (moved .unlocked))) ∧
  (∀ (s : State) (n : BitVec 32) (c : CtxId) (key : BitVec 256) (o l : BitVec 16),
    let good := fun (i : Instr) (x : Spdm) => ∃ t bs, exec i s = .next t ∧ t.spdm = x ∧ t.outbox = s.outbox ++ [.spdm true bs] ∧
      t.cores = s.cores ∧ t.mem = s.mem ∧ t.ctxs = s.ctxs
    let bad := fun (i : Instr) => exec i s = .next { s with outbox := s.outbox ++ [.spdm false []] }
    let x := s.spdm
    good .getVersion { version := true, caps := false, algs := false, sessions := [] } ∧
    (x.version = true → good .getCapabilities { x with caps := true }) ∧ (x.version = false → bad .getCapabilities) ∧
    (x.version = true → x.caps = true → good (.negotiateAlgorithms true) { x with algs := true }) ∧
    (x.version = false ∨ x.caps = false → bad (.negotiateAlgorithms true)) ∧ bad (.negotiateAlgorithms false) ∧
    (∀ i, i = Instr.getDigests ∨ i = Instr.getCertificate o l ∨ i = Instr.challenge key ∨ i = Instr.getMeasurements key →
      (x.algs = true → good i x) ∧ (x.algs = false → bad i)) ∧
    (x.algs = true → x.has n true = false → x.has n false = false → good (.keyExchange n) { x with sessions := x.sessions ++ [(n, false)] }) ∧
    (x.has n true = true ∨ x.has n false = true ∨ x.algs = false → bad (.keyExchange n)) ∧
    (x.has n false = true → good (.finish n true) { x with sessions := x.without n ++ [(n, true)] }) ∧
    (∀ b, x.has n false = false → bad (.finish n b)) ∧
    (x.has n false = true → exec (.finish n false) s = .next { s with
      spdm := { x with sessions := x.without n }, outbox := s.outbox ++ [.spdm false []] }) ∧
    (x.has n true = true → good (.endSession n) { x with sessions := x.without n }) ∧ (x.has n true = false → bad (.endSession n)) ∧
    (∀ k, x.has n true = false ∨ (s.ctx c).key.sweep = true → bad (.keyset n c k key)) ∧
    (x.has n true = true → (s.ctx c).key.sweep = false →
      (∃ t, exec (.keyset n c .ide key) s = .next t ∧ (t.ctx c).key = { (s.ctx c).key with ide := some key } ∧ t.mem = s.mem) ∧
      ((s.ctx c).key.cur = none → ∃ t, exec (.keyset n c .sealing key) s = .next t ∧
        (t.ctx c).key = { (s.ctx c).key with cur := some key } ∧ t.mem = s.mem) ∧
      (∀ old, (s.ctx c).key.cur = some old → ∃ t, exec (.keyset n c .sealing key) s = .next (t.respond 10) ∧
        t = State.sweepOn (s.setCtx c { s.ctx c with
        key := { (s.ctx c).key with cur := some key, curGen := ((s.ctx c).key.curGen + 1) % 256, prev := some old,
                                    prevGen := (s.ctx c).key.curGen, sweep := true, swept := 0, sweepAt := 0 } }) c)))

/-- R447, R449, R450, R456: before READY a write of WRAPCTL is dropped and counted; one without GO sets the target only;
a post with a deadline before the least time is refused with STATUS 3, one while a wrap is vacating with 4, one whose VF
the partition does not have with 5; that 3 comes before 4 and 4 before 5 where several hold is the model's choice (log
53). Another is in force at once with STATUS 1: the queues of its target are suspended, its jobs get the WRAP notice,
and each running node runs on to its cut-off where its remaining cycles and TCK fit, else is checkpointed where it has a
save area and TCK fits, else is discarded, or its context is killed. When no core holds a job of the target STATUS is 2.
A node that was chosen to run is asked to stop at its cut-off, and a job that has not reached its stop in time is
discarded, or its context is killed. -/
def Obligations.Wraps : Prop :=
  (∀ (s : State) (p : PartId) (v : W64), s.stage ≠ .ready → exec (.wrapPost p v) s = .next s.dropEarly) ∧
  (∀ (s : State) (p : PartId) (v : W64), s.stage = .ready →
    let q := s.part p
    let vf := v.toNat / 2 ^ 16 % 2 ^ 9
    let refused := fun (n : Nat) => ∃ t, exec (.wrapPost p v) s = .next t ∧ (t.part p).wrapStatus = n ∧
      (t.part p).wrapPhase = q.wrapPhase ∧ t.cores = s.cores ∧ t.mem = s.mem
    (v.toNat / 2 ^ 63 = 0 → exec (.wrapPost p v) s = .next
      (s.setPart p { q with wrapVft := decide (v.toNat / 2 ^ 25 % 2 = 1), wrapVf := vf })) ∧
    (v.toNat / 2 ^ 63 = 1 → q.wrapDl.toNat < s.time + s.vmin p → refused 3) ∧
    (v.toNat / 2 ^ 63 = 1 → s.time + s.vmin p ≤ q.wrapDl.toNat → q.wrapPhase = .vacating → refused 4) ∧
    (∀ d, v.toNat / 2 ^ 63 = 1 → s.time + s.vmin p ≤ q.wrapDl.toNat → q.wrapPhase ≠ .vacating → v.toNat / 2 ^ 25 % 2 = 1 →
      q.desc = some d → vf < d.vfbase ∨ d.vfbase + d.vfn ≤ vf → refused 5) ∧
    (v.toNat / 2 ^ 63 = 1 → s.time + s.vmin p ≤ q.wrapDl.toNat → q.wrapPhase ≠ .vacating → v.toNat / 2 ^ 25 % 2 = 0 →
      exec (.wrapPost p v) s = .next (s.wrapPost p false vf)) ∧
    (∀ d, v.toNat / 2 ^ 63 = 1 → s.time + s.vmin p ≤ q.wrapDl.toNat → q.wrapPhase ≠ .vacating → v.toNat / 2 ^ 25 % 2 = 1 →
      q.desc = some d → d.vfbase ≤ vf → vf < d.vfbase + d.vfn → exec (.wrapPost p v) s = .next (s.wrapPost p true vf)) ∧
    (∀ k n t0 x, q.wrapPhase = .vacating → q.wrapRun = [(k, n, t0)] → t0 ≤ s.time → s.card k n = some x → x.phase = .running →
      s.wrapTarget p x.ctx = true → ∀ clu, clu ∈ x.clusters → exec (.wrapCutoff p clu) s = .next
        ((s.setPart p { q with wrapRun := [] }).askStop k n 3)) ∧
    (∀ c j, s.job c = some j → q.wrapPhase = .vacating → s.wrapTarget p j.ctx = true → j.stopped = false → j.atStop = false →
      q.wrapDl.toNat ≤ s.time + s.drainTime p (coreClu c) →
      exec (.wrapStopDeadline p c) s = .next (s.wrapEnd j.cluster j.slot)) ∧
    (∀ k n x, s.card k n = some x → s.wrapEnd k n = if x.escaped then s.kill x.ctx else s.wrapDiscard k n)) ∧
  (∀ (s : State) (p : PartId) (vft : Bool) (vf : Nat),
    let q := s.part p
    let s1 := s.setPart p { q with wrapTVft := vft, wrapTVf := vf }
    let t := s.wrapPost p vft vf
    let posted := fun (u : State) (cores : List CoreId) =>
      (u.part p).wrapStatus = 1 ∧ (u.part p).wrapPhase = .vacating ∧ (u.part p).wrapRun = [] ∧ (u.part p).wrapTVft = vft ∧
      (u.part p).wrapTVf = vf ∧
      (∀ c j, s.job c = some j → u.job c = some (if c ∈ cores then { j with c := { j.c with pwrap := true } } else j)) ∧
      (s.Tidy → ∀ c m, s1.wrapTarget p c = true → m < queueCount c → u.queue c m = (s.queue c m).stop.settled)
    (s1.wrapNodes p = [] → ∃ u, posted u [] ∧ t = u.wrapCheck p) ∧
    (∀ k n x, s1.wrapNodes p = [(k, n, x)] → s.card k n = some x → x.phase = .running →
      let tck := s1.nodeTck p x
      let left := q.wrapDl.toNat - s.time
      let f := clock10 (s.island x.isl).level
      let runs := x.cycEst * (1024 - s.nodePid x) * 10 + tck * 1024 * f ≤ left * 1024 * f
      ∃ u, posted u x.cores ∧
        (runs → t = (u.setPart p { u.part p with wrapRun := [(k, n, q.wrapDl.toNat - tck)] }).wrapCheck p) ∧
        (¬ runs → x.save ≠ 0 → tck ≤ left → t = (u.askStop k n 3).wrapCheck p) ∧
        (¬ runs → (x.save = 0 ∨ left < tck) → t = (u.wrapEnd k n).wrapCheck p))) ∧
  (∀ (s : State) (p : PartId), (s.part p).wrapPhase = .vacating →
    ((∃ c j, s.job c = some j ∧ s.wrapTarget p j.ctx = true) → s.wrapCheck p = s) ∧
    ((∀ c j, s.job c = some j → if (s.part p).wrapTVft = true then j.ctx.val ≠ (s.part p).wrapTVf else s.wrapTarget p j.ctx = false) →
      ((s.wrapCheck p).part p).wrapStatus = 2 ∧ ((s.wrapCheck p).part p).wrapPhase = .vacated ∧ (s.wrapCheck p).cores = s.cores))

/-- R455: a device reset, at power-on, by a hot reset, by STATUS.DEVRST and by the register write of it, leaves no job
on any core, no partition, no line in the cache and no device memory; bring-up starts at ROM. Of a core only its
demotion log is left; the host's memory stays. R386, R456, R457: bring-up goes from ROM over VERIFY, TRAIN and FIRMWARE
to READY, one stage at a time; a failure ends it in FAILED with its error, and vector 69 announces READY and FAILED: a
message goes out with what the vector's table entry holds, unless the vector or the function is masked. VERIFY checks
the signed objects: one is accepted exactly where its header is of its kind, both signatures verify over header and
payload under keys that hash to the fused values, and its SVN is at least the fused version; a bad signature is ERR 1
and an old SVN ERR 2. A firmware image or certificate that is rejected fails the stage, and a configuration counts as
signed exactly where it is accepted. The model's choices are that a rejected configuration lets bring-up go on, with its
error in ERR (log 86), that device memory and scratchpads read 0 after a reset, for which the spec gives no contents
(log 2), and that firmware's later set-up reaches a READY device by this row (log 30). -/
def Obligations.ResetsAndBringUp : Prop :=
  (∀ (s : State), ∃ t, exec .powerOnReset s = .next t ∧ exec .pcieHotReset s = .next t ∧ exec .devrst s = .next t ∧
    exec (.registerWrite 0x000FF0010000 8 0x8000000000000000) s = .next t ∧ t.stage = .rom ∧
    (∀ c, t.job c = none ∧ (t.core c).tlb = [] ∧ (t.core c).side = [] ∧ (t.core c).scr = [] ∧ (t.core c).quarantined = false) ∧
    (∀ c, (s.core c).pendDem = [] → (t.core c).grades = (s.core c).grades) ∧
    (∀ p, (t.part p).desc = none) ∧ (∀ k, (t.cluster k).cards = []) ∧ t.lines = [] ∧ t.fills = [] ∧
    t.badFrames = [] ∧ t.parts = State.reset.parts ∧ t.ctxs = State.reset.ctxs ∧ t.islands = State.reset.islands ∧ t.msix = [] ∧ t.recs = [] ∧
    (s.Tidy → (∀ a, hostBase ≤ a → t.mem.read a = s.mem.read a) ∧ ∀ a, a < hostBase → t.mem.read a = 0)) ∧
  (∀ (s : State) (o : BootObjects) (u : Setup) (err : Fin 6),
    (s.stage = .rom → exec (.bringupStageAdvance (.ok o u)) s = .next { s with stage := .verify }) ∧
    (s.stage = .verify → exec (.bringupStageAdvance (.ok o u)) s = .next (
      if objErr o.firmware 1 ≠ 0 then State.irq { s with stage := .failed, stageErr := objErr o.firmware 1 } none 69
      else if objErr o.cert 3 ≠ 0 then State.irq { s with stage := .failed, stageErr := objErr o.cert 3 } none 69
      else { s with
        stage := .train, cfgSigned := decide (objErr o.config 2 = 0)
        stageErr := if objHeader o.config 2 then objErr o.config 2 else 0 })) ∧
    (∀ x k, (objErr x k = 0 ↔ objHeader x k = true ∧ objSigned x = true ∧ Config.securityVersion.toNat ≤ objFld x 8 8) ∧
      (objErr x k = 2 ↔ objHeader x k = true ∧ objSigned x = true ∧ objFld x 8 8 < Config.securityVersion.toNat) ∧
      (objErr x k = 1 ↔ ¬ (objHeader x k = true ∧ objSigned x = true)) ∧
      (objSigned x = true ↔
        let text := objBytes x 0 (64 + objFld x 16 4)
        let rsa := objBytes x (objFld x 28 4) 384
        let slh := objBytes x (objFld x 28 4 + 384) 48
        text.length = 64 + objFld x 16 4 ∧ slh.length = 48 ∧
          BitVec.ofNat 384 (natOfBe (sha384 rsa)) = Config.rsaKeyHash ∧ BitVec.ofNat 384 (natOfBe (sha384 slh)) = Config.slhKeyHash ∧
          rsaVerify rsa text (objBytes x (objFld x 20 4) 384) = true ∧
          slhVerify slh text (objBytes x (objFld x 24 4) 16224) = true)) ∧
    (s.stage = .train → exec (.bringupStageAdvance (.ok o u)) s = .next { s with stage := .firmware }) ∧
    (s.stage = .firmware → exec (.bringupStageAdvance (.ok o u)) s = .next
      ((State.setUp { s with stage := .ready } u).irq none 69)) ∧
    (s.stage ≠ .ready → s.stage ≠ .failed → err ≠ 0 → ∃ t, exec (.bringupStageAdvance (.failed err)) s = .next t ∧ t.stage = .failed ∧
      t.stageErr = err ∧ t.outbox = (s.irq none 69).outbox ∧ t.cores = s.cores ∧ t.mem = s.mem) ∧
    (∀ fn n, ((s.msixOf fn n).mask = false → s.msixOn fn = true →
        s.irq fn n = s.send (.msix fn n (s.msixOf fn n).addr (s.msixOf fn n).data)) ∧
      ((s.msixOf fn n).mask = true ∨ s.msixOn fn = false → (s.irq fn n).outbox = s.outbox)) ∧
    (s.stage = .ready → exec (.bringupStageAdvance (.ok o u)) s = .next (s.setUp u)) ∧
    (s.stage = .failed → exec (.bringupStageAdvance (.ok o u)) s = .next s) ∧
    (s.stage = .ready ∨ s.stage = .failed → exec (.bringupStageAdvance (.failed err)) s = .next s))

/-- R1, R11, R14, R140, R350, R366, R456: a write of a register: each field takes its value, a value out of range leaves
its field and is counted in its block, a write of another width or of an address that the width does not divide is
dropped and counted so; before READY a write outside the status and identity blocks is dropped and counted in
STATUS.DROP; the identity block and F(i) are read-only; STATUS.CORERST resets a core where firmware writes it, and not
through PF0 BAR2. A read returns the register as it now stands: the part code, STATUS, the governor's limits, F(i) of an
island, and a doorbell as 0. The model's choices are that the 32-bit entries of a class table are written in 64-bit
words of two (log 74), a read of another width than 64 bits (log 80), and the word that the part code of stepping A0
makes (log 80). -/
def Obligations.RegisterWrites : Prop :=
  ∀ (s : State) (v : W64) (g : Fin 256) (m : Fin 5) (w : Nat),
    let write := fun (a w : Nat) (t : State) => exec (.registerWrite a w v) s = .next t
    (s.stage = .ready → 250 ≤ v.toNat % 2 ^ 10 → v.toNat % 2 ^ 10 ≤ 750 → 250 ≤ v.toNat / 2 ^ 16 % 2 ^ 10 →
      v.toNat / 2 ^ 16 % 2 ^ 10 ≤ 750 → write 0x000FF0108000 8 { s with
        penv := v.toNat % 2 ^ 10, ppkg := v.toNat / 2 ^ 16 % 2 ^ 10, hallow := v.toNat / 2 ^ 32 % 2 ^ 16 }) ∧
    (s.stage = .ready → v.toNat % 2 ^ 10 < 250 → ∃ t, write 0x000FF0108000 8 t ∧ t.penv = s.penv ∧
      t.hallow = v.toNat / 2 ^ 32 % 2 ^ 16 ∧ SMap.get 0 s.resv RegBlock.gov.key < SMap.get 0 t.resv RegBlock.gov.key) ∧
    (s.stage = .ready → w ≠ 8 → write 0x000FF0108000 w (s.reserved .gov)) ∧
    (s.stage = .ready → write 0x000FF0100404 8 (s.reserved .gov)) ∧
    (∀ i : IslId, s.stage = .ready → write (0x000FF0100418 + 0x1000 * i.val) 8 s) ∧
    (∀ (i : IslId) (k : Fin 120), s.stage = .ready →
      write (0x000FF0100000 + 0x1000 * i.val + 8 * k.val) 8
        ((s.putClass i (2 * k.val) (v.toNat % 2 ^ 32)).putClass i (2 * k.val + 1) (v.toNat / 2 ^ 32)) ∧
      write (0x000FF0100000 + 0x1000 * i.val + 8 * k.val) 4 (s.reserved .gov)) ∧
    (∀ b, SMap.get 0 (s.reserved b).resv b.key = SMap.get 0 s.resv b.key + 1) ∧
    (s.Tidy → s.stage = .ready → ∃ t, write (0x000FF0200000 + 16 * g.val) 8 t ∧ t.limitOf g.val = v.toNat % 2 ^ 22 ∧
      (∀ h, h ≠ g.val → t.limitOf h = s.limitOf h)) ∧
    (s.stage = .ready → ∃ t, write (0x000FF0400000 + 0x100 * m.val) 8 t ∧
      (t.monitors[m.val]).sel = v.toNat / 16 % 16 ∧ ((t.monitors[m.val]).frz = true ↔ v.toNat / 2 % 2 = 1)) ∧
    (s.stage ≠ .ready → write 0x000FF0108000 8 s.dropEarly ∧ write 0x000FF0200000 8 s.dropEarly ∧ write 0x000FF0300000 8 s.dropEarly ∧
      write 0x000FF0400000 8 s.dropEarly) ∧
    write 0x000FF0000008 8 s ∧ write 0x000FF0000008 4 (s.reserved .identity) ∧
    (v.toNat / 2 ^ 55 = 1 → write 0x000FF0010000 8 (s.coreReset ⟨v.toNat / 2 ^ 48 % 2 ^ 7, Nat.mod_lt _ (by decide)⟩) ∧
      write (pf0Bar2 + 0x10000) 8 s) ∧
    s.readReg 0x000FF0000000 8 = 0x0009A76800000000 ∧
    (s.stage ≠ .ready → s.readReg 0x000FF0108000 8 = 0) ∧
    (s.stage = .ready → (∀ i : IslId, s.readReg (0x000FF0100418 + 0x1000 * i.val) 8 = BitVec.ofNat 64 (s.floorLevel i)) ∧
      (s.penv < 2 ^ 16 → s.ppkg < 2 ^ 16 → (s.readReg 0x000FF0108000 2).toNat = s.penv ∧ (s.readReg 0x000FF0108002 2).toNat = s.ppkg) ∧
      ∀ c : CtxId, s.readReg (queueRegs + 0x10000 * c.val) 8 = 0)

/-- R356, R459, R460: a decoded frame goes to the slot that its number names: its blocks are written in order, each
where the host allowance covers it; the frame number counts up when all are written, a block that must wait stops the
frame there until it is offered again, and one that cannot be written drops the frame. A frame whose slot software has
not released is dropped and counted. R463, R464, R465, R466: a flit in order is acknowledged and counted, a copy of one
seen before is acknowledged again, one that is corrupted or ahead of its turn is NAKed, and one that fails its MAC takes
the port down; a port without a key takes none. A flit for another device goes on by the route table, sealed anew; a
flit that leaves takes the next sequence number and stands in the replay buffer, or waits in the buffer of its virtual
channel while the port trains. A NAK replays the flit and every later one, and the eighth replay in a row retrains the
port; a port that has retrained is keyed and up, with its flits sent again and counted, and a third retraining within a
second takes it down. The order of the blocks, the parameters of the CRC and the key of a link are the model's (log 24,
25, 7). -/
def Obligations.IntakeAndPorts : Prop :=
  (∀ (s : State) (k : Fin 48) (data : Pixels) (status : BitVec 32) (pts : W64) (d : Nat) (c : CtxId),
    (s.intake[k.val]).desc = some d → ctxOfNum (d % 2 ^ 16) = some c → s.live c = true →
    let x := s.intake[k.val]
    let slots := d / 2 ^ 224 % 2 ^ 16
    let ctl := d / 2 ^ 256 % 2 ^ 64
    let left := (s.frameBlocks d x.frame data status pts).drop x.written
    (∀ bs, x.written = 0 → s.consumed c d = .data bs →
      let n := natOfBytes ((bs.drop (ctl % 64)).take 4)
      (n + slots ≤ x.frame → ∃ t, exec (.frameDecoded k data status pts) s = .next t ∧
        t.intake[k.val] = { x with dropped := x.dropped + 1 } ∧ t.mem = s.mem ∧ t.lines = s.lines ∧ t.cores = s.cores) ∧
      (x.frame < n + slots → exec (.frameDecoded k data status pts) s =
        .next ((s.devDrawn c (ctl / 64 * 64) 1).intakeFrame k x c d data status pts))) ∧
    (x.written ≠ 0 → exec (.frameDecoded k data status pts) s = .next (s.intakeFrame k x c d data status pts)) ∧
    (left ≠ [] → s.hostAllow < 8 → s.intakeFrame k x c d data status pts = s) ∧
    (∀ t, s.intakeLoop c x.written left = .done t → ∃ t2, s.intakeFrame k x c d data status pts = t2 ∧
      t2.intake[k.val] = { x with frame := x.frame + 1, written := 0 } ∧ t2.mem = t.mem ∧ t2.lines = t.lines ∧ t2.cores = t.cores) ∧
    (∀ t, s.intakeLoop c x.written left = .fail t → ∃ t2, s.intakeFrame k x c d data status pts = t2 ∧
      t2.intake[k.val] = { x with dropped := x.dropped + 1, written := 0 } ∧ t2.mem = t.mem ∧ t2.lines = t.lines)) ∧
  (∀ (s : State) (p : Fin 4) (f : BitVec 2048) (n : BitVec 12) (key : BitVec 256),
    let x := s.port p
    (x.key = none ∨ x.state ≠ 2 → ∀ b, exec (.flitReceive p f b) s = .next s) ∧
    (x.key = some key →
    (x.state = 2 → flitCrcOk f = true → flitSeq f = x.rx → exec (.flitReceive p f true) s = .next
      (((s.setPort p { x with rx := x.rx + 1 }).send (.ack p x.rx)).deliver key f)) ∧
    (x.state = 2 → flitCrcOk f = false → ∀ b, exec (.flitReceive p f b) s = .next (s.send (.nak p x.rx))) ∧
    (x.state = 2 → flitCrcOk f = true → exec (.flitReceive p f false) s = .next ((s.portDown p).sealEvent 3 0xFFFF p.val)) ∧
    (x.state = 2 → flitCrcOk f = true → 1 ≤ (x.rx - flitSeq f).toNat → (x.rx - flitSeq f).toNat ≤ 512 →
      exec (.flitReceive p f true) s = .next (s.send (.ack p (flitSeq f)))) ∧
    (x.state = 2 → flitCrcOk f = true → 512 < (x.rx - flitSeq f).toNat →
      exec (.flitReceive p f true) s = .next (s.send (.nak p x.rx)))) ∧
    (∀ g, flitFormed f = true → flitDest f ≠ ⟨s.fabid.toNat, s.fabid.isLt⟩ → (SMap.get 0 s.routes (flitDest f).val).getLsbD 2 = true →
      g = flitOpen key s.fresh f → s.deliver key f = State.sendFlit { s with fresh := s.fresh + 1 } (s.peerPort (flitDest f)) g) ∧
    (x.key = some key → x.state = 2 → ∃ t, s.sendFlit p f = t ∧ (t.port p).tx = x.tx + 1 ∧
      t.outbox = s.outbox ++ [.flit p (flitSeal key s.fresh x.tx f)] ∧ flitSeal key s.fresh x.tx f ∈ (t.port p).replay ∧
      (t.port p).replay.length ≤ 512) ∧
    (x.state = 1 → ∃ t, s.sendFlit p f = t ∧ t.outbox = s.outbox ∧
      (t.port p).waiting[(flitVc f).val] = x.waiting[(flitVc f).val] ++ [f]) ∧
    (∀ l, x.state = 2 → l = (x.replay.dropWhile fun g => decide (flitSeq g ≠ n)) → l ≠ [] → x.nak = none →
      ∃ t, exec (.flitReplay p n) s = .next t ∧ t.outbox = s.outbox ++ l.map (.flit p) ∧ (t.port p).replay = l ∧
        (t.port p).nak = some (n, 1) ∧ (t.port p).state = 2) ∧
    (∀ k, x.state = 2 → (x.replay.dropWhile fun g => decide (flitSeq g ≠ n)) ≠ [] → x.nak = some (n, k) → 7 ≤ k → x.times = [] →
      ∃ t, exec (.flitReplay p n) s = .next t ∧ (t.port p).state = 1 ∧ (t.port p).nak = none) ∧
    (x.state = 1 → x.dead = false → x.waiting = Vector.replicate 3 [] → ∃ t, exec (.portRetrainComplete p) s = .next t ∧
      (t.port p).state = 2 ∧ (t.port p).key = some (x.key.getD (Config.linkKey p.val s.fresh)) ∧
      (t.port p).replays = satTo 0xFFFFFFFF (x.replays + x.replay.length) ∧
      t.outbox = (s.irq none (65 + p.val)).outbox ++ x.replay.map (.flit p)) ∧
    (x.dead = true → exec (.portRetrainComplete p) s = .next s) ∧
    (x.state ≠ 0 → (x.times.filter fun y => decide (s.time < y + 1000000000)).length = 2 → ((s.retrain p).port p).state = 0))

/-- R468, R469, R470, R471: a peer's request that the peer map does not admit is refused: one that reads gets all ones
with poison, a write is dropped, and an error is counted; one that it admits is served for the entry's context, and a
read of present lines answers with their bytes; no answer goes to a port that is down. A response, and an error after
FTO us without one, end the request. R190, R194, R195, R201: the oldest posted access of A performs: a write to the
core's own scratchpad puts its bytes there and leaves the list; one to another core does so where the job that it was
issued to still runs, and else is discarded; the parts of a global store are written in one step once its line is ready;
one that an earlier access keeps back stays. -/
def Obligations.PeersAndPostedAccesses : Prop :=
  (∀ (s : State) (r : PeerReq) (tag : Nat),
    (s.peerAdmit r = none → ∀ n, r.op = .read n → exec (.peerRequest r) s = .next
      (s.pf0Error.sendReply r.srcDev r.tag (List.replicate n 0xFF) true)) ∧
    (∀ d bs b, (s.port (s.peerPort d)).state ≠ 0 → ∃ t l, s.sendReply d tag bs b = t ∧ t.outbox = s.outbox ++ Out.peer d tag bs b :: l ∧
      t.mem = s.mem ∧ t.lines = s.lines ∧ t.cores = s.cores) ∧
    (∀ d bs b, (s.port (s.peerPort d)).state = 0 → s.sendReply d tag bs b = s) ∧
    (s.peerAdmit r = none → (∃ bs, r.op = .write bs) ∨ (∃ l, r.op = .masked l) → exec (.peerRequest r) s = .next s.pf0Error) ∧
    (∀ c, s.peerAdmit r = some c → exec (.peerRequest r) s = .next (s.peerServe c r)) ∧
    (∀ c n bs, r.op = .read n → s.peerRead c (peerLines r.addr (List.replicate n 0)) = .data bs false →
      s.peerServe c r = ((peerLines r.addr (List.replicate n 0)).foldl (fun u p => u.touch p.1) s).sendReply r.srcDev r.tag bs false ∧
      (s.peerServe c r).mem = s.mem) ∧
    (∀ c e, s.peerEntry r = some e → s.peerAdmit r = some c → ctxOfNum (e.toNat / 2 ^ 26 % 2 ^ 16) = some c ∧
      (peerWrites r.op = true → e.getLsbD 0 = true) ∧
      ((s.ctx c).key.cur.map kidOf = some r.kid ∨ (s.ctx c).key.prev.map kidOf = some r.kid)) ∧
    (s.peerEntry r = none → s.peerAdmit r = none) ∧
    (∀ q b bs, (s.peerReqs.find? fun x => decide (x.tag = tag)) = some q →
      exec (.peerResponse tag b bs) s = .next (s.peerEnd q b bs)) ∧
    (∀ q, (s.peerReqs.find? fun x => decide (x.tag = tag)) = some q → q.sentAt + 1000 * s.fto ≤ s.time →
      exec (.peerRequestTimeout tag) s = .next (s.peerEnd q true [])) ∧
    (∀ q, (s.peerReqs.find? fun x => decide (x.tag = tag)) = some q → s.time < q.sentAt + 1000 * s.fto →
      exec (.peerRequestTimeout tag) s = .next s)) ∧
  (∀ (s : State) (c : CoreId) (j : Job) (k : CoreId) (b : Nat) (bs : List Byte) (cls : Fin 16) (tgt : W32) (pc : VAddr)
    (rest : List Posted), s.job c = some j → j.a.posted = .scratch k b bs cls tgt pc :: rest →
    (k = c → s.rowUsable k b = true → s.yieldsAt k b = false → ∃ t j2, exec (.accessPerformsAtHome c 0) s = .next t ∧
      t.job c = some j2 ∧ j2.a.posted = rest ∧ (∀ e n, j2.reg e n = j.reg e n) ∧
      (t.core c).scr = (s.core c).scr.writeBytes b bs ∧ t.mem = s.mem ∧ ∀ d, d ≠ c → t.core d = s.core d) ∧
    (k ≠ c → s.sharesCtx k j.ctx = false ∨ s.jobidAt k ≠ tgt → ∃ j2, exec (.accessPerformsAtHome c 0) s = .next (s.setJob c j2) ∧
      j2.a.posted = rest ∧ ∀ e n, j2.reg e n = j.reg e n) ∧
    (k ≠ c → s.sharesCtx k j.ctx = true → s.jobidAt k = tgt → s.rowUsable k b = true → s.yieldsAt k b = false → ∃ t,
      exec (.accessPerformsAtHome c 0) s = .next t ∧ (t.core k).scr = (s.core k).scr.writeBytes b bs ∧ t.mem = s.mem) ∧
    (∀ x n, (.scratch k b bs cls tgt pc :: rest)[n + 1]? = some x → Posted.holds (.scratch k b bs cls tgt pc) x = true →
      exec (.accessPerformsAtHome c (n + 1)) s = .next s)) ∧
  (∀ (s : State) (c : CoreId) (j : Job) (x : StorePart) (l : List StorePart) (cls : Fin 16) (pc : VAddr) (rest : List Posted)
    (s1 : State), s.job c = some j → j.a.posted = .store 0 (x :: l) cls pc :: rest → s.live j.ctx = true →
    s.writeGate j.ctx x.pa = .ready → s.escape c j = .go s1 → s1.writeGate j.ctx x.pa = .ready → ∃ j2, j2.a.posted = rest ∧ (∀ e n, j2.reg e n = j.reg e n) ∧
      exec (.accessPerformsAtHome c 0) s = .next (((x :: l).foldl (fun t y =>
        (t.commit j.ctx (some c) y.pa y.bytes).sideUpdate c j y.pa y.bytes) s1).setJob c j2))

/-- Decode and encode agree: for every instruction of every engine that is well-formed, the decoder reads back from its
word exactly that instruction, with every operand. -/
def Obligations.EncodeDecode : Prop :=
  ∀ (e : Eng) (i : Instr) (w : W32), i.wf e = true → encode i = some w → decode e w = .ok i

/-- Words from the encoding tables of the spec decode to the instructions that they stand for. -/
def Obligations.DecodeWords : Prop :=
  let z : Tm := { idl := 0, w := false }
  decode .c 0x80021462 = .ok (.pcmp 2 (.reg 5) (.reg 6) .lt) ∧
  decode .c 0x85810FFC = .ok (.pcmpi .ge 1 (.reg 3) 0x3FC) ∧
  decode .c 0x98041463 = .ok (.selp (.reg 4) (.reg 5) (.reg 6) 3) ∧
  decode .c 0x3007209F = .ok (.mad z (.reg 7) (.reg 8) (.reg 9)) ∧
  decode .c 0xA0000001 = .ok (.endJob 1) ∧
  decode .c 0xB4008803 = .ok (.varreg 2 3) ∧
  decode .a 0x10000183 = .ok (.rdv z 6 3) ∧
  decode .a 0x2C001C00 = .ok (.callr (.reg 7)) ∧
  decode .a 0xD8310001 = .ok (.fenceRel .system 1) ∧
  decode .a 0xD8280001 = .ok (.fenceAcq .device 1) ∧
  decode .v 0x0C000205 = .ok (.slate z true 5) ∧
  decode .v 0x14000C10 = .ok (.loop z 0 3 16) ∧
  decode .v 0x5800180E = .ok (.mts z (.reg 6) 0x00E) ∧
  decode .m 0x08030028 = .ok (.atTake z (.reg 3) 40) ∧
  decode .v 0x2C001C00 = .error .illegalInTimed ∧
  decode .c 0x08030028 = .error .illegalOpcode ∧
  decode .c 0xE0000000 = .error .illegalOpcode ∧
  decode .c 0x3400041F = .error .illegalEncoding

/-- R30, R39, R66: a step that gives an engine its turn runs the instruction that the engine's decoder reads from the
word at its pc, once it is ready and, for V and M, due; a word that it does not decode is RESERVED_ENCODING with its
cause. Every turn but an engine's: an event that the agenda holds runs, and time passes, after cards that have become
ready are marked (R309). -/
def Obligations.StepRunsTheDecoded : Prop :=
  (∀ (s : State) (c : CoreId) (e : Eng) (rest : List Turn) (j : Job) (w : W32),
    s.agenda = .eng c e :: rest → s.job c = some j → j.ready e = true → (e = .c → j.asyncDue = false) →
    (e = .a → j.a.copyFault = none) →
    let t := { s with agenda := rest, turn := .eng c e }
    t.fetchFor c j e (j.pc e) = .word w → (e.elastic = false → reached j.take (j.base e) = true) → dueNow j e w = true →
    (∀ i, decode e w = .ok i → step s = exec i (t.fetchUse c j e)) ∧
    (∀ cause, decode e w = .error cause → step s = exec (.reservedEncoding w cause) (t.fetchUse c j e))) ∧
  (∀ (s : State) (i : Instr) (n : Nat) (rest : List Turn),
    (s.agenda = .event i :: rest → isEvent i = true → step s = exec i { s with agenda := rest }) ∧
    (s.agenda = .wait n :: rest → n ≠ 0 → step s = .next
      { (State.markAll { s with agenda := rest }) with time := s.time + n, now := [] }) ∧
    (s.agenda = .wait 0 :: rest → step s = .next { s with agenda := rest }) ∧
    (∀ i w, encode i = some w → isEvent i = false))

/-- R13, R343, R350, R351, R352, R366, R384, R430, R455, R456, R461, R466: what the spec gives the machine at reset. The
canonical form holds at reset. -/
def Obligations.ResetState : Prop :=
  (let s := State.reset
  s.stage = .rom ∧ (∀ c, s.job c = none) ∧ (∀ p, (s.part p).desc = none) ∧
  (∀ i, (s.island i).level = 6 ∧ (s.island i).stretch = 0 ∧ (s.island i).bal = 0 ∧ (s.island i).rsvtgt = 1000 ∧
    (s.island i).tlim = 95 ∧ (s.island i).weight = 1 ∧ (s.island i).twinen = false ∧ (s.island i).lmax = 12 ∧ (s.island i).lmin = 0) ∧
  s.penv = 600 ∧ s.ppkg = 600 ∧ s.hallow = 600 ∧ (∀ g, s.limitOf g = 0x200000) ∧
  (∀ p, (s.part p).stageMax = 256 ∧ (s.part p).resLim = 3 ∧ (s.part p).prof = 0) ∧
  s.fto = 1000 ∧ s.fabid = 0 ∧ (∀ p, (s.port p).state = 0) ∧
  (∀ m : Fin 5, (s.monitors[m.val]).sel = 15 ∧ (s.monitors[m.val]).frz = false) ∧ s.sevBase = 0 ∧ s.sevSize = 8) ∧
  (State.reset.Tidy)

/-- The canonical form is kept by every step, of any turn, from any state that has it. -/
def Obligations.StepKeepsTidy : Prop :=
∀ s t : State, s.Tidy → step s = .next t → t.Tidy

/-- A step of the machine always has a next state: no turn of an engine and no event ends a run. -/
def Obligations.StepNeverStops : Prop :=
∀ s : State, ∃ t, step s = .next t

/-- The frame of the scalar instructions that write D, in every engine: no register but D changes, no stream but the
sources and D, no predicate, no flag, no special register, no accumulator, no other stream's program counter, no byte of
any memory and nothing outside the job. In V and M the register itself changes later, so that no register changes at
issue. -/
def Obligations.ScalarFrame : Prop :=
  ∀ (s t : State) (c : CoreId) (e : Eng) (j : Job) (tm : Tm) (d a b : Opnd) (k : BitVec 10) (h : BitVec 6) (m : BitVec 16),
    ∀ i ∈ scalarForms tm d a b k h m, Issues s c e j i → exec i s = .next t →
      JobOnly c s t ∧ (∀ x, t.mem.read x = s.mem.read x) ∧ (∀ x n, (t.core x).scr.read n = (s.core x).scr.read n) ∧
      ∃ j2, t.job c = some j2 ∧ j.Beside e j2 ∧
        (∀ x n, (x ≠ e ∨ d ≠ .reg n ∨ e.elastic = false) → j2.reg x n = j.reg x n) ∧
        (∀ q, a ≠ .q q → b ≠ .q q → d ≠ .q q → j2.stream q = j.stream q) ∧
        (∀ x n, srRead t c j2 x n = srRead s c j x n)

/-- The frame of the vector instructions that deliver a result to D: at issue no register of any engine changes, vector
or scalar, no mask, no flag, no walk, no stream but the sources and D, no byte of any memory and nothing outside the
job. The frame of the matrix instructions: no scalar register, no vector register, no stream, no configuration word, no
byte of any memory, and no accumulator but their own; a row that a retirement writes is written when it falls due. TACC
and the reductions join their accumulator to UNCHK, the others take theirs out, no other accumulator's UNCHK changes,
and the walks of the other banks stay; where a fault of the epilogue's arithmetic waits (R432), a retirement meets it
too. What the accesses of A leave alone: an instruction that gives a value to D changes D only; a staged store adds to
its card's list and changes no other field of any card, core, cluster or the machine but the line in the side cache that
serves it; a store that performs changes exactly its own bytes of its line. -/
def Obligations.Frames : Prop :=
  (∀ (s t : State) (c : CoreId) (j : Job) (tm : Tm) (d a b : Opnd) (ty src : ElemT) (u : VCond) (r : CvtRnd) (o : RedOp),
    ∀ i ∈ vectorForms tm d a b ty src u r o, Issues s c .v j i → exec i s = .next t →
      JobOnly c s t ∧ (∀ x, t.mem.read x = s.mem.read x) ∧ (∀ x n, (t.core x).scr.read n = (s.core x).scr.read n) ∧
      ∃ j2, t.job c = some j2 ∧ j.Beside .v j2 ∧ (∀ x n, j2.reg x n = j.reg x n) ∧
        (∀ q, a ≠ .q q → b ≠ .q q → d ≠ .q q → j2.stream q = j.stream q) ∧
        (∀ x n, srRead t c j2 x n = srRead s c j x n)) ∧
  (∀ (s t : State) (c : CoreId) (j : Job) (tm : Tm) (n a b w : Fin 8) (new keep : Bool),
    ∀ i ∈ ([.tmma tm n a b new, .tmmax tm n a b new, .tmmat tm n a b new, .tmmas tm n a b w new, .tret tm n w keep,
      .tretq tm n w keep, .tspill tm n w, .tfill tm n w, .tacc tm n a, .tzero tm n] : List Instr),
    Issues s c .m j i → (s.core c).faulty inEpilogue = false → exec i s = .next t →
      JobOnly c s t ∧ (∀ x, t.mem.read x = s.mem.read x) ∧ (∀ x n, (t.core x).scr.read n = (s.core x).scr.read n) ∧
      ∃ j2, t.job c = some j2 ∧ (∀ x r, j2.reg x r = j.reg x r) ∧ j2.v = j.v ∧ j2.a = j.a ∧ j2.c = j.c ∧ j2.streams = j.streams ∧
        j2.m.tcfg = j.m.tcfg ∧ (j2.m.shapeM, j2.m.shapeN, j2.m.shapeK) = (j.m.shapeM, j.m.shapeN, j.m.shapeK) ∧
        j2.m.fpmode = j.m.fpmode ∧ j2.m.fpflags = j.m.fpflags ∧ (∀ r, r ≠ n → j2.m.accAt r = j.m.accAt r) ∧
        (i ∈ ([.tmma tm n a b new, .tmmax tm n a b new, .tmmat tm n a b new, .tmmas tm n a b w new, .tacc tm n a] : List Instr) →
          j2.m.unchk.getLsbD n.val = true) ∧
        (i ∈ ([.tret tm n w keep, .tretq tm n w keep, .tspill tm n w, .tfill tm n w, .tzero tm n] : List Instr) →
          j2.m.unchk.getLsbD n.val = false) ∧
        (∀ r, r ≠ n → j2.m.unchk.getLsbD r.val = j.m.unchk.getLsbD r.val) ∧
        (∀ x, x ≠ a → x ≠ b → x ≠ w → j2.walk x = j.walk x) ∧ j2.fmt = j.fmt ∧ j2.take = j.take) ∧
  (∀ (s : State) (c : CoreId) (j : Job) (d : Opnd) (x : W64) (p : Piece) (bs : List Byte) (ctx : CtxId) (core : Option CoreId) (l : Line),
    (JobOnly c s (gives s c j d x) ∧ ∃ j2, (gives s c j d x).job c = some j2 ∧ j.Beside .a j2 ∧
      (∀ e n, (e ≠ .a ∨ d ≠ .reg n) → j2.reg e n = j.reg e n) ∧ (∀ q, d ≠ .q q → j2.stream q = j.stream q)) ∧
    (let t := s.stageWrite c j p bs
      let o := s.sideOwner c j p.pa
      { t with clusters := s.clusters, cores := s.cores } = s ∧ (∀ k, k ≠ o → t.core k = s.core k) ∧
      { t.core o with side := (s.core o).side } = s.core o ∧
      (∀ n, n ≠ p.pa / 128 → SMap.find (t.core o).side n = SMap.find (s.core o).side n) ∧
      (∀ k, { t.cluster k with cards := (s.cluster k).cards } = s.cluster k) ∧
      (∀ k n, (k ≠ j.cluster ∨ n ≠ j.slot) → t.card k n = s.card k n) ∧
      ∀ x, s.card j.cluster j.slot = some x → t.card j.cluster j.slot = some { x with staged := x.staged ++ [⟨p.pa, p.va, bs⟩] }) ∧
    (p.pa < hostBase → SMap.find s.lines (p.pa / 128) = some l → p.pa % 128 + bs.length ≤ 128 →
      let t := s.commit ctx core p.pa bs
      t.mem = s.mem ∧ t.cores = s.cores ∧ (∀ n, n ≠ p.pa / 128 → SMap.find t.lines n = SMap.find s.lines n) ∧
      ∃ k, SMap.find t.lines (p.pa / 128) = some k ∧ k.dirty = true ∧
        (∀ n (h : n < bs.length), lineBytes k.data (p.pa % 128 + n) 1 = [bs[n]]) ∧
        (∀ n, n < 128 → (n < p.pa % 128 ∨ p.pa % 128 + bs.length ≤ n) → lineBytes k.data n 1 = lineBytes l.data n 1)))
end

