-- ==== Sys2Proof/Laws/Encoding.lean ====
section
/-! SUPPORT. The fields of a word of each format: what `bitsAt` reads from what the encoder writes (R54), and that each
code reads back. A proof about a word first rewrites the fields that it needs with these lemmas and then generalizes the word:
no term may be compared by unfolding the format's products. -/

namespace Sys2Proof

/-! ## Codes -/

@[simp] theorem ElemT.ofCode_code (x : ElemT) : ElemT.ofCode x.code = some x := by cases x <;> rfl
theorem ElemT.code_le (x : ElemT) : x.code ≤ 12 := by cases x <;> decide
@[simp] theorem Size.ofCode_code (x : Size) : Size.ofCode x.code = some x := by cases x <;> rfl
theorem Size.code_le (x : Size) : x.code ≤ 5 := by cases x <;> decide
@[simp] theorem AtomOp.ofCode_code (x : AtomOp) : AtomOp.ofCode x.code = some x := by cases x <;> rfl
theorem AtomOp.code_le (x : AtomOp) : x.code ≤ 7 := by cases x <;> decide
@[simp] theorem Scope.ofCode_code (x : Scope) : Scope.ofCode x.code = some x := by cases x <;> rfl
theorem Scope.code_le (x : Scope) : x.code ≤ 6 := by cases x <;> decide
@[simp] theorem Order.ofCode_code (x : Order) : Order.ofCode x.code = some x := by cases x <;> rfl
theorem Order.code_le (x : Order) : x.code ≤ 3 := by cases x <;> decide
@[simp] theorem Cond.ofCode_code (x : Cond) : Cond.ofCode x.code = some x := by cases x <;> rfl
theorem Cond.code_le (x : Cond) : x.code ≤ 5 := by cases x <;> decide
@[simp] theorem PLogOp.ofCode_code (x : PLogOp) : PLogOp.ofCode x.code = some x := by cases x <;> rfl
theorem PLogOp.code_le (x : PLogOp) : x.code ≤ 4 := by cases x <;> decide
@[simp] theorem FlagAns.ofCode_code (x : FlagAns) : FlagAns.ofCode x.code = some x := by cases x <;> rfl
theorem FlagAns.code_le (x : FlagAns) : x.code ≤ 2 := by cases x <;> decide
@[simp] theorem VCond.ofCode_code (x : VCond) : VCond.ofCode x.code = some x := by cases x <;> rfl
theorem VCond.code_le (x : VCond) : x.code ≤ 6 := by cases x <;> decide
@[simp] theorem RedOp.ofCode_code (x : RedOp) : RedOp.ofCode x.code = some x := by cases x <;> rfl
theorem RedOp.code_le (x : RedOp) : x.code ≤ 5 := by cases x <;> decide
@[simp] theorem CvtRnd.ofCode_code (x : CvtRnd) : CvtRnd.ofCode x.code = some x := by cases x <;> rfl
theorem CvtRnd.code_le (x : CvtRnd) : x.code ≤ 3 := by cases x <;> decide

theorem Opnd.code_lt (x : Opnd) : x.code < 64 := by
  rcases x with n | n | n <;> have := n.isLt <;> simp only [Opnd.code] <;> omega

/-- An operand's code names the operand. -/
@[simp] theorem opndOf_code (x : Opnd) (h : x.code < 64) : opndOf ⟨x.code, h⟩ = x := by
  rcases x with n | n | n <;> simp [opndOf, Opnd.code, n.isLt] <;> omega

theorem Tm.enc_lt (t : Tm) : t.enc < 16 := by
  have := t.idl.isLt
  have : t.w.toNat < 2 := by cases t.w <;> decide
  simp only [Tm.enc]; omega

@[simp] theorem Tm.enc_idl (t : Tm) : t.enc / 2 = t.idl.val := by
  have : t.w.toNat < 2 := by cases t.w <;> decide
  simp only [Tm.enc]; omega

@[simp] theorem Tm.enc_w (t : Tm) : t.enc % 2 = t.w.toNat := by
  have : t.w.toNat < 2 := by cases t.w <;> decide
  simp only [Tm.enc]; omega

theorem opndAt_of {n lo : Nat} {x : Opnd} (h : bitsAt n lo 6 = x.code) : opndAt n lo = x := by simp [opndAt, finAt, h]

theorem opndAt_q {n lo : Nat} {q : Fin 16} (h : bitsAt n lo 6 = 32 + q.val) : opndAt n lo = .q q := opndAt_of (x := .q q) h

theorem tmAt_of {n : Nat} {t : Tm} (h : bitsAt n 23 3 = t.enc / 2) (h2 : bitsAt n 22 1 = t.enc % 2) : tmAt n = t := by
  simp only [tmAt, finAt, flagAt, h, h2, Tm.enc_idl, Tm.enc_w]
  rcases t with ⟨i, b⟩; cases b <;> rfl

theorem finAt_of {n lo w : Nat} {x : Fin (2 ^ w)} (h : bitsAt n lo w = x.val) : finAt n lo w = x := Fin.ext h

theorem bvAt_of {n lo w : Nat} {x : BitVec w} (h : bitsAt n lo w = x.toNat) : bvAt n lo w = x := by simp [bvAt, h]

theorem flagAt_of {n lo : Nat} {b : Bool} (h : bitsAt n lo 1 = b.toNat) : flagAt n lo = b := by cases b <;> simp [flagAt, h]

theorem withT_of {n : Nat} {ty : ElemT} (f : ElemT → Instr) (h : bitsAt n 0 4 = ty.code) : withT n f = some (f ty) := by
  simp [withT, h]

theorem accept_ok {e : Eng} {fixed : Bool} {i : Instr} (h : fixed = true) (hw : i.wf e = true) : accept e fixed (some i) = .ok i := by
  simp [accept, h, hw]

theorem acceptQ_ok {e : Eng} {n lo : Nat} {fixed : Bool} {f : Fin 16 → Instr} {q : Fin 16} (h : bitsAt n lo 6 = 32 + q.val)
    (hf : fixed = true) (hw : (f q).wf e = true) : acceptQ e n lo fixed (some f) = .ok (f q) := by
  simp [acceptQ, opndAt_q h, accept, hf, hw]

theorem Bool.toNat_le_one (b : Bool) : b.toNat ≤ 1 := by cases b <;> decide

/-! ## The opcode of a word -/

/-- A word of the common subset is read by `decodeWord`, the elastic instructions in C and A only. -/
theorem decode_common {e : Eng} {n : Nat} (h : n < 4294967296) (o : bitsAt n 26 6 < 32)
    (h2 : bitsAt n 26 6 = 2 → e.elastic = false) (h3 : 7 ≤ bitsAt n 26 6 → bitsAt n 26 6 ≤ 11 → e.elastic = true) :
    decode e (BitVec.ofNat 32 n) = decodeWord e n (bitsAt n 26 6) := by
  have hn : (BitVec.ofNat 32 n).toNat = n := by simp; omega
  simp only [decode, hn]
  rw [if_pos o, if_neg, if_neg]
  · rintro ⟨a, b, c, _⟩; simp [h3 a b] at c
  · rintro ⟨a, b⟩; simp [h2 a] at b

theorem decode_c {n : Nat} (h : n < 4294967296) (o : ¬ bitsAt n 26 6 < 32) :
    decode .c (BitVec.ofNat 32 n) = decodeC .c n (bitsAt n 26 6) := by
  have hn : (BitVec.ofNat 32 n).toNat = n := by simp; omega
  simp only [decode, hn, if_neg o]

theorem decode_a {n : Nat} (h : n < 4294967296) (o : ¬ bitsAt n 26 6 < 32) :
    decode .a (BitVec.ofNat 32 n) = decodeA .a n (bitsAt n 26 6) := by
  have hn : (BitVec.ofNat 32 n).toNat = n := by simp; omega
  simp only [decode, hn, if_neg o]

theorem decode_v {n : Nat} (h : n < 4294967296) (o : ¬ bitsAt n 26 6 < 32) :
    decode .v (BitVec.ofNat 32 n) = decodeV .v n (bitsAt n 26 6) := by
  have hn : (BitVec.ofNat 32 n).toNat = n := by simp; omega
  simp only [decode, hn, if_neg o]

theorem decode_m {n : Nat} (h : n < 4294967296) (o : ¬ bitsAt n 26 6 < 32) :
    decode .m (BitVec.ofNat 32 n) = decodeM .m n (bitsAt n 26 6) := by
  have hn : (BitVec.ofNat 32 n).toNat = n := by simp; omega
  simp only [decode, hn, if_neg o]

/-! ## Format R -/

theorem encR_lt (op t d a b f : Nat) (hf : f < 16) (hb : b < 64) (ha : a < 64) (hd : d < 64) (ht : t < 16) (hop : op < 64) : encR op t d a b f < 4294967296 := by
  simp only [encR]; omega

theorem encR_at_0_2 (op t d a b f : Nat)  :
    bitsAt (encR op t d a b f) 0 2 = f % 4 := by
  simp only [encR, bitsAt, Nat.shiftRight_eq_div_pow]; omega

theorem encR_at_0_3 (op t d a b f : Nat)  :
    bitsAt (encR op t d a b f) 0 3 = f % 8 := by
  simp only [encR, bitsAt, Nat.shiftRight_eq_div_pow]; omega

theorem encR_at_0_4 (op t d a b f : Nat) (hf : f < 16) :
    bitsAt (encR op t d a b f) 0 4 = f := by
  simp only [encR, bitsAt, Nat.shiftRight_eq_div_pow]; omega

theorem encR_at_0_10 (op t d a b f : Nat) (hf : f < 16) (hb : b < 64) :
    bitsAt (encR op t d a b f) 0 10 = b * 16 + f := by
  simp only [encR, bitsAt, Nat.shiftRight_eq_div_pow]; omega

theorem encR_at_0_22 (op t d a b f : Nat) (hf : f < 16) (hb : b < 64) (ha : a < 64) (hd : d < 64) :
    bitsAt (encR op t d a b f) 0 22 = d * 65536 + a * 1024 + b * 16 + f := by
  simp only [encR, bitsAt, Nat.shiftRight_eq_div_pow]; omega

theorem encR_at_0_26 (op t d a b f : Nat) (hf : f < 16) (hb : b < 64) (ha : a < 64) (hd : d < 64) (ht : t < 16) :
    bitsAt (encR op t d a b f) 0 26 = t * 4194304 + d * 65536 + a * 1024 + b * 16 + f := by
  simp only [encR, bitsAt, Nat.shiftRight_eq_div_pow]; omega

theorem encR_at_2_2 (op t d a b f : Nat) (hf : f < 16) :
    bitsAt (encR op t d a b f) 2 2 = f / 4 := by
  simp only [encR, bitsAt, Nat.shiftRight_eq_div_pow]; omega

theorem encR_at_3_1 (op t d a b f : Nat) (hf : f < 16) :
    bitsAt (encR op t d a b f) 3 1 = f / 8 := by
  simp only [encR, bitsAt, Nat.shiftRight_eq_div_pow]; omega

theorem encR_at_4_1 (op t d a b f : Nat) (hf : f < 16) :
    bitsAt (encR op t d a b f) 4 1 = b % 2 := by
  simp only [encR, bitsAt, Nat.shiftRight_eq_div_pow]; omega

theorem encR_at_4_2 (op t d a b f : Nat) (hf : f < 16) :
    bitsAt (encR op t d a b f) 4 2 = b % 4 := by
  simp only [encR, bitsAt, Nat.shiftRight_eq_div_pow]; omega

theorem encR_at_4_3 (op t d a b f : Nat) (hf : f < 16) :
    bitsAt (encR op t d a b f) 4 3 = b % 8 := by
  simp only [encR, bitsAt, Nat.shiftRight_eq_div_pow]; omega

theorem encR_at_4_6 (op t d a b f : Nat) (hf : f < 16) (hb : b < 64) :
    bitsAt (encR op t d a b f) 4 6 = b := by
  simp only [encR, bitsAt, Nat.shiftRight_eq_div_pow]; omega

theorem encR_at_4_12 (op t d a b f : Nat) (hf : f < 16) (hb : b < 64) (ha : a < 64) :
    bitsAt (encR op t d a b f) 4 12 = a * 64 + b := by
  simp only [encR, bitsAt, Nat.shiftRight_eq_div_pow]; omega

theorem encR_at_5_2 (op t d a b f : Nat) (hf : f < 16) :
    bitsAt (encR op t d a b f) 5 2 = b / 2 % 4 := by
  simp only [encR, bitsAt, Nat.shiftRight_eq_div_pow]; omega

theorem encR_at_6_4 (op t d a b f : Nat) (hf : f < 16) (hb : b < 64) :
    bitsAt (encR op t d a b f) 6 4 = b / 4 := by
  simp only [encR, bitsAt, Nat.shiftRight_eq_div_pow]; omega

theorem encR_at_7_3 (op t d a b f : Nat) (hf : f < 16) (hb : b < 64) :
    bitsAt (encR op t d a b f) 7 3 = b / 8 := by
  simp only [encR, bitsAt, Nat.shiftRight_eq_div_pow]; omega

theorem encR_at_10_3 (op t d a b f : Nat) (hf : f < 16) (hb : b < 64) :
    bitsAt (encR op t d a b f) 10 3 = a % 8 := by
  simp only [encR, bitsAt, Nat.shiftRight_eq_div_pow]; omega

theorem encR_at_10_6 (op t d a b f : Nat) (hf : f < 16) (hb : b < 64) (ha : a < 64) :
    bitsAt (encR op t d a b f) 10 6 = a := by
  simp only [encR, bitsAt, Nat.shiftRight_eq_div_pow]; omega

theorem encR_at_13_3 (op t d a b f : Nat) (hf : f < 16) (hb : b < 64) (ha : a < 64) :
    bitsAt (encR op t d a b f) 13 3 = a / 8 := by
  simp only [encR, bitsAt, Nat.shiftRight_eq_div_pow]; omega

theorem encR_at_16_3 (op t d a b f : Nat) (hf : f < 16) (hb : b < 64) (ha : a < 64) :
    bitsAt (encR op t d a b f) 16 3 = d % 8 := by
  simp only [encR, bitsAt, Nat.shiftRight_eq_div_pow]; omega

theorem encR_at_16_6 (op t d a b f : Nat) (hf : f < 16) (hb : b < 64) (ha : a < 64) (hd : d < 64) :
    bitsAt (encR op t d a b f) 16 6 = d := by
  simp only [encR, bitsAt, Nat.shiftRight_eq_div_pow]; omega

theorem encR_at_16_7 (op t d a b f : Nat) (hf : f < 16) (hb : b < 64) (ha : a < 64) (hd : d < 64) :
    bitsAt (encR op t d a b f) 16 7 = (t % 2) * 64 + d := by
  simp only [encR, bitsAt, Nat.shiftRight_eq_div_pow]; omega

theorem encR_at_16_10 (op t d a b f : Nat) (hf : f < 16) (hb : b < 64) (ha : a < 64) (hd : d < 64) (ht : t < 16) :
    bitsAt (encR op t d a b f) 16 10 = t * 64 + d := by
  simp only [encR, bitsAt, Nat.shiftRight_eq_div_pow]; omega

theorem encR_at_19_7 (op t d a b f : Nat) (hf : f < 16) (hb : b < 64) (ha : a < 64) (hd : d < 64) (ht : t < 16) :
    bitsAt (encR op t d a b f) 19 7 = t * 8 + d / 8 := by
  simp only [encR, bitsAt, Nat.shiftRight_eq_div_pow]; omega

theorem encR_at_22_1 (op t d a b f : Nat) (hf : f < 16) (hb : b < 64) (ha : a < 64) (hd : d < 64) :
    bitsAt (encR op t d a b f) 22 1 = t % 2 := by
  simp only [encR, bitsAt, Nat.shiftRight_eq_div_pow]; omega

theorem encR_at_22_4 (op t d a b f : Nat) (hf : f < 16) (hb : b < 64) (ha : a < 64) (hd : d < 64) (ht : t < 16) :
    bitsAt (encR op t d a b f) 22 4 = t := by
  simp only [encR, bitsAt, Nat.shiftRight_eq_div_pow]; omega

theorem encR_at_23_1 (op t d a b f : Nat) (hf : f < 16) (hb : b < 64) (ha : a < 64) (hd : d < 64) :
    bitsAt (encR op t d a b f) 23 1 = t / 2 % 2 := by
  simp only [encR, bitsAt, Nat.shiftRight_eq_div_pow]; omega

theorem encR_at_23_3 (op t d a b f : Nat) (hf : f < 16) (hb : b < 64) (ha : a < 64) (hd : d < 64) (ht : t < 16) :
    bitsAt (encR op t d a b f) 23 3 = t / 2 := by
  simp only [encR, bitsAt, Nat.shiftRight_eq_div_pow]; omega

theorem encR_at_24_2 (op t d a b f : Nat) (hf : f < 16) (hb : b < 64) (ha : a < 64) (hd : d < 64) (ht : t < 16) :
    bitsAt (encR op t d a b f) 24 2 = t / 4 := by
  simp only [encR, bitsAt, Nat.shiftRight_eq_div_pow]; omega

theorem encR_at_26_6 (op t d a b f : Nat) (hf : f < 16) (hb : b < 64) (ha : a < 64) (hd : d < 64) (ht : t < 16) (hop : op < 64) :
    bitsAt (encR op t d a b f) 26 6 = op := by
  simp only [encR, bitsAt, Nat.shiftRight_eq_div_pow]; omega

/-! ## Format I -/

theorem encI_lt (op t d a k : Nat) (hk : k < 1024) (ha : a < 64) (hd : d < 64) (ht : t < 16) (hop : op < 64) : encI op t d a k < 4294967296 := by
  simp only [encI]; omega

theorem encI_at_0_1 (op t d a k : Nat)  :
    bitsAt (encI op t d a k) 0 1 = k % 2 := by
  simp only [encI, bitsAt, Nat.shiftRight_eq_div_pow]; omega

theorem encI_at_0_2 (op t d a k : Nat)  :
    bitsAt (encI op t d a k) 0 2 = k % 4 := by
  simp only [encI, bitsAt, Nat.shiftRight_eq_div_pow]; omega

theorem encI_at_0_3 (op t d a k : Nat)  :
    bitsAt (encI op t d a k) 0 3 = k % 8 := by
  simp only [encI, bitsAt, Nat.shiftRight_eq_div_pow]; omega

theorem encI_at_0_4 (op t d a k : Nat)  :
    bitsAt (encI op t d a k) 0 4 = k % 16 := by
  simp only [encI, bitsAt, Nat.shiftRight_eq_div_pow]; omega

theorem encI_at_0_6 (op t d a k : Nat)  :
    bitsAt (encI op t d a k) 0 6 = k % 64 := by
  simp only [encI, bitsAt, Nat.shiftRight_eq_div_pow]; omega

theorem encI_at_0_9 (op t d a k : Nat)  :
    bitsAt (encI op t d a k) 0 9 = k % 512 := by
  simp only [encI, bitsAt, Nat.shiftRight_eq_div_pow]; omega

theorem encI_at_0_10 (op t d a k : Nat) (hk : k < 1024) :
    bitsAt (encI op t d a k) 0 10 = k := by
  simp only [encI, bitsAt, Nat.shiftRight_eq_div_pow]; omega

theorem encI_at_1_9 (op t d a k : Nat) (hk : k < 1024) :
    bitsAt (encI op t d a k) 1 9 = k / 2 := by
  simp only [encI, bitsAt, Nat.shiftRight_eq_div_pow]; omega

theorem encI_at_2_8 (op t d a k : Nat) (hk : k < 1024) :
    bitsAt (encI op t d a k) 2 8 = k / 4 := by
  simp only [encI, bitsAt, Nat.shiftRight_eq_div_pow]; omega

theorem encI_at_2_24 (op t d a k : Nat) (hk : k < 1024) (ha : a < 64) (hd : d < 64) (ht : t < 16) :
    bitsAt (encI op t d a k) 2 24 = t * 1048576 + d * 16384 + a * 256 + k / 4 := by
  simp only [encI, bitsAt, Nat.shiftRight_eq_div_pow]; omega

theorem encI_at_3_7 (op t d a k : Nat) (hk : k < 1024) :
    bitsAt (encI op t d a k) 3 7 = k / 8 := by
  simp only [encI, bitsAt, Nat.shiftRight_eq_div_pow]; omega

theorem encI_at_4_12 (op t d a k : Nat) (hk : k < 1024) (ha : a < 64) :
    bitsAt (encI op t d a k) 4 12 = a * 64 + k / 16 := by
  simp only [encI, bitsAt, Nat.shiftRight_eq_div_pow]; omega

theorem encI_at_6_4 (op t d a k : Nat) (hk : k < 1024) :
    bitsAt (encI op t d a k) 6 4 = k / 64 := by
  simp only [encI, bitsAt, Nat.shiftRight_eq_div_pow]; omega

theorem encI_at_8_2 (op t d a k : Nat) (hk : k < 1024) :
    bitsAt (encI op t d a k) 8 2 = k / 256 := by
  simp only [encI, bitsAt, Nat.shiftRight_eq_div_pow]; omega

theorem encI_at_9_1 (op t d a k : Nat) (hk : k < 1024) :
    bitsAt (encI op t d a k) 9 1 = k / 512 := by
  simp only [encI, bitsAt, Nat.shiftRight_eq_div_pow]; omega

theorem encI_at_10_6 (op t d a k : Nat) (hk : k < 1024) (ha : a < 64) :
    bitsAt (encI op t d a k) 10 6 = a := by
  simp only [encI, bitsAt, Nat.shiftRight_eq_div_pow]; omega

theorem encI_at_10_12 (op t d a k : Nat) (hk : k < 1024) (ha : a < 64) (hd : d < 64) :
    bitsAt (encI op t d a k) 10 12 = d * 64 + a := by
  simp only [encI, bitsAt, Nat.shiftRight_eq_div_pow]; omega

theorem encI_at_10_16 (op t d a k : Nat) (hk : k < 1024) (ha : a < 64) (hd : d < 64) (ht : t < 16) :
    bitsAt (encI op t d a k) 10 16 = t * 4096 + d * 64 + a := by
  simp only [encI, bitsAt, Nat.shiftRight_eq_div_pow]; omega

theorem encI_at_16_3 (op t d a k : Nat) (hk : k < 1024) (ha : a < 64) :
    bitsAt (encI op t d a k) 16 3 = d % 8 := by
  simp only [encI, bitsAt, Nat.shiftRight_eq_div_pow]; omega

theorem encI_at_16_6 (op t d a k : Nat) (hk : k < 1024) (ha : a < 64) (hd : d < 64) :
    bitsAt (encI op t d a k) 16 6 = d := by
  simp only [encI, bitsAt, Nat.shiftRight_eq_div_pow]; omega

theorem encI_at_16_10 (op t d a k : Nat) (hk : k < 1024) (ha : a < 64) (hd : d < 64) (ht : t < 16) :
    bitsAt (encI op t d a k) 16 10 = t * 64 + d := by
  simp only [encI, bitsAt, Nat.shiftRight_eq_div_pow]; omega

theorem encI_at_19_4 (op t d a k : Nat) (hk : k < 1024) (ha : a < 64) (hd : d < 64) :
    bitsAt (encI op t d a k) 19 4 = (t % 2) * 8 + d / 8 := by
  simp only [encI, bitsAt, Nat.shiftRight_eq_div_pow]; omega

theorem encI_at_19_7 (op t d a k : Nat) (hk : k < 1024) (ha : a < 64) (hd : d < 64) (ht : t < 16) :
    bitsAt (encI op t d a k) 19 7 = t * 8 + d / 8 := by
  simp only [encI, bitsAt, Nat.shiftRight_eq_div_pow]; omega

theorem encI_at_22_1 (op t d a k : Nat) (hk : k < 1024) (ha : a < 64) (hd : d < 64) :
    bitsAt (encI op t d a k) 22 1 = t % 2 := by
  simp only [encI, bitsAt, Nat.shiftRight_eq_div_pow]; omega

theorem encI_at_22_4 (op t d a k : Nat) (hk : k < 1024) (ha : a < 64) (hd : d < 64) (ht : t < 16) :
    bitsAt (encI op t d a k) 22 4 = t := by
  simp only [encI, bitsAt, Nat.shiftRight_eq_div_pow]; omega

theorem encI_at_23_3 (op t d a k : Nat) (hk : k < 1024) (ha : a < 64) (hd : d < 64) (ht : t < 16) :
    bitsAt (encI op t d a k) 23 3 = t / 2 := by
  simp only [encI, bitsAt, Nat.shiftRight_eq_div_pow]; omega

theorem encI_at_26_6 (op t d a k : Nat) (hk : k < 1024) (ha : a < 64) (hd : d < 64) (ht : t < 16) (hop : op < 64) :
    bitsAt (encI op t d a k) 26 6 = op := by
  simp only [encI, bitsAt, Nat.shiftRight_eq_div_pow]; omega

/-! ## Format L -/

theorem encL_lt (op t d k : Nat) (hk : k < 65536) (hd : d < 64) (ht : t < 16) (hop : op < 64) : encL op t d k < 4294967296 := by
  simp only [encL]; omega

theorem encL_at_0_16 (op t d k : Nat) (hk : k < 65536) :
    bitsAt (encL op t d k) 0 16 = k := by
  simp only [encL, bitsAt, Nat.shiftRight_eq_div_pow]; omega

theorem encL_at_0_26 (op t d k : Nat) (hk : k < 65536) (hd : d < 64) (ht : t < 16) :
    bitsAt (encL op t d k) 0 26 = t * 4194304 + d * 65536 + k := by
  simp only [encL, bitsAt, Nat.shiftRight_eq_div_pow]; omega

theorem encL_at_16_3 (op t d k : Nat) (hk : k < 65536) :
    bitsAt (encL op t d k) 16 3 = d % 8 := by
  simp only [encL, bitsAt, Nat.shiftRight_eq_div_pow]; omega

theorem encL_at_16_6 (op t d k : Nat) (hk : k < 65536) (hd : d < 64) :
    bitsAt (encL op t d k) 16 6 = d := by
  simp only [encL, bitsAt, Nat.shiftRight_eq_div_pow]; omega

theorem encL_at_16_10 (op t d k : Nat) (hk : k < 65536) (hd : d < 64) (ht : t < 16) :
    bitsAt (encL op t d k) 16 10 = t * 64 + d := by
  simp only [encL, bitsAt, Nat.shiftRight_eq_div_pow]; omega

theorem encL_at_19_3 (op t d k : Nat) (hk : k < 65536) (hd : d < 64) :
    bitsAt (encL op t d k) 19 3 = d / 8 := by
  simp only [encL, bitsAt, Nat.shiftRight_eq_div_pow]; omega

theorem encL_at_19_7 (op t d k : Nat) (hk : k < 65536) (hd : d < 64) (ht : t < 16) :
    bitsAt (encL op t d k) 19 7 = t * 8 + d / 8 := by
  simp only [encL, bitsAt, Nat.shiftRight_eq_div_pow]; omega

theorem encL_at_22_1 (op t d k : Nat) (hk : k < 65536) (hd : d < 64) :
    bitsAt (encL op t d k) 22 1 = t % 2 := by
  simp only [encL, bitsAt, Nat.shiftRight_eq_div_pow]; omega

theorem encL_at_22_4 (op t d k : Nat) (hk : k < 65536) (hd : d < 64) (ht : t < 16) :
    bitsAt (encL op t d k) 22 4 = t := by
  simp only [encL, bitsAt, Nat.shiftRight_eq_div_pow]; omega

theorem encL_at_23_3 (op t d k : Nat) (hk : k < 65536) (hd : d < 64) (ht : t < 16) :
    bitsAt (encL op t d k) 23 3 = t / 2 := by
  simp only [encL, bitsAt, Nat.shiftRight_eq_div_pow]; omega

theorem encL_at_26_6 (op t d k : Nat) (hk : k < 65536) (hd : d < 64) (ht : t < 16) (hop : op < 64) :
    bitsAt (encL op t d k) 26 6 = op := by
  simp only [encL, bitsAt, Nat.shiftRight_eq_div_pow]; omega

/-! ## Format J -/

theorem encJ_lt (op o : Nat) (ho : o < 8388608) (hop : op < 64) : encJ op o < 4294967296 := by
  simp only [encJ]; omega

theorem encJ_at_0_23 (op o : Nat) (ho : o < 8388608) :
    bitsAt (encJ op o) 0 23 = o := by
  simp only [encJ, bitsAt, Nat.shiftRight_eq_div_pow]; omega

theorem encJ_at_23_3 (op o : Nat) (ho : o < 8388608) :
    bitsAt (encJ op o) 23 3 = 0 := by
  simp only [encJ, bitsAt, Nat.shiftRight_eq_div_pow]; omega

theorem encJ_at_26_6 (op o : Nat) (ho : o < 8388608) (hop : op < 64) :
    bitsAt (encJ op o) 26 6 = op := by
  simp only [encJ, bitsAt, Nat.shiftRight_eq_div_pow]; omega

/-! ## Format T -/

theorem encT_lt (op t c wa wb mod f : Nat) (hf : f < 16) (hmod : mod < 512) (hwb : wb < 8) (hwa : wa < 8) (hc : c < 8) (ht : t < 16) (hop : op < 64) : encT op t c wa wb mod f < 4294967296 := by
  simp only [encT]; omega

theorem encT_at_0_4 (op t c wa wb mod f : Nat) (hf : f < 16) :
    bitsAt (encT op t c wa wb mod f) 0 4 = f := by
  simp only [encT, bitsAt, Nat.shiftRight_eq_div_pow]; omega

theorem encT_at_0_16 (op t c wa wb mod f : Nat) (hf : f < 16) (hmod : mod < 512) (hwb : wb < 8) :
    bitsAt (encT op t c wa wb mod f) 0 16 = wb * 8192 + mod * 16 + f := by
  simp only [encT, bitsAt, Nat.shiftRight_eq_div_pow]; omega

theorem encT_at_0_19 (op t c wa wb mod f : Nat) (hf : f < 16) (hmod : mod < 512) (hwb : wb < 8) (hwa : wa < 8) :
    bitsAt (encT op t c wa wb mod f) 0 19 = wa * 65536 + wb * 8192 + mod * 16 + f := by
  simp only [encT, bitsAt, Nat.shiftRight_eq_div_pow]; omega

theorem encT_at_4_1 (op t c wa wb mod f : Nat) (hf : f < 16) :
    bitsAt (encT op t c wa wb mod f) 4 1 = mod % 2 := by
  simp only [encT, bitsAt, Nat.shiftRight_eq_div_pow]; omega

theorem encT_at_5_5 (op t c wa wb mod f : Nat) (hf : f < 16) :
    bitsAt (encT op t c wa wb mod f) 5 5 = mod / 2 % 32 := by
  simp only [encT, bitsAt, Nat.shiftRight_eq_div_pow]; omega

theorem encT_at_5_8 (op t c wa wb mod f : Nat) (hf : f < 16) (hmod : mod < 512) :
    bitsAt (encT op t c wa wb mod f) 5 8 = mod / 2 := by
  simp only [encT, bitsAt, Nat.shiftRight_eq_div_pow]; omega

theorem encT_at_5_11 (op t c wa wb mod f : Nat) (hf : f < 16) (hmod : mod < 512) (hwb : wb < 8) :
    bitsAt (encT op t c wa wb mod f) 5 11 = wb * 256 + mod / 2 := by
  simp only [encT, bitsAt, Nat.shiftRight_eq_div_pow]; omega

theorem encT_at_10_3 (op t c wa wb mod f : Nat) (hf : f < 16) (hmod : mod < 512) :
    bitsAt (encT op t c wa wb mod f) 10 3 = mod / 64 := by
  simp only [encT, bitsAt, Nat.shiftRight_eq_div_pow]; omega

theorem encT_at_13_3 (op t c wa wb mod f : Nat) (hf : f < 16) (hmod : mod < 512) (hwb : wb < 8) :
    bitsAt (encT op t c wa wb mod f) 13 3 = wb := by
  simp only [encT, bitsAt, Nat.shiftRight_eq_div_pow]; omega

theorem encT_at_16_3 (op t c wa wb mod f : Nat) (hf : f < 16) (hmod : mod < 512) (hwb : wb < 8) (hwa : wa < 8) :
    bitsAt (encT op t c wa wb mod f) 16 3 = wa := by
  simp only [encT, bitsAt, Nat.shiftRight_eq_div_pow]; omega

theorem encT_at_19_3 (op t c wa wb mod f : Nat) (hf : f < 16) (hmod : mod < 512) (hwb : wb < 8) (hwa : wa < 8) (hc : c < 8) :
    bitsAt (encT op t c wa wb mod f) 19 3 = c := by
  simp only [encT, bitsAt, Nat.shiftRight_eq_div_pow]; omega

theorem encT_at_22_1 (op t c wa wb mod f : Nat) (hf : f < 16) (hmod : mod < 512) (hwb : wb < 8) (hwa : wa < 8) (hc : c < 8) :
    bitsAt (encT op t c wa wb mod f) 22 1 = t % 2 := by
  simp only [encT, bitsAt, Nat.shiftRight_eq_div_pow]; omega

theorem encT_at_23_3 (op t c wa wb mod f : Nat) (hf : f < 16) (hmod : mod < 512) (hwb : wb < 8) (hwa : wa < 8) (hc : c < 8) (ht : t < 16) :
    bitsAt (encT op t c wa wb mod f) 23 3 = t / 2 := by
  simp only [encT, bitsAt, Nat.shiftRight_eq_div_pow]; omega

theorem encT_at_26_6 (op t c wa wb mod f : Nat) (hf : f < 16) (hmod : mod < 512) (hwb : wb < 8) (hwa : wa < 8) (hc : c < 8) (ht : t < 16) (hop : op < 64) :
    bitsAt (encT op t c wa wb mod f) 26 6 = op := by
  simp only [encT, bitsAt, Nat.shiftRight_eq_div_pow]; omega

/-! ## Format Loop -/

theorem encLoop_lt (op t l b c : Nat) (hc : c < 1024) (hb : b < 1024) (hl : l < 4) (ht : t < 16) (hop : op < 64) : encLoop op t l b c < 4294967296 := by
  simp only [encLoop]; omega

theorem encLoop_at_0_4 (op t l b c : Nat)  :
    bitsAt (encLoop op t l b c) 0 4 = c % 16 := by
  simp only [encLoop, bitsAt, Nat.shiftRight_eq_div_pow]; omega

theorem encLoop_at_0_10 (op t l b c : Nat) (hc : c < 1024) :
    bitsAt (encLoop op t l b c) 0 10 = c := by
  simp only [encLoop, bitsAt, Nat.shiftRight_eq_div_pow]; omega

theorem encLoop_at_4_6 (op t l b c : Nat) (hc : c < 1024) :
    bitsAt (encLoop op t l b c) 4 6 = c / 16 := by
  simp only [encLoop, bitsAt, Nat.shiftRight_eq_div_pow]; omega

theorem encLoop_at_10_10 (op t l b c : Nat) (hc : c < 1024) (hb : b < 1024) :
    bitsAt (encLoop op t l b c) 10 10 = b := by
  simp only [encLoop, bitsAt, Nat.shiftRight_eq_div_pow]; omega

theorem encLoop_at_20_2 (op t l b c : Nat) (hc : c < 1024) (hb : b < 1024) (hl : l < 4) :
    bitsAt (encLoop op t l b c) 20 2 = l := by
  simp only [encLoop, bitsAt, Nat.shiftRight_eq_div_pow]; omega

theorem encLoop_at_22_1 (op t l b c : Nat) (hc : c < 1024) (hb : b < 1024) (hl : l < 4) :
    bitsAt (encLoop op t l b c) 22 1 = t % 2 := by
  simp only [encLoop, bitsAt, Nat.shiftRight_eq_div_pow]; omega

theorem encLoop_at_23_3 (op t l b c : Nat) (hc : c < 1024) (hb : b < 1024) (hl : l < 4) (ht : t < 16) :
    bitsAt (encLoop op t l b c) 23 3 = t / 2 := by
  simp only [encLoop, bitsAt, Nat.shiftRight_eq_div_pow]; omega

theorem encLoop_at_26_6 (op t l b c : Nat) (hc : c < 1024) (hb : b < 1024) (hl : l < 4) (ht : t < 16) (hop : op < 64) :
    bitsAt (encLoop op t l b c) 26 6 = op := by
  simp only [encLoop, bitsAt, Nat.shiftRight_eq_div_pow]; omega

end Sys2Proof
end

