-- ==== Sys2Proof/Laws/Exec.lean ====
section
/-! SUPPORT. What `exec` does with each constructor: one call of its meaning. -/

namespace Sys2Proof.Machine

@[simp] theorem exec_nop (t s) : exec (.nop t) s = execNop t s := rfl
@[simp] theorem exec_idle (t n s) : exec (.idle t n) s = execIdle t n s := rfl
@[simp] theorem exec_atTake (t d n s) : exec (.atTake t d n) s = execAtTake t d n s := rfl
@[simp] theorem exec_slate (t g k s) : exec (.slate t g k) s = execSlate t g k s := rfl
@[simp] theorem exec_rdv (t m k s) : exec (.rdv t m k) s = execRdv t m k s := rfl
@[simp] theorem exec_loop (t l b c s) : exec (.loop t l b c) s = execLoop t l b c s := rfl
@[simp] theorem exec_loopr (t l b r s) : exec (.loopr t l b r) s = execLoopr t l b r s := rfl
@[simp] theorem exec_br (o s) : exec (.br o) s = execBr o s := rfl
@[simp] theorem exec_bz (a o s) : exec (.bz a o) s = execBz a o s := rfl
@[simp] theorem exec_bnz (a o s) : exec (.bnz a o) s = execBnz a o s := rfl
@[simp] theorem exec_call (o s) : exec (.call o) s = execCall o s := rfl
@[simp] theorem exec_callr (a s) : exec (.callr a) s = execCallr a s := rfl
@[simp] theorem exec_ret (s) : exec .ret s = execRet s := rfl
@[simp] theorem exec_lbrk (s) : exec .lbrk s = execLbrk s := rfl
@[simp] theorem exec_add (t d a b s) : exec (.add t d a b) s = execAdd t d a b s := rfl
@[simp] theorem exec_sub (t d a b s) : exec (.sub t d a b) s = execSub t d a b s := rfl
@[simp] theorem exec_mul (t d a b s) : exec (.mul t d a b) s = execMul t d a b s := rfl
@[simp] theorem exec_mulh (t d a b s) : exec (.mulh t d a b) s = execMulh t d a b s := rfl
@[simp] theorem exec_mulhn (t d a b s) : exec (.mulhn t d a b) s = execMulhn t d a b s := rfl
@[simp] theorem exec_and (t d a b s) : exec (.and t d a b) s = execAnd t d a b s := rfl
@[simp] theorem exec_or (t d a b s) : exec (.or t d a b) s = execOr t d a b s := rfl
@[simp] theorem exec_xor (t d a b s) : exec (.xor t d a b) s = execXor t d a b s := rfl
@[simp] theorem exec_shl (t d a b s) : exec (.shl t d a b) s = execShl t d a b s := rfl
@[simp] theorem exec_shr (t d a b s) : exec (.shr t d a b) s = execShr t d a b s := rfl
@[simp] theorem exec_sra (t d a b s) : exec (.sra t d a b) s = execSra t d a b s := rfl
@[simp] theorem exec_min (t d a b s) : exec (.min t d a b) s = execMin t d a b s := rfl
@[simp] theorem exec_max (t d a b s) : exec (.max t d a b) s = execMax t d a b s := rfl
@[simp] theorem exec_minn (t d a b s) : exec (.minn t d a b) s = execMinn t d a b s := rfl
@[simp] theorem exec_maxn (t d a b s) : exec (.maxn t d a b) s = execMaxn t d a b s := rfl
@[simp] theorem exec_mad (t d a b s) : exec (.mad t d a b) s = execMad t d a b s := rfl
@[simp] theorem exec_slt (t d a b s) : exec (.slt t d a b) s = execSlt t d a b s := rfl
@[simp] theorem exec_sltn (t d a b s) : exec (.sltn t d a b) s = execSltn t d a b s := rfl
@[simp] theorem exec_seq (t d a b s) : exec (.seq t d a b) s = execSeq t d a b s := rfl
@[simp] theorem exec_sel (t d a b s) : exec (.sel t d a b) s = execSel t d a b s := rfl
@[simp] theorem exec_clz (t d a s) : exec (.clz t d a) s = execClz t d a s := rfl
@[simp] theorem exec_popc (t d a s) : exec (.popc t d a) s = execPopc t d a s := rfl
@[simp] theorem exec_mov (t d a s) : exec (.mov t d a) s = execMov t d a s := rfl
@[simp] theorem exec_addi (t d a k s) : exec (.addi t d a k) s = execAddi t d a k s := rfl
@[simp] theorem exec_andi (t d a k s) : exec (.andi t d a k) s = execAndi t d a k s := rfl
@[simp] theorem exec_ori (t d a k s) : exec (.ori t d a k) s = execOri t d a k s := rfl
@[simp] theorem exec_xori (t d a k s) : exec (.xori t d a k) s = execXori t d a k s := rfl
@[simp] theorem exec_shli (t d a sc s) : exec (.shli t d a sc) s = execShli t d a sc s := rfl
@[simp] theorem exec_shri (t d a sc s) : exec (.shri t d a sc) s = execShri t d a sc s := rfl
@[simp] theorem exec_srai (t d a sc s) : exec (.srai t d a sc) s = execSrai t d a sc s := rfl
@[simp] theorem exec_movi (t d k s) : exec (.movi t d k) s = execMovi t d k s := rfl
@[simp] theorem exec_movhi (t d k s) : exec (.movhi t d k) s = execMovhi t d k s := rfl
@[simp] theorem exec_mfs (t d n s) : exec (.mfs t d n) s = execMfs t d n s := rfl
@[simp] theorem exec_mts (t a n s) : exec (.mts t a n) s = execMts t a n s := rfl
@[simp] theorem exec_pcmp (p a b c s) : exec (.pcmp p a b c) s = execPcmp p a b c s := rfl
@[simp] theorem exec_pcmpi (c p a k s) : exec (.pcmpi c p a k) s = execPcmpi c p a k s := rfl
@[simp] theorem exec_plog (d a b f s) : exec (.plog d a b f) s = execPlog d a b f s := rfl
@[simp] theorem exec_pmovToPred (p a s) : exec (.pmovToPred p a) s = execPmovToPred p a s := rfl
@[simp] theorem exec_pmovFromPred (d p s) : exec (.pmovFromPred d p) s = execPmovFromPred d p s := rfl
@[simp] theorem exec_bp (p o s) : exec (.bp p o) s = execBp p o s := rfl
@[simp] theorem exec_bnp (p o s) : exec (.bnp p o) s = execBnp p o s := rfl
@[simp] theorem exec_selp (d a b p s) : exec (.selp d a b p) s = execSelp d a b p s := rfl
@[simp] theorem exec_sig (a e s) : exec (.sig a e) s = execSig a e s := rfl
@[simp] theorem exec_endJob (sc s) : exec (.endJob sc) s = execEndJob sc s := rfl
@[simp] theorem exec_trap (k s) : exec (.trap k) s = execTrap k s := rfl
@[simp] theorem exec_eret (s) : exec .eret s = execEret s := rfl
@[simp] theorem exec_bqry (d k s) : exec (.bqry d k) s = execBqry d k s := rfl
@[simp] theorem exec_joule (d k s) : exec (.joule d k) s = execJoule d k s := rfl
@[simp] theorem exec_varreg (q sc s) : exec (.varreg q sc) s = execVarreg q sc s := rfl
@[simp] theorem exec_thrack (a s) : exec (.thrack a) s = execThrack a s := rfl
@[simp] theorem exec_eclass (d c s) : exec (.eclass d c) s = execEclass d c s := rfl
@[simp] theorem exec_phase (k s) : exec (.phase k) s = execPhase k s := rfl
@[simp] theorem exec_preempt (d a s) : exec (.preempt d a) s = execPreempt d a s := rfl
@[simp] theorem exec_qsusp (d a s) : exec (.qsusp d a) s = execQsusp d a s := rfl
@[simp] theorem exec_qres (d a s) : exec (.qres d a) s = execQres d a s := rfl
@[simp] theorem exec_semmap (a b s) : exec (.semmap a b) s = execSemmap a b s := rfl
@[simp] theorem exec_drainm (d a s) : exec (.drainm d a) s = execDrainm d a s := rfl
@[simp] theorem exec_rseed (a b s) : exec (.rseed a b) s = execRseed a b s := rfl
@[simp] theorem exec_yield (s) : exec .yield s = execYield s := rfl
@[simp] theorem exec_ald (z d a k s) : exec (.ald z d a k) s = execAld z d a k s := rfl
@[simp] theorem exec_ast (z d a k s) : exec (.ast z d a k) s = execAst z d a k s := rfl
@[simp] theorem exec_ard (q a k s) : exec (.ard q a k) s = execArd q a k s := rfl
@[simp] theorem exec_awr (q a k s) : exec (.awr q a k) s = execAwr q a k s := rfl
@[simp] theorem exec_afill (q a w s) : exec (.afill q a w) s = execAfill q a w s := rfl
@[simp] theorem exec_adrain (q a w s) : exec (.adrain q a w) s = execAdrain q a w s := rfl
@[simp] theorem exec_wset (w a k s) : exec (.wset w a k) s = execWset w a k s := rfl
@[simp] theorem exec_wadv (w n s) : exec (.wadv w n) s = execWadv w n s := rfl
@[simp] theorem exec_gld (z d a b c s) : exec (.gld z d a b c) s = execGld z d a b c s := rfl
@[simp] theorem exec_gst (z d a b c s) : exec (.gst z d a b c) s = execGst z d a b c s := rfl
@[simp] theorem exec_ggath (z q a b c s) : exec (.ggath z q a b c) s = execGgath z q a b c s := rfl
@[simp] theorem exec_gscat (z q a b c s) : exec (.gscat z q a b c) s = execGscat z q a b c s := rfl
@[simp] theorem exec_aamo (o d a sc r w c s) : exec (.aamo o d a sc r w c) s = execAamo o d a sc r w c s := rfl
@[simp] theorem exec_acas (d a sc r w c s) : exec (.acas d a sc r w c) s = execAcas d a sc r w c s := rfl
@[simp] theorem exec_aswp (d a sc r w c s) : exec (.aswp d a sc r w c) s = execAswp d a sc r w c s := rfl
@[simp] theorem exec_samo (o d a sc r w s) : exec (.samo o d a sc r w) s = execSamo o d a sc r w s := rfl
@[simp] theorem exec_rst (z d a k s) : exec (.rst z d a k) s = execRst z d a k s := rfl
@[simp] theorem exec_rld (z d a k s) : exec (.rld z d a k) s = execRld z d a k s := rfl
@[simp] theorem exec_binit (d a k s) : exec (.binit d a k) s = execBinit d a k s := rfl
@[simp] theorem exec_barr (a k s) : exec (.barr a k) s = execBarr a k s := rfl
@[simp] theorem exec_bwait (d a k s) : exec (.bwait d a k) s = execBwait d a k s := rfl
@[simp] theorem exec_btest (d a k s) : exec (.btest d a k) s = execBtest d a k s := rfl
@[simp] theorem exec_fenceAcq (sc m s) : exec (.fenceAcq sc m) s = execFenceAcq sc m s := rfl
@[simp] theorem exec_fenceRel (sc m s) : exec (.fenceRel sc m) s = execFenceRel sc m s := rfl
@[simp] theorem exec_fenceFull (sc m s) : exec (.fenceFull sc m) s = execFenceFull sc m s := rfl
@[simp] theorem exec_fenceAsync (sc m s) : exec (.fenceAsync sc m) s = execFenceAsync sc m s := rfl
@[simp] theorem exec_tlbp (d a s) : exec (.tlbp d a) s = execTlbp d a s := rfl
@[simp] theorem exec_tlbinvPage (a b s) : exec (.tlbinvPage a b) s = execTlbinvPage a b s := rfl
@[simp] theorem exec_tlbinvCtx (a b s) : exec (.tlbinvCtx a b) s = execTlbinvCtx a b s := rfl
@[simp] theorem exec_tlbinvAll (a b s) : exec (.tlbinvAll a b) s = execTlbinvAll a b s := rfl
@[simp] theorem exec_l1opLine (a s) : exec (.l1opLine a) s = execL1opLine a s := rfl
@[simp] theorem exec_l1opAll (a s) : exec (.l1opAll a) s = execL1opAll a s := rfl
@[simp] theorem exec_pref (h a b c s) : exec (.pref h a b c) s = execPref h a b c s := rfl
@[simp] theorem exec_vadd (t d a b ty s) : exec (.vadd t d a b ty) s = execVadd t d a b ty s := rfl
@[simp] theorem exec_vsub (t d a b ty s) : exec (.vsub t d a b ty) s = execVsub t d a b ty s := rfl
@[simp] theorem exec_vmul (t d a b ty s) : exec (.vmul t d a b ty) s = execVmul t d a b ty s := rfl
@[simp] theorem exec_vmadd (t d a b ty s) : exec (.vmadd t d a b ty) s = execVmadd t d a b ty s := rfl
@[simp] theorem exec_vmin (t d a b ty s) : exec (.vmin t d a b ty) s = execVmin t d a b ty s := rfl
@[simp] theorem exec_vmax (t d a b ty s) : exec (.vmax t d a b ty) s = execVmax t d a b ty s := rfl
@[simp] theorem exec_vadds (t d a b ty s) : exec (.vadds t d a b ty) s = execVadds t d a b ty s := rfl
@[simp] theorem exec_vand (t d a b ty s) : exec (.vand t d a b ty) s = execVand t d a b ty s := rfl
@[simp] theorem exec_vor (t d a b ty s) : exec (.vor t d a b ty) s = execVor t d a b ty s := rfl
@[simp] theorem exec_vxor (t d a b ty s) : exec (.vxor t d a b ty) s = execVxor t d a b ty s := rfl
@[simp] theorem exec_vshl (t d a b ty s) : exec (.vshl t d a b ty) s = execVshl t d a b ty s := rfl
@[simp] theorem exec_vshr (t d a b ty s) : exec (.vshr t d a b ty) s = execVshr t d a b ty s := rfl
@[simp] theorem exec_vabs (t d a ty s) : exec (.vabs t d a ty) s = execVabs t d a ty s := rfl
@[simp] theorem exec_vneg (t d a ty s) : exec (.vneg t d a ty) s = execVneg t d a ty s := rfl
@[simp] theorem exec_vrcp (t d a ty s) : exec (.vrcp t d a ty) s = execVrcp t d a ty s := rfl
@[simp] theorem exec_vrsq (t d a ty s) : exec (.vrsq t d a ty) s = execVrsq t d a ty s := rfl
@[simp] theorem exec_vexp (t d a ty s) : exec (.vexp t d a ty) s = execVexp t d a ty s := rfl
@[simp] theorem exec_vpopc (t d a ty s) : exec (.vpopc t d a ty) s = execVpopc t d a ty s := rfl
@[simp] theorem exec_vnot (t d a ty s) : exec (.vnot t d a ty) s = execVnot t d a ty s := rfl
@[simp] theorem exec_vfma (t d a b ty s) : exec (.vfma t d a b ty) s = execVfma t d a b ty s := rfl
@[simp] theorem exec_vcmp (t d a u ty s) : exec (.vcmp t d a u ty) s = execVcmp t d a u ty s := rfl
@[simp] theorem exec_vsel (t d a b ty s) : exec (.vsel t d a b ty) s = execVsel t d a b ty s := rfl
@[simp] theorem exec_vcvt (t d a sc r ty s) : exec (.vcvt t d a sc r ty) s = execVcvt t d a sc r ty s := rfl
@[simp] theorem exec_vqmx (t d a b ty s) : exec (.vqmx t d a b ty) s = execVqmx t d a b ty s := rfl
@[simp] theorem exec_vdqmx (t d a b ty s) : exec (.vdqmx t d a b ty) s = execVdqmx t d a b ty s := rfl
@[simp] theorem exec_vscl (t d a b ty s) : exec (.vscl t d a b ty) s = execVscl t d a b ty s := rfl
@[simp] theorem exec_vred (t d a u ty s) : exec (.vred t d a u ty) s = execVred t d a u ty s := rfl
@[simp] theorem exec_vscan (t d a u ty s) : exec (.vscan t d a u ty) s = execVscan t d a u ty s := rfl
@[simp] theorem exec_vperm (t d a b ty s) : exec (.vperm t d a b ty) s = execVperm t d a b ty s := rfl
@[simp] theorem exec_vrotm (t d a b ty s) : exec (.vrotm t d a b ty) s = execVrotm t d a b ty s := rfl
@[simp] theorem exec_vbcst (t d a ty s) : exec (.vbcst t d a ty) s = execVbcst t d a ty s := rfl
@[simp] theorem exec_vmpush (t a ty s) : exec (.vmpush t a ty) s = execVmpush t a ty s := rfl
@[simp] theorem exec_vminv (t s) : exec (.vminv t) s = execVminv t s := rfl
@[simp] theorem exec_vmpop (t s) : exec (.vmpop t) s = execVmpop t s := rfl
@[simp] theorem exec_vskip (t n s) : exec (.vskip t n) s = execVskip t n s := rfl
@[simp] theorem exec_vidxw (t d a ty s) : exec (.vidxw t d a ty) s = execVidxw t d a ty s := rfl
@[simp] theorem exec_vidxr (t d a ty s) : exec (.vidxr t d a ty) s = execVidxr t d a ty s := rfl
@[simp] theorem exec_vbitt (t d a ty s) : exec (.vbitt t d a ty) s = execVbitt t d a ty s := rfl
@[simp] theorem exec_vbits (t d a ty s) : exec (.vbits t d a ty) s = execVbits t d a ty s := rfl
@[simp] theorem exec_vpopm (t d a s) : exec (.vpopm t d a) s = execVpopm t d a s := rfl
@[simp] theorem exec_vmatch (t d a b ty s) : exec (.vmatch t d a b ty) s = execVmatch t d a b ty s := rfl
@[simp] theorem exec_vlane (t d a ty s) : exec (.vlane t d a ty) s = execVlane t d a ty s := rfl
@[simp] theorem exec_vins (t d a ty s) : exec (.vins t d a ty) s = execVins t d a ty s := rfl
@[simp] theorem exec_vmov (t d w s) : exec (.vmov t d w) s = execVmov t d w s := rfl
@[simp] theorem exec_tshape (t d a b s) : exec (.tshape t d a b) s = execTshape t d a b s := rfl
@[simp] theorem exec_tcfg (t a f s) : exec (.tcfg t a f) s = execTcfg t a f s := rfl
@[simp] theorem exec_tzero (t c s) : exec (.tzero t c) s = execTzero t c s := rfl
@[simp] theorem exec_tmma (t c a b n s) : exec (.tmma t c a b n) s = execTmma t c a b n s := rfl
@[simp] theorem exec_tmmax (t c a b n s) : exec (.tmmax t c a b n) s = execTmmax t c a b n s := rfl
@[simp] theorem exec_tmmat (t c a b n s) : exec (.tmmat t c a b n) s = execTmmat t c a b n s := rfl
@[simp] theorem exec_tmmas (t c a b m n s) : exec (.tmmas t c a b m n) s = execTmmas t c a b m n s := rfl
@[simp] theorem exec_tret (t c a k s) : exec (.tret t c a k) s = execTret t c a k s := rfl
@[simp] theorem exec_tretq (t c a k s) : exec (.tretq t c a k) s = execTretq t c a k s := rfl
@[simp] theorem exec_tspill (t c a s) : exec (.tspill t c a) s = execTspill t c a s := rfl
@[simp] theorem exec_tfill (t c a s) : exec (.tfill t c a) s = execTfill t c a s := rfl
@[simp] theorem exec_tacc (t c sc s) : exec (.tacc t c sc) s = execTacc t c sc s := rfl
@[simp] theorem exec_tstat (t d f s) : exec (.tstat t d f) s = execTstat t d f s := rfl
@[simp] theorem exec_tchk (t d a f s) : exec (.tchk t d a f) s = execTchk t d a f s := rfl
@[simp] theorem exec_holdEnd (core s) : exec (.holdEnd core) s = execHoldEnd core s := rfl
@[simp] theorem exec_trapEntry (core s) : exec (.trapEntry core) s = execTrapEntry core s := rfl
@[simp] theorem exec_haltLineArrival (core s) : exec (.haltLineArrival core) s = execHaltLineArrival core s := rfl
@[simp] theorem exec_dispatchRound (cluster s) : exec (.dispatchRound cluster) s = execDispatchRound cluster s := rfl
@[simp] theorem exec_capacityWaitTimeout (cluster slot s) : exec (.capacityWaitTimeout cluster slot) s = execCapacityWaitTimeout cluster slot s := rfl
@[simp] theorem exec_cardRetire (cluster slot s) : exec (.cardRetire cluster slot) s = execCardRetire cluster slot s := rfl
@[simp] theorem exec_copyGo (core e value s) : exec (.copyGo core e value) s = execCopyGo core e value s := rfl
@[simp] theorem exec_copyCommandStart (core e s) : exec (.copyCommandStart core e) s = execCopyCommandStart core e s := rfl
@[simp] theorem exec_copyBurstComplete (core e s) : exec (.copyBurstComplete core e) s = execCopyBurstComplete core e s := rfl
@[simp] theorem exec_copyFaultTrap (core s) : exec (.copyFaultTrap core) s = execCopyFaultTrap core s := rfl
@[simp] theorem exec_comparedCommandIssue (core s) : exec (.comparedCommandIssue core) s = execComparedCommandIssue core s := rfl
@[simp] theorem exec_thirdRunEnd (core s) : exec (.thirdRunEnd core) s = execThirdRunEnd core s := rfl
@[simp] theorem exec_governorInterval (sense s) : exec (.governorInterval sense) s = execGovernorInterval sense s := rfl
@[simp] theorem exec_evacuationTimeout (island s) : exec (.evacuationTimeout island) s = execEvacuationTimeout island s := rfl
@[simp] theorem exec_levelChange (island s) : exec (.levelChange island) s = execLevelChange island s := rfl
@[simp] theorem exec_phaseCapwaitTimeout (core s) : exec (.phaseCapwaitTimeout core) s = execPhaseCapwaitTimeout core s := rfl
@[simp] theorem exec_droopDetect (island s) : exec (.droopDetect island) s = execDroopDetect island s := rfl
@[simp] theorem exec_droopRecover (island depth s) : exec (.droopRecover island depth) s = execDroopRecover island depth s := rfl
@[simp] theorem exec_scrubRead (unit found s) : exec (.scrubRead unit found) s = execScrubRead unit found s := rfl
@[simp] theorem exec_pageWalkEnd (cluster walk s) : exec (.pageWalkEnd cluster walk) s = execPageWalkEnd cluster walk s := rfl
@[simp] theorem exec_pageRequestAnswer (part value s) : exec (.pageRequestAnswer part value) s = execPageRequestAnswer part value s := rfl
@[simp] theorem exec_shootdownComplete (part s) : exec (.shootdownComplete part) s = execShootdownComplete part s := rfl
@[simp] theorem exec_launchRecordWalk (cluster slot s) : exec (.launchRecordWalk cluster slot) s = execLaunchRecordWalk cluster slot s := rfl
@[simp] theorem exec_launchRecordTimeout (cluster slot s) : exec (.launchRecordTimeout cluster slot) s = execLaunchRecordTimeout cluster slot s := rfl
@[simp] theorem exec_sealFillComplete (frame found s) : exec (.sealFillComplete frame found) s = execSealFillComplete frame found s := rfl
@[simp] theorem exec_resealComplete (frame found s) : exec (.resealComplete frame found) s = execResealComplete frame found s := rfl
@[simp] theorem exec_frameAssign (frame ctx s) : exec (.frameAssign frame ctx) s = execFrameAssign frame ctx s := rfl
@[simp] theorem exec_flushOrder (frame s) : exec (.flushOrder frame) s = execFlushOrder frame s := rfl
@[simp] theorem exec_backInvalidateResponse (line s) : exec (.backInvalidateResponse line) s = execBackInvalidateResponse line s := rfl
@[simp] theorem exec_hostSnoop (line kind s) : exec (.hostSnoop line kind) s = execHostSnoop line kind s := rfl
@[simp] theorem exec_hostMemRead (req addr s) : exec (.hostMemRead req addr) s = execHostMemRead req addr s := rfl
@[simp] theorem exec_hostMemWrite (req addr data s) : exec (.hostMemWrite req addr data) s = execHostMemWrite req addr data s := rfl
@[simp] theorem exec_doorbell (ctx value s) : exec (.doorbell ctx value) s = execDoorbell ctx value s := rfl
@[simp] theorem exec_nopPacket (ctx queue s) : exec (.nopPacket ctx queue) s = execNopPacket ctx queue s := rfl
@[simp] theorem exec_operators (ctx queue s) : exec (.operators ctx queue) s = execOperators ctx queue s := rfl
@[simp] theorem exec_indirect (ctx queue s) : exec (.indirect ctx queue) s = execIndirect ctx queue s := rfl
@[simp] theorem exec_signal (ctx queue s) : exec (.signal ctx queue) s = execSignal ctx queue s := rfl
@[simp] theorem exec_signalPacketPerform (ctx queue s) : exec (.signalPacketPerform ctx queue) s = execSignalPacketPerform ctx queue s := rfl
@[simp] theorem exec_wait (ctx queue s) : exec (.wait ctx queue) s = execWait ctx queue s := rfl
@[simp] theorem exec_waitPacketRelease (ctx queue s) : exec (.waitPacketRelease ctx queue) s = execWaitPacketRelease ctx queue s := rfl
@[simp] theorem exec_staleReread (ctx queue s) : exec (.staleReread ctx queue) s = execStaleReread ctx queue s := rfl
@[simp] theorem exec_castling (ctx queue s) : exec (.castling ctx queue) s = execCastling ctx queue s := rfl
@[simp] theorem exec_quotaWaitRelease (ctx queue s) : exec (.quotaWaitRelease ctx queue) s = execQuotaWaitRelease ctx queue s := rfl
@[simp] theorem exec_qctlReset (ctx queue value s) : exec (.qctlReset ctx queue value) s = execQctlReset ctx queue value s := rfl
@[simp] theorem exec_functionLevelReset (vf s) : exec (.functionLevelReset vf) s = execFunctionLevelReset vf s := rfl
@[simp] theorem exec_tdiLeaveRun (vf s) : exec (.tdiLeaveRun vf) s = execTdiLeaveRun vf s := rfl
@[simp] theorem exec_negotiateAlgorithms (offered s) : exec (.negotiateAlgorithms offered) s = execNegotiateAlgorithms offered s := rfl
@[simp] theorem exec_getCertificate (offset len s) : exec (.getCertificate offset len) s = execGetCertificate offset len s := rfl
@[simp] theorem exec_challenge (nonce s) : exec (.challenge nonce) s = execChallenge nonce s := rfl
@[simp] theorem exec_getMeasurements (nonce s) : exec (.getMeasurements nonce) s = execGetMeasurements nonce s := rfl
@[simp] theorem exec_keyExchange (session s) : exec (.keyExchange session) s = execKeyExchange session s := rfl
@[simp] theorem exec_finish (session verified s) : exec (.finish session verified) s = execFinish session verified s := rfl
@[simp] theorem exec_endSession (session s) : exec (.endSession session) s = execEndSession session s := rfl
@[simp] theorem exec_keyset (session ctx kind key s) : exec (.keyset session ctx kind key) s = execKeyset session ctx kind key s := rfl
@[simp] theorem exec_jobStop (core s) : exec (.jobStop core) s = execJobStop core s := rfl
@[simp] theorem exec_saveComplete (cluster slot s) : exec (.saveComplete cluster slot) s = execSaveComplete cluster slot s := rfl
@[simp] theorem exec_wrapPost (part value s) : exec (.wrapPost part value) s = execWrapPost part value s := rfl
@[simp] theorem exec_wrapCutoff (part cluster s) : exec (.wrapCutoff part cluster) s = execWrapCutoff part cluster s := rfl
@[simp] theorem exec_wrapStopDeadline (part core s) : exec (.wrapStopDeadline part core) s = execWrapStopDeadline part core s := rfl
@[simp] theorem exec_corerst (core s) : exec (.corerst core) s = execCorerst core s := rfl
@[simp] theorem exec_coreSelfTestEnd (core passed s) : exec (.coreSelfTestEnd core passed) s = execCoreSelfTestEnd core passed s := rfl
@[simp] theorem exec_bringupStageAdvance (outcome s) : exec (.bringupStageAdvance outcome) s = execBringupStageAdvance outcome s := rfl
@[simp] theorem exec_frameDecoded (stream data status pts s) : exec (.frameDecoded stream data status pts) s = execFrameDecoded stream data status pts s := rfl
@[simp] theorem exec_monitorClr (m s) : exec (.monitorClr m) s = execMonitorClr m s := rfl
@[simp] theorem exec_fastsetCountClear (s) : exec .fastsetCountClear s = execFastsetCountClear s := rfl
@[simp] theorem exec_flitReceive (port flit macOk s) : exec (.flitReceive port flit macOk) s = execFlitReceive port flit macOk s := rfl
@[simp] theorem exec_flitReplay (port seq s) : exec (.flitReplay port seq) s = execFlitReplay port seq s := rfl
@[simp] theorem exec_portRetrainComplete (port s) : exec (.portRetrainComplete port) s = execPortRetrainComplete port s := rfl
@[simp] theorem exec_peerRequest (req s) : exec (.peerRequest req) s = execPeerRequest req s := rfl
@[simp] theorem exec_peerResponse (tag poisoned data s) : exec (.peerResponse tag poisoned data) s = execPeerResponse tag poisoned data s := rfl
@[simp] theorem exec_peerRequestTimeout (tag s) : exec (.peerRequestTimeout tag) s = execPeerRequestTimeout tag s := rfl
@[simp] theorem exec_registerWrite (addr width value s) : exec (.registerWrite addr width value) s = execRegisterWrite addr width value s := rfl
@[simp] theorem exec_islandCycle (island s) : exec (.islandCycle island) s = execIslandCycle island s := rfl
@[simp] theorem exec_reservedEncoding (word cause s) : exec (.reservedEncoding word cause) s = execReservedEncoding word cause s := rfl
@[simp] theorem exec_accessPerformsAtHome (core n s) : exec (.accessPerformsAtHome core n) s = execAccessPerformsAtHome core n s := rfl
@[simp] theorem exec_badpacket (ctx queue s) : exec (.badpacket ctx queue) s = execBadpacket ctx queue s := rfl
@[simp] theorem exec_singleFault (kind s) : exec (.singleFault kind) s = execSingleFault kind s := rfl
@[simp] theorem exec_tdispMessage (vf msg s) : exec (.tdispMessage vf msg) s = execTdispMessage vf msg s := rfl
@[simp] theorem exec_keySlotErase (slot s) : exec (.keySlotErase slot) s = execKeySlotErase slot s := rfl
@[simp] theorem exec_getVersion (s) : exec .getVersion s = execGetVersion s := rfl
@[simp] theorem exec_getCapabilities (s) : exec .getCapabilities s = execGetCapabilities s := rfl
@[simp] theorem exec_getDigests (s) : exec .getDigests s = execGetDigests s := rfl
@[simp] theorem exec_powerOnReset (s) : exec .powerOnReset s = execPowerOnReset s := rfl
@[simp] theorem exec_pcieHotReset (s) : exec .pcieHotReset s = execPcieHotReset s := rfl
@[simp] theorem exec_devrst (s) : exec .devrst s = execDevrst s := rfl

end Sys2Proof.Machine
end

