-- ==== Sys2Proof/Laws/Issue.lean ====
section
/-! SUPPORT. What the frame of every instruction does: the cases of an issue, and the outcome of an instruction that
issues. -/

namespace Sys2Proof.Machine

@[simp] theorem turnCore_of (s : State) (c : CoreId) (e : Eng) (h : s.turn = .eng c e) : s.turnCore = c := by
  simp [State.turnCore, h]

@[simp] theorem turnEng_of (s : State) (c : CoreId) (e : Eng) (h : s.turn = .eng c e) : s.turnEng = e := by
  simp [State.turnEng, h]

theorem InTurn.core {s c e j} (h : InTurn s c e j) : s.turnCore = c := turnCore_of s c e h.turn

theorem InTurn.eng {s c e j} (h : InTurn s c e j) : s.turnEng = e := turnEng_of s c e h.turn

/-- With a stream in turn, a meaning is a function of the core and its job. -/
theorem withJob_of {s c e j} (h : InTurn s c e j) (k : CoreId → Job → State) : withJob s e k = .next (k c j) := by
  simp [withJob, h.core, h.job, h.has]

/-- An instruction never refuses, and it faults only where no stream runs. -/
theorem withJob_cases (s : State) (e : Eng) (k : CoreId → Job → State) :
    withJob s e k = .fault .noStream ∨
      ∃ c j, s.turnCore = c ∧ s.job c = some j ∧ j.has e = true ∧ withJob s e k = .next (k c j) := by
  unfold withJob
  split
  · exact .inl rfl
  · rename_i j hj
    by_cases hh : j.has e
    · exact .inr ⟨_, j, rfl, hj, hh, by simp [hh]⟩
    · exact .inl (by simp [hh])

/-- An instruction that issues has exactly its own effect. -/
theorem issue_go {s c e j i} (h : Issues s c e j i) (occ : Nat) (eff : State → CoreId → Job → State) :
    issue s e i occ eff = .next (eff s c (j.issuing e i)) := by
  rw [issue, withJob_of h.toInTurn]
  simp [issueState, h.go, h.adder, Job.issuing]

/-- As `issue_go`, for an effect that stays in the job. -/
theorem issueJob_go {s c e j i} (h : Issues s c e j i) (occ : Nat) (f : Job → List Val → Job) :
    issueJob s e i occ f = .next (s.setJob c ((f (j.sourced e i) (sourcesOf j e i)).done e occ)) := by
  rw [issueJob, issue_go h]; rfl

/-- Everything that the frame of an instruction can do (R66, R67, R78, R132, R247, R293). -/
theorem issueState_cases (s : State) (e : Eng) (i : Instr) (occ : Nat) (eff : State → CoreId → Job → State) (c : CoreId)
    (j : Job) :
    (∃ cause val, gate s c j e i = .trap cause val ∧ issueState s e i occ eff c j = s.setJob c (j.raise e cause val)) ∨
    (gate s c j e i = .stay ∧
      issueState s e i occ eff c j = (s.setJob c (j.markTwin ((unready s c j i).isNone && twinHold s c j i))).fetchRegion c j i) ∨
    (gate s c j e i = .skip ∧ issueState s e i occ eff c j = s.setJob c (j.skipOne occ)) ∨
    (gate s c j e i = .compare ∧ issueState s e i occ eff c j = s.setJob c (j.reach (unready s c j i).isSome)) ∨
    (gate s c j e i = .go ∧ s.adderTrap c j i = true ∧ issueState s e i occ eff c j =
      State.setJob (s.setCore c (s.core c).clearAdder) c (j.raiseFor e .residue (j.pc e).toNat)) ∨
    (gate s c j e i = .go ∧ s.adderTrap c j i = false ∧ issueState s e i occ eff c j = eff s c (j.issuing e i)) := by
  unfold issueState
  cases hg : gate s c j e i with
  | trap cause val => exact .inl ⟨_, _, rfl, rfl⟩
  | stay => exact .inr (.inl ⟨rfl, rfl⟩)
  | skip => exact .inr (.inr (.inl ⟨rfl, rfl⟩))
  | compare => exact .inr (.inr (.inr (.inl ⟨rfl, rfl⟩)))
  | go => cases s.adderTrap c j i <;> simp [Job.issuing]

end Sys2Proof.Machine
end

