-- ==== Sys2Proof/Laws/Job.lean ====
section
/-! SUPPORT. What issuing, waiting and going on leave of a job. -/

namespace Sys2Proof.Machine

@[simp] theorem issuing_take (j : Job) (e : Eng) (i : Instr) : (j.issuing e i).take = j.take := by
  unfold Job.issuing Job.begun; split <;> cases e <;> rfl

@[simp] theorem issuing_cyc (j : Job) (e : Eng) (i : Instr) : (j.issuing e i).cyc = j.cyc := by
  unfold Job.issuing Job.begun; split <;> cases e <;> rfl

@[simp] theorem issuing_a (j : Job) (e : Eng) (i : Instr) : (j.issuing e i).a = j.a := by
  unfold Job.issuing Job.begun; split <;> cases e <;> rfl

@[simp] theorem issuing_v (j : Job) (e : Eng) (i : Instr) : (j.issuing e i).v = j.v := by
  unfold Job.issuing Job.begun; split <;> cases e <;> rfl

@[simp] theorem issuing_arch (j : Job) (e : Eng) (i : Instr) : (j.issuing e i).c.arch = j.c.arch := by
  unfold Job.issuing Job.begun; split <;> cases e <;> rfl

@[simp] theorem issuing_chk (j : Job) (e : Eng) (i : Instr) : (j.issuing e i).c.chk = j.c.chk := by
  unfold Job.issuing Job.begun; split <;> cases e <;> rfl

@[simp] theorem issuing_ms (j : Job) (e : Eng) (i : Instr) : (j.issuing e i).m.s = j.m.s := by
  unfold Job.issuing Job.begun; split <;> cases e <;> rfl

@[simp] theorem issuing_streams (j : Job) (e : Eng) (i : Instr) : (j.issuing e i).streams = j.streams := by
  unfold Job.issuing Job.begun; split <;> cases e <;> rfl

@[simp] theorem issuing_stream (j : Job) (e : Eng) (i : Instr) (q : Fin 16) :
    (j.issuing e i).stream q = j.stream q := by
  simp [Job.stream]

@[simp] theorem issuing_walks (j : Job) (e : Eng) (i : Instr) : (j.issuing e i).walks = j.walks := by
  unfold Job.issuing Job.begun; split <;> cases e <;> rfl

@[simp] theorem issuing_reg (j : Job) (e x : Eng) (i : Instr) : (j.issuing e i).reg x = j.reg x := by
  funext n; cases x <;> simp [Job.reg]

@[simp] theorem issuing_pc (j : Job) (e x : Eng) (i : Instr) : (j.issuing e i).pc x = j.pc x := by
  unfold Job.issuing Job.begun; split <;> cases e <;> cases x <;> rfl

@[simp] theorem issuing_loops (j : Job) (e x : Eng) (i : Instr) : (j.issuing e i).loops x = j.loops x := by
  unfold Job.issuing Job.begun; split <;> cases e <;> cases x <;> rfl

@[simp] theorem issuing_wait (j : Job) (e x : Eng) (i : Instr) : (j.issuing e i).wait x = j.wait x := by
  unfold Job.issuing Job.begun; split <;> cases e <;> cases x <;> rfl

@[simp] theorem issuing_has (j : Job) (e x : Eng) (i : Instr) : (j.issuing e i).has x = j.has x := by
  unfold Job.issuing Job.begun; split <;> cases e <;> cases x <;> rfl

@[simp] theorem issuing_ras (j : Job) (e x : Eng) (i : Instr) : (j.issuing e i).ras x = j.ras x := by
  unfold Job.issuing Job.begun; split <;> cases e <;> cases x <;> rfl

/-- Issuing leaves the job of A and V as it was: only C notes its instruction, and only M counts a depth. -/
theorem issuing_plain (j : Job) (e : Eng) (i : Instr) (hc : e ≠ .c) (hm : e ≠ .m) : j.issuing e i = j := by
  cases e <;> simp_all [Job.issuing, Job.begun, Job.deepen]

/-- The trace of C's instruction changes only what the checker needs: no state that a program sees. -/
theorem traceC_eq (j : Job) : j.traceC = { j with c := { j.c with
    cur := j.traceC.c.cur, span := j.traceC.c.span, trail := j.traceC.c.trail, ckpt := j.traceC.c.ckpt
    spanIn := j.traceC.c.spanIn } } := by
  unfold Job.traceC Job.boundary Job.traced; repeat' split
  all_goals rfl

/-- A logged value changes only what the checker needs. -/
theorem logIn_eq (j : Job) (x : CIn) :
    j.logIn x = { j with c := { j.c with
      spanIn := (j.logIn x).c.spanIn, chkIn := (j.logIn x).c.chkIn, digest := (j.logIn x).c.digest } } := by
  unfold Job.logIn; split <;> rfl

/-- A pop changes the stream and what the checker needs. -/
theorem pop_eq (j : Job) (q : Fin 16) : j.pop q = { j with
    streams := (j.setStream q (j.stream q).pop).streams
    c := { j.c with spanIn := (j.pop q).c.spanIn, chkIn := (j.pop q).c.chkIn, digest := (j.pop q).c.digest } } := by
  unfold Job.pop; dsimp only; split
  · rw [logIn_eq]; rfl
  · rfl

/-- One update of C reaches the primary. -/
@[simp] theorem upd_arch (c : CEng) (f : CArch → CArch) : (c.upd f).arch = f c.arch := rfl

end Sys2Proof.Machine
end

