-- ==== Sys2Proof/Laws/State.lean ====
section
/-! SUPPORT. What each update of the state leaves as it was, field by field: true by unfolding, for `simp`. -/

namespace Sys2Proof.Machine

/-! ## State.setCore -/

@[simp] theorem setCore_clusters (s : State) (c : CoreId) (x : Core) : (s.setCore c x).clusters = s.clusters := rfl
@[simp] theorem setCore_islands (s : State) (c : CoreId) (x : Core) : (s.setCore c x).islands = s.islands := rfl
@[simp] theorem setCore_parts (s : State) (c : CoreId) (x : Core) : (s.setCore c x).parts = s.parts := rfl
@[simp] theorem setCore_ctxs (s : State) (c : CoreId) (x : Core) : (s.setCore c x).ctxs = s.ctxs := rfl
@[simp] theorem setCore_time (s : State) (c : CoreId) (x : Core) : (s.setCore c x).time = s.time := rfl
@[simp] theorem setCore_frac (s : State) (c : CoreId) (x : Core) : (s.setCore c x).frac = s.frac := rfl
@[simp] theorem setCore_lines (s : State) (c : CoreId) (x : Core) : (s.setCore c x).lines = s.lines := rfl
@[simp] theorem setCore_limits (s : State) (c : CoreId) (x : Core) : (s.setCore c x).limits = s.limits := rfl
@[simp] theorem setCore_wayErrs (s : State) (c : CoreId) (x : Core) : (s.setCore c x).wayErrs = s.wayErrs := rfl
@[simp] theorem setCore_lastUse (s : State) (c : CoreId) (x : Core) : (s.setCore c x).lastUse = s.lastUse := rfl
@[simp] theorem setCore_snoop (s : State) (c : CoreId) (x : Core) : (s.setCore c x).snoop = s.snoop := rfl
@[simp] theorem setCore_backInv (s : State) (c : CoreId) (x : Core) : (s.setCore c x).backInv = s.backInv := rfl
@[simp] theorem setCore_mem (s : State) (c : CoreId) (x : Core) : (s.setCore c x).mem = s.mem := rfl
@[simp] theorem setCore_sealMeta (s : State) (c : CoreId) (x : Core) : (s.setCore c x).sealMeta = s.sealMeta := rfl
@[simp] theorem setCore_fills (s : State) (c : CoreId) (x : Core) : (s.setCore c x).fills = s.fills := rfl
@[simp] theorem setCore_reseals (s : State) (c : CoreId) (x : Core) : (s.setCore c x).reseals = s.reseals := rfl
@[simp] theorem setCore_badFrames (s : State) (c : CoreId) (x : Core) : (s.setCore c x).badFrames = s.badFrames := rfl
@[simp] theorem setCore_fastFrames (s : State) (c : CoreId) (x : Core) : (s.setCore c x).fastFrames = s.fastFrames := rfl
@[simp] theorem setCore_fastLines (s : State) (c : CoreId) (x : Core) : (s.setCore c x).fastLines = s.fastLines := rfl
@[simp] theorem setCore_frameErrs (s : State) (c : CoreId) (x : Core) : (s.setCore c x).frameErrs = s.frameErrs := rfl
@[simp] theorem setCore_rowsLost (s : State) (c : CoreId) (x : Core) : (s.setCore c x).rowsLost = s.rowsLost := rfl
@[simp] theorem setCore_hallow (s : State) (c : CoreId) (x : Core) : (s.setCore c x).hallow = s.hallow := rfl
@[simp] theorem setCore_ppkg (s : State) (c : CoreId) (x : Core) : (s.setCore c x).ppkg = s.ppkg := rfl
@[simp] theorem setCore_penv (s : State) (c : CoreId) (x : Core) : (s.setCore c x).penv = s.penv := rfl
@[simp] theorem setCore_hostAllow (s : State) (c : CoreId) (x : Core) : (s.setCore c x).hostAllow = s.hostAllow := rfl
@[simp] theorem setCore_sevBase (s : State) (c : CoreId) (x : Core) : (s.setCore c x).sevBase = s.sevBase := rfl
@[simp] theorem setCore_sevSize (s : State) (c : CoreId) (x : Core) : (s.setCore c x).sevSize = s.sevSize := rfl
@[simp] theorem setCore_sevWr (s : State) (c : CoreId) (x : Core) : (s.setCore c x).sevWr = s.sevWr := rfl
@[simp] theorem setCore_sevRd (s : State) (c : CoreId) (x : Core) : (s.setCore c x).sevRd = s.sevRd := rfl
@[simp] theorem setCore_sevLost (s : State) (c : CoreId) (x : Core) : (s.setCore c x).sevLost = s.sevLost := rfl
@[simp] theorem setCore_tampers (s : State) (c : CoreId) (x : Core) : (s.setCore c x).tampers = s.tampers := rfl
@[simp] theorem setCore_pf0err (s : State) (c : CoreId) (x : Core) : (s.setCore c x).pf0err = s.pf0err := rfl
@[simp] theorem setCore_stage (s : State) (c : CoreId) (x : Core) : (s.setCore c x).stage = s.stage := rfl
@[simp] theorem setCore_stageErr (s : State) (c : CoreId) (x : Core) : (s.setCore c x).stageErr = s.stageErr := rfl
@[simp] theorem setCore_cfgSigned (s : State) (c : CoreId) (x : Core) : (s.setCore c x).cfgSigned = s.cfgSigned := rfl
@[simp] theorem setCore_drop (s : State) (c : CoreId) (x : Core) : (s.setCore c x).drop = s.drop := rfl
@[simp] theorem setCore_resv (s : State) (c : CoreId) (x : Core) : (s.setCore c x).resv = s.resv := rfl
@[simp] theorem setCore_msix (s : State) (c : CoreId) (x : Core) : (s.setCore c x).msix = s.msix := rfl
@[simp] theorem setCore_msixCtl (s : State) (c : CoreId) (x : Core) : (s.setCore c x).msixCtl = s.msixCtl := rfl
@[simp] theorem setCore_recs (s : State) (c : CoreId) (x : Core) : (s.setCore c x).recs = s.recs := rfl
@[simp] theorem setCore_now (s : State) (c : CoreId) (x : Core) : (s.setCore c x).now = s.now := rfl
@[simp] theorem setCore_endSeq (s : State) (c : CoreId) (x : Core) : (s.setCore c x).endSeq = s.endSeq := rfl
@[simp] theorem setCore_monitors (s : State) (c : CoreId) (x : Core) : (s.setCore c x).monitors = s.monitors := rfl
@[simp] theorem setCore_fastOut (s : State) (c : CoreId) (x : Core) : (s.setCore c x).fastOut = s.fastOut := rfl
@[simp] theorem setCore_spdm (s : State) (c : CoreId) (x : Core) : (s.setCore c x).spdm = s.spdm := rfl
@[simp] theorem setCore_intake (s : State) (c : CoreId) (x : Core) : (s.setCore c x).intake = s.intake := rfl
@[simp] theorem setCore_fto (s : State) (c : CoreId) (x : Core) : (s.setCore c x).fto = s.fto := rfl
@[simp] theorem setCore_fabid (s : State) (c : CoreId) (x : Core) : (s.setCore c x).fabid = s.fabid := rfl
@[simp] theorem setCore_ports (s : State) (c : CoreId) (x : Core) : (s.setCore c x).ports = s.ports := rfl
@[simp] theorem setCore_routes (s : State) (c : CoreId) (x : Core) : (s.setCore c x).routes = s.routes := rfl
@[simp] theorem setCore_peerMap (s : State) (c : CoreId) (x : Core) : (s.setCore c x).peerMap = s.peerMap := rfl
@[simp] theorem setCore_peerReqs (s : State) (c : CoreId) (x : Core) : (s.setCore c x).peerReqs = s.peerReqs := rfl
@[simp] theorem setCore_peerTag (s : State) (c : CoreId) (x : Core) : (s.setCore c x).peerTag = s.peerTag := rfl
@[simp] theorem setCore_halts (s : State) (c : CoreId) (x : Core) : (s.setCore c x).halts = s.halts := rfl
@[simp] theorem setCore_outbox (s : State) (c : CoreId) (x : Core) : (s.setCore c x).outbox = s.outbox := rfl
@[simp] theorem setCore_agenda (s : State) (c : CoreId) (x : Core) : (s.setCore c x).agenda = s.agenda := rfl
@[simp] theorem setCore_turn (s : State) (c : CoreId) (x : Core) : (s.setCore c x).turn = s.turn := rfl
@[simp] theorem setCore_fresh (s : State) (c : CoreId) (x : Core) : (s.setCore c x).fresh = s.fresh := rfl

/-! ## State.setJob -/

@[simp] theorem setJob_clusters (s : State) (c : CoreId) (j : Job) : (s.setJob c j).clusters = s.clusters := rfl
@[simp] theorem setJob_islands (s : State) (c : CoreId) (j : Job) : (s.setJob c j).islands = s.islands := rfl
@[simp] theorem setJob_parts (s : State) (c : CoreId) (j : Job) : (s.setJob c j).parts = s.parts := rfl
@[simp] theorem setJob_ctxs (s : State) (c : CoreId) (j : Job) : (s.setJob c j).ctxs = s.ctxs := rfl
@[simp] theorem setJob_time (s : State) (c : CoreId) (j : Job) : (s.setJob c j).time = s.time := rfl
@[simp] theorem setJob_frac (s : State) (c : CoreId) (j : Job) : (s.setJob c j).frac = s.frac := rfl
@[simp] theorem setJob_lines (s : State) (c : CoreId) (j : Job) : (s.setJob c j).lines = s.lines := rfl
@[simp] theorem setJob_limits (s : State) (c : CoreId) (j : Job) : (s.setJob c j).limits = s.limits := rfl
@[simp] theorem setJob_wayErrs (s : State) (c : CoreId) (j : Job) : (s.setJob c j).wayErrs = s.wayErrs := rfl
@[simp] theorem setJob_lastUse (s : State) (c : CoreId) (j : Job) : (s.setJob c j).lastUse = s.lastUse := rfl
@[simp] theorem setJob_snoop (s : State) (c : CoreId) (j : Job) : (s.setJob c j).snoop = s.snoop := rfl
@[simp] theorem setJob_backInv (s : State) (c : CoreId) (j : Job) : (s.setJob c j).backInv = s.backInv := rfl
@[simp] theorem setJob_mem (s : State) (c : CoreId) (j : Job) : (s.setJob c j).mem = s.mem := rfl
@[simp] theorem setJob_sealMeta (s : State) (c : CoreId) (j : Job) : (s.setJob c j).sealMeta = s.sealMeta := rfl
@[simp] theorem setJob_fills (s : State) (c : CoreId) (j : Job) : (s.setJob c j).fills = s.fills := rfl
@[simp] theorem setJob_reseals (s : State) (c : CoreId) (j : Job) : (s.setJob c j).reseals = s.reseals := rfl
@[simp] theorem setJob_badFrames (s : State) (c : CoreId) (j : Job) : (s.setJob c j).badFrames = s.badFrames := rfl
@[simp] theorem setJob_fastFrames (s : State) (c : CoreId) (j : Job) : (s.setJob c j).fastFrames = s.fastFrames := rfl
@[simp] theorem setJob_fastLines (s : State) (c : CoreId) (j : Job) : (s.setJob c j).fastLines = s.fastLines := rfl
@[simp] theorem setJob_frameErrs (s : State) (c : CoreId) (j : Job) : (s.setJob c j).frameErrs = s.frameErrs := rfl
@[simp] theorem setJob_rowsLost (s : State) (c : CoreId) (j : Job) : (s.setJob c j).rowsLost = s.rowsLost := rfl
@[simp] theorem setJob_hallow (s : State) (c : CoreId) (j : Job) : (s.setJob c j).hallow = s.hallow := rfl
@[simp] theorem setJob_ppkg (s : State) (c : CoreId) (j : Job) : (s.setJob c j).ppkg = s.ppkg := rfl
@[simp] theorem setJob_penv (s : State) (c : CoreId) (j : Job) : (s.setJob c j).penv = s.penv := rfl
@[simp] theorem setJob_hostAllow (s : State) (c : CoreId) (j : Job) : (s.setJob c j).hostAllow = s.hostAllow := rfl
@[simp] theorem setJob_sevBase (s : State) (c : CoreId) (j : Job) : (s.setJob c j).sevBase = s.sevBase := rfl
@[simp] theorem setJob_sevSize (s : State) (c : CoreId) (j : Job) : (s.setJob c j).sevSize = s.sevSize := rfl
@[simp] theorem setJob_sevWr (s : State) (c : CoreId) (j : Job) : (s.setJob c j).sevWr = s.sevWr := rfl
@[simp] theorem setJob_sevRd (s : State) (c : CoreId) (j : Job) : (s.setJob c j).sevRd = s.sevRd := rfl
@[simp] theorem setJob_sevLost (s : State) (c : CoreId) (j : Job) : (s.setJob c j).sevLost = s.sevLost := rfl
@[simp] theorem setJob_tampers (s : State) (c : CoreId) (j : Job) : (s.setJob c j).tampers = s.tampers := rfl
@[simp] theorem setJob_pf0err (s : State) (c : CoreId) (j : Job) : (s.setJob c j).pf0err = s.pf0err := rfl
@[simp] theorem setJob_stage (s : State) (c : CoreId) (j : Job) : (s.setJob c j).stage = s.stage := rfl
@[simp] theorem setJob_stageErr (s : State) (c : CoreId) (j : Job) : (s.setJob c j).stageErr = s.stageErr := rfl
@[simp] theorem setJob_cfgSigned (s : State) (c : CoreId) (j : Job) : (s.setJob c j).cfgSigned = s.cfgSigned := rfl
@[simp] theorem setJob_drop (s : State) (c : CoreId) (j : Job) : (s.setJob c j).drop = s.drop := rfl
@[simp] theorem setJob_resv (s : State) (c : CoreId) (j : Job) : (s.setJob c j).resv = s.resv := rfl
@[simp] theorem setJob_msix (s : State) (c : CoreId) (j : Job) : (s.setJob c j).msix = s.msix := rfl
@[simp] theorem setJob_msixCtl (s : State) (c : CoreId) (j : Job) : (s.setJob c j).msixCtl = s.msixCtl := rfl
@[simp] theorem setJob_recs (s : State) (c : CoreId) (j : Job) : (s.setJob c j).recs = s.recs := rfl
@[simp] theorem setJob_now (s : State) (c : CoreId) (j : Job) : (s.setJob c j).now = s.now := rfl
@[simp] theorem setJob_endSeq (s : State) (c : CoreId) (j : Job) : (s.setJob c j).endSeq = s.endSeq := rfl
@[simp] theorem setJob_monitors (s : State) (c : CoreId) (j : Job) : (s.setJob c j).monitors = s.monitors := rfl
@[simp] theorem setJob_fastOut (s : State) (c : CoreId) (j : Job) : (s.setJob c j).fastOut = s.fastOut := rfl
@[simp] theorem setJob_spdm (s : State) (c : CoreId) (j : Job) : (s.setJob c j).spdm = s.spdm := rfl
@[simp] theorem setJob_intake (s : State) (c : CoreId) (j : Job) : (s.setJob c j).intake = s.intake := rfl
@[simp] theorem setJob_fto (s : State) (c : CoreId) (j : Job) : (s.setJob c j).fto = s.fto := rfl
@[simp] theorem setJob_fabid (s : State) (c : CoreId) (j : Job) : (s.setJob c j).fabid = s.fabid := rfl
@[simp] theorem setJob_ports (s : State) (c : CoreId) (j : Job) : (s.setJob c j).ports = s.ports := rfl
@[simp] theorem setJob_routes (s : State) (c : CoreId) (j : Job) : (s.setJob c j).routes = s.routes := rfl
@[simp] theorem setJob_peerMap (s : State) (c : CoreId) (j : Job) : (s.setJob c j).peerMap = s.peerMap := rfl
@[simp] theorem setJob_peerReqs (s : State) (c : CoreId) (j : Job) : (s.setJob c j).peerReqs = s.peerReqs := rfl
@[simp] theorem setJob_peerTag (s : State) (c : CoreId) (j : Job) : (s.setJob c j).peerTag = s.peerTag := rfl
@[simp] theorem setJob_halts (s : State) (c : CoreId) (j : Job) : (s.setJob c j).halts = s.halts := rfl
@[simp] theorem setJob_outbox (s : State) (c : CoreId) (j : Job) : (s.setJob c j).outbox = s.outbox := rfl
@[simp] theorem setJob_agenda (s : State) (c : CoreId) (j : Job) : (s.setJob c j).agenda = s.agenda := rfl
@[simp] theorem setJob_turn (s : State) (c : CoreId) (j : Job) : (s.setJob c j).turn = s.turn := rfl
@[simp] theorem setJob_fresh (s : State) (c : CoreId) (j : Job) : (s.setJob c j).fresh = s.fresh := rfl

/-! ## State.setCluster -/

@[simp] theorem setCluster_cores (s : State) (k : CluId) (x : Cluster) : (s.setCluster k x).cores = s.cores := rfl
@[simp] theorem setCluster_islands (s : State) (k : CluId) (x : Cluster) : (s.setCluster k x).islands = s.islands := rfl
@[simp] theorem setCluster_parts (s : State) (k : CluId) (x : Cluster) : (s.setCluster k x).parts = s.parts := rfl
@[simp] theorem setCluster_ctxs (s : State) (k : CluId) (x : Cluster) : (s.setCluster k x).ctxs = s.ctxs := rfl
@[simp] theorem setCluster_time (s : State) (k : CluId) (x : Cluster) : (s.setCluster k x).time = s.time := rfl
@[simp] theorem setCluster_frac (s : State) (k : CluId) (x : Cluster) : (s.setCluster k x).frac = s.frac := rfl
@[simp] theorem setCluster_lines (s : State) (k : CluId) (x : Cluster) : (s.setCluster k x).lines = s.lines := rfl
@[simp] theorem setCluster_limits (s : State) (k : CluId) (x : Cluster) : (s.setCluster k x).limits = s.limits := rfl
@[simp] theorem setCluster_wayErrs (s : State) (k : CluId) (x : Cluster) : (s.setCluster k x).wayErrs = s.wayErrs := rfl
@[simp] theorem setCluster_lastUse (s : State) (k : CluId) (x : Cluster) : (s.setCluster k x).lastUse = s.lastUse := rfl
@[simp] theorem setCluster_snoop (s : State) (k : CluId) (x : Cluster) : (s.setCluster k x).snoop = s.snoop := rfl
@[simp] theorem setCluster_backInv (s : State) (k : CluId) (x : Cluster) : (s.setCluster k x).backInv = s.backInv := rfl
@[simp] theorem setCluster_mem (s : State) (k : CluId) (x : Cluster) : (s.setCluster k x).mem = s.mem := rfl
@[simp] theorem setCluster_sealMeta (s : State) (k : CluId) (x : Cluster) : (s.setCluster k x).sealMeta = s.sealMeta := rfl
@[simp] theorem setCluster_fills (s : State) (k : CluId) (x : Cluster) : (s.setCluster k x).fills = s.fills := rfl
@[simp] theorem setCluster_reseals (s : State) (k : CluId) (x : Cluster) : (s.setCluster k x).reseals = s.reseals := rfl
@[simp] theorem setCluster_badFrames (s : State) (k : CluId) (x : Cluster) : (s.setCluster k x).badFrames = s.badFrames := rfl
@[simp] theorem setCluster_fastFrames (s : State) (k : CluId) (x : Cluster) : (s.setCluster k x).fastFrames = s.fastFrames := rfl
@[simp] theorem setCluster_fastLines (s : State) (k : CluId) (x : Cluster) : (s.setCluster k x).fastLines = s.fastLines := rfl
@[simp] theorem setCluster_frameErrs (s : State) (k : CluId) (x : Cluster) : (s.setCluster k x).frameErrs = s.frameErrs := rfl
@[simp] theorem setCluster_rowsLost (s : State) (k : CluId) (x : Cluster) : (s.setCluster k x).rowsLost = s.rowsLost := rfl
@[simp] theorem setCluster_hallow (s : State) (k : CluId) (x : Cluster) : (s.setCluster k x).hallow = s.hallow := rfl
@[simp] theorem setCluster_ppkg (s : State) (k : CluId) (x : Cluster) : (s.setCluster k x).ppkg = s.ppkg := rfl
@[simp] theorem setCluster_penv (s : State) (k : CluId) (x : Cluster) : (s.setCluster k x).penv = s.penv := rfl
@[simp] theorem setCluster_hostAllow (s : State) (k : CluId) (x : Cluster) : (s.setCluster k x).hostAllow = s.hostAllow := rfl
@[simp] theorem setCluster_sevBase (s : State) (k : CluId) (x : Cluster) : (s.setCluster k x).sevBase = s.sevBase := rfl
@[simp] theorem setCluster_sevSize (s : State) (k : CluId) (x : Cluster) : (s.setCluster k x).sevSize = s.sevSize := rfl
@[simp] theorem setCluster_sevWr (s : State) (k : CluId) (x : Cluster) : (s.setCluster k x).sevWr = s.sevWr := rfl
@[simp] theorem setCluster_sevRd (s : State) (k : CluId) (x : Cluster) : (s.setCluster k x).sevRd = s.sevRd := rfl
@[simp] theorem setCluster_sevLost (s : State) (k : CluId) (x : Cluster) : (s.setCluster k x).sevLost = s.sevLost := rfl
@[simp] theorem setCluster_tampers (s : State) (k : CluId) (x : Cluster) : (s.setCluster k x).tampers = s.tampers := rfl
@[simp] theorem setCluster_pf0err (s : State) (k : CluId) (x : Cluster) : (s.setCluster k x).pf0err = s.pf0err := rfl
@[simp] theorem setCluster_stage (s : State) (k : CluId) (x : Cluster) : (s.setCluster k x).stage = s.stage := rfl
@[simp] theorem setCluster_stageErr (s : State) (k : CluId) (x : Cluster) : (s.setCluster k x).stageErr = s.stageErr := rfl
@[simp] theorem setCluster_cfgSigned (s : State) (k : CluId) (x : Cluster) : (s.setCluster k x).cfgSigned = s.cfgSigned := rfl
@[simp] theorem setCluster_drop (s : State) (k : CluId) (x : Cluster) : (s.setCluster k x).drop = s.drop := rfl
@[simp] theorem setCluster_resv (s : State) (k : CluId) (x : Cluster) : (s.setCluster k x).resv = s.resv := rfl
@[simp] theorem setCluster_msix (s : State) (k : CluId) (x : Cluster) : (s.setCluster k x).msix = s.msix := rfl
@[simp] theorem setCluster_msixCtl (s : State) (k : CluId) (x : Cluster) : (s.setCluster k x).msixCtl = s.msixCtl := rfl
@[simp] theorem setCluster_recs (s : State) (k : CluId) (x : Cluster) : (s.setCluster k x).recs = s.recs := rfl
@[simp] theorem setCluster_now (s : State) (k : CluId) (x : Cluster) : (s.setCluster k x).now = s.now := rfl
@[simp] theorem setCluster_endSeq (s : State) (k : CluId) (x : Cluster) : (s.setCluster k x).endSeq = s.endSeq := rfl
@[simp] theorem setCluster_monitors (s : State) (k : CluId) (x : Cluster) : (s.setCluster k x).monitors = s.monitors := rfl
@[simp] theorem setCluster_fastOut (s : State) (k : CluId) (x : Cluster) : (s.setCluster k x).fastOut = s.fastOut := rfl
@[simp] theorem setCluster_spdm (s : State) (k : CluId) (x : Cluster) : (s.setCluster k x).spdm = s.spdm := rfl
@[simp] theorem setCluster_intake (s : State) (k : CluId) (x : Cluster) : (s.setCluster k x).intake = s.intake := rfl
@[simp] theorem setCluster_fto (s : State) (k : CluId) (x : Cluster) : (s.setCluster k x).fto = s.fto := rfl
@[simp] theorem setCluster_fabid (s : State) (k : CluId) (x : Cluster) : (s.setCluster k x).fabid = s.fabid := rfl
@[simp] theorem setCluster_ports (s : State) (k : CluId) (x : Cluster) : (s.setCluster k x).ports = s.ports := rfl
@[simp] theorem setCluster_routes (s : State) (k : CluId) (x : Cluster) : (s.setCluster k x).routes = s.routes := rfl
@[simp] theorem setCluster_peerMap (s : State) (k : CluId) (x : Cluster) : (s.setCluster k x).peerMap = s.peerMap := rfl
@[simp] theorem setCluster_peerReqs (s : State) (k : CluId) (x : Cluster) : (s.setCluster k x).peerReqs = s.peerReqs := rfl
@[simp] theorem setCluster_peerTag (s : State) (k : CluId) (x : Cluster) : (s.setCluster k x).peerTag = s.peerTag := rfl
@[simp] theorem setCluster_halts (s : State) (k : CluId) (x : Cluster) : (s.setCluster k x).halts = s.halts := rfl
@[simp] theorem setCluster_outbox (s : State) (k : CluId) (x : Cluster) : (s.setCluster k x).outbox = s.outbox := rfl
@[simp] theorem setCluster_agenda (s : State) (k : CluId) (x : Cluster) : (s.setCluster k x).agenda = s.agenda := rfl
@[simp] theorem setCluster_turn (s : State) (k : CluId) (x : Cluster) : (s.setCluster k x).turn = s.turn := rfl
@[simp] theorem setCluster_fresh (s : State) (k : CluId) (x : Cluster) : (s.setCluster k x).fresh = s.fresh := rfl

/-! ## State.setCard -/

@[simp] theorem setCard_cores (s : State) (k : CluId) (n : SlotId) (x : Card) : (s.setCard k n x).cores = s.cores := rfl
@[simp] theorem setCard_islands (s : State) (k : CluId) (n : SlotId) (x : Card) : (s.setCard k n x).islands = s.islands := rfl
@[simp] theorem setCard_parts (s : State) (k : CluId) (n : SlotId) (x : Card) : (s.setCard k n x).parts = s.parts := rfl
@[simp] theorem setCard_ctxs (s : State) (k : CluId) (n : SlotId) (x : Card) : (s.setCard k n x).ctxs = s.ctxs := rfl
@[simp] theorem setCard_time (s : State) (k : CluId) (n : SlotId) (x : Card) : (s.setCard k n x).time = s.time := rfl
@[simp] theorem setCard_frac (s : State) (k : CluId) (n : SlotId) (x : Card) : (s.setCard k n x).frac = s.frac := rfl
@[simp] theorem setCard_lines (s : State) (k : CluId) (n : SlotId) (x : Card) : (s.setCard k n x).lines = s.lines := rfl
@[simp] theorem setCard_limits (s : State) (k : CluId) (n : SlotId) (x : Card) : (s.setCard k n x).limits = s.limits := rfl
@[simp] theorem setCard_wayErrs (s : State) (k : CluId) (n : SlotId) (x : Card) : (s.setCard k n x).wayErrs = s.wayErrs := rfl
@[simp] theorem setCard_lastUse (s : State) (k : CluId) (n : SlotId) (x : Card) : (s.setCard k n x).lastUse = s.lastUse := rfl
@[simp] theorem setCard_snoop (s : State) (k : CluId) (n : SlotId) (x : Card) : (s.setCard k n x).snoop = s.snoop := rfl
@[simp] theorem setCard_backInv (s : State) (k : CluId) (n : SlotId) (x : Card) : (s.setCard k n x).backInv = s.backInv := rfl
@[simp] theorem setCard_mem (s : State) (k : CluId) (n : SlotId) (x : Card) : (s.setCard k n x).mem = s.mem := rfl
@[simp] theorem setCard_sealMeta (s : State) (k : CluId) (n : SlotId) (x : Card) : (s.setCard k n x).sealMeta = s.sealMeta := rfl
@[simp] theorem setCard_fills (s : State) (k : CluId) (n : SlotId) (x : Card) : (s.setCard k n x).fills = s.fills := rfl
@[simp] theorem setCard_reseals (s : State) (k : CluId) (n : SlotId) (x : Card) : (s.setCard k n x).reseals = s.reseals := rfl
@[simp] theorem setCard_badFrames (s : State) (k : CluId) (n : SlotId) (x : Card) : (s.setCard k n x).badFrames = s.badFrames := rfl
@[simp] theorem setCard_fastFrames (s : State) (k : CluId) (n : SlotId) (x : Card) : (s.setCard k n x).fastFrames = s.fastFrames := rfl
@[simp] theorem setCard_fastLines (s : State) (k : CluId) (n : SlotId) (x : Card) : (s.setCard k n x).fastLines = s.fastLines := rfl
@[simp] theorem setCard_frameErrs (s : State) (k : CluId) (n : SlotId) (x : Card) : (s.setCard k n x).frameErrs = s.frameErrs := rfl
@[simp] theorem setCard_rowsLost (s : State) (k : CluId) (n : SlotId) (x : Card) : (s.setCard k n x).rowsLost = s.rowsLost := rfl
@[simp] theorem setCard_hallow (s : State) (k : CluId) (n : SlotId) (x : Card) : (s.setCard k n x).hallow = s.hallow := rfl
@[simp] theorem setCard_ppkg (s : State) (k : CluId) (n : SlotId) (x : Card) : (s.setCard k n x).ppkg = s.ppkg := rfl
@[simp] theorem setCard_penv (s : State) (k : CluId) (n : SlotId) (x : Card) : (s.setCard k n x).penv = s.penv := rfl
@[simp] theorem setCard_hostAllow (s : State) (k : CluId) (n : SlotId) (x : Card) : (s.setCard k n x).hostAllow = s.hostAllow := rfl
@[simp] theorem setCard_sevBase (s : State) (k : CluId) (n : SlotId) (x : Card) : (s.setCard k n x).sevBase = s.sevBase := rfl
@[simp] theorem setCard_sevSize (s : State) (k : CluId) (n : SlotId) (x : Card) : (s.setCard k n x).sevSize = s.sevSize := rfl
@[simp] theorem setCard_sevWr (s : State) (k : CluId) (n : SlotId) (x : Card) : (s.setCard k n x).sevWr = s.sevWr := rfl
@[simp] theorem setCard_sevRd (s : State) (k : CluId) (n : SlotId) (x : Card) : (s.setCard k n x).sevRd = s.sevRd := rfl
@[simp] theorem setCard_sevLost (s : State) (k : CluId) (n : SlotId) (x : Card) : (s.setCard k n x).sevLost = s.sevLost := rfl
@[simp] theorem setCard_tampers (s : State) (k : CluId) (n : SlotId) (x : Card) : (s.setCard k n x).tampers = s.tampers := rfl
@[simp] theorem setCard_pf0err (s : State) (k : CluId) (n : SlotId) (x : Card) : (s.setCard k n x).pf0err = s.pf0err := rfl
@[simp] theorem setCard_stage (s : State) (k : CluId) (n : SlotId) (x : Card) : (s.setCard k n x).stage = s.stage := rfl
@[simp] theorem setCard_stageErr (s : State) (k : CluId) (n : SlotId) (x : Card) : (s.setCard k n x).stageErr = s.stageErr := rfl
@[simp] theorem setCard_cfgSigned (s : State) (k : CluId) (n : SlotId) (x : Card) : (s.setCard k n x).cfgSigned = s.cfgSigned := rfl
@[simp] theorem setCard_drop (s : State) (k : CluId) (n : SlotId) (x : Card) : (s.setCard k n x).drop = s.drop := rfl
@[simp] theorem setCard_resv (s : State) (k : CluId) (n : SlotId) (x : Card) : (s.setCard k n x).resv = s.resv := rfl
@[simp] theorem setCard_msix (s : State) (k : CluId) (n : SlotId) (x : Card) : (s.setCard k n x).msix = s.msix := rfl
@[simp] theorem setCard_msixCtl (s : State) (k : CluId) (n : SlotId) (x : Card) : (s.setCard k n x).msixCtl = s.msixCtl := rfl
@[simp] theorem setCard_recs (s : State) (k : CluId) (n : SlotId) (x : Card) : (s.setCard k n x).recs = s.recs := rfl
@[simp] theorem setCard_now (s : State) (k : CluId) (n : SlotId) (x : Card) : (s.setCard k n x).now = s.now := rfl
@[simp] theorem setCard_endSeq (s : State) (k : CluId) (n : SlotId) (x : Card) : (s.setCard k n x).endSeq = s.endSeq := rfl
@[simp] theorem setCard_monitors (s : State) (k : CluId) (n : SlotId) (x : Card) : (s.setCard k n x).monitors = s.monitors := rfl
@[simp] theorem setCard_fastOut (s : State) (k : CluId) (n : SlotId) (x : Card) : (s.setCard k n x).fastOut = s.fastOut := rfl
@[simp] theorem setCard_spdm (s : State) (k : CluId) (n : SlotId) (x : Card) : (s.setCard k n x).spdm = s.spdm := rfl
@[simp] theorem setCard_intake (s : State) (k : CluId) (n : SlotId) (x : Card) : (s.setCard k n x).intake = s.intake := rfl
@[simp] theorem setCard_fto (s : State) (k : CluId) (n : SlotId) (x : Card) : (s.setCard k n x).fto = s.fto := rfl
@[simp] theorem setCard_fabid (s : State) (k : CluId) (n : SlotId) (x : Card) : (s.setCard k n x).fabid = s.fabid := rfl
@[simp] theorem setCard_ports (s : State) (k : CluId) (n : SlotId) (x : Card) : (s.setCard k n x).ports = s.ports := rfl
@[simp] theorem setCard_routes (s : State) (k : CluId) (n : SlotId) (x : Card) : (s.setCard k n x).routes = s.routes := rfl
@[simp] theorem setCard_peerMap (s : State) (k : CluId) (n : SlotId) (x : Card) : (s.setCard k n x).peerMap = s.peerMap := rfl
@[simp] theorem setCard_peerReqs (s : State) (k : CluId) (n : SlotId) (x : Card) : (s.setCard k n x).peerReqs = s.peerReqs := rfl
@[simp] theorem setCard_peerTag (s : State) (k : CluId) (n : SlotId) (x : Card) : (s.setCard k n x).peerTag = s.peerTag := rfl
@[simp] theorem setCard_halts (s : State) (k : CluId) (n : SlotId) (x : Card) : (s.setCard k n x).halts = s.halts := rfl
@[simp] theorem setCard_outbox (s : State) (k : CluId) (n : SlotId) (x : Card) : (s.setCard k n x).outbox = s.outbox := rfl
@[simp] theorem setCard_agenda (s : State) (k : CluId) (n : SlotId) (x : Card) : (s.setCard k n x).agenda = s.agenda := rfl
@[simp] theorem setCard_turn (s : State) (k : CluId) (n : SlotId) (x : Card) : (s.setCard k n x).turn = s.turn := rfl
@[simp] theorem setCard_fresh (s : State) (k : CluId) (n : SlotId) (x : Card) : (s.setCard k n x).fresh = s.fresh := rfl

/-! ## State.setIsland -/

@[simp] theorem setIsland_cores (s : State) (i : IslId) (x : Island) : (s.setIsland i x).cores = s.cores := rfl
@[simp] theorem setIsland_clusters (s : State) (i : IslId) (x : Island) : (s.setIsland i x).clusters = s.clusters := rfl
@[simp] theorem setIsland_parts (s : State) (i : IslId) (x : Island) : (s.setIsland i x).parts = s.parts := rfl
@[simp] theorem setIsland_ctxs (s : State) (i : IslId) (x : Island) : (s.setIsland i x).ctxs = s.ctxs := rfl
@[simp] theorem setIsland_time (s : State) (i : IslId) (x : Island) : (s.setIsland i x).time = s.time := rfl
@[simp] theorem setIsland_frac (s : State) (i : IslId) (x : Island) : (s.setIsland i x).frac = s.frac := rfl
@[simp] theorem setIsland_lines (s : State) (i : IslId) (x : Island) : (s.setIsland i x).lines = s.lines := rfl
@[simp] theorem setIsland_limits (s : State) (i : IslId) (x : Island) : (s.setIsland i x).limits = s.limits := rfl
@[simp] theorem setIsland_wayErrs (s : State) (i : IslId) (x : Island) : (s.setIsland i x).wayErrs = s.wayErrs := rfl
@[simp] theorem setIsland_lastUse (s : State) (i : IslId) (x : Island) : (s.setIsland i x).lastUse = s.lastUse := rfl
@[simp] theorem setIsland_snoop (s : State) (i : IslId) (x : Island) : (s.setIsland i x).snoop = s.snoop := rfl
@[simp] theorem setIsland_backInv (s : State) (i : IslId) (x : Island) : (s.setIsland i x).backInv = s.backInv := rfl
@[simp] theorem setIsland_mem (s : State) (i : IslId) (x : Island) : (s.setIsland i x).mem = s.mem := rfl
@[simp] theorem setIsland_sealMeta (s : State) (i : IslId) (x : Island) : (s.setIsland i x).sealMeta = s.sealMeta := rfl
@[simp] theorem setIsland_fills (s : State) (i : IslId) (x : Island) : (s.setIsland i x).fills = s.fills := rfl
@[simp] theorem setIsland_reseals (s : State) (i : IslId) (x : Island) : (s.setIsland i x).reseals = s.reseals := rfl
@[simp] theorem setIsland_badFrames (s : State) (i : IslId) (x : Island) : (s.setIsland i x).badFrames = s.badFrames := rfl
@[simp] theorem setIsland_fastFrames (s : State) (i : IslId) (x : Island) : (s.setIsland i x).fastFrames = s.fastFrames := rfl
@[simp] theorem setIsland_fastLines (s : State) (i : IslId) (x : Island) : (s.setIsland i x).fastLines = s.fastLines := rfl
@[simp] theorem setIsland_frameErrs (s : State) (i : IslId) (x : Island) : (s.setIsland i x).frameErrs = s.frameErrs := rfl
@[simp] theorem setIsland_rowsLost (s : State) (i : IslId) (x : Island) : (s.setIsland i x).rowsLost = s.rowsLost := rfl
@[simp] theorem setIsland_hallow (s : State) (i : IslId) (x : Island) : (s.setIsland i x).hallow = s.hallow := rfl
@[simp] theorem setIsland_ppkg (s : State) (i : IslId) (x : Island) : (s.setIsland i x).ppkg = s.ppkg := rfl
@[simp] theorem setIsland_penv (s : State) (i : IslId) (x : Island) : (s.setIsland i x).penv = s.penv := rfl
@[simp] theorem setIsland_hostAllow (s : State) (i : IslId) (x : Island) : (s.setIsland i x).hostAllow = s.hostAllow := rfl
@[simp] theorem setIsland_sevBase (s : State) (i : IslId) (x : Island) : (s.setIsland i x).sevBase = s.sevBase := rfl
@[simp] theorem setIsland_sevSize (s : State) (i : IslId) (x : Island) : (s.setIsland i x).sevSize = s.sevSize := rfl
@[simp] theorem setIsland_sevWr (s : State) (i : IslId) (x : Island) : (s.setIsland i x).sevWr = s.sevWr := rfl
@[simp] theorem setIsland_sevRd (s : State) (i : IslId) (x : Island) : (s.setIsland i x).sevRd = s.sevRd := rfl
@[simp] theorem setIsland_sevLost (s : State) (i : IslId) (x : Island) : (s.setIsland i x).sevLost = s.sevLost := rfl
@[simp] theorem setIsland_tampers (s : State) (i : IslId) (x : Island) : (s.setIsland i x).tampers = s.tampers := rfl
@[simp] theorem setIsland_pf0err (s : State) (i : IslId) (x : Island) : (s.setIsland i x).pf0err = s.pf0err := rfl
@[simp] theorem setIsland_stage (s : State) (i : IslId) (x : Island) : (s.setIsland i x).stage = s.stage := rfl
@[simp] theorem setIsland_stageErr (s : State) (i : IslId) (x : Island) : (s.setIsland i x).stageErr = s.stageErr := rfl
@[simp] theorem setIsland_cfgSigned (s : State) (i : IslId) (x : Island) : (s.setIsland i x).cfgSigned = s.cfgSigned := rfl
@[simp] theorem setIsland_drop (s : State) (i : IslId) (x : Island) : (s.setIsland i x).drop = s.drop := rfl
@[simp] theorem setIsland_resv (s : State) (i : IslId) (x : Island) : (s.setIsland i x).resv = s.resv := rfl
@[simp] theorem setIsland_msix (s : State) (i : IslId) (x : Island) : (s.setIsland i x).msix = s.msix := rfl
@[simp] theorem setIsland_msixCtl (s : State) (i : IslId) (x : Island) : (s.setIsland i x).msixCtl = s.msixCtl := rfl
@[simp] theorem setIsland_recs (s : State) (i : IslId) (x : Island) : (s.setIsland i x).recs = s.recs := rfl
@[simp] theorem setIsland_now (s : State) (i : IslId) (x : Island) : (s.setIsland i x).now = s.now := rfl
@[simp] theorem setIsland_endSeq (s : State) (i : IslId) (x : Island) : (s.setIsland i x).endSeq = s.endSeq := rfl
@[simp] theorem setIsland_monitors (s : State) (i : IslId) (x : Island) : (s.setIsland i x).monitors = s.monitors := rfl
@[simp] theorem setIsland_fastOut (s : State) (i : IslId) (x : Island) : (s.setIsland i x).fastOut = s.fastOut := rfl
@[simp] theorem setIsland_spdm (s : State) (i : IslId) (x : Island) : (s.setIsland i x).spdm = s.spdm := rfl
@[simp] theorem setIsland_intake (s : State) (i : IslId) (x : Island) : (s.setIsland i x).intake = s.intake := rfl
@[simp] theorem setIsland_fto (s : State) (i : IslId) (x : Island) : (s.setIsland i x).fto = s.fto := rfl
@[simp] theorem setIsland_fabid (s : State) (i : IslId) (x : Island) : (s.setIsland i x).fabid = s.fabid := rfl
@[simp] theorem setIsland_ports (s : State) (i : IslId) (x : Island) : (s.setIsland i x).ports = s.ports := rfl
@[simp] theorem setIsland_routes (s : State) (i : IslId) (x : Island) : (s.setIsland i x).routes = s.routes := rfl
@[simp] theorem setIsland_peerMap (s : State) (i : IslId) (x : Island) : (s.setIsland i x).peerMap = s.peerMap := rfl
@[simp] theorem setIsland_peerReqs (s : State) (i : IslId) (x : Island) : (s.setIsland i x).peerReqs = s.peerReqs := rfl
@[simp] theorem setIsland_peerTag (s : State) (i : IslId) (x : Island) : (s.setIsland i x).peerTag = s.peerTag := rfl
@[simp] theorem setIsland_halts (s : State) (i : IslId) (x : Island) : (s.setIsland i x).halts = s.halts := rfl
@[simp] theorem setIsland_outbox (s : State) (i : IslId) (x : Island) : (s.setIsland i x).outbox = s.outbox := rfl
@[simp] theorem setIsland_agenda (s : State) (i : IslId) (x : Island) : (s.setIsland i x).agenda = s.agenda := rfl
@[simp] theorem setIsland_turn (s : State) (i : IslId) (x : Island) : (s.setIsland i x).turn = s.turn := rfl
@[simp] theorem setIsland_fresh (s : State) (i : IslId) (x : Island) : (s.setIsland i x).fresh = s.fresh := rfl

/-! ## State.setCtx -/

@[simp] theorem setCtx_cores (s : State) (k : CtxId) (x : Ctx) : (s.setCtx k x).cores = s.cores := rfl
@[simp] theorem setCtx_clusters (s : State) (k : CtxId) (x : Ctx) : (s.setCtx k x).clusters = s.clusters := rfl
@[simp] theorem setCtx_islands (s : State) (k : CtxId) (x : Ctx) : (s.setCtx k x).islands = s.islands := rfl
@[simp] theorem setCtx_parts (s : State) (k : CtxId) (x : Ctx) : (s.setCtx k x).parts = s.parts := rfl
@[simp] theorem setCtx_time (s : State) (k : CtxId) (x : Ctx) : (s.setCtx k x).time = s.time := rfl
@[simp] theorem setCtx_frac (s : State) (k : CtxId) (x : Ctx) : (s.setCtx k x).frac = s.frac := rfl
@[simp] theorem setCtx_lines (s : State) (k : CtxId) (x : Ctx) : (s.setCtx k x).lines = s.lines := rfl
@[simp] theorem setCtx_limits (s : State) (k : CtxId) (x : Ctx) : (s.setCtx k x).limits = s.limits := rfl
@[simp] theorem setCtx_wayErrs (s : State) (k : CtxId) (x : Ctx) : (s.setCtx k x).wayErrs = s.wayErrs := rfl
@[simp] theorem setCtx_lastUse (s : State) (k : CtxId) (x : Ctx) : (s.setCtx k x).lastUse = s.lastUse := rfl
@[simp] theorem setCtx_snoop (s : State) (k : CtxId) (x : Ctx) : (s.setCtx k x).snoop = s.snoop := rfl
@[simp] theorem setCtx_backInv (s : State) (k : CtxId) (x : Ctx) : (s.setCtx k x).backInv = s.backInv := rfl
@[simp] theorem setCtx_mem (s : State) (k : CtxId) (x : Ctx) : (s.setCtx k x).mem = s.mem := rfl
@[simp] theorem setCtx_sealMeta (s : State) (k : CtxId) (x : Ctx) : (s.setCtx k x).sealMeta = s.sealMeta := rfl
@[simp] theorem setCtx_fills (s : State) (k : CtxId) (x : Ctx) : (s.setCtx k x).fills = s.fills := rfl
@[simp] theorem setCtx_reseals (s : State) (k : CtxId) (x : Ctx) : (s.setCtx k x).reseals = s.reseals := rfl
@[simp] theorem setCtx_badFrames (s : State) (k : CtxId) (x : Ctx) : (s.setCtx k x).badFrames = s.badFrames := rfl
@[simp] theorem setCtx_fastFrames (s : State) (k : CtxId) (x : Ctx) : (s.setCtx k x).fastFrames = s.fastFrames := rfl
@[simp] theorem setCtx_fastLines (s : State) (k : CtxId) (x : Ctx) : (s.setCtx k x).fastLines = s.fastLines := rfl
@[simp] theorem setCtx_frameErrs (s : State) (k : CtxId) (x : Ctx) : (s.setCtx k x).frameErrs = s.frameErrs := rfl
@[simp] theorem setCtx_rowsLost (s : State) (k : CtxId) (x : Ctx) : (s.setCtx k x).rowsLost = s.rowsLost := rfl
@[simp] theorem setCtx_hallow (s : State) (k : CtxId) (x : Ctx) : (s.setCtx k x).hallow = s.hallow := rfl
@[simp] theorem setCtx_ppkg (s : State) (k : CtxId) (x : Ctx) : (s.setCtx k x).ppkg = s.ppkg := rfl
@[simp] theorem setCtx_penv (s : State) (k : CtxId) (x : Ctx) : (s.setCtx k x).penv = s.penv := rfl
@[simp] theorem setCtx_hostAllow (s : State) (k : CtxId) (x : Ctx) : (s.setCtx k x).hostAllow = s.hostAllow := rfl
@[simp] theorem setCtx_sevBase (s : State) (k : CtxId) (x : Ctx) : (s.setCtx k x).sevBase = s.sevBase := rfl
@[simp] theorem setCtx_sevSize (s : State) (k : CtxId) (x : Ctx) : (s.setCtx k x).sevSize = s.sevSize := rfl
@[simp] theorem setCtx_sevWr (s : State) (k : CtxId) (x : Ctx) : (s.setCtx k x).sevWr = s.sevWr := rfl
@[simp] theorem setCtx_sevRd (s : State) (k : CtxId) (x : Ctx) : (s.setCtx k x).sevRd = s.sevRd := rfl
@[simp] theorem setCtx_sevLost (s : State) (k : CtxId) (x : Ctx) : (s.setCtx k x).sevLost = s.sevLost := rfl
@[simp] theorem setCtx_tampers (s : State) (k : CtxId) (x : Ctx) : (s.setCtx k x).tampers = s.tampers := rfl
@[simp] theorem setCtx_pf0err (s : State) (k : CtxId) (x : Ctx) : (s.setCtx k x).pf0err = s.pf0err := rfl
@[simp] theorem setCtx_stage (s : State) (k : CtxId) (x : Ctx) : (s.setCtx k x).stage = s.stage := rfl
@[simp] theorem setCtx_stageErr (s : State) (k : CtxId) (x : Ctx) : (s.setCtx k x).stageErr = s.stageErr := rfl
@[simp] theorem setCtx_cfgSigned (s : State) (k : CtxId) (x : Ctx) : (s.setCtx k x).cfgSigned = s.cfgSigned := rfl
@[simp] theorem setCtx_drop (s : State) (k : CtxId) (x : Ctx) : (s.setCtx k x).drop = s.drop := rfl
@[simp] theorem setCtx_resv (s : State) (k : CtxId) (x : Ctx) : (s.setCtx k x).resv = s.resv := rfl
@[simp] theorem setCtx_msix (s : State) (k : CtxId) (x : Ctx) : (s.setCtx k x).msix = s.msix := rfl
@[simp] theorem setCtx_msixCtl (s : State) (k : CtxId) (x : Ctx) : (s.setCtx k x).msixCtl = s.msixCtl := rfl
@[simp] theorem setCtx_recs (s : State) (k : CtxId) (x : Ctx) : (s.setCtx k x).recs = s.recs := rfl
@[simp] theorem setCtx_now (s : State) (k : CtxId) (x : Ctx) : (s.setCtx k x).now = s.now := rfl
@[simp] theorem setCtx_endSeq (s : State) (k : CtxId) (x : Ctx) : (s.setCtx k x).endSeq = s.endSeq := rfl
@[simp] theorem setCtx_monitors (s : State) (k : CtxId) (x : Ctx) : (s.setCtx k x).monitors = s.monitors := rfl
@[simp] theorem setCtx_fastOut (s : State) (k : CtxId) (x : Ctx) : (s.setCtx k x).fastOut = s.fastOut := rfl
@[simp] theorem setCtx_spdm (s : State) (k : CtxId) (x : Ctx) : (s.setCtx k x).spdm = s.spdm := rfl
@[simp] theorem setCtx_intake (s : State) (k : CtxId) (x : Ctx) : (s.setCtx k x).intake = s.intake := rfl
@[simp] theorem setCtx_fto (s : State) (k : CtxId) (x : Ctx) : (s.setCtx k x).fto = s.fto := rfl
@[simp] theorem setCtx_fabid (s : State) (k : CtxId) (x : Ctx) : (s.setCtx k x).fabid = s.fabid := rfl
@[simp] theorem setCtx_ports (s : State) (k : CtxId) (x : Ctx) : (s.setCtx k x).ports = s.ports := rfl
@[simp] theorem setCtx_routes (s : State) (k : CtxId) (x : Ctx) : (s.setCtx k x).routes = s.routes := rfl
@[simp] theorem setCtx_peerMap (s : State) (k : CtxId) (x : Ctx) : (s.setCtx k x).peerMap = s.peerMap := rfl
@[simp] theorem setCtx_peerReqs (s : State) (k : CtxId) (x : Ctx) : (s.setCtx k x).peerReqs = s.peerReqs := rfl
@[simp] theorem setCtx_peerTag (s : State) (k : CtxId) (x : Ctx) : (s.setCtx k x).peerTag = s.peerTag := rfl
@[simp] theorem setCtx_halts (s : State) (k : CtxId) (x : Ctx) : (s.setCtx k x).halts = s.halts := rfl
@[simp] theorem setCtx_outbox (s : State) (k : CtxId) (x : Ctx) : (s.setCtx k x).outbox = s.outbox := rfl
@[simp] theorem setCtx_agenda (s : State) (k : CtxId) (x : Ctx) : (s.setCtx k x).agenda = s.agenda := rfl
@[simp] theorem setCtx_turn (s : State) (k : CtxId) (x : Ctx) : (s.setCtx k x).turn = s.turn := rfl
@[simp] theorem setCtx_fresh (s : State) (k : CtxId) (x : Ctx) : (s.setCtx k x).fresh = s.fresh := rfl

/-! ## State.setPart -/

@[simp] theorem setPart_cores (s : State) (p : PartId) (x : Part) : (s.setPart p x).cores = s.cores := rfl
@[simp] theorem setPart_clusters (s : State) (p : PartId) (x : Part) : (s.setPart p x).clusters = s.clusters := rfl
@[simp] theorem setPart_islands (s : State) (p : PartId) (x : Part) : (s.setPart p x).islands = s.islands := rfl
@[simp] theorem setPart_ctxs (s : State) (p : PartId) (x : Part) : (s.setPart p x).ctxs = s.ctxs := rfl
@[simp] theorem setPart_time (s : State) (p : PartId) (x : Part) : (s.setPart p x).time = s.time := rfl
@[simp] theorem setPart_frac (s : State) (p : PartId) (x : Part) : (s.setPart p x).frac = s.frac := rfl
@[simp] theorem setPart_lines (s : State) (p : PartId) (x : Part) : (s.setPart p x).lines = s.lines := rfl
@[simp] theorem setPart_limits (s : State) (p : PartId) (x : Part) : (s.setPart p x).limits = s.limits := rfl
@[simp] theorem setPart_wayErrs (s : State) (p : PartId) (x : Part) : (s.setPart p x).wayErrs = s.wayErrs := rfl
@[simp] theorem setPart_lastUse (s : State) (p : PartId) (x : Part) : (s.setPart p x).lastUse = s.lastUse := rfl
@[simp] theorem setPart_snoop (s : State) (p : PartId) (x : Part) : (s.setPart p x).snoop = s.snoop := rfl
@[simp] theorem setPart_backInv (s : State) (p : PartId) (x : Part) : (s.setPart p x).backInv = s.backInv := rfl
@[simp] theorem setPart_mem (s : State) (p : PartId) (x : Part) : (s.setPart p x).mem = s.mem := rfl
@[simp] theorem setPart_sealMeta (s : State) (p : PartId) (x : Part) : (s.setPart p x).sealMeta = s.sealMeta := rfl
@[simp] theorem setPart_fills (s : State) (p : PartId) (x : Part) : (s.setPart p x).fills = s.fills := rfl
@[simp] theorem setPart_reseals (s : State) (p : PartId) (x : Part) : (s.setPart p x).reseals = s.reseals := rfl
@[simp] theorem setPart_badFrames (s : State) (p : PartId) (x : Part) : (s.setPart p x).badFrames = s.badFrames := rfl
@[simp] theorem setPart_fastFrames (s : State) (p : PartId) (x : Part) : (s.setPart p x).fastFrames = s.fastFrames := rfl
@[simp] theorem setPart_fastLines (s : State) (p : PartId) (x : Part) : (s.setPart p x).fastLines = s.fastLines := rfl
@[simp] theorem setPart_frameErrs (s : State) (p : PartId) (x : Part) : (s.setPart p x).frameErrs = s.frameErrs := rfl
@[simp] theorem setPart_rowsLost (s : State) (p : PartId) (x : Part) : (s.setPart p x).rowsLost = s.rowsLost := rfl
@[simp] theorem setPart_hallow (s : State) (p : PartId) (x : Part) : (s.setPart p x).hallow = s.hallow := rfl
@[simp] theorem setPart_ppkg (s : State) (p : PartId) (x : Part) : (s.setPart p x).ppkg = s.ppkg := rfl
@[simp] theorem setPart_penv (s : State) (p : PartId) (x : Part) : (s.setPart p x).penv = s.penv := rfl
@[simp] theorem setPart_hostAllow (s : State) (p : PartId) (x : Part) : (s.setPart p x).hostAllow = s.hostAllow := rfl
@[simp] theorem setPart_sevBase (s : State) (p : PartId) (x : Part) : (s.setPart p x).sevBase = s.sevBase := rfl
@[simp] theorem setPart_sevSize (s : State) (p : PartId) (x : Part) : (s.setPart p x).sevSize = s.sevSize := rfl
@[simp] theorem setPart_sevWr (s : State) (p : PartId) (x : Part) : (s.setPart p x).sevWr = s.sevWr := rfl
@[simp] theorem setPart_sevRd (s : State) (p : PartId) (x : Part) : (s.setPart p x).sevRd = s.sevRd := rfl
@[simp] theorem setPart_sevLost (s : State) (p : PartId) (x : Part) : (s.setPart p x).sevLost = s.sevLost := rfl
@[simp] theorem setPart_tampers (s : State) (p : PartId) (x : Part) : (s.setPart p x).tampers = s.tampers := rfl
@[simp] theorem setPart_pf0err (s : State) (p : PartId) (x : Part) : (s.setPart p x).pf0err = s.pf0err := rfl
@[simp] theorem setPart_stage (s : State) (p : PartId) (x : Part) : (s.setPart p x).stage = s.stage := rfl
@[simp] theorem setPart_stageErr (s : State) (p : PartId) (x : Part) : (s.setPart p x).stageErr = s.stageErr := rfl
@[simp] theorem setPart_cfgSigned (s : State) (p : PartId) (x : Part) : (s.setPart p x).cfgSigned = s.cfgSigned := rfl
@[simp] theorem setPart_drop (s : State) (p : PartId) (x : Part) : (s.setPart p x).drop = s.drop := rfl
@[simp] theorem setPart_resv (s : State) (p : PartId) (x : Part) : (s.setPart p x).resv = s.resv := rfl
@[simp] theorem setPart_msix (s : State) (p : PartId) (x : Part) : (s.setPart p x).msix = s.msix := rfl
@[simp] theorem setPart_msixCtl (s : State) (p : PartId) (x : Part) : (s.setPart p x).msixCtl = s.msixCtl := rfl
@[simp] theorem setPart_recs (s : State) (p : PartId) (x : Part) : (s.setPart p x).recs = s.recs := rfl
@[simp] theorem setPart_now (s : State) (p : PartId) (x : Part) : (s.setPart p x).now = s.now := rfl
@[simp] theorem setPart_endSeq (s : State) (p : PartId) (x : Part) : (s.setPart p x).endSeq = s.endSeq := rfl
@[simp] theorem setPart_monitors (s : State) (p : PartId) (x : Part) : (s.setPart p x).monitors = s.monitors := rfl
@[simp] theorem setPart_fastOut (s : State) (p : PartId) (x : Part) : (s.setPart p x).fastOut = s.fastOut := rfl
@[simp] theorem setPart_spdm (s : State) (p : PartId) (x : Part) : (s.setPart p x).spdm = s.spdm := rfl
@[simp] theorem setPart_intake (s : State) (p : PartId) (x : Part) : (s.setPart p x).intake = s.intake := rfl
@[simp] theorem setPart_fto (s : State) (p : PartId) (x : Part) : (s.setPart p x).fto = s.fto := rfl
@[simp] theorem setPart_fabid (s : State) (p : PartId) (x : Part) : (s.setPart p x).fabid = s.fabid := rfl
@[simp] theorem setPart_ports (s : State) (p : PartId) (x : Part) : (s.setPart p x).ports = s.ports := rfl
@[simp] theorem setPart_routes (s : State) (p : PartId) (x : Part) : (s.setPart p x).routes = s.routes := rfl
@[simp] theorem setPart_peerMap (s : State) (p : PartId) (x : Part) : (s.setPart p x).peerMap = s.peerMap := rfl
@[simp] theorem setPart_peerReqs (s : State) (p : PartId) (x : Part) : (s.setPart p x).peerReqs = s.peerReqs := rfl
@[simp] theorem setPart_peerTag (s : State) (p : PartId) (x : Part) : (s.setPart p x).peerTag = s.peerTag := rfl
@[simp] theorem setPart_halts (s : State) (p : PartId) (x : Part) : (s.setPart p x).halts = s.halts := rfl
@[simp] theorem setPart_outbox (s : State) (p : PartId) (x : Part) : (s.setPart p x).outbox = s.outbox := rfl
@[simp] theorem setPart_agenda (s : State) (p : PartId) (x : Part) : (s.setPart p x).agenda = s.agenda := rfl
@[simp] theorem setPart_turn (s : State) (p : PartId) (x : Part) : (s.setPart p x).turn = s.turn := rfl
@[simp] theorem setPart_fresh (s : State) (p : PartId) (x : Part) : (s.setPart p x).fresh = s.fresh := rfl

/-! ## State.send -/

@[simp] theorem send_cores (s : State) (o : Out) : (s.send o).cores = s.cores := rfl
@[simp] theorem send_clusters (s : State) (o : Out) : (s.send o).clusters = s.clusters := rfl
@[simp] theorem send_islands (s : State) (o : Out) : (s.send o).islands = s.islands := rfl
@[simp] theorem send_parts (s : State) (o : Out) : (s.send o).parts = s.parts := rfl
@[simp] theorem send_ctxs (s : State) (o : Out) : (s.send o).ctxs = s.ctxs := rfl
@[simp] theorem send_time (s : State) (o : Out) : (s.send o).time = s.time := rfl
@[simp] theorem send_frac (s : State) (o : Out) : (s.send o).frac = s.frac := rfl
@[simp] theorem send_lines (s : State) (o : Out) : (s.send o).lines = s.lines := rfl
@[simp] theorem send_limits (s : State) (o : Out) : (s.send o).limits = s.limits := rfl
@[simp] theorem send_wayErrs (s : State) (o : Out) : (s.send o).wayErrs = s.wayErrs := rfl
@[simp] theorem send_lastUse (s : State) (o : Out) : (s.send o).lastUse = s.lastUse := rfl
@[simp] theorem send_snoop (s : State) (o : Out) : (s.send o).snoop = s.snoop := rfl
@[simp] theorem send_backInv (s : State) (o : Out) : (s.send o).backInv = s.backInv := rfl
@[simp] theorem send_mem (s : State) (o : Out) : (s.send o).mem = s.mem := rfl
@[simp] theorem send_sealMeta (s : State) (o : Out) : (s.send o).sealMeta = s.sealMeta := rfl
@[simp] theorem send_fills (s : State) (o : Out) : (s.send o).fills = s.fills := rfl
@[simp] theorem send_reseals (s : State) (o : Out) : (s.send o).reseals = s.reseals := rfl
@[simp] theorem send_badFrames (s : State) (o : Out) : (s.send o).badFrames = s.badFrames := rfl
@[simp] theorem send_fastFrames (s : State) (o : Out) : (s.send o).fastFrames = s.fastFrames := rfl
@[simp] theorem send_fastLines (s : State) (o : Out) : (s.send o).fastLines = s.fastLines := rfl
@[simp] theorem send_frameErrs (s : State) (o : Out) : (s.send o).frameErrs = s.frameErrs := rfl
@[simp] theorem send_rowsLost (s : State) (o : Out) : (s.send o).rowsLost = s.rowsLost := rfl
@[simp] theorem send_hallow (s : State) (o : Out) : (s.send o).hallow = s.hallow := rfl
@[simp] theorem send_ppkg (s : State) (o : Out) : (s.send o).ppkg = s.ppkg := rfl
@[simp] theorem send_penv (s : State) (o : Out) : (s.send o).penv = s.penv := rfl
@[simp] theorem send_hostAllow (s : State) (o : Out) : (s.send o).hostAllow = s.hostAllow := rfl
@[simp] theorem send_sevBase (s : State) (o : Out) : (s.send o).sevBase = s.sevBase := rfl
@[simp] theorem send_sevSize (s : State) (o : Out) : (s.send o).sevSize = s.sevSize := rfl
@[simp] theorem send_sevWr (s : State) (o : Out) : (s.send o).sevWr = s.sevWr := rfl
@[simp] theorem send_sevRd (s : State) (o : Out) : (s.send o).sevRd = s.sevRd := rfl
@[simp] theorem send_sevLost (s : State) (o : Out) : (s.send o).sevLost = s.sevLost := rfl
@[simp] theorem send_tampers (s : State) (o : Out) : (s.send o).tampers = s.tampers := rfl
@[simp] theorem send_pf0err (s : State) (o : Out) : (s.send o).pf0err = s.pf0err := rfl
@[simp] theorem send_stage (s : State) (o : Out) : (s.send o).stage = s.stage := rfl
@[simp] theorem send_stageErr (s : State) (o : Out) : (s.send o).stageErr = s.stageErr := rfl
@[simp] theorem send_cfgSigned (s : State) (o : Out) : (s.send o).cfgSigned = s.cfgSigned := rfl
@[simp] theorem send_drop (s : State) (o : Out) : (s.send o).drop = s.drop := rfl
@[simp] theorem send_resv (s : State) (o : Out) : (s.send o).resv = s.resv := rfl
@[simp] theorem send_msix (s : State) (o : Out) : (s.send o).msix = s.msix := rfl
@[simp] theorem send_msixCtl (s : State) (o : Out) : (s.send o).msixCtl = s.msixCtl := rfl
@[simp] theorem send_recs (s : State) (o : Out) : (s.send o).recs = s.recs := rfl
@[simp] theorem send_now (s : State) (o : Out) : (s.send o).now = s.now := rfl
@[simp] theorem send_endSeq (s : State) (o : Out) : (s.send o).endSeq = s.endSeq := rfl
@[simp] theorem send_monitors (s : State) (o : Out) : (s.send o).monitors = s.monitors := rfl
@[simp] theorem send_fastOut (s : State) (o : Out) : (s.send o).fastOut = s.fastOut := rfl
@[simp] theorem send_spdm (s : State) (o : Out) : (s.send o).spdm = s.spdm := rfl
@[simp] theorem send_intake (s : State) (o : Out) : (s.send o).intake = s.intake := rfl
@[simp] theorem send_fto (s : State) (o : Out) : (s.send o).fto = s.fto := rfl
@[simp] theorem send_fabid (s : State) (o : Out) : (s.send o).fabid = s.fabid := rfl
@[simp] theorem send_ports (s : State) (o : Out) : (s.send o).ports = s.ports := rfl
@[simp] theorem send_routes (s : State) (o : Out) : (s.send o).routes = s.routes := rfl
@[simp] theorem send_peerMap (s : State) (o : Out) : (s.send o).peerMap = s.peerMap := rfl
@[simp] theorem send_peerReqs (s : State) (o : Out) : (s.send o).peerReqs = s.peerReqs := rfl
@[simp] theorem send_peerTag (s : State) (o : Out) : (s.send o).peerTag = s.peerTag := rfl
@[simp] theorem send_halts (s : State) (o : Out) : (s.send o).halts = s.halts := rfl
@[simp] theorem send_agenda (s : State) (o : Out) : (s.send o).agenda = s.agenda := rfl
@[simp] theorem send_turn (s : State) (o : Out) : (s.send o).turn = s.turn := rfl
@[simp] theorem send_fresh (s : State) (o : Out) : (s.send o).fresh = s.fresh := rfl

/-! ## State.note -/

@[simp] theorem note_cores (s : State) (m : NowMark) : (s.note m).cores = s.cores := rfl
@[simp] theorem note_clusters (s : State) (m : NowMark) : (s.note m).clusters = s.clusters := rfl
@[simp] theorem note_islands (s : State) (m : NowMark) : (s.note m).islands = s.islands := rfl
@[simp] theorem note_parts (s : State) (m : NowMark) : (s.note m).parts = s.parts := rfl
@[simp] theorem note_ctxs (s : State) (m : NowMark) : (s.note m).ctxs = s.ctxs := rfl
@[simp] theorem note_time (s : State) (m : NowMark) : (s.note m).time = s.time := rfl
@[simp] theorem note_frac (s : State) (m : NowMark) : (s.note m).frac = s.frac := rfl
@[simp] theorem note_lines (s : State) (m : NowMark) : (s.note m).lines = s.lines := rfl
@[simp] theorem note_limits (s : State) (m : NowMark) : (s.note m).limits = s.limits := rfl
@[simp] theorem note_wayErrs (s : State) (m : NowMark) : (s.note m).wayErrs = s.wayErrs := rfl
@[simp] theorem note_lastUse (s : State) (m : NowMark) : (s.note m).lastUse = s.lastUse := rfl
@[simp] theorem note_snoop (s : State) (m : NowMark) : (s.note m).snoop = s.snoop := rfl
@[simp] theorem note_backInv (s : State) (m : NowMark) : (s.note m).backInv = s.backInv := rfl
@[simp] theorem note_mem (s : State) (m : NowMark) : (s.note m).mem = s.mem := rfl
@[simp] theorem note_sealMeta (s : State) (m : NowMark) : (s.note m).sealMeta = s.sealMeta := rfl
@[simp] theorem note_fills (s : State) (m : NowMark) : (s.note m).fills = s.fills := rfl
@[simp] theorem note_reseals (s : State) (m : NowMark) : (s.note m).reseals = s.reseals := rfl
@[simp] theorem note_badFrames (s : State) (m : NowMark) : (s.note m).badFrames = s.badFrames := rfl
@[simp] theorem note_fastFrames (s : State) (m : NowMark) : (s.note m).fastFrames = s.fastFrames := rfl
@[simp] theorem note_fastLines (s : State) (m : NowMark) : (s.note m).fastLines = s.fastLines := rfl
@[simp] theorem note_frameErrs (s : State) (m : NowMark) : (s.note m).frameErrs = s.frameErrs := rfl
@[simp] theorem note_rowsLost (s : State) (m : NowMark) : (s.note m).rowsLost = s.rowsLost := rfl
@[simp] theorem note_hallow (s : State) (m : NowMark) : (s.note m).hallow = s.hallow := rfl
@[simp] theorem note_ppkg (s : State) (m : NowMark) : (s.note m).ppkg = s.ppkg := rfl
@[simp] theorem note_penv (s : State) (m : NowMark) : (s.note m).penv = s.penv := rfl
@[simp] theorem note_hostAllow (s : State) (m : NowMark) : (s.note m).hostAllow = s.hostAllow := rfl
@[simp] theorem note_sevBase (s : State) (m : NowMark) : (s.note m).sevBase = s.sevBase := rfl
@[simp] theorem note_sevSize (s : State) (m : NowMark) : (s.note m).sevSize = s.sevSize := rfl
@[simp] theorem note_sevWr (s : State) (m : NowMark) : (s.note m).sevWr = s.sevWr := rfl
@[simp] theorem note_sevRd (s : State) (m : NowMark) : (s.note m).sevRd = s.sevRd := rfl
@[simp] theorem note_sevLost (s : State) (m : NowMark) : (s.note m).sevLost = s.sevLost := rfl
@[simp] theorem note_tampers (s : State) (m : NowMark) : (s.note m).tampers = s.tampers := rfl
@[simp] theorem note_pf0err (s : State) (m : NowMark) : (s.note m).pf0err = s.pf0err := rfl
@[simp] theorem note_stage (s : State) (m : NowMark) : (s.note m).stage = s.stage := rfl
@[simp] theorem note_stageErr (s : State) (m : NowMark) : (s.note m).stageErr = s.stageErr := rfl
@[simp] theorem note_cfgSigned (s : State) (m : NowMark) : (s.note m).cfgSigned = s.cfgSigned := rfl
@[simp] theorem note_drop (s : State) (m : NowMark) : (s.note m).drop = s.drop := rfl
@[simp] theorem note_resv (s : State) (m : NowMark) : (s.note m).resv = s.resv := rfl
@[simp] theorem note_msix (s : State) (m : NowMark) : (s.note m).msix = s.msix := rfl
@[simp] theorem note_msixCtl (s : State) (m : NowMark) : (s.note m).msixCtl = s.msixCtl := rfl
@[simp] theorem note_recs (s : State) (m : NowMark) : (s.note m).recs = s.recs := rfl
@[simp] theorem note_endSeq (s : State) (m : NowMark) : (s.note m).endSeq = s.endSeq := rfl
@[simp] theorem note_monitors (s : State) (m : NowMark) : (s.note m).monitors = s.monitors := rfl
@[simp] theorem note_fastOut (s : State) (m : NowMark) : (s.note m).fastOut = s.fastOut := rfl
@[simp] theorem note_spdm (s : State) (m : NowMark) : (s.note m).spdm = s.spdm := rfl
@[simp] theorem note_intake (s : State) (m : NowMark) : (s.note m).intake = s.intake := rfl
@[simp] theorem note_fto (s : State) (m : NowMark) : (s.note m).fto = s.fto := rfl
@[simp] theorem note_fabid (s : State) (m : NowMark) : (s.note m).fabid = s.fabid := rfl
@[simp] theorem note_ports (s : State) (m : NowMark) : (s.note m).ports = s.ports := rfl
@[simp] theorem note_routes (s : State) (m : NowMark) : (s.note m).routes = s.routes := rfl
@[simp] theorem note_peerMap (s : State) (m : NowMark) : (s.note m).peerMap = s.peerMap := rfl
@[simp] theorem note_peerReqs (s : State) (m : NowMark) : (s.note m).peerReqs = s.peerReqs := rfl
@[simp] theorem note_peerTag (s : State) (m : NowMark) : (s.note m).peerTag = s.peerTag := rfl
@[simp] theorem note_halts (s : State) (m : NowMark) : (s.note m).halts = s.halts := rfl
@[simp] theorem note_agenda (s : State) (m : NowMark) : (s.note m).agenda = s.agenda := rfl
@[simp] theorem note_turn (s : State) (m : NowMark) : (s.note m).turn = s.turn := rfl
@[simp] theorem note_fresh (s : State) (m : NowMark) : (s.note m).fresh = s.fresh := rfl
@[simp] theorem note_outbox (s : State) (m : NowMark) : (s.note m).outbox = s.outbox := rfl

end Sys2Proof.Machine
end

