-- ==== Sys2Proof/Laws/Frame.lean ====
section
/-! SUPPORT. What reading sources, writing a scalar result and going on leave alone. -/

namespace Sys2Proof.Machine

theorem Job.Beside.refl (e : Eng) (j : Job) : j.Beside e j := by constructor <;> simp

theorem Job.Beside.trans {e : Eng} {j k l : Job} (h : j.Beside e k) (g : k.Beside e l) : j.Beside e l := by
  obtain ⟨h1, h2, h3, h4, h5, h6, h7, h8, h9⟩ := h
  obtain ⟨g1, g2, g3, g4, g5, g6, g7, g8, g9⟩ := g
  constructor
  · intro x hx; rw [(g1 x hx).1, (h1 x hx).1, (g1 x hx).2, (h1 x hx).2]; simp
  · intro x; rw [(g2 x).1, (g2 x).2]; exact h2 x
  · simp only [g3, h3, and_self]
  · simp only [g4, h4, and_self]
  · simp only [g5, h5, and_self]
  · simp only [g6, h6, and_self]
  · simp only [g7, h7, and_self]
  · simp only [g8, h8, and_self]
  · simp only [g9, h9, and_self]

theorem issuing_eq (j : Job) (e : Eng) (i : Instr) : j.issuing e i = { j with
    c := { j.c with cmp := (j.issuing e i).c.cmp, cur := (j.issuing e i).c.cur }
    m := { j.m with rdepth := (j.issuing e i).m.rdepth, depthMax := (j.issuing e i).m.depthMax } } := by
  unfold Job.issuing Job.begun; split <;> cases e <;> rfl

/-- Issuing changes what is checked and counted, and nothing that a program sees but TSTAT's depths. -/
theorem issuing_beside (j : Job) (e : Eng) (i : Instr) : j.Beside e (j.issuing e i) := by
  rw [issuing_eq]
  constructor <;> (try (intro x; cases x)) <;> and_intros <;> intros <;> (try and_intros) <;> rfl

/-- Reading passes a destination by, and reads every other field. -/
theorem readFields_cons (j : Job) (f : Field) (fs : List Field) : (readFields j (f :: fs)).1 = (readFields j fs).1 ∨
    (readFields j (f :: fs)).1 = (readFields (readField j f).1 fs).1 := by
  simp only [readFields]
  cases f.role
  · exact .inr rfl
  · exact .inl rfl
  · exact .inr rfl

/-- Reading fields changes streams, and what the checker is to take of them. -/
theorem readFields_eq : ∀ (fs : List Field) (j : Job), (readFields j fs).1 = { j with
    streams := (readFields j fs).1.streams
    c := { j.c with
      spanIn := (readFields j fs).1.c.spanIn, chkIn := (readFields j fs).1.c.chkIn, digest := (readFields j fs).1.c.digest } }
  | [], _ => rfl
  | f :: fs, j => by
    have h1 : (readField j f).1 = { j with
        streams := (readField j f).1.streams
        c := { j.c with
          spanIn := (readField j f).1.c.spanIn, chkIn := (readField j f).1.c.chkIn, digest := (readField j f).1.c.digest } } := by
      unfold readField; split
      · rfl
      · rw [pop_eq]
      · rfl
    rcases readFields_cons j f fs with h | h <;> rw [h]
    · exact readFields_eq fs j
    · have := readFields_eq fs (readField j f).1
      rw [h1] at this ⊢
      rw [this]

/-- A stream that no source names is as it was. -/
theorem readFields_stream : ∀ (fs : List Field) (j : Job) (q : Fin 16), (∀ f ∈ fs, f.opnd ≠ .q q) →
    (readFields j fs).1.stream q = j.stream q
  | [], _, _, _ => rfl
  | f :: fs, j, q, h => by
    have hf := h f (by simp)
    have h1 : (readField j f).1.stream q = j.stream q := by
      unfold readField; split
      · rfl
      · next p hp =>
        have : p ≠ q := fun e => hf (by rw [hp, e])
        rw [pop_eq]; simp [Job.stream, Job.setStream, Fin.val_inj, this]
      · rfl
    have ih := fun k => readFields_stream fs k q fun g hg => h g (by simp [hg])
    rcases readFields_cons j f fs with h2 | h2 <;> rw [h2, ih]
    exact h1

theorem sourced_eq (j : Job) (e : Eng) (i : Instr) :
    j.sourced e i = { j.issuing e i with
      streams := (j.sourced e i).streams
      c := { (j.issuing e i).c with
        spanIn := (j.sourced e i).c.spanIn, chkIn := (j.sourced e i).c.chkIn, digest := (j.sourced e i).c.digest } } :=
  readFields_eq _ _

theorem streams_beside (j : Job) (e : Eng) (v : Vector Stream 16) (x y : List CIn) (d : Option CDigest) :
    j.Beside e { j with streams := v, c := { j.c with spanIn := x, chkIn := y, digest := d } } := by
  constructor <;> (try (intro x; cases x)) <;> and_intros <;> intros <;> (try and_intros) <;> rfl

theorem sourced_beside (j : Job) (e : Eng) (i : Instr) : j.Beside e (j.sourced e i) := by
  rw [sourced_eq]; exact (issuing_beside j e i).trans (streams_beside _ e _ _ _ _)

@[simp] theorem sourced_reg (j : Job) (e x : Eng) (i : Instr) : (j.sourced e i).reg x = j.reg x := by
  rw [sourced_eq]; rw [← issuing_reg j e x i]; funext n; cases x <;> rfl

theorem scalars_beside (j : Job) (e : Eng) (x : Vector W32 32) : j.Beside e
    { j with c := { j.c with arch := { j.c.arch with s := x } } } := by
  constructor <;> (try (intro x; cases x)) <;> and_intros <;> intros <;> (try and_intros) <;> rfl

theorem result_beside (j : Job) (e : Eng) (d : Opnd) (f : (Fin 32 → W64) → W64) : j.Beside e (j.result e d f) := by
  cases d with
  | reg n =>
    cases e
    · exact scalars_beside _ _ _
    all_goals
      constructor <;> (try (intro x; cases x)) <;> and_intros <;> intros <;> (try and_intros) <;> rfl
  | q q => exact streams_beside _ _ _ _ _ _
  | bad n => exact .refl _ _

theorem traceC_beside (j : Job) (e : Eng) : j.Beside e j.traceC := by
  rw [traceC_eq]
  constructor <;> (try (intro x; cases x)) <;> and_intros <;> intros <;> (try and_intros) <;> rfl

theorem done_beside (j : Job) (e : Eng) (n : Nat) : j.Beside e (j.done e n) := by
  cases e
  · refine Job.Beside.trans ?_ (traceC_beside _ _)
    simp only [Job.next, Job.flow, CEng.upd]
    constructor <;> (try (intro x; cases x)) <;> and_intros <;> intros <;> (try and_intros) <;> first | rfl | contradiction
  all_goals
    constructor <;> (try (intro x; cases x)) <;> and_intros <;> intros <;> (try and_intros) <;> first | rfl | contradiction

@[simp] theorem done_reg (j : Job) (e x : Eng) (n : Nat) : (j.done e n).reg x = j.reg x := by
  funext m; cases e <;> (try (simp only [Job.done, Job.issued]; rw [traceC_eq])) <;> cases x <;> rfl

@[simp] theorem done_streams (j : Job) (e : Eng) (n : Nat) : (j.done e n).streams = j.streams := by
  cases e <;> (try (simp only [Job.done, Job.issued]; rw [traceC_eq])) <;> rfl

theorem regRead_write_ne {w : Nat} (f : Vector (BitVec w) 32) (m n : Fin 32) (x : BitVec w) (h : m ≠ n) :
    regRead (regWrite f m x) n = regRead f n := by
  unfold regRead regWrite
  split
  · rfl
  · split
    · rfl
    · rw [Vector.getElem_set_ne]; exact fun e => h (Fin.ext e)

theorem regRead_write_self {w : Nat} (f : Vector (BitVec w) 32) (n : Fin 32) (x : BitVec w) (h : n ≠ 0) :
    regRead (regWrite f n x) n = x := by
  simp [regRead, regWrite, h]

/-- A scalar result changes no register but D, and none at once in a timed engine. -/
theorem result_reg (j : Job) (e x : Eng) (d : Opnd) (f : (Fin 32 → W64) → W64) (n : Fin 32)
    (h : x ≠ e ∨ d ≠ .reg n ∨ e.elastic = false) : (j.result e d f).reg x n = j.reg x n := by
  cases d with
  | reg m =>
    have hm : x ≠ e ∨ m ≠ n ∨ e.elastic = false := by simpa using h
    cases e <;> cases x <;> simp [Eng.elastic] at hm <;> simp [Job.result, Job.write, Job.reg, regRead_write_ne, *]
  | q q => cases x <;> rfl
  | bad n => rfl

theorem push_stream (j : Job) (q p : Fin 16) (r : Row) (h : p ≠ q) : (j.push q r).stream p = j.stream p := by
  simp only [Job.push, Job.stream, Job.setStream]
  rw [Vector.getElem_set_ne]; exact fun e => h (Fin.ext e.symm)

theorem result_stream (j : Job) (e : Eng) (d : Opnd) (f : (Fin 32 → W64) → W64) (q : Fin 16) (h : d ≠ .q q) :
    (j.result e d f).stream q = j.stream q := by
  cases d with
  | reg m => cases e <;> rfl
  | q p => exact push_stream _ _ _ _ fun e => h (by rw [e])
  | bad n => rfl

/-! ## One job of the machine -/

@[simp] theorem job_setJob (s : State) (c : CoreId) (j : Job) : (s.setJob c j).job c = some j := by
  simp [State.job, State.setJob, State.setCore, State.core]

theorem core_setJob_ne (s : State) (c d : CoreId) (j : Job) (h : d ≠ c) : (s.setJob c j).core d = s.core d := by
  simp only [State.setJob, State.setCore, State.core]
  rw [Vector.getElem_set_ne]; exact fun e => h (Fin.ext e.symm)

@[simp] theorem core_setJob (s : State) (c : CoreId) (j : Job) : (s.setJob c j).core c = { s.core c with job := some j } := by
  simp [State.setJob, State.setCore, State.core]

theorem jobOnly_setJob (s : State) (c : CoreId) (j : Job) : JobOnly c s (s.setJob c j) where
  others d h := core_setJob_ne s c d j h
  own := by simp
  rest := rfl

/-- No memory changes with a job. -/
theorem JobOnly.bytes {c : CoreId} {s t : State} (h : JobOnly c s t) :
    (∀ x, t.mem.read x = s.mem.read x) ∧ ∀ x n, (t.core x).scr.read n = (s.core x).scr.read n := by
  have hm : t.mem = s.mem := by have := congrArg State.mem h.rest; exact this
  refine ⟨fun x => by rw [hm], fun x n => ?_⟩
  by_cases hx : x = c
  · subst hx; have := congrArg Core.scr h.own; simp at this; rw [this]
  · rw [h.others x hx]

/-- Special registers follow the job and what does not depend on it. -/
theorem srRead_beside {c : CoreId} {s t : State} {e : Eng} {j k : Job} (h : JobOnly c s t) (hb : j.Beside e k)
    (x : Eng) (n : Nat) : srRead t c k x n = srRead s c j x n := by
  have hi : t.island (coreIsl c) = s.island (coreIsl c) := by
    have := congrArg State.islands h.rest; simp at this; simp [State.island, this]
  have ht : t.time = s.time := by have := congrArg State.time h.rest; exact this
  have hc : ∀ l, spcap (t.core c) l = spcap (s.core c) l := fun l =>
    show spcap { t.core c with job := none } l = spcap { s.core c with job := none } l by rw [h.own]
  obtain ⟨-, h2, h3, h4, h5, h6, h7, h8, h9⟩ := hb
  unfold srRead timeHigh CEng.causeWord
  simp only [hi, ht, hc, h3, h4, h5, h6, h7, h8, h9, (h2 _).1, (h2 _).2]

end Sys2Proof.Machine
end

