-- ==== Sys2Proof/Laws/Vector.lean ====
section
/-! SUPPORT. What the shared frames of the vector instructions do once the instruction issues, and what the delivery of a
result leaves alone. -/

namespace Sys2Proof.Machine

/-- A vector instruction that issues delivers its function of the source rows. -/
theorem vrun_go {s c j i} (h : Issues s c .v j i) (occ lat : Nat) (d : Opnd) (f : Job → List Row → VOut) :
    vrun i occ lat d f s =
      .next (vecDone s c j i occ lat d (f (j.sourced .v i) ((sourcesOf j .v i).map fun v => v.vec (j.sourced .v i).v))) := by
  unfold vrun; rw [issueJob_go h]; rfl

/-- A vector instruction with a scalar source delivers its function of it. -/
theorem vfromScalar_go {s c j i} (h : Issues s c .v j i) (t : ElemT) (d : Opnd) (f : W32 → Nat → Nat × Flags) :
    vfromScalar i t d f s = .next (vecDone s c j i 1 2 d (lanewise t (j.sourced .v i).v.mask (f (srcV j i 0)))) := by
  unfold vfromScalar; rw [issueJob_go h]; simp only [srcV, sourced_reg]; rfl

/-- A vector instruction with a scalar result delivers its function of the row and of D. -/
theorem vtoScalar_go {s c j i} (h : Issues s c .v j i) (lat : Nat) (d : Opnd) (f : Job → Row → W32 → W32) :
    vtoScalar i lat d f s = .next (s.setJob c (((j.sourced .v i).sout d lat
      (f (j.sourced .v i) ((argAt (sourcesOf j .v i) 0).vec (j.sourced .v i).v) (srcV j i 1))).done .v 1)) := by
  unfold vtoScalar; rw [issueJob_go h]; simp only [srcV, sourced_reg]

theorem sourced_v (j : Job) (e : Eng) (i : Instr) : (j.sourced e i).v = j.v := by
  rw [sourced_eq]; exact issuing_v j e i

theorem sourced_m (j : Job) (e : Eng) (i : Instr) : (j.sourced e i).m = (j.issuing e i).m := by
  rw [sourced_eq]

theorem sourced_a (j : Job) (e : Eng) (i : Instr) : (j.sourced e i).a = j.a := by
  rw [sourced_eq]; exact issuing_a j e i

/-- Results that wait to land, and the streams that will take them, are all that a delivery changes. -/
theorem delivery_beside (j : Job) (e : Eng) (v : Vector Stream 16) (p : List Pend) (f : List Flight) :
    j.Beside e { j with streams := v, v := { j.v with pend := p, flights := f } } := by
  constructor <;> (try (intro x; cases x)) <;> and_intros <;> intros <;> (try and_intros) <;> rfl

theorem vout_eq (j : Job) (d : Opnd) (lat : Nat) (o : VOut) : j.vout d lat o =
    { j with streams := (j.vout d lat o).streams
             v := { j.v with pend := (j.vout d lat o).v.pend, flights := (j.vout d lat o).v.flights } } := by
  cases d
  · simp only [Job.vout, Job.landIn, VEng.flagsIn]; split <;> rfl
  · rfl
  · rfl

theorem sout_eq (j : Job) (d : Opnd) (lat : Nat) (x : W32) : j.sout d lat x =
    { j with streams := (j.sout d lat x).streams
             v := { j.v with pend := (j.sout d lat x).v.pend, flights := (j.sout d lat x).v.flights } } := by
  cases d <;> rfl

theorem vout_beside (j : Job) (e : Eng) (d : Opnd) (lat : Nat) (o : VOut) : j.Beside e (j.vout d lat o) := by
  rw [vout_eq]; exact delivery_beside _ _ _ _ _

theorem sout_beside (j : Job) (e : Eng) (d : Opnd) (lat : Nat) (x : W32) : j.Beside e (j.sout d lat x) := by
  rw [sout_eq]; exact delivery_beside _ _ _ _ _

theorem vout_reg (j : Job) (x : Eng) (d : Opnd) (lat : Nat) (o : VOut) : (j.vout d lat o).reg x = j.reg x := by
  rw [vout_eq]; cases x <;> rfl

theorem sout_reg (j : Job) (x : Eng) (d : Opnd) (lat : Nat) (y : W32) : (j.sout d lat y).reg x = j.reg x := by
  rw [sout_eq]; cases x <;> rfl

theorem pushIn_stream (j : Job) (q p : Fin 16) (lat : Nat) (r : Row) (f : Flags) (h : p ≠ q) :
    (j.pushIn q lat r f).stream p = j.stream p := by
  simp only [Job.pushIn, Job.stream, Job.setStream]
  rw [Vector.getElem_set_ne]; exact fun e => h (Fin.ext e.symm)

theorem vout_stream (j : Job) (d : Opnd) (lat : Nat) (o : VOut) (q : Fin 16) (h : d ≠ .q q) :
    (j.vout d lat o).stream q = j.stream q := by
  cases d with
  | reg n => rfl
  | q p => exact pushIn_stream _ _ _ _ _ _ fun e => h (by rw [e])
  | bad n => rfl

theorem sout_stream (j : Job) (d : Opnd) (lat : Nat) (x : W32) (q : Fin 16) (h : d ≠ .q q) :
    (j.sout d lat x).stream q = j.stream q := by
  cases d with
  | reg n => rfl
  | q p => exact pushIn_stream _ _ _ _ _ _ fun e => h (by rw [e])
  | bad n => rfl

end Sys2Proof.Machine
end

