-- ==== Sys2Proof/Laws/Matrix.lean ====
section
/-! SUPPORT. What the issue of a matrix instruction changes: its walks' steps, its claims of bank groups, and the accesses that
are to come. -/

namespace Sys2Proof.Machine

theorem walk_setWalk_ne (j : Job) (w x : Fin 8) (y : Walk) (h : x ≠ w) : (j.setWalk w y).walk x = j.walk x := by
  simp only [Job.setWalk, Job.walk]; rw [Vector.getElem_set_ne]; exact fun e => h (Fin.ext e.symm)

theorem advanceWalk_eq (j : Job) (w : Fin 8) (n : Nat) : j.advanceWalk w n = { j with walks := (j.advanceWalk w n).walks } := by
  unfold Job.advanceWalk; split <;> rfl

theorem advanceWalk_walk (j : Job) (w x : Fin 8) (n : Nat) (h : x ≠ w) : (j.advanceWalk w n).walk x = j.walk x := by
  unfold Job.advanceWalk; split
  · rfl
  · exact walk_setWalk_ne _ _ _ _ h

theorem spendCredit_eq (j : Job) (w : Option (Fin 8)) : j.spendCredit w = { j with walks := (j.spendCredit w).walks } := by
  unfold Job.spendCredit; repeat' split
  all_goals rfl

theorem spendCredit_walk (j : Job) (w x : Fin 8) (h : x ≠ w) : (j.spendCredit (some w)).walk x = j.walk x := by
  unfold Job.spendCredit; simp only []; split
  · rfl
  · split
    · exact walk_setWalk_ne _ _ _ _ h
    · rfl

theorem spendMany_eq (w : Fin 8) : ∀ (n : Nat) (j : Job), j.spendMany w n = { j with walks := (j.spendMany w n).walks }
  | 0, _ => rfl
  | n + 1, j => by
    show (j.spendCredit (some w)).spendMany w n = _
    have h := spendMany_eq w n (j.spendCredit (some w))
    rw [spendCredit_eq] at h
    have e : (j.spendMany w (n + 1)).walks = ((j.spendCredit (some w)).spendMany w n).walks := rfl
    rw [e, spendCredit_eq]; exact h

theorem spendMany_walk (w x : Fin 8) (h : x ≠ w) : ∀ (n : Nat) (j : Job), (j.spendMany w n).walk x = j.walk x
  | 0, _ => rfl
  | n + 1, j => by
    show ((j.spendCredit (some w)).spendMany w n).walk x = _
    rw [spendMany_walk w x h n, spendCredit_walk _ _ _ h]

theorem advances_eq : ∀ (l : List (Fin 8 × Nat)) (j : Job), l.foldl (fun x n => x.advanceWalk n.1 n.2) j =
    { j with walks := (l.foldl (fun x n => x.advanceWalk n.1 n.2) j).walks }
  | [], _ => rfl
  | n :: l, j => by
    simp only [List.foldl_cons]
    have h := advances_eq l (j.advanceWalk n.1 n.2)
    rw [advanceWalk_eq] at h ⊢
    exact h

theorem advances_walk (x : Fin 8) : ∀ (l : List (Fin 8 × Nat)) (j : Job), (∀ n ∈ l, x ≠ n.1) →
    (l.foldl (fun x n => x.advanceWalk n.1 n.2) j).walk x = j.walk x
  | [], _, _ => rfl
  | n :: l, j, h => by
    simp only [List.foldl_cons]
    rw [advances_walk x l _ fun m hm => h m (by simp [hm]), advanceWalk_walk _ _ _ _ (h n (by simp))]

/-- The issue of a window changes claims, walks and the flights of M only. -/
theorem launchM_eq (j : Job) (i : Instr) (w : MWin) (rows : List Row) (fl : Flags) (bad : Option Cause) :
    j.launchM i w rows fl bad = { j with
      claims := (j.launchM i w rows fl bad).claims, walks := (j.launchM i w rows fl bad).walks
      m := { j.m with flights := (j.launchM i w rows fl bad).m.flights } } := by
  obtain ⟨v, hv⟩ : ∃ v, w.needs.foldl (fun x n => x.advanceWalk n.1 n.2) (j.claim .m (wantAddrs w.wants)) =
      { j.claim .m (wantAddrs w.wants) with walks := v } := ⟨_, advances_eq _ _⟩
  simp only [Job.launchM, hv]
  rfl

/-- Only the walks of the window step. -/
theorem launchM_walk (j : Job) (i : Instr) (w : MWin) (rows : List Row) (fl : Flags) (bad : Option Cause) (x : Fin 8)
    (h : ∀ n ∈ w.needs, x ≠ n.1) : (j.launchM i w rows fl bad).walk x = j.walk x := by
  show (w.needs.foldl (fun x n => x.advanceWalk n.1 n.2) (j.claim .m (wantAddrs w.wants))).walk x = _
  rw [advances_walk x _ _ h]; rfl

theorem accAt_setAcc_ne (m : MEng) (n r : Fin 8) (a : Acc) (h : r ≠ n) : (m.setAcc n a).accAt r = m.accAt r := by
  simp only [MEng.setAcc, MEng.accAt]; rw [Vector.getElem_set_ne]; exact fun e => h (Fin.ext e.symm)

@[simp] theorem accAt_setAcc (m : MEng) (n : Fin 8) (a : Acc) : (m.setAcc n a).accAt n = a := by
  simp [MEng.setAcc, MEng.accAt]

@[simp] theorem accAt_mark (m : MEng) (n r : Fin 8) (b : Bool) : (m.mark n b).accAt r = m.accAt r := rfl

/-- A window steps no walk but those that its instruction names. -/
theorem needs_named (s : State) (c : CoreId) (j : Job) (i : Instr) :
    ∀ n ∈ (mWindow s c j i).needs, n.1 ∈ (mWalks i).map Prod.fst := by
  cases i <;> simp [mWindow, mWalks, denseWin, outWin] <;> (repeat' split) <;> simp

end Sys2Proof.Machine
end

