-- ==== Sys2Proof/Laws/Memory.lean ====
section
/-! SUPPORT. The laws of sparse maps and of byte memory: read after write, and the canonical form that every memory
operation keeps (log 2). -/

namespace Sys2Proof.Machine

/-! ## Sparse maps -/

theorem SMap.above_mono {α : Type} {j k : Nat} {m : SMap α} (h : j < k) (hm : SMap.above k m) : SMap.above j m := by
  simp only [SMap.above, List.all_eq_true, decide_eq_true_eq] at hm ⊢
  exact fun e he => Nat.lt_trans h (hm e he)

theorem SMap.get_above {α : Type} (d : α) {k : Nat} : ∀ {m : SMap α}, SMap.above k m → SMap.get d m k = d
  | [], _ => rfl
  | (j, x) :: m, h => by
    simp only [SMap.above, List.all_cons, Bool.and_eq_true, decide_eq_true_eq] at h
    simp [SMap.get, Nat.ne_of_lt h.1, h.1]

theorem SMap.erase_above {α : Type} {n k : Nat} : ∀ {m : SMap α}, SMap.above n m → SMap.above n (m.erase k)
  | [], _ => rfl
  | (j, x) :: m, h => by
    have h' := h
    simp only [SMap.above, List.all_cons, Bool.and_eq_true, decide_eq_true_eq] at h'
    unfold SMap.erase
    split
    · exact h'.2
    · split
      · exact h
      · have := SMap.erase_above (n := n) (k := k) (m := m) h'.2
        simp only [SMap.above, List.all_cons, Bool.and_eq_true, decide_eq_true_eq]
        exact ⟨h'.1, this⟩

theorem SMap.insert_above {α : Type} {n k : Nat} {x : α} (hk : n < k) :
    ∀ {m : SMap α}, SMap.above n m → SMap.above n (m.insert k x)
  | [], _ => by simp [SMap.insert, SMap.above, hk]
  | (j, y) :: m, h => by
    have h' := h
    simp only [SMap.above, List.all_cons, Bool.and_eq_true, decide_eq_true_eq] at h'
    unfold SMap.insert
    split
    · simp only [SMap.above, List.all_cons, Bool.and_eq_true, decide_eq_true_eq]; exact ⟨hk, h'.2⟩
    · split
      · simp only [SMap.above, List.all_cons, Bool.and_eq_true, decide_eq_true_eq]; exact ⟨hk, h'.1, h'.2⟩
      · simp only [SMap.above, List.all_cons, Bool.and_eq_true, decide_eq_true_eq]
        exact ⟨h'.1, SMap.insert_above hk h'.2⟩

theorem SMap.wf_cons {α : Type} [DecidableEq α] {d : α} {j : Nat} {x : α} {m : SMap α} :
    SMap.wf d ((j, x) :: m) = true ↔ x ≠ d ∧ SMap.above j m = true ∧ SMap.wf d m = true := by
  simp [SMap.wf, and_assoc]

/-- Removing a key keeps the canonical form. -/
theorem SMap.wf_erase {α : Type} [DecidableEq α] {d : α} {k : Nat} : ∀ {m : SMap α}, m.wf d → (m.erase k).wf d
  | [], _ => rfl
  | (j, x) :: m, h => by
    obtain ⟨h1, h2, h3⟩ := SMap.wf_cons.1 h
    unfold SMap.erase
    split
    · exact h3
    · split
      · exact h
      · exact SMap.wf_cons.2 ⟨h1, SMap.erase_above h2, SMap.wf_erase h3⟩

/-- Listing a value other than the default keeps the canonical form. -/
theorem SMap.wf_insert {α : Type} [DecidableEq α] {d : α} {k : Nat} {x : α} (hx : x ≠ d) :
    ∀ {m : SMap α}, m.wf d → (m.insert k x).wf d
  | [], _ => by simp [SMap.insert, SMap.wf, SMap.above, hx]
  | (j, y) :: m, h => by
    obtain ⟨h1, h2, h3⟩ := SMap.wf_cons.1 h
    unfold SMap.insert
    split
    · next e => exact SMap.wf_cons.2 ⟨hx, e ▸ h2, h3⟩
    · split
      · next _ lt =>
        refine SMap.wf_cons.2 ⟨hx, ?_, h⟩
        simp only [SMap.above, List.all_cons, Bool.and_eq_true, decide_eq_true_eq]
        exact ⟨lt, SMap.above_mono lt h2⟩
      · next ne nlt => exact SMap.wf_cons.2 ⟨h1, SMap.insert_above (by omega) h2, SMap.wf_insert hx h3⟩

/-- Writing keeps the canonical form. -/
theorem SMap.wf_set {α : Type} [DecidableEq α] {d : α} {m : SMap α} (h : m.wf d) (k : Nat) (x : α) :
    (SMap.set d m k x).wf d := by
  unfold SMap.set
  split
  · exact SMap.wf_erase h
  · next hx => exact SMap.wf_insert hx h

/-- Keeping some of the entries keeps the canonical form. -/
theorem SMap.wf_filter {α : Type} [DecidableEq α] {d : α} (p : Nat × α → Bool) :
    ∀ {m : SMap α}, m.wf d → SMap.wf d (m.filter p)
  | [], _ => rfl
  | (j, x) :: m, h => by
    obtain ⟨h1, h2, h3⟩ := SMap.wf_cons.1 h
    simp only [List.filter_cons]
    split
    · refine SMap.wf_cons.2 ⟨h1, ?_, SMap.wf_filter p h3⟩
      simp only [SMap.above, List.all_eq_true, List.mem_filter, decide_eq_true_eq] at h2 ⊢
      exact fun e he => h2 e he.1
    · exact SMap.wf_filter p h3

/-- A value listed is read back. -/
theorem SMap.get_insert_self {α : Type} (d : α) (k : Nat) (x : α) : ∀ m : SMap α, SMap.get d (m.insert k x) k = x
  | [] => by simp [SMap.insert, SMap.get]
  | (j, y) :: m => by
    unfold SMap.insert
    split
    · simp [SMap.get]
    · split
      · simp [SMap.get]
      · next h1 h2 => simp [SMap.get, h1, h2, SMap.get_insert_self d k x m]

/-- Listing a value leaves every other key alone. -/
theorem SMap.get_insert_ne {α : Type} [DecidableEq α] (d : α) {k a : Nat} (x : α) (ha : a ≠ k) :
    ∀ {m : SMap α}, m.wf d → SMap.get d (m.insert k x) a = SMap.get d m a
  | [], _ => by simp [SMap.insert, SMap.get, ha]
  | (j, y) :: m, h => by
    obtain ⟨_, h2, h3⟩ := SMap.wf_cons.1 h
    unfold SMap.insert
    split
    · next e => subst e; simp [SMap.get, ha]
    · split
      · next _ lt =>
        by_cases hlt : a < k
        · have h4 : a < j := by omega
          simp [SMap.get, ha, hlt, Nat.ne_of_lt h4, h4]
        · simp [SMap.get, ha, hlt]
      · simp only [SMap.get, SMap.get_insert_ne d x ha h3]

/-- A removed key reads as the default. -/
theorem SMap.get_erase_self {α : Type} [DecidableEq α] (d : α) {k : Nat} :
    ∀ {m : SMap α}, m.wf d → SMap.get d (m.erase k) k = d
  | [], _ => rfl
  | (j, y) :: m, h => by
    obtain ⟨_, h2, h3⟩ := SMap.wf_cons.1 h
    unfold SMap.erase
    split
    · next e => exact e ▸ SMap.get_above d h2
    · split
      · next h4 h5 => simp [SMap.get, h4, h5]
      · next h4 h5 => simp [SMap.get, h4, h5, SMap.get_erase_self d h3]

/-- Removing a key leaves every other key alone. -/
theorem SMap.get_erase_ne {α : Type} [DecidableEq α] (d : α) {k a : Nat} (ha : a ≠ k) :
    ∀ {m : SMap α}, m.wf d → SMap.get d (m.erase k) a = SMap.get d m a
  | [], _ => rfl
  | (j, y) :: m, h => by
    obtain ⟨_, h2, h3⟩ := SMap.wf_cons.1 h
    unfold SMap.erase
    split
    · next e =>
      subst e
      by_cases hlt : a < k
      · simp [SMap.get, ha, hlt, SMap.get_above d (SMap.above_mono hlt h2)]
      · simp [SMap.get, ha, hlt]
    · split
      · rfl
      · simp only [SMap.get, SMap.get_erase_ne d ha h3]

/-- A write is read back. -/
theorem SMap.get_set_self {α : Type} [DecidableEq α] {d : α} {m : SMap α} (h : m.wf d) (k : Nat) (x : α) :
    SMap.get d (SMap.set d m k x) k = x := by
  unfold SMap.set
  split
  · next e => rw [SMap.get_erase_self d h, e]
  · exact SMap.get_insert_self d k x m

/-- A write leaves every other key alone. -/
theorem SMap.get_set_ne {α : Type} [DecidableEq α] {d : α} {m : SMap α} (h : m.wf d) {k a : Nat} (ha : a ≠ k) (x : α) :
    SMap.get d (SMap.set d m k x) a = SMap.get d m a := by
  unfold SMap.set
  split
  · exact SMap.get_erase_ne d ha h
  · exact SMap.get_insert_ne d x ha h

/-! ## Byte memory -/

theorem Memory.wf_write {m : Memory} (h : m.wf) (a : Nat) (b : Byte) : (m.write a b).wf := SMap.wf_set h a b

theorem Memory.read_write_self {m : Memory} (h : m.wf) (a : Nat) (b : Byte) : (m.write a b).read a = b :=
  SMap.get_set_self h a b

theorem Memory.read_write_ne {m : Memory} (h : m.wf) {a k : Nat} (ha : a ≠ k) (b : Byte) :
    (m.write k b).read a = m.read a := SMap.get_set_ne h ha b

theorem Memory.wf_writeBytes : ∀ {bs : List Byte} {m : Memory} {a : Nat}, m.wf → (m.writeBytes a bs).wf
  | [], _, _, h => h
  | b :: bs, m, a, h => by
    rw [Memory.writeBytes]
    exact Memory.wf_writeBytes (Memory.wf_write h a b)

/-- Bytes outside the written range read as before. -/
theorem Memory.read_writeBytes_out : ∀ {bs : List Byte} {m : Memory} {a k : Nat}, m.wf →
    (k < a ∨ a + bs.length ≤ k) → (m.writeBytes a bs).read k = m.read k
  | [], _, _, _, _, _ => rfl
  | b :: bs, m, a, k, h, hk => by
    have hk' : k < a ∨ a + (bs.length + 1) ≤ k := by simpa using hk
    have h1 : k < a + 1 ∨ a + 1 + bs.length ≤ k := by omega
    have h2 : k ≠ a := by omega
    rw [Memory.writeBytes, Memory.read_writeBytes_out (Memory.wf_write h a b) h1, Memory.read_write_ne h h2]

/-- Bytes written are read back. -/
theorem Memory.read_writeBytes_in : ∀ {bs : List Byte} {m : Memory} {a i : Nat}, m.wf → (hi : i < bs.length) →
    (m.writeBytes a bs).read (a + i) = bs[i]
  | [], _, _, _, _, hi => absurd hi (by simp)
  | b :: bs, m, a, 0, h, _ => by
    rw [Memory.writeBytes, Memory.read_writeBytes_out (Memory.wf_write h a b) (by omega)]
    simpa using Memory.read_write_self h a b
  | b :: bs, m, a, i + 1, h, hi => by
    have := Memory.read_writeBytes_in (bs := bs) (m := m.write a b) (a := a + 1) (i := i) (Memory.wf_write h a b)
      (by simpa using hi)
    rw [Memory.writeBytes]
    simpa [Nat.add_assoc, Nat.add_comm 1 i] using this

/-- Masked writes keep the canonical form. -/
theorem wf_writeMasked {mask : Mask} : ∀ {bs : List Byte} {m : Memory} {a n : Nat}, m.wf → (writeMasked m a mask n bs).wf
  | [], _, _, _, h => h
  | b :: bs, m, a, n, h => by
    rw [writeMasked]
    split
    · exact wf_writeMasked (Memory.wf_write h _ _)
    · exact wf_writeMasked h

theorem Memory.wf_writeRow {m : Memory} (h : m.wf) (a : Nat) (mask : Mask) (r : Row) : (m.writeRow a mask r).wf :=
  wf_writeMasked h

end Sys2Proof.Machine
end

