-- ==== Sys2Proof/Laws/Scalar.lean ====
section
/-! SUPPORT. What the shared frames of the scalar instructions do once the instruction issues. -/

namespace Sys2Proof.Machine

/-- A scalar instruction that issues writes its operation's function of the sources. -/
theorem alu_go {s c e j i} (h : Issues s c e j i) {d f} (hf : aluFn i = some (d, f)) :
    alu i s = .next (scalarDone s c e j i d fun w x => f w (x 0) (x 1) (x 2)) := by
  unfold alu; rw [h.eng, issueJob_go h]; simp only [hf]; rfl

/-- Two functions that agree at the engines' widths give the same state. -/
theorem scalarDone_congr {s c e j i d} {f g : (w : Nat) → (Nat → BitVec w) → BitVec w}
    (h : ∀ w x, 0 < w → f w x = g w x) : scalarDone s c e j i d f = scalarDone s c e j i d g := by
  unfold scalarDone
  have : ∀ x, f (engWidth e) x = g (engWidth e) x := fun x => h _ x (by cases e <;> decide)
  simp only [this]

end Sys2Proof.Machine
end

