-- ==== Sys2Proof/Tests/Slice0.lean ====
section
/-! SUPPORT. Tests of the model: words of the spec's encodings, terms that are not well-formed, results that follow from
the rules by hand, and states that meet the premises of the statements together. -/

namespace Sys2Proof.Tests

open Sys2Proof.Machine

-- one theorem after the other: each evaluates large terms
set_option Elab.async false

/-! ## Words -/

/-- Each word is what its engine decodes to its instruction, which encodes back to the word and is well-formed. -/
def reads (l : List (Eng × W32 × Instr)) : Bool :=
  l.all fun x => (match decode x.1 x.2.1 with
    | .ok i => decide (i = x.2.2)
    | .error _ => false) && decide (encode x.2.2 = some x.2.1) && x.2.2.wf x.1


/-! ## A small state -/

/-- Entries of a row stream and of a word stream: 0x01 in every byte, and 3. -/
def onesRow : Row := BitVec.ofNat 1024 (natOfBytes (List.replicate 128 1))

/-- A stream that engine `e` pops or pushes. -/
def benchStream (prod cons : Eng) (row : Bool) (q : List Row) : Stream :=
  { bind := some { prod, cons, row }, q, incoming := [], popped := 0, reserved := 0 }

/-- The other side of a stream. -/
def peerOf (e : Eng) : Eng := if e = .a then .v else .a

/-- A walk over two rows from `base` on. -/
def benchWalk (u : WalkUser) (dir : Bool) (base : Nat) : Walk :=
  { user := u
    record := some { base, dir, track := false, cyclic := true, levels := 1, window := 0, count := #v[64, 1, 1, 1],
                     stride := #v[128, 0, 0, 0], lo := 0, hi := 0x200000 }
    step := 0, fstep := 0, credit := 0, creditIn := 0 }

/-- A job of core 0 with C and engine `e`, at the word of `bench`: `e` may pop the word stream 1 and the row stream 3 and push the word
stream 2 and the row stream 4; walk 0 is read and walk 1 is written by V or M; a loop level and a return address are open. -/
def benchJob (e : Eng) : Job :=
  let j := Job.blank 0 0 0x1000
  let p := peerOf e
  let ls : List LoopLvl := [{ first := 0x0FF8, last := 0x1040, left := 2 }]
  let r : Ras := { pos := Vector.replicate 16 0x2000, held := 1, spilled := 0, win := 0 }
  let u := if e = .v then WalkUser.v else .m
  let bare := Stream.init
  { j with
    hasA := decide (e = .a), hasV := decide (e = .v), hasM := decide (e = .m)
    c := { j.c with arch := { j.c.arch with loops := ls, ras := r }, cmp := some { reach := 0, stalled := false, agreed := true } }
    a := { j.a with loops := ls, ras := r }
    v := { j.v with loops := ls, masks := [0xFF] }
    m := { j.m with loops := ls }
    streams := #v[bare, benchStream p e false [3, 5], benchStream e p false [], benchStream p e true [onesRow, 0],
      benchStream e p true [], bare, bare, bare, bare, bare, bare, bare, bare, bare, bare, bare]
    walks := #v[benchWalk u false 0, benchWalk u true 0x100000, benchWalk u false 0x80000, Walk.init, benchWalk u false 0x180000,
      Walk.init, Walk.init, Walk.init] }

/-- A card of 128 zero bytes but for the counters that it does not have. -/
def benchCard : Card :=
  { raw := 0xFFFFFFFFFFFFFFFF * 2 ^ 224, home := 0, ctx := 0, queue := 0, steward := false, wsem := none, ssem := none, args := none,
    phase := .running, age := 0, rounds := 0, promoted := false, stolen := false, metered := 0, settled := 0, vars := none,
    launched := true, capSince := none, readySince := none, ended := none, recordDone := false, recEnts := none, recorded := false,
    compDue := none, migrations := [], page := none, pageFails := [], seed := none, away := false, cores := [0],
    charge := 0, escaped := false, escapedAt := 0, staged := [], sigs := [], replays := 0, lastCause := 0, faults := 0,
    joule := 0, start := 0, levlo := 6, levhi := 6, jobid := 0,
    sel := { phase := 0, tier := 0, ecl := 0, approx := 0, dg := false, valid := false, slot := 0 },
    status := 0, sigdrop := false, comp := none, images := [], stopCause := 0, save := 0 }

/-- A partition of cluster 0 with VF 0. -/
def benchDesc : PartDesc :=
  { clmask := 1, vfbase := 0, vfn := 1, ctxtab := 0x10000, stopbase := 0x20000, prqbase := 0x30000, prqn := 16, replaylim := 2 }

/-- A translation of a page to the frame of the same number. -/
def benchEnt (n : Nat) (ex : Bool) : TlbEnt :=
  { ctx := 0, vpage := n, frame := n, size := 0, kind := 0, rd := true, wr := !ex, ex }

/-- A line of context 0. -/
def benchLine : Line := { data := onesRow, dirty := false, poison := none, ctx := 0, mesi := .i, age := 0, writer := none, wrote := 0 }

/-- Core 0 runs the job `f (benchJob e)` of a running card of context 0, and engine `e` is in turn. Page 2 can be read and
written, and its first line is present. -/
def bench (e : Eng) (f : Job → Job) : State :=
  let s := State.reset
  let s1 := s.setCore 0 { s.core 0 with job := some (f (benchJob e)), tlb := [benchEnt 1 true, benchEnt 2 false] }
  let s2 := s1.setPart 0 { s1.part 0 with desc := some benchDesc }
  let s3 := s2.setCtx 0 { s2.ctx 0 with
    tdi := .run, cardq := 16, key := { (s2.ctx 0).key with cur := some 1, curGen := 1, ide := some 1 }, semmap := [(5, 6)] }
  let s4 := s3.setCluster 0 { s3.cluster 0 with cards := [(0, benchCard)] }
  { s4 with
    stage := .ready, turn := .eng 0 e
    lines := [(0x1000 / 128, benchLine), (0x2000 / 128, benchLine)]
    sealMeta := [(2, { tag := 0, ver := 1, state := 1, kgen := 1, ctx := 0 })] }

/-- The instruction issues. -/
def issuesB (s : State) (e : Eng) (i : Instr) : Bool :=
  decide (s.turn = .eng 0 e) && match s.job 0 with
    | some j => j.has e && decide (gate s 0 j e i = .go) && !s.adderTrap 0 j i
    | none => false

theorem issues_of_issuesB {s : State} {e : Eng} {i : Instr} (h : issuesB s e i = true) :
    ∃ j, s.job 0 = some j ∧ Issues s 0 e j i := by
  cases hj : s.job 0 with
  | none => simp [issuesB, hj] at h
  | some j =>
    simp only [issuesB, hj, Bool.and_eq_true, decide_eq_true_eq, Bool.not_eq_true'] at h
    exact ⟨j, rfl, ⟨⟨h.1, hj, h.2.1.1⟩, h.2.1.2, h.2.2⟩⟩

/-- The job of core 0. -/
def jobOf (s : State) : Job := (s.job 0).getD (Job.blank 0 0 0)

/-- The instruction issues, and the state and the job meet a premise. -/
def meets (e : Eng) (f : Job → Job) (i : Instr) (p : State → Job → Bool) : Bool :=
  issuesB (bench e f) e i && p (bench e f) (jobOf (bench e f))

/-- No further premise. -/
def any (_ : State) (_ : Job) : Bool := true

/-- No idle takes, and W = 0. -/
abbrev t0 : Tm := ⟨0, false⟩

theorem test_decode_common1 : reads [
    (.v, 0x01C00000, .nop ⟨3, true⟩),
    (.c, 0x0400012C, .idle ⟨0, false⟩ 300),
    (.m, 0x08030028, .atTake ⟨0, false⟩ (.reg 3) 40),
    (.v, 0x0C000205, .slate ⟨0, false⟩ true 5),
    (.a, 0x10000183, .rdv ⟨0, false⟩ 6 3),
    (.v, 0x14200C10, .loop ⟨0, false⟩ 2 3 16),
    (.c, 0x18102470, .loopr ⟨0, false⟩ 1 9 (.reg 7)),
    (.c, 0x1C7FFFFE, .br 0x7FFFFE),
    (.a, 0x2004FFFC, .bz (.reg 4) 0xFFFC),
    (.c, 0x2423000C, .bnz (.q 3) 12),
    (.a, 0x28400005, .call 0x400005),
    (.a, 0x2C001C00, .callr (.reg 7)),
    (.c, 0x2C000001, .ret),
    (.c, 0x2C000002, .lbrk),
    (.c, 0x30018020, .add ⟨0, false⟩ (.reg 1) (.q 0) (.reg 2)),
    (.a, 0x30027831, .sub ⟨0, false⟩ (.reg 2) (.reg 30) (.reg 3)),
    (.v, 0x31037442, .mul ⟨2, false⟩ (.reg 3) (.reg 29) (.reg 4))] = true := by
  decide +kernel

theorem test_decode_common2 : reads [
    (.m, 0x31C48C53, .mulh ⟨3, true⟩ (.reg 4) (.q 3) (.reg 5)),
    (.c, 0x30056C64, .mulhn ⟨0, false⟩ (.reg 5) (.reg 27) (.reg 6)),
    (.a, 0x30066875, .and ⟨0, false⟩ (.reg 6) (.reg 26) (.reg 7)),
    (.v, 0x33079886, .or ⟨6, false⟩ (.reg 7) (.q 6) (.reg 8)),
    (.m, 0x33C86097, .xor ⟨7, true⟩ (.reg 8) (.reg 24) (.reg 9)),
    (.c, 0x30095CA8, .shl ⟨0, false⟩ (.reg 9) (.reg 23) (.reg 10)),
    (.a, 0x300AA4B9, .shr ⟨0, false⟩ (.reg 10) (.q 9) (.reg 11)),
    (.v, 0x310B54CA, .sra ⟨2, false⟩ (.reg 11) (.reg 21) (.reg 12)),
    (.m, 0x31CC50DB, .min ⟨3, true⟩ (.reg 12) (.reg 20) (.reg 13)),
    (.c, 0x300DB0EC, .max ⟨0, false⟩ (.reg 13) (.q 12) (.reg 14)),
    (.a, 0x300E48FD, .minn ⟨0, false⟩ (.reg 14) (.reg 18) (.reg 15)),
    (.v, 0x330F450E, .maxn ⟨6, false⟩ (.reg 15) (.reg 17) (.reg 16)),
    (.c, 0x3007209F, .mad ⟨0, false⟩ (.reg 7) (.reg 8) (.reg 9)),
    (.a, 0x34051A70, .slt ⟨0, false⟩ (.reg 5) (.reg 6) (.q 7)),
    (.a, 0x34051A71, .sltn ⟨0, false⟩ (.reg 5) (.reg 6) (.q 7)),
    (.a, 0x34051A72, .seq ⟨0, false⟩ (.reg 5) (.reg 6) (.q 7)),
    (.a, 0x34051A73, .sel ⟨0, false⟩ (.reg 5) (.reg 6) (.q 7))] = true := by
  decide +kernel

theorem test_decode_common3 : reads [
    (.m, 0x34C51804, .clz ⟨1, true⟩ (.reg 5) (.reg 6)),
    (.m, 0x34C51805, .popc ⟨1, true⟩ (.reg 5) (.reg 6)),
    (.m, 0x34C51806, .mov ⟨1, true⟩ (.reg 5) (.reg 6)),
    (.c, 0x38051BFF, .addi ⟨0, false⟩ (.reg 5) (.reg 6) 0x3FF),
    (.c, 0x3C051BFF, .andi ⟨0, false⟩ (.reg 5) (.reg 6) 0x3FF),
    (.c, 0x40051BFF, .ori ⟨0, false⟩ (.reg 5) (.reg 6) 0x3FF),
    (.c, 0x44051BFF, .xori ⟨0, false⟩ (.reg 5) (.reg 6) 0x3FF),
    (.a, 0x48051821, .shli ⟨0, false⟩ (.reg 5) (.reg 6) 33),
    (.a, 0x48051921, .shri ⟨0, false⟩ (.reg 5) (.reg 6) 33),
    (.a, 0x48051A21, .srai ⟨0, false⟩ (.reg 5) (.reg 6) 33),
    (.v, 0x4F858001, .movi ⟨7, false⟩ (.reg 5) 0x8001),
    (.c, 0x50051234, .movhi ⟨0, false⟩ (.reg 5) 0x1234),
    (.c, 0x54040001, .mfs ⟨0, false⟩ (.reg 4) 1),
    (.v, 0x5800180E, .mts ⟨0, false⟩ (.reg 6) 14)] = true := by
  decide +kernel

theorem test_decode_c1 : reads [
    (.c, 0x80021462, .pcmp 2 (.reg 5) (.reg 6) .lt),
    (.c, 0x80021465, .pcmp 2 (.reg 5) (.reg 6) .gen),
    (.c, 0x85810FFC, .pcmpi .ge 1 (.reg 3) 0x3FC),
    (.c, 0x88010833, .plog 1 2 3 .andn),
    (.c, 0x8C042400, .pmovToPred 4 (.reg 9)),
    (.c, 0x8C091001, .pmovFromPred (.reg 9) 4),
    (.c, 0x90050010, .bp 5 16),
    (.c, 0x9406FFFF, .bnp 6 0xFFFF),
    (.c, 0x98041463, .selp (.reg 4) (.reg 5) (.reg 6) 3),
    (.c, 0x9C002405, .sig (.reg 9) 5),
    (.c, 0xA0000001, .endJob 1),
    (.c, 0xA400BEEF, .trap 0xBEEF),
    (.c, 0xA8000000, .eret),
    (.c, 0xAC020003, .bqry (.reg 2) 3),
    (.c, 0xB0020001, .joule (.reg 2) true),
    (.c, 0xB4008803, .varreg 2 3),
    (.c, 0xB8000001, .thrack .downgrade)] = true := by
  decide +kernel

theorem test_decode_c2 : reads [
    (.c, 0xBC02000F, .eclass (.reg 2) 15),
    (.c, 0xC0000201, .phase 513),
    (.c, 0xC4032800, .preempt (.reg 3) (.reg 10)),
    (.c, 0xC8032800, .qsusp (.reg 3) (.reg 10)),
    (.c, 0xCC032800, .qres (.reg 3) (.reg 10)),
    (.c, 0xD0001050, .semmap (.reg 4) (.reg 5)),
    (.c, 0xD4032800, .drainm (.reg 3) (.reg 10)),
    (.c, 0xD8001050, .rseed (.reg 4) (.reg 5)),
    (.c, 0xDC000000, .yield)] = true := by
  decide +kernel

theorem test_decode_a1 : reads [
    (.a, 0x81810BF8, .ald .n16 (.reg 1) (.reg 2) 0x3F8),
    (.a, 0x86810808, .ast .w64 (.reg 1) (.reg 2) 8),
    (.a, 0x88240880, .ard 4 (.reg 2) 128),
    (.a, 0x8C250880, .awr 5 (.reg 2) 128),
    (.a, 0x90240860, .afill 4 (.reg 2) 6),
    (.a, 0x94240870, .adrain 4 (.reg 2) 7),
    (.a, 0x98030810, .wset 3 (.reg 2) 16),
    (.a, 0x9C0303FF, .wadv 3 1023),
    (.a, 0xA0010839, .gld .s8 (.reg 1) (.reg 2) (.reg 3) 9),
    (.a, 0xA6210839, .gst .w32 (.q 1) (.reg 2) (.reg 3) 9),
    (.a, 0xAA240A39, .ggath .w32 4 (.reg 2) (.q 3) 9),
    (.a, 0xAD240A39, .gscat .s16 4 (.reg 2) (.q 3) 9),
    (.a, 0xB3820E79, .aamo .maxn (.reg 2) (.reg 3) .die .acqrel true 9),
    (.a, 0xB4020F29, .acas (.reg 2) (.reg 3) .system .acq false 9),
    (.a, 0xB8020CD9, .aswp (.reg 2) (.reg 3) .job .rel true 9),
    (.a, 0xBD820D00, .samo .xor (.reg 2) (.reg 3) .cluster .rlx false),
    (.a, 0xC1020FFE, .rst .s16 (.reg 2) (.reg 3) 0x3FE)] = true := by
  decide +kernel

theorem test_decode_a2 : reads [
    (.a, 0xC4820C01, .rld .n8 (.reg 2) (.reg 3) 1),
    (.a, 0xC8020C20, .binit (.reg 2) (.reg 3) 32),
    (.a, 0xCC000C20, .barr (.reg 3) 32),
    (.a, 0xD0020C20, .bwait (.reg 2) (.reg 3) 32),
    (.a, 0xD4020C20, .btest (.reg 2) (.reg 3) 32),
    (.a, 0xD8180001, .fenceAcq .island 1),
    (.a, 0xD8210002, .fenceRel .die 2),
    (.a, 0xD82A0003, .fenceFull .device 3),
    (.a, 0xD8330004, .fenceAsync .system 4),
    (.a, 0xDC020C00, .tlbp (.reg 2) (.reg 3)),
    (.a, 0xE0000830, .tlbinvPage (.reg 2) (.reg 3)),
    (.a, 0xE0000831, .tlbinvCtx (.reg 2) (.reg 3)),
    (.a, 0xE0000832, .tlbinvAll (.reg 2) (.reg 3)),
    (.a, 0xE4000800, .l1opLine (.reg 2)),
    (.a, 0xE4000801, .l1opAll (.reg 2)),
    (.a, 0xE8800839, .pref true (.reg 2) (.reg 3) 9)] = true := by
  decide +kernel

theorem test_decode_v1 : reads [
    (.v, 0x81028850, .vadd ⟨2, false⟩ (.reg 2) (.q 2) (.reg 5) .s8),
    (.v, 0x85C38C61, .vsub ⟨3, true⟩ (.reg 3) (.q 3) (.reg 6) .n8),
    (.v, 0x8A049076, .vmul ⟨4, false⟩ (.reg 4) (.q 4) (.reg 7) .h),
    (.v, 0x8EC59482, .vmadd ⟨5, true⟩ (.reg 5) (.q 5) (.reg 8) .s16),
    (.v, 0x93069897, .vmin ⟨6, false⟩ (.reg 6) (.q 6) (.reg 9) .bf),
    (.v, 0x97C79CA8, .vmax ⟨7, true⟩ (.reg 7) (.q 7) (.reg 10) .f),
    (.v, 0x9808A0B3, .vadds ⟨0, false⟩ (.reg 8) (.q 8) (.reg 11) .n16),
    (.v, 0x9CC9A4CC, .vand ⟨1, true⟩ (.reg 9) (.q 9) (.reg 12) .b1),
    (.v, 0xA10AA8D4, .vor ⟨2, false⟩ (.reg 10) (.q 10) (.reg 13) .s32),
    (.v, 0xA5CBACE5, .vxor ⟨3, true⟩ (.reg 11) (.q 11) (.reg 14) .n32),
    (.v, 0xAA0CB0F2, .vshl ⟨4, false⟩ (.reg 12) (.q 12) (.reg 15) .s16),
    (.v, 0xAECDB501, .vshr ⟨5, true⟩ (.reg 13) (.q 13) (.reg 16) .n8),
    (.v, 0xB7CFBD28, .vfma ⟨7, true⟩ (.reg 15) (.q 15) (.reg 18) .f),
    (.v, 0xBCD1854A, .vsel ⟨1, true⟩ (.reg 17) (.q 1) (.reg 20) .e5),
    (.v, 0xC5D38D69, .vqmx ⟨3, true⟩ (.reg 19) (.q 3) (.reg 22) .e4),
    (.v, 0xCA14917A, .vdqmx ⟨4, false⟩ (.reg 20) (.q 4) (.reg 23) .e5),
    (.v, 0xCED59586, .vscl ⟨5, true⟩ (.reg 21) (.q 5) (.reg 24) .h)] = true := by
  decide +kernel

theorem test_decode_v2 : reads [
    (.v, 0xD818A1B9, .vperm ⟨0, false⟩ (.reg 24) (.q 8) (.reg 27) .e4),
    (.v, 0xDCD9A5C1, .vrotm ⟨1, true⟩ (.reg 25) (.q 9) (.reg 28) .n8),
    (.v, 0xF7DFBC23, .vmatch ⟨7, true⟩ (.reg 31) (.q 15) (.reg 2) .n16),
    (.v, 0xB0C11802, .vabs ⟨1, true⟩ (.reg 1) (.reg 6) .s16),
    (.v, 0xB1021C18, .vneg ⟨2, false⟩ (.reg 2) (.reg 7) .f),
    (.v, 0xB1C32026, .vrcp ⟨3, true⟩ (.reg 3) (.reg 8) .h),
    (.v, 0xB2042437, .vrsq ⟨4, false⟩ (.reg 4) (.reg 9) .bf),
    (.v, 0xB2C52848, .vexp ⟨5, true⟩ (.reg 5) (.reg 10) .f),
    (.v, 0xB3062C55, .vpopc ⟨6, false⟩ (.reg 6) (.reg 11) .n32),
    (.v, 0xB3C7306C, .vnot ⟨7, true⟩ (.reg 7) (.reg 12) .b1),
    (.v, 0xB8C93868, .vcmp ⟨1, true⟩ (.reg 9) (.reg 14) .un .f),
    (.v, 0xB90A3C30, .vcmp ⟨2, false⟩ (.reg 10) (.reg 15) .le .s8),
    (.v, 0xC1CB4220, .vcvt ⟨3, true⟩ (.reg 11) (.reg 16) .f .stoch .s8),
    (.v, 0xD20C4453, .vred ⟨4, false⟩ (.reg 12) (.reg 17) .xor .n16),
    (.v, 0xD6CD4827, .vscan ⟨5, true⟩ (.reg 13) (.reg 18) .max .bf),
    (.v, 0xE30E4C06, .vbcst ⟨6, false⟩ (.reg 14) (.reg 19) .h),
    (.v, 0xE5001C03, .vmpush ⟨2, false⟩ (.reg 7) .n16)] = true := by
  decide +kernel

theorem test_decode_v3 : reads [
    (.v, 0xE4800010, .vminv ⟨1, false⟩),
    (.v, 0xE4800020, .vmpop ⟨1, false⟩),
    (.v, 0xE800FFFF, .vskip ⟨0, false⟩ 65535),
    (.v, 0xEFCF5008, .vidxw ⟨7, true⟩ (.reg 15) (.reg 20) .f),
    (.v, 0xEC105410, .vidxr ⟨0, false⟩ (.reg 16) (.reg 21) .s8),
    (.v, 0xF0D15803, .vbitt ⟨1, true⟩ (.reg 17) (.reg 22) .n16),
    (.v, 0xF1125C15, .vbits ⟨2, false⟩ (.reg 18) (.reg 23) .n32),
    (.v, 0xF0872020, .vpopm ⟨1, false⟩ (.reg 7) (.reg 8)),
    (.v, 0xF9D36004, .vlane ⟨3, true⟩ (.reg 19) (.reg 24) .s32),
    (.v, 0xFA146416, .vins ⟨4, false⟩ (.reg 20) (.reg 25) .h),
    (.v, 0xF8671420, .vmov ⟨0, true⟩ (.q 7) 5)] = true := by
  decide +kernel

theorem test_decode_m1 : reads [
    (.m, 0x80010830, .tshape ⟨0, false⟩ (.reg 1) (.reg 2) (.reg 3)),
    (.m, 0x84000803, .tcfg ⟨0, false⟩ (.reg 2) 3),
    (.m, 0x8A280000, .tzero ⟨4, false⟩ 5),
    (.m, 0x8E694010, .tmma ⟨4, true⟩ 5 1 2 true),
    (.m, 0x8C294001, .tmmax ⟨0, false⟩ 5 1 2 false),
    (.m, 0x903B8010, .tmmat ⟨0, false⟩ 7 3 4 true),
    (.m, 0x943B9810, .tmmas ⟨0, false⟩ 7 3 4 6 true),
    (.m, 0x98320010, .tret ⟨0, false⟩ 6 2 true),
    (.m, 0x98320001, .tretq ⟨0, false⟩ 6 2 false),
    (.m, 0x9C320000, .tspill ⟨0, false⟩ 6 2),
    (.m, 0xA0320000, .tfill ⟨0, false⟩ 6 2),
    (.m, 0xA4320000, .tacc ⟨0, false⟩ 6 2),
    (.m, 0xAC090002, .tstat ⟨0, false⟩ (.reg 9) 2),
    (.m, 0xB0092007, .tchk ⟨0, false⟩ (.reg 9) (.reg 8) 7)] = true := by
  decide +kernel


/-! ## Terms that are not well-formed -/

/-- No engine's decoder reads the instruction from the word that its fields make. -/
def refused (l : List (Eng × Instr)) : Bool :=
  l.all fun x => !x.2.wf x.1 && match encode x.2 with
    | some w => (match decode x.1 w with
      | .ok i => decide (i ≠ x.2)
      | .error _ => true)
    | none => true

theorem test_wf_engine : refused [
    (.c, .atTake ⟨0, false⟩ (.reg 1) 0), (.v, .br 2), (.m, .ret), (.a, .endJob 0), (.v, .pcmp 1 (.reg 1) (.reg 2) .eq),
    (.c, .ald .w32 (.reg 1) (.reg 2) 0), (.m, .fenceAcq .die 1), (.a, .vadd ⟨0, false⟩ (.reg 1) (.reg 2) (.reg 3) .n8),
    (.m, .vsel ⟨0, false⟩ (.reg 1) (.reg 2) (.reg 3) .n8), (.m, .vmpop ⟨0, false⟩), (.v, .tzero ⟨0, false⟩ 0)] = true := by
  decide +kernel

theorem test_wf_fields : refused [
    (.c, .nop ⟨1, false⟩), (.a, .add ⟨0, true⟩ (.reg 1) (.reg 2) (.reg 3)), (.c, .rdv ⟨0, false⟩ 0x4 1), (.a, .rdv ⟨0, false⟩ 0x3 1),
    (.v, .rdv ⟨0, false⟩ 0x1 1), (.m, .rdv ⟨0, false⟩ 0x2 1), (.v, .rdv ⟨0, false⟩ 0x2 0), (.v, .loop ⟨0, false⟩ 0 0 1),
    (.m, .loopr ⟨0, false⟩ 0 0 (.reg 1)), (.c, .shli ⟨0, false⟩ (.reg 1) (.reg 2) 32), (.v, .srai ⟨0, false⟩ (.reg 1) (.reg 2) 63),
    (.c, .endJob 0xFF00), (.v, .vskip ⟨0, false⟩ 0)] = true := by
  decide +kernel

theorem test_wf_types : refused [
    (.v, .vadd ⟨0, false⟩ (.reg 1) (.reg 2) (.reg 3) .e4), (.v, .vmadd ⟨0, false⟩ (.reg 1) (.reg 2) (.reg 3) .f),
    (.v, .vand ⟨0, false⟩ (.reg 1) (.reg 2) (.reg 3) .h), (.v, .vabs ⟨0, false⟩ (.reg 1) (.reg 2) .n8),
    (.v, .vrcp ⟨0, false⟩ (.reg 1) (.reg 2) .s32), (.v, .vcmp ⟨0, false⟩ (.reg 1) (.reg 2) .un .n32),
    (.v, .vcvt ⟨0, false⟩ (.reg 1) (.reg 2) .f .rne .f), (.v, .vcvt ⟨0, false⟩ (.reg 1) (.reg 2) .b1 .rne .f),
    (.v, .vqmx ⟨0, false⟩ (.reg 1) (.reg 2) (.reg 3) .n8), (.v, .vperm ⟨0, false⟩ (.reg 1) (.reg 2) (.reg 3) .t2),
    (.v, .vrotm ⟨0, false⟩ (.reg 1) (.reg 2) (.reg 3) .n16), (.v, .vbitt ⟨0, false⟩ (.reg 1) (.reg 2) .n8),
    (.v, .vred ⟨0, false⟩ (.reg 1) (.reg 2) .xor .f), (.v, .vpopc ⟨0, false⟩ (.reg 1) (.reg 2) .bf)] = true := by
  decide +kernel

/-- The events are instructions of no engine. -/
theorem test_wf_events : refused [(.c, .powerOnReset), (.a, .accessPerformsAtHome 0 0), (.v, .islandCycle 0), (.m, .frameAssign 0 0)] =
    true := by
  decide +kernel

/-! ## Results by hand from the rules -/

/-- C's register 1 after an instruction, with registers 1, 2 and 3 as given. -/
def regC (d a b : W32) (i : Instr) : Option W32 :=
  match exec i (bench .c fun j =>
      { j with c := { j.c with arch := { j.c.arch with s := ((j.c.arch.s.set 1 d).set 2 a).set 3 b } } }) with
  | .next t => (t.job 0).map fun j => (j.reg .c 1).setWidth 32
  | _ => none

/-- A's register 1 after an instruction, with registers 1, 2 and 3 as given. -/
def regA (d a b : W64) (i : Instr) : Option W64 :=
  match exec i (bench .a fun j => { j with a := { j.a with x := ((j.a.x.set 1 d).set 2 a).set 3 b } }) with
  | .next t => (t.job 0).map fun j => j.reg .a 1
  | _ => none

/-- What V has in flight for its register 1 after an instruction, with registers 1, 2 and 3 as given: the lowest 32 bits. -/
def rowV (d a b : W32) (i : Instr) : Option W32 :=
  match exec i (bench .v fun j =>
      { j with v := { j.v with v := ((j.v.v.set 1 (d.setWidth 1024)).set 2 (a.setWidth 1024)).set 3 (b.setWidth 1024) } }) with
  | .next t => (t.job 0).bind fun j => j.v.pend.head?.map fun p => p.val.setWidth 32
  | _ => none

/-- R92, R93, R94, R95 at 32 bits: wraps, signs and shift amounts. -/
theorem test_scalar32 : [
    regC 0 0xFFFFFFFF 1 (.add t0 (.reg 1) (.reg 2) (.reg 3)) == some 0,
    regC 0 0 1 (.sub t0 (.reg 1) (.reg 2) (.reg 3)) == some 0xFFFFFFFF,
    regC 0 0xFFFFFFFF 0xFFFFFFFF (.mulh t0 (.reg 1) (.reg 2) (.reg 3)) == some 0,
    regC 0 0xFFFFFFFF 0xFFFFFFFF (.mulhn t0 (.reg 1) (.reg 2) (.reg 3)) == some 0xFFFFFFFE,
    regC 5 3 7 (.mad t0 (.reg 1) (.reg 2) (.reg 3)) == some 26,
    regC 0 0x80000000 33 (.sra t0 (.reg 1) (.reg 2) (.reg 3)) == some 0xC0000000,
    regC 0 0x80000000 33 (.shr t0 (.reg 1) (.reg 2) (.reg 3)) == some 0x40000000,
    regC 0 0x80000001 32 (.shl t0 (.reg 1) (.reg 2) (.reg 3)) == some 0x80000001,
    regC 0 0x80000000 1 (.min t0 (.reg 1) (.reg 2) (.reg 3)) == some 0x80000000,
    regC 0 0x80000000 1 (.minn t0 (.reg 1) (.reg 2) (.reg 3)) == some 1,
    regC 0 0x80000000 1 (.slt t0 (.reg 1) (.reg 2) (.reg 3)) == some 1,
    regC 9 0x80000000 1 (.sltn t0 (.reg 1) (.reg 2) (.reg 3)) == some 0,
    regC 0 4 6 (.sel t0 (.reg 1) (.reg 2) (.reg 3)) == some 6, regC 8 4 6 (.sel t0 (.reg 1) (.reg 2) (.reg 3)) == some 4,
    regC 7 0 0 (.clz t0 (.reg 1) (.reg 2)) == some 32, regC 7 0x0000F00F 0 (.popc t0 (.reg 1) (.reg 2)) == some 8,
    regC 0 5 0 (.addi t0 (.reg 1) (.reg 2) 0x3FF) == some 4, regC 0 0x12345678 0 (.andi t0 (.reg 1) (.reg 2) 0x200) == some 0x12345600,
    regC 0 0 0 (.movi t0 (.reg 1) 0x8000) == some 0xFFFF8000, regC 0x1234ABCD 0 0 (.movhi t0 (.reg 1) 0x5678) == some 0xABCD5678].all id = true := by
  decide +kernel

/-- R92, R94, R95 at 64 bits. -/
theorem test_scalar64 : [
    regA 0 0xFFFFFFFFFFFFFFFF 1 (.add t0 (.reg 1) (.reg 2) (.reg 3)) == some 0,
    regA 0 0x8000000000000000 63 (.sra t0 (.reg 1) (.reg 2) (.reg 3)) == some 0xFFFFFFFFFFFFFFFF,
    regA 0 0x8000000000000000 0 (.srai t0 (.reg 1) (.reg 2) 33) == some 0xFFFFFFFFC0000000,
    regA 0 0x100000000 0x100000000 (.mulhn t0 (.reg 1) (.reg 2) (.reg 3)) == some 1,
    regA 7 1 0 (.clz t0 (.reg 1) (.reg 2)) == some 63, regA 0 0 0 (.movi t0 (.reg 1) 0x8000) == some 0xFFFFFFFFFFFF8000,
    regA 0x1234ABCD 0 0 (.movhi t0 (.reg 1) 0x5678) == some 0x1234ABCD5678].all id = true := by
  decide +kernel

/-- R231: lanes wrap or saturate by their type; floating-point sums and products of exact values. -/
theorem test_vector : [
    rowV 0 0x7F80FF01 0x01010101 (.vadd t0 (.reg 1) (.reg 2) (.reg 3) .n8) == some 0x80810002,
    rowV 0 0x7F80FF01 0x017F0101 (.vadds t0 (.reg 1) (.reg 2) (.reg 3) .s8) == some 0x7FFF0002,
    rowV 0 0x0000FFFF 0x00010001 (.vsub t0 (.reg 1) (.reg 2) (.reg 3) .s16) == some 0xFFFFFFFE,
    rowV 0 0x7F80FF01 0x01010101 (.vmin t0 (.reg 1) (.reg 2) (.reg 3) .s8) == some 0x0180FF01,
    rowV 0 0x7F80FF01 0x01010101 (.vmax t0 (.reg 1) (.reg 2) (.reg 3) .n8) == some 0x7F80FF01,
    rowV 0 0x3F800000 0x40000000 (.vadd t0 (.reg 1) (.reg 2) (.reg 3) .f) == some 0x40400000,
    rowV 0 0x3C004000 0x4000C000 (.vmul t0 (.reg 1) (.reg 2) (.reg 3) .h) == some 0x4000C400,
    rowV 0x3F800000 0x40000000 0x40400000 (.vfma t0 (.reg 1) (.reg 2) (.reg 3) .f) == some 0x40E00000].all id = true := by
  decide +kernel

/-- The check values of the two CRCs over the nine digits 1 to 9. -/
theorem test_crc : crc32 [0x31, 0x32, 0x33, 0x34, 0x35, 0x36, 0x37, 0x38, 0x39] = 0xCBF43926 ∧
    crc64 [0x31, 0x32, 0x33, 0x34, 0x35, 0x36, 0x37, 0x38, 0x39] = 0x6C40DF5F0B497347 := by
  decide +kernel

/-! ## Words that no engine decodes -/

theorem test_undecoded : decode .c 0xE0000000 = .error .illegalOpcode ∧ decode .v 0x2C001C00 = .error .illegalInTimed ∧
    decode .c 0x08030028 = .error .illegalOpcode ∧ decode .c 0x3400041F = .error .illegalEncoding := by
  decide +kernel

/-! ## Premises: instructions that issue -/

/-- Instructions of every engine. -/
def commonForms : List Instr :=
  [.nop t0, .idle t0 3, .slate t0 true 5, .loop t0 1 3 2, .loopr t0 1 3 (.reg 1), .add t0 (.reg 1) (.reg 2) (.reg 3),
    .sub t0 (.reg 1) (.reg 2) (.reg 3), .mul t0 (.reg 1) (.reg 2) (.reg 3), .mulh t0 (.reg 1) (.reg 2) (.reg 3),
    .mulhn t0 (.reg 1) (.reg 2) (.reg 3), .and t0 (.reg 1) (.reg 2) (.reg 3), .or t0 (.reg 1) (.reg 2) (.reg 3),
    .xor t0 (.reg 1) (.reg 2) (.reg 3), .shl t0 (.reg 1) (.reg 2) (.reg 3), .shr t0 (.reg 1) (.reg 2) (.reg 3),
    .sra t0 (.reg 1) (.reg 2) (.reg 3), .min t0 (.reg 1) (.reg 2) (.reg 3), .max t0 (.reg 1) (.reg 2) (.reg 3),
    .minn t0 (.reg 1) (.reg 2) (.reg 3), .maxn t0 (.reg 1) (.reg 2) (.reg 3), .mad t0 (.reg 1) (.reg 2) (.reg 3),
    .slt t0 (.reg 1) (.reg 2) (.reg 3), .sltn t0 (.reg 1) (.reg 2) (.reg 3), .seq t0 (.reg 1) (.reg 2) (.reg 3),
    .sel t0 (.reg 1) (.reg 2) (.reg 3), .clz t0 (.reg 1) (.reg 2), .popc t0 (.reg 1) (.reg 2), .mov t0 (.reg 1) (.reg 2),
    .addi t0 (.reg 1) (.reg 2) 4, .andi t0 (.reg 1) (.reg 2) 4, .ori t0 (.reg 1) (.reg 2) 4, .xori t0 (.reg 1) (.reg 2) 4,
    .shli t0 (.reg 1) (.reg 2) 4, .shri t0 (.reg 1) (.reg 2) 4, .srai t0 (.reg 1) (.reg 2) 4, .movi t0 (.reg 1) 4,
    .movhi t0 (.reg 1) 4, .mfs t0 (.reg 1) 0x001, .mfs t0 (.reg 1) 0x016]

/-- Instructions of C and A. -/
def elasticForms : List Instr := [.br 2, .bz (.reg 1) 2, .bnz (.reg 1) 2, .call 2, .callr (.reg 1), .ret, .lbrk]

/-- Instructions of C. -/
def cForms : List Instr :=
  [.pcmp 2 (.reg 1) (.reg 2) .lt, .pcmpi .ge 0 (.reg 1) 3, .plog 1 2 3 .xor, .pmovToPred 7 (.reg 1), .pmovFromPred (.reg 1) 7, .bp 0 2,
    .bnp 7 2, .selp (.reg 1) (.reg 2) (.reg 3) 4, .sig (.reg 1) 63, .endJob 1, .trap 7, .bqry (.reg 1) 0, .bqry (.reg 1) 1,
    .bqry (.reg 1) 2, .bqry (.reg 1) 3, .joule (.reg 1) false, .joule (.reg 1) true, .varreg 3 7, .thrack .yield, .eclass (.reg 1) 15,
    .phase 1023, .yield]

/-- Instructions of a steward's C. -/
def stewardForms : List Instr :=
  [.preempt (.reg 1) (.reg 2), .qsusp (.reg 1) (.reg 2), .qres (.reg 1) (.reg 2), .semmap (.reg 1) (.reg 2), .drainm (.reg 1) (.reg 2),
    .rseed (.reg 1) (.reg 2)]

/-- Instructions of A. -/
def aForms : List Instr :=
  [.ald .w64 (.reg 1) (.reg 2) 0x3F8, .ast .s8 (.reg 1) (.reg 2) 0, .ard 4 (.reg 2) 0, .awr 3 (.reg 2) 0, .afill 3 (.reg 2) 0,
    .adrain 4 (.reg 2) 1, .wset 3 (.reg 2) 0, .wadv 0 1, .gld .w32 (.reg 1) (.reg 2) (.reg 3) 0, .gst .w32 (.reg 1) (.reg 2) (.reg 3) 15,
    .ggath .w32 4 (.reg 2) (.q 3) 0, .gscat .w64 3 (.reg 2) (.q 3) 0, .aamo .add (.reg 1) (.reg 2) .die .acqrel true 0,
    .acas (.reg 2) (.reg 4) .engine .rlx false 0, .aswp (.reg 1) (.reg 2) .system .rel true 0, .samo .xor (.reg 1) (.reg 2) .engine .rlx false,
    .rst .s16 (.reg 1) (.reg 2) 0, .rld .n8 (.reg 1) (.reg 2) 0, .binit (.reg 1) (.reg 2) 0, .barr (.reg 2) 0, .bwait (.reg 1) (.reg 2) 0,
    .btest (.reg 1) (.reg 2) 0, .fenceAcq .die 1, .fenceRel .system 2, .fenceFull .engine 3, .fenceAsync .device 4, .tlbp (.reg 1) (.reg 2),
    .l1opLine (.reg 1), .l1opAll (.reg 1),
    .pref true (.reg 1) (.reg 2) 0]

/-- Instructions of a steward's A. -/
def stewardAForms : List Instr := [.tlbinvPage (.reg 1) (.reg 2), .tlbinvCtx (.reg 1) (.reg 2), .tlbinvAll (.reg 1) (.reg 2)]

/-- Instructions of V. -/
def vForms : List Instr :=
  [.vadd t0 (.reg 1) (.reg 2) (.reg 3) .s8, .vadd t0 (.reg 1) (.q 3) (.q 3) .f, .vsub t0 (.q 4) (.reg 2) (.reg 3) .n32,
    .vsub t0 (.reg 1) (.reg 2) (.reg 3) .bf, .vmul t0 (.reg 1) (.reg 2) (.reg 3) .s16, .vmul t0 (.reg 1) (.reg 2) (.reg 3) .h,
    .vmadd t0 (.reg 1) (.reg 2) (.reg 3) .n16, .vfma t0 (.reg 1) (.reg 2) (.reg 3) .f, .vmin t0 (.reg 1) (.reg 2) (.reg 3) .s8,
    .vmin t0 (.reg 1) (.reg 2) (.reg 3) .f, .vmax t0 (.reg 1) (.reg 2) (.reg 3) .n8, .vmax t0 (.reg 1) (.reg 2) (.reg 3) .h,
    .vadds t0 (.reg 1) (.reg 2) (.reg 3) .s8, .vabs t0 (.reg 1) (.reg 2) .s8, .vabs t0 (.reg 1) (.reg 2) .f, .vneg t0 (.reg 1) (.reg 2) .s16,
    .vneg t0 (.reg 1) (.reg 2) .bf, .vand t0 (.reg 1) (.reg 2) (.reg 3) .b1, .vor t0 (.reg 1) (.reg 2) (.reg 3) .n8,
    .vxor t0 (.reg 1) (.reg 2) (.reg 3) .s32, .vnot t0 (.reg 1) (.reg 2) .b1, .vpopc t0 (.reg 1) (.reg 2) .n16,
    .vshl t0 (.reg 1) (.reg 2) (.reg 3) .s16, .vshr t0 (.reg 1) (.reg 2) (.reg 3) .n32, .vcmp t0 (.reg 1) (.reg 2) .le .s8,
    .vcmp t0 (.reg 1) (.reg 2) .un .f, .vsel t0 (.reg 1) (.reg 2) (.reg 3) .e4, .vsel t0 (.reg 1) (.reg 2) (.reg 3) .t2,
    .vscl t0 (.reg 1) (.reg 2) (.reg 3) .h, .vbitt t0 (.reg 1) (.reg 2) .n16, .vrcp t0 (.reg 1) (.reg 2) .f, .vrsq t0 (.reg 1) (.reg 2) .h,
    .vexp t0 (.reg 1) (.reg 2) .bf, .vcvt t0 (.reg 1) (.reg 2) .f .stoch .h, .vqmx t0 (.reg 1) (.reg 2) (.reg 3) .e4,
    .vdqmx t0 (.reg 1) (.reg 2) (.reg 3) .e5, .vred t0 (.reg 1) (.reg 2) .add .f, .vscan t0 (.reg 1) (.reg 2) .xor .n8,
    .vperm t0 (.reg 1) (.reg 2) (.reg 3) .n8, .vrotm t0 (.reg 1) (.reg 2) (.reg 3) .n8, .vbcst t0 (.reg 1) (.reg 2) .e5,
    .vidxw t0 (.reg 1) (.reg 2) .n16, .vidxw t0 (.reg 1) (.reg 2) .f, .vidxr t0 (.reg 1) (.reg 2) .s8, .vbits t0 (.reg 1) (.reg 2) .n32,
    .vpopm t0 (.reg 1) (.reg 2), .vlane t0 (.reg 1) (.reg 2) .s16, .vins t0 (.reg 1) (.reg 2) .h, .vmpush t0 (.reg 2) .n8, .vminv t0, .vmpop t0,
    .vskip t0 1, .vmatch t0 (.reg 1) (.reg 2) (.reg 3) .n16, .vmov t0 (.reg 1) 0, .vmov t0 (.reg 1) 1, .vmov t0 (.q 3) 1]

/-- Instructions of M. -/
def mForms : List Instr :=
  [.tshape t0 (.reg 1) (.reg 2) (.reg 3), .tcfg t0 (.reg 1) 0, .tcfg t0 (.reg 1) 2, .tcfg t0 (.reg 1) 3, .tzero t0 7, .tacc t0 1 0,
    .tstat t0 (.reg 1) 0, .tstat t0 (.reg 1) 1, .tstat t0 (.reg 1) 2, .tstat t0 (.reg 1) 3, .tchk t0 (.reg 1) (.reg 2) 0,
    .tchk t0 (.reg 1) (.reg 2) 2, .tchk t0 (.reg 1) (.reg 2) 3, .tchk t0 (.reg 1) (.reg 2) 4, .tchk t0 (.reg 1) (.reg 2) 5,
    .tchk t0 (.reg 1) (.reg 2) 6, .tchk t0 (.reg 1) (.reg 2) 7]

/-- A steward's job. -/
def asSteward (j : Job) : Job := { j with steward := true }

theorem witness_issue_common : [Eng.c, .a, .v, .m].all (fun e => commonForms.all (issuesB (bench e id) e)) = true := by
  decide +kernel

theorem witness_issue_elastic : [Eng.c, .a].all (fun e => elasticForms.all (issuesB (bench e id) e)) = true := by decide +kernel

theorem witness_issue_c : cForms.all (issuesB (bench .c id) .c) = true := by decide +kernel

theorem witness_issue_steward : (stewardForms.all (issuesB (bench .c asSteward) .c) &&
    stewardAForms.all (issuesB (bench .a asSteward) .a)) = true := by decide +kernel

theorem witness_issue_a : aForms.all (issuesB (bench .a id) .a) = true := by decide +kernel

theorem witness_issue_v : vForms.all (issuesB (bench .v id) .v) = true := by decide +kernel

/-- Every scalar register of M holds 1. -/
def onesM (j : Job) : Job := { j with m := { j.m with s := Vector.replicate 32 1 } }

theorem witness_issue_m : mForms.all (issuesB (bench .m onesM) .m) = true := by decide +kernel

/-- The statements about every instruction that issues speak of states that are there. -/
theorem witness_Issues : ∃ s c j, Issues s c .v j (.vadd t0 (.reg 1) (.reg 2) (.reg 3) .s8) := by
  obtain ⟨j, -, h⟩ := issues_of_issuesB (s := bench .v id) (e := .v) (i := .vadd t0 (.reg 1) (.reg 2) (.reg 3) .s8) (by decide +kernel)
  exact ⟨_, _, j, h⟩

/-! ## Premises of the statements, clause by clause

Each list holds what one clause assumes beside that the instruction issues, at a boundary of its range where it has one. -/

/-- C's pc and loop levels replaced. -/
def withLoops (l : List LoopLvl) (j : Job) : Job := { j with c := { j.c with arch := { j.c.arch with loops := l } } }

theorem witness_ScalarOperandsAndEnd : [
    decide (((benchJob .c).stream 1).q = [3, 5]),
    decide ((withLoops [] (benchJob .c)).loops .c = []),
    decide ((benchJob .c).pc .c ≠ 0x1040 ∧ ((benchJob .c).loops .c).map LoopLvl.last = [0x1040]),
    decide ((withLoops [⟨0x0FF8, 0x1000, 2⟩] (benchJob .c)).pc .c = 0x1000),
    decide (1 < 2 ∧ (withLoops [⟨0x0FF8, 0x1000, 1⟩, ⟨0x0FF0, 0x1000, 2⟩] (benchJob .c)).loops .c
      = [⟨0x0FF8, 0x1000, 1⟩, ⟨0x0FF0, 0x1000, 2⟩])].all id = true := by
  decide +kernel

theorem witness_NopIdleAt : [
    meets .c id (.idle t0 0) any, meets .a id (.idle t0 1) any, meets .v id (.idle t0 0) any, meets .m id (.idle t0 0xFFFF) any,
    meets .v id (.atTake t0 (.reg 1) 0) fun _ j => decide (j.reg .v 1 = 0 ∧ j.take = 0),
    meets .m id (.atTake t0 (.reg 1) 9) any].all id = true := by
  decide +kernel

/-- V waits at a slate or a rendezvous, and A is in turn. -/
def withV (w : Wait) (j : Job) : Job := { j with hasV := true, v := { j.v with wait := w }, c := { j.c with wait := .slate false 5 0 } }

/-- As `withV`, with C at work. -/
def withVRun (w : Wait) (j : Job) : Job := { j with hasV := true, v := { j.v with wait := w } }

theorem witness_StreamsMeet : [
    meets .a id (.slate t0 false 5) fun _ j => j.has .c && decide (j.c.wait = .run) && !j.a.ownPosted 0,
    meets .a (withV (.slate false 5 0)) (.slate t0 false 5) fun _ j => decide (j.v.wait = .slate false 5 0 ∧ j.c.wait = .slate false 5 0)
      && !j.a.ownPosted 0,
    meets .a id (.rdv t0 0 0) any,
    meets .a (fun j => { withV (.slate false 5 0) j with stopping := true }) (.slate t0 false 5) fun _ j =>
      (((j.issuing .a (.slate t0 false 5)).setWait .a (.slate false 5 j.cyc)).act .a).atStop,
    meets .a (withVRun (.rdv 1 6 0)) (.rdv t0 4 1) fun _ _ => maskHas 4 .a && !maskHas 4 .c && !maskHas 4 .v && !maskHas 4 .m,
    meets .a id (.rdv t0 12 1) fun _ j => j.has .c && decide (j.c.wait = .run),
    meets .a (withVRun (.rdv 1 6 0)) (.rdv t0 6 1) fun _ j => decide (j.v.wait = .rdv 1 6 0) && maskHas 6 .v && maskHas 6 .a
      && decide (j.c.wait = .run)].all id = true := by
  decide +kernel

theorem witness_LoopsOpenAndClose : [
    meets .c id (.loop t0 1 1 0) any, meets .v id (.loop t0 1 1 1023) any,
    meets .c id (.loopr t0 1 1 (.reg 1)) fun _ j => decide (j.reg .c 1 = 0), meets .a id .lbrk fun _ j => decide (j.loops .a ≠ [])].all id
      = true := by
  decide +kernel

/-- Return-address stores with this depth. -/
def withRas (held spilled : Nat) (win : W32) (j : Job) : Job :=
  { j with a := { j.a with ras := { j.a.ras with held, spilled, win } } }

theorem witness_BranchesAndCalls : [
    meets .c id (.br 2) any, meets .c id (.bz (.reg 0) 2) any, meets .a id (.bnz (.reg 0) 2) any, meets .c id (.bp 0 2) any,
    meets .c id (.bnp 0 2) any,
    meets .a (withRas 15 0 0) (.call 2) fun _ j => decide ((j.ras .a).held < 16),
    meets .a (withRas 16 0 (64 * 65536)) (.call 2) fun s j => decide ((j.ras .a).held = 16 ∧ (j.ras .a).spilled < 16 * (j.ras .a).len)
      && decide (spillGate s 0 (j.issuing .a (.call 2)) ((j.ras .a).spillAddr (j.ras .a).spilled) = .ok),
    meets .a (withRas 15 0 0) (.callr (.reg 0)) fun _ j => decide ((j.ras .a).held < 16 ∧ (j.reg .a 0).toNat % 4 = 0),
    meets .c id .ret fun _ j => decide ((j.ras .c).held = 0 + 1 ∧ (j.ras .c).pos.toList[0]? = some 0x2000),
    meets .a (withRas 0 1 (64 * 65536)) .ret fun s j => decide ((j.ras .a).held = 0 ∧ 0 < (j.ras .a).spilled ∧
      spillGate s 0 (j.issuing .a .ret) ((j.ras .a).spillAddr 0) = .ok ∧ natOfBytes (s.scrRead 0 ((j.ras .a).spillAddr 0) 8) % 4 = 0),
    decide ((jobOf (bench .a (withRas 0 1 0))).a.ras.held = 0 ∧ 0 < (jobOf (bench .a (withRas 0 1 0))).a.ras.spilled)].all id = true := by
  decide +kernel

theorem witness_SpecialRegisters : [
    meets .c id (.mfs t0 (.reg 1) 0x001) any, meets .v id (.mfs t0 (.reg 1) 0x016) any,
    meets .c id (.mts t0 (.reg 1) 0x011) any, meets .a id (.mts t0 (.reg 1) 0x00A) any, meets .v id (.mts t0 (.reg 1) 0x00D) any,
    decide ((benchJob .c).shadow .c = none), decide (((benchJob .c).setShadow .c 1).shadow .c = some 1),
    decide ((5 : W32).toNat % 8 < 6), decide ((16 : W32).toNat % 32 ≤ 16), decide (16 < (17 : W32).toNat % 32)].all id = true := by
  decide +kernel

/-- C's registers: every one holds `x`. -/
def withC (x : W32) (j : Job) : Job := { j with c := { j.c with arch := { j.c.arch with s := Vector.replicate 32 x } } }

/-- The semaphore 5 of the bench belongs to another VF. -/
def foreign (s : State) : State := s.setCluster 0 { s.cluster 0 with semOwner := [(5, 7)] }

theorem witness_SignalsEndAndTraps : [
    meets .c (withC 5) (.sig (.reg 1) 63) fun s j => decide ((srcC j (.sig (.reg 1) 63) 0).toNat = 5 ∧ s.semMapped j.ctx 5 = some 5 ∧
      s.semOwnerOf 5 = ctxNum j.ctx ∧ s.card j.cluster j.slot = some benchCard),
    issuesB (foreign (bench .c (withC 5))) .c (.sig (.reg 1) 0) && decide ((foreign (bench .c id)).semOwnerOf 5 ≠ ctxNum 0)
      && decide ((benchJob .c).hasA = false) && (foreign (bench .c id)).live 0
      && (match (foreign (bench .c (withC 5))).escape 0 ((jobOf (bench .c (withC 5))).issuing .c (.sig (.reg 1) 0)) with
        | .go _ => true
        | _ => false),
    meets .c (withC 1024) (.sig (.reg 1) 0) fun _ j => decide (1024 ≤ (srcC j (.sig (.reg 1) 0) 0).toNat),
    meets .c (withC 6) (.sig (.reg 1) 0) fun s j => decide (s.semMapped j.ctx (srcC j (.sig (.reg 1) 0) 0).toNat = none),
    meets .c id (.endJob 0xFEFF) any,
    meets .c (fun j => { j with c := { j.c with vec := 1 } }) (.trap 7) fun _ j => j.c.vec.getLsbD 0 && !j.c.arch.inh,
    meets .c id (.trap 7) fun _ j => !j.c.vec.getLsbD 0,
    meets .c (fun j => { j with c := { j.c with arch := { j.c.arch with inh := true }, tpc := 0x2004 } }) .eret fun _ j =>
      decide (j.c.tpc.toNat % 4 = 0),
    meets .c (fun j => { j with c := { j.c with arch := { j.c.arch with inh := true }, tpc := 0x2002 } }) .eret fun _ j =>
      decide (j.c.tpc.toNat % 4 ≠ 0)].all id = true := by
  decide +kernel

/-- A variant record of shapes 1 to 2^16 - 1. -/
def goodRecord : Row := BitVec.ofNat 1024 (1 + 2 ^ 16 * 1 + 2 ^ 32 * 1 + 2 ^ 48 * 1 + 2 ^ 64 * (2 ^ 64 - 1))

theorem witness_EnergyAndVariants : [
    meets .c id (.varreg 3 0) fun _ j => decide (variantOf ((j.stream 3).head.toNat % 2 ^ 256) = none),
    meets .c (fun j => { j with streams := j.streams.set 3 (benchStream .a .c true [goodRecord]) }) (.varreg 3 7) fun _ j =>
      (variantOf ((j.stream 3).head.toNat % 2 ^ 256)).isSome,
    meets .c id (.thrack .downgrade) any,
    meets .c id (.phase 1023) fun _ j => !j.flag.yreq && j.slots.toList.all fun x => x.isNone,
    meets .c id .yield fun _ j => decide (j.save = 0),
    meets .c (fun j => { j with save := 0x400000 }) .yield fun _ j => decide (j.save ≠ 0)].all id = true := by
  decide +kernel

/-- The bench with a steward's job whose registers hold `x`. -/
def stewardBench (x : W32) : State := bench .c fun j => { asSteward (withC x j) with ctx := 384 }

/-- A steward's premise. -/
def meetsS (x : W32) (i : Instr) (p : State → Job → Bool) : Bool :=
  issuesB (stewardBench x) .c i && decide ((jobOf (stewardBench x)).c.wait = .run) && p (stewardBench x) (jobOf (stewardBench x))

/-- One register of C. -/
def setC (n : Fin 32) (x : W32) (j : Job) : Job :=
  { j with c := { j.c with arch := { j.c.arch with s := j.c.arch.s.set n.val x n.isLt } } }

/-- A queue of VF 0 in a state. -/
def withQueue (q : QState) (s : State) : State := s.setQueue 0 0 { Queue.init with state := q }

/-- Another core's job has preempted context 0. -/
def preempting (s : State) : Bool :=
  let j := jobOf s
  let t := (s.setCore 1 { s.core 1 with job := some { j with c := { j.c with wait := .op [0] } } }).setCtx 0
    { s.ctx 0 with preempting := some (1, j.jobid) }
  issuesB t .c (.preempt (.reg 1) (.reg 2)) && t.preemptBusy 0

theorem witness_StewardOperations : [
    meetsS 3 (.preempt (.reg 1) (.reg 2)) fun s j => decide (s.ctxHandle j.part 3 = none),
    meetsS 0x400 (.preempt (.reg 1) (.reg 2)) fun s j => decide (s.ctxHandle j.part 0x400 = some j.ctx),
    meetsS 0 (.preempt (.reg 1) (.reg 2)) fun s j => decide (s.ctxHandle j.part 0 = some 0 ∧ 0 ≠ j.ctx ∧ s.vacating 0 = false ∧
      s.preemptBusy 0 = false ∧ s.runningOf 0 ≠ []),
    preempting (stewardBench 0),
    issuesB ((stewardBench 0).setCluster 0 Cluster.init) .c (.preempt (.reg 1) (.reg 2)) &&
      decide (((stewardBench 0).setCluster 0 Cluster.init).runningOf 0 = []) &&
      (((stewardBench 0).setCluster 0 Cluster.init).suspendAll 0).fetchersStopped 0,
    (let s := ((stewardBench 0).setCluster 0 Cluster.init).setQueue 0 0 { Queue.init with state := .fetching, opsLeft := 1 }
     issuesB s .c (.preempt (.reg 1) (.reg 2)) && decide (s.runningOf 0 = [] ∧ s.preemptBusy 0 = false) &&
       !(s.suspendAll 0).fetchersStopped 0),
    (let b := stewardBench 0
     let s := b.setPart 0 { b.part 0 with wrapPhase := .vacating }
     issuesB s .c (.preempt (.reg 1) (.reg 2)) && s.vacating 0),
    (let b := stewardBench 0
     let s := b.setPart 0 { b.part 0 with wrapPhase := .vacated }
     issuesB s .c (.preempt (.reg 1) (.reg 2)) && s.vacating 0 && decide ((s.part 0).wrapPhase ≠ .vacating ∧ s.preemptBusy 0 = false)),
    issuesB (withQueue .waiting (stewardBench 0)) .c (.qsusp (.reg 1) (.reg 2)),
    meetsS 0 (.qsusp (.reg 1) (.reg 2)) fun s j => decide (s.queueHandle j.part 0 = some (0, 0) ∧ (s.queue 0 0).barred = false),
    (let b := stewardBench 0
     let s := b.setQueue 0 0 { Queue.init with state := .fetching, opsLeft := 1 }
     issuesB s .c (.qsusp (.reg 1) (.reg 2)) && decide ((s.queue 0 0).barred = false ∧ 0 < (s.queue 0 0).opsLeft)),
    issuesB (withQueue .suspended (stewardBench 0)) .c (.qsusp (.reg 1) (.reg 2)) &&
      ((withQueue .suspended (stewardBench 0)).queue 0 0).barred,
    issuesB (withQueue .suspended (stewardBench 0)) .c (.qres (.reg 1) (.reg 2)),
    issuesB (withQueue .parked (stewardBench 0)) .c (.qres (.reg 1) (.reg 2)) &&
      decide (((withQueue .parked (stewardBench 0)).queue 0 0).state = .parked),
    issuesB (withQueue .halted (stewardBench 0)) .c (.qres (.reg 1) (.reg 2)),
    meetsS 1023 (.semmap (.reg 1) (.reg 2)) fun s j => decide (1023 / 1024 % 64 = 0 ∧ s.ctxHandle j.part (1023 / 65536) = some 0 ∧
      s.cluPart (semClu 1023) ≠ some j.part),
    meetsS 255 (.semmap (.reg 1) (.reg 2)) fun s j => decide (255 < 8192 ∧ s.cluPart (semClu 255) = some j.part),
    meets .c (fun j => setC 2 0xFFFFFFFF (asSteward (withC 5 j))) (.semmap (.reg 1) (.reg 2)) fun s j =>
      decide ((srcC j (.semmap (.reg 1) (.reg 2)) 1).toNat = 0xFFFFFFFF ∧ s.ctxHandle j.part 0 = some 0),
    meets .c id (.drainm (.reg 1) (.reg 2)) fun _ j => !j.steward && decide ((srcC j (.drainm (.reg 1) (.reg 2)) 0).toNat = 0 ∧
      j.m.flights = [] ∧ j.m.pend = []),
    meets .c (fun j => { j with m := { j.m with pend := [⟨1, .s 1, 0, 0⟩] } }) (.drainm (.reg 1) (.reg 2)) fun _ j => decide (j.m.pend ≠ []),
    meets .c (withC 1) (.drainm (.reg 1) (.reg 2)) fun _ j => decide ((srcC j (.drainm (.reg 1) (.reg 2)) 0).toNat ≠ 0),
    meetsS 2 (.drainm (.reg 1) (.reg 2)) fun s j => j.steward && decide (s.coreHandle j.part 2 = some 2 ∧ s.job 2 = none),
    meetsS 200 (.drainm (.reg 1) (.reg 2)) fun s j => j.steward && decide (s.coreHandle j.part 200 = none),
    (let s := (stewardBench 7).setCore 1 { (stewardBench 7).core 1 with job := some { benchJob .c with jobid := 7 } }
     issuesB s .c (.rseed (.reg 1) (.reg 2)) && decide (srcC (jobOf s) (.rseed (.reg 1) (.reg 2)) 0 ≠ (jobOf s).jobid) &&
       (s.jobNamed (jobOf s).part 7).isSome),
    meets .c id (.rseed (.reg 1) (.reg 2)) fun _ j => decide (srcC j (.rseed (.reg 1) (.reg 2)) 0 = j.jobid),
    meets .c (withC 1) (.rseed (.reg 1) (.reg 2)) fun _ j => !j.steward && decide (srcC j (.rseed (.reg 1) (.reg 2)) 0 ≠ j.jobid)].all id
      = true := by
  decide +kernel

/-- A's registers: every one holds `x`. -/
def withA (x : W64) (j : Job) : Job := { j with a := { j.a with x := Vector.replicate 32 x } }

/-- One register of A. -/
def setA (n : Fin 32) (x : W64) (j : Job) : Job := { j with a := { j.a with x := j.a.x.set n.val x n.isLt } }

/-- Two cores of a cluster run jobs of one context. -/
def pair (s : State) : State := s.setCore 1 { s.core 1 with job := s.job 0 }

/-- Bank 31 of core 0 has lost one row at every level. -/
def shrunk (s : State) : State := s.setCore 0 { s.core 0 with grades := (List.range 33).map fun k => (31 * 544 + k, 15) }

theorem witness_LocalAccessChecks : [
    decide ((bench .a id).localGate 0 (benchJob .a) 0x1FFFFF 8 8 true false true = .trap .align),
    decide ((shrunk (bench .a id)).localGate 0 (benchJob .a) 0x1FFFF8 8 8 true false true = .trap .rowRange),
    decide ((bench .a id).localGate 0 (benchJob .a) 0 8 8 true false true = .at_ 0 0),
    decide ((pair (bench .a id)).localGate 0 (benchJob .a) 0x1200008 8 8 false true true = .at_ 1 8),
    (pair (bench .a id)).sharesCtx (corePeer 0 1) 0,
    !(bench .a id).sharesCtx (corePeer 0 1) 0 &&
      decide ((bench .a id).localGate 0 (benchJob .a) 0x1200008 8 8 false true true = .trap .protection),
    decide ((bench .a id).localGate 0 (benchJob .a) 0x17FFFF8 8 8 false false true = .trap .protection),
    decide ((bench .a id).localGate 0 (benchJob .a) 0x200000 8 8 true false true = .trap .protection),
    decide ((bench .a id).localGate 0 (benchJob .a) 0x1800000 8 8 true true true = .trap .protection),
    meets .a (withA 1) (.ald .w32 (.reg 1) (.reg 2) 0) fun s j =>
      decide (s.localGate 0 j (immAddr j (.ald .w32 (.reg 1) (.reg 2) 0) 0) 4 4 true false true = .trap .align),
    meets .a (withA 1) (.ast .w32 (.reg 1) (.reg 2) 0) fun s j =>
      decide (s.localGate 0 j (immAddr j (.ast .w32 (.reg 1) (.reg 2) 0) 0) 4 4 true false false = .trap .align),
    meets .a (withA 1) (.rld .w32 (.reg 1) (.reg 2) 0) fun s j =>
      decide (s.localGate 0 j (immAddr j (.rld .w32 (.reg 1) (.reg 2) 0) 0) 4 4 false true true = .trap .align),
    meets .a (withA 1) (.rst .w32 (.reg 1) (.reg 2) 0) fun s j =>
      decide (s.localGate 0 j (immAddr j (.rst .w32 (.reg 1) (.reg 2) 0) 0) 4 4 false true false = .trap .align),
    meets .a (withA 1) (.ard 4 (.reg 2) 0) fun s j =>
      decide (s.localGate 0 j (immAddr j (.ard 4 (.reg 2) 0) 0) 128 128 false false true = .trap .align),
    meets .a (withA 1) (.awr 3 (.reg 2) 0) fun s j =>
      decide (s.localGate 0 j (immAddr j (.awr 3 (.reg 2) 0) 0) 128 128 false false false = .trap .align)].all id = true := by
  decide +kernel

theorem witness_LocalLoadsAndStores : [
    meets .a id (.ald .w64 (.reg 1) (.reg 2) 8) fun s j =>
      decide (s.localGate 0 j (immAddr j (.ald .w64 (.reg 1) (.reg 2) 8) 8) 8 8 true false true = .at_ 0 8),
    meets .a id (.rld .s8 (.reg 1) (.reg 2) 7) fun s j =>
      decide (s.localGate 0 j (immAddr j (.rld .s8 (.reg 1) (.reg 2) 7) 7) 1 1 false true true = .at_ 0 7),
    meets .a id (.ast .n16 (.reg 1) (.reg 2) 6) fun s j =>
      decide (s.localGate 0 j (immAddr j (.ast .n16 (.reg 1) (.reg 2) 6) 6) 2 2 true false false = .at_ 0 6),
    meets .a id (.rst .w32 (.reg 1) (.reg 2) 4) fun s j =>
      decide (localAt 0 (immAddr j (.rst .w32 (.reg 1) (.reg 2) 4) 4) = some (0, 4) ∧ s.localGate 0 j 4 4 4 false true false = .at_ 0 4),
    meets .a id (.ard 4 (.reg 2) 128) fun s j =>
      decide (s.localGate 0 j (immAddr j (.ard 4 (.reg 2) 128) 128) 128 128 false false true = .at_ 0 128),
    meets .a id (.awr 3 (.reg 2) 128) fun s j =>
      decide (s.localGate 0 j (immAddr j (.awr 3 (.reg 2) 128) 128) 128 128 false false false = .at_ 0 128),
    Memory.wf ((bench .a id).core 0).scr].all id = true := by
  decide +kernel

/-- A good walk record: one level of 64 rows from 0 on within the whole scratchpad. -/
def goodWalk : Nat := 64 * 2 ^ 64 + 128 * 2 ^ 128 + 0x200000 * 2 ^ 288

/-- The bench with a row of the scratchpad filled. -/
def withScr (a : Nat) (bs : List Byte) (s : State) : State := s.setCore 0 { s.core 0 with scr := (s.core 0).scr.writeBytes a bs }

/-- The walks 0 and 1 are tracked, with a window of two rows and this credit. -/
def tracked (credit : Nat) (j : Job) : Job :=
  let f := fun (w : Walk) => { w with credit, record := w.record.map fun r => { r with track := true, window := 2 } }
  { j with walks := (j.walks.set 0 (f j.walks[0])).set 1 (f j.walks[1]) }

theorem witness_WalkInstructions : [
    meets .a id (.wadv 0 1023) fun _ j => match (j.walk 0).record with
      | some r => r.cyclic && !r.track
      | none => false,
    meets .a id (.afill 3 (.reg 0) 0) fun _ j => decide (j.reg .a 0 = 0) && (match (j.walk 0).record with
      | some r => !r.dir
      | none => false),
    meets .a (withA 2) (.afill 3 (.reg 1) 0) fun s j => decide (j.reg .a 1 ≠ 0) && (match (j.walk 0).record with
      | some r => (match walkRow s 0 r 0 with
        | .ok a => decide (a = 0)
        | .error _ => false) && !r.dir && !r.track
      | none => false) && !j.mustWait j.a.acls false false 0 128 && !s.yields 0 j 0 && decide ((j.stream 3).q ≠ []),
    meets .a (withA 1) (.adrain 4 (.reg 1) 1) fun s j => decide (j.reg .a 1 ≠ 0) && (match (j.walk 1).record with
      | some r => (match walkRow s 0 r 0 with
        | .ok a => decide (a = 0x100000)
        | .error _ => false) && r.dir && !r.track
      | none => false) && !j.mustWait j.a.acls true false 0x100000 128 && !s.yields 0 j 0x100000 && (j.stream 4).canPush,
    meets .a (withA 0) (.adrain 4 (.reg 1) 1) any,
    meets .a id (.afill 3 (.reg 1) 1) any, meets .a id (.adrain 4 (.reg 1) 0) any,
    meets .a (tracked 65534) (.wadv 0 1) fun _ j => match (j.walk 0).record with
      | some r => r.track && decide ((j.walk 0).credit + (j.walk 0).creditIn + 1 ≤ 65535)
      | none => false,
    meets .a (fun j => tracked 65534 (withA 2 j)) (.afill 3 (.reg 1) 0) fun _ j => match (j.walk 0).record with
      | some r => r.track && decide ((j.walk 0).credit + (j.walk 0).creditIn + 1 ≤ 65535)
      | none => false,
    meets .a (fun j => tracked 1 (withA 2 j)) (.adrain 4 (.reg 1) 1) fun _ j => match (j.walk 1).record with
      | some r => r.track && decide ((j.walk 1).credit + (j.walk 1).creditIn < r.window)
      | none => false,
    issuesB (withScr 0 (bytesOfNat 64 goodWalk) (bench .a id)) .a (.wset 3 (.reg 2) 0) &&
      decide ((withScr 0 (bytesOfNat 64 goodWalk) (bench .a id)).localGate 0 (benchJob .a) 0 64 64 false false true = .at_ 0 0) &&
      decide (walkError (natOfBytes ((withScr 0 (bytesOfNat 64 goodWalk) (bench .a id)).scrRead 0 0 64)) = none) &&
      decide ((benchJob .a).pendingRows 3 = 0)].all id = true := by
  decide +kernel

theorem witness_CountBarriers : [
    meets .a id (.binit (.reg 1) (.reg 2) 32) fun s j => decide (s.localGate 0 j 32 32 32 false true false = .at_ 0 32),
    meets .a id (.barr (.reg 2) 32) fun s j => decide (s.localGate 0 j 32 32 32 false true false = .at_ 0 32 ∧ j.a.posted = []),
    meets .a (setA 1 1) (.bwait (.reg 1) (.reg 2) 32) fun s j => decide (s.localGate 0 j 32 32 32 false true true = .at_ 0 32 ∧
      natOfBytes (s.scrRead 0 32 32) / 2 ^ 128 % 2 ^ 32 ≠ (srcA j (.bwait (.reg 1) (.reg 2) 32) 1).toNat % 2 ^ 32),
    meets .a id (.bwait (.reg 1) (.reg 2) 32) fun s j =>
      decide (natOfBytes (s.scrRead 0 32 32) / 2 ^ 128 % 2 ^ 32 = (srcA j (.bwait (.reg 1) (.reg 2) 32) 1).toNat % 2 ^ 32),
    meets .a id (.btest (.reg 1) (.reg 2) 32) any,
    decide (3 + 1 < 5 ∧ 4 + 1 = 5 ∧ 5 < 5 + 1)].all id = true := by
  decide +kernel

/-- A posted store of class 3. -/
def onePosted (j : Job) : Job := { j with a := { j.a with posted := [.store 0 [{ pa := 0x2000, va := 0x2000, bytes := [0] }] 3 0] } }

/-- A queued copy command with these registers. -/
def blankCmd (cmd : Vector W64 4) : CopyCmd :=
  { cmd, tag := 0, srcFmt := 0, dstFmt := 0, seed := 0, jobs := Vector.replicate 4 none, behind := false, cur := 0, started := false
    begun := false, xl := [], peer := none }

/-- A copy command of class 0 in the queue of engine 0. -/
def oneCopy (j : Job) : Job := { j with copies := #v[[blankCmd #v[0x2000, 0, 0x0000100001000000, 0x400]], []] }

theorem witness_FencesAndTranslation : [
    meets .a onePosted (.fenceRel .system 8) fun _ j => j.a.posted.any fun p => p.inMask 8,
    meets .a onePosted (.fenceRel .system 4) fun _ j => j.a.posted.all fun p => !p.inMask 4,
    meets .a onePosted (.fenceFull .die 8) fun _ j => j.a.posted.any fun p => p.inMask 8,
    meets .a id (.fenceFull .die 8) any, meets .a id (.fenceFull .engine 8) any, meets .a id (.fenceAcq .die 1) any,
    meets .a id (.fenceAcq .island 1) any,
    meets .a id (.fenceAsync .die 1) fun _ j => decide (j.copiesOf 0 = [] ∧ j.copiesOf 1 = []),
    meets .a oneCopy (.fenceAsync .die 1) fun _ j =>
      (j.copiesOf 0).any fun x => (1 : BitVec 16).getLsbD (copyFields x.cmd).cls.val,
    meets .a id (.tlbp (.reg 1) (.reg 2)) any,
    meets .a (fun j => asSteward (withA 0 j)) (.tlbinvPage (.reg 1) (.reg 2)) fun s j =>
      decide (j.a.wait = .run ∧ s.tlbCtx j.part (srcA j (.tlbinvPage (.reg 1) (.reg 2)) 1) = some 0),
    meets .a (fun j => asSteward (withA (2 ^ 48) j)) (.tlbinvPage (.reg 1) (.reg 2)) fun _ j =>
      decide (2 ^ 48 ≤ (srcA j (.tlbinvPage (.reg 1) (.reg 2)) 0).toNat),
    meets .a (fun j => asSteward (withA 1 j)) (.tlbinvPage (.reg 1) (.reg 2)) fun s j =>
      decide (s.tlbCtx j.part (srcA j (.tlbinvPage (.reg 1) (.reg 2)) 1) = none),
    meets .a asSteward (.tlbinvCtx (.reg 1) (.reg 2)) fun s j =>
      decide (s.tlbCtx j.part (srcA j (.tlbinvCtx (.reg 1) (.reg 2)) 0) = some 0),
    meets .a (fun j => asSteward (withA 1 j)) (.tlbinvCtx (.reg 1) (.reg 2)) fun s j =>
      decide (j.a.wait = .run ∧ s.tlbCtx j.part (srcA j (.tlbinvCtx (.reg 1) (.reg 2)) 0) = none),
    meets .a (fun j => asSteward (setA 1 (2 ^ 48) (withA 1 j))) (.tlbinvPage (.reg 1) (.reg 2)) fun s j =>
      decide (2 ^ 48 ≤ (srcA j (.tlbinvPage (.reg 1) (.reg 2)) 0).toNat ∧
        s.tlbCtx j.part (srcA j (.tlbinvPage (.reg 1) (.reg 2)) 1) = none),
    meets .a asSteward (.tlbinvAll (.reg 1) (.reg 2)) any,
    meets .a (withA 0x5000) (.l1opLine (.reg 1)) fun s j =>
      decide ((srcA j (.l1opLine (.reg 1)) 0).toNat < 2 ^ 48 ∧ s.tlbFind 0 j.ctx 0x5000 = none ∧ j.a.probed ≠ some (0x5000 / 4096)),
    meets .a (fun j => withA 0x5000 { j with a := { j.a with probed := some 5 } }) (.l1opLine (.reg 1)) fun s j =>
      decide (s.tlbFind 0 j.ctx 0x5000 = none ∧ j.a.probed = some ((srcA j (.l1opLine (.reg 1)) 0).toNat / 4096)),
    meets .a (withA 0x2000) (.l1opLine (.reg 1)) fun s j => (s.tlbFind 0 j.ctx 0x2000).isSome,
    meets .a (fun j => setA 2 0 (withA 0x2000 j)) (.pref true (.reg 1) (.reg 2) 0) fun s j =>
      !j.mustWait 0 true true 0 0 && (match s.tlbFind 0 j.ctx 0x2000 with
        | some e => e.rd && decide (e.kind ≠ 2) && !s.hostWaits j.ctx e.kind (e.pa 0x2000)
        | none => false),
    meets .a (setA 1 (2 ^ 48)) (.pref true (.reg 1) (.reg 2) 0) fun _ j =>
      decide (2 ^ 48 ≤ (srcA j (.pref true (.reg 1) (.reg 2) 0) 0 + srcA j (.pref true (.reg 1) (.reg 2) 0) 1).toNat)].all id = true := by
  decide +kernel

/-- An access of 4 bytes at 0x2000 that passes its translation. -/
def pieceOk (s : State) (j : Job) (a : Acc4) (n : Nat) : Bool := match s.pieces 0 j a n [0x2000] with
  | .ok [p] => decide (p = ⟨0x2000, 0x2000, 0⟩)
  | _ => false

/-- The bench's card has escaped. -/
def escapedCard (s : State) : State := s.setCard 0 0 { benchCard with escaped := true }

/-- A's first register addresses the second page. -/
def atPage (j : Job) : Job := setA 1 0x2000 j

/-- The side cache of core 0 holds the line at 0x2000. -/
def withSide (s : State) : State := s.setCore 0 { s.core 0 with side := [(64, 0)] }

theorem witness_GlobalAccesses : [
    meets .a atPage (.gld .w32 (.reg 2) (.reg 1) (.reg 0) 0) fun s j => pieceOk s j .read 4 && !j.mustWait 0 true true 0x2000 4 &&
      decide (s.stagedOf j = [] ∧ SMap.find (s.core (s.sideOwner 0 j 0x2000)).side 64 = none ∧ SMap.find s.lines 64 = some benchLine),
    issuesB (withSide (bench .a atPage)) .a (.gld .s8 (.reg 2) (.reg 1) (.reg 0) 0) && decide (SMap.find ((withSide (bench .a atPage)).core
      ((withSide (bench .a atPage)).sideOwner 0 (jobOf (bench .a atPage)) 0x2000)).side 64 = some 0),
    meets .a atPage (.gst .w32 (.reg 2) (.reg 1) (.reg 0) 15) fun s j => pieceOk s j .write 4 && !s.writeRefused j.ctx 0x2000 &&
      decide (j.a.posted = []) && s.stageable j ⟨0x2000, 0x2000, 0⟩,
    issuesB (escapedCard (bench .a atPage)) .a (.gst .w32 (.reg 2) (.reg 1) (.reg 0) 15) &&
      (escapedCard (bench .a atPage)).nodeEscaped (jobOf (bench .a atPage)) && decide (4 ≤ 32 - 0x2000 % 32),
    (let s := escapedCard (bench .a (setA 1 0x201C))
     issuesB s .a (.gst .w64 (.reg 2) (.reg 1) (.reg 0) 15) && (match s.pieces 0 (jobOf s) .write 8 [0x201C] with
      | .ok [p] => decide (p.kind = 0 ∧ 32 - p.pa % 32 < 8)
      | _ => false)),
    decide ((unitStores 32 [(⟨0x2000, 0x2000, 0⟩, [1]), (⟨0x2008, 0x2008, 0⟩, [2]), (⟨0x2020, 0x2020, 0⟩, [3])]).length = 2)].all id = true := by
  decide +kernel

/-- Index rows of which the first element counts and the others are skipped. -/
def lastSkipped : Row := BitVec.ofNat 1024 (((2 ^ 1024 - 1) / (2 ^ 32 - 1) - 1) * 2 ^ 31)

/-- A has these index rows in stream 3, and page 2 in its first register. -/
def indexed (l : List Row) (j : Job) : Job := atPage { j with streams := j.streams.set 3 (benchStream .v .a true l) }

theorem witness_GlobalAccesses_gscat : [
    issuesB (escapedCard (bench .a (indexed [lastSkipped, 0]))) .a (.gscat .w64 3 (.reg 1) (.q 3) 0),
    meets .a (indexed [lastSkipped, 0]) (.gscat .w64 3 (.reg 1) (.q 3) 0)
      fun s j =>
        let g := gatherAddrs j .w64 (.reg 1) (.q 3)
        let l := g.2.zipIdx.filterMap fun x => x.1.map fun va => (va, ((bytesOfNat 128 (g.1.stream 3).head.toNat).drop (8 * x.2)).take 8)
        match s.pieces 0 j .write 8 (l.map Prod.fst) with
        | .ok ps => (ps.all fun p => decide (p.kind = 0) && !s.writeRefused j.ctx p.pa) &&
          (s.stageAll 0 j (ps.zip (l.map Prod.snd))).isSome && (ps.all fun p => s.stageable j p) &&
          decide (j.a.posted = [] ∧ (s.stageMost 0 j (ps.zip (l.map Prod.snd))).2 = [])
        | .error _ => false,
    (bench .a id).stageable (benchJob .a) ⟨0x2000, 0x2000, 0⟩, !(bench .a id).stageable (benchJob .a) ⟨hostBase, 0x2000, 1⟩].all id = true := by
  decide +kernel

theorem witness_GlobalAccesses_ggath : [
    meets .a (indexed [0]) (.ggath .w32 4 (.reg 1) (.q 3) 0)
      fun s j =>
        let g := gatherAddrs j .w32 (.reg 1) (.q 3)
        match s.pieces 0 j .read 4 (g.2.filterMap id) with
        | .ok ps => (ps.all fun p => !j.mustWait 0 true true p.pa 4) && (match s.loadElems 0 j 4 ps with
          | .ok _ _ => true
          | _ => false)
        | .error _ => false].all id = true := by
  decide +kernel

theorem witness_Atomics : [
    meets .a atPage (.aamo .add (.reg 2) (.reg 1) .die .acqrel true 0) fun s j => pieceOk s j .atomic 8 &&
      !j.mustWait 0 false true 0x2000 8 && s.live j.ctx && decide (s.stagedOf j = [] ∧ SMap.find s.lines 64 = some benchLine ∧
        benchLine.ctx = j.ctx ∧ benchLine.poison = none ∧ (s.touch 0x2000).writeGate j.ctx 0x2000 = .ready) &&
        (match (s.touch 0x2000).escape 0 j with
          | .go s1 => decide (s1.writeGate j.ctx 0x2000 = .ready)
          | _ => false),
    meets .a atPage (.aswp (.reg 2) (.reg 1) .system .rlx false 0) fun s j => pieceOk s j .atomic 4,
    meets .a (fun j => setA 2 0x01010101 (atPage j)) (.acas (.reg 2) (.reg 1) .die .rlx false 0) fun s j => pieceOk s j .atomic 4 &&
      decide (natOfBytes (bytesOfNat 4 (onesRow.toNat / 2 ^ (8 * 0))) =
        (srcA j (.acas (.reg 2) (.reg 1) .die .rlx false 0) 1).toNat % 2 ^ 32),
    meets .a atPage (.acas (.reg 2) (.reg 1) .die .rlx false 0) fun _ j =>
      decide (natOfBytes (bytesOfNat 4 (onesRow.toNat / 2 ^ (8 * 0))) ≠
        (srcA j (.acas (.reg 2) (.reg 1) .die .rlx false 0) 1).toNat % 2 ^ 32),
    meets .a (setA 1 8) (.samo .maxn (.reg 2) (.reg 1) .device .acq true) fun s j =>
      decide (s.localGate 0 j (srcA j (.samo .maxn (.reg 2) (.reg 1) .device .acq true) 0).toNat 8 8 false true false = .at_ 0 8)].all id
        = true := by
  decide +kernel

/-- One register of V's or M's scalars. -/
def setT (n : Fin 32) (x : W32) (j : Job) : Job :=
  { j with v := { j.v with s := j.v.s.set n.val x n.isLt }, m := { j.m with s := j.m.s.set n.val x n.isLt } }

theorem witness_VectorDelivery : [
    decide (127 < ElemT.s8.count ∧ 511 < ElemT.t2.count), (benchJob .v).v.mask.getLsbD 7, !(benchJob .v).v.mask.getLsbD 8,
    decide (8 ≤ ElemT.n8.width ∧ ElemT.t2.width < 8)].all id = true := by
  decide +kernel

theorem witness_VectorForms : [
    ElemT.f.isFlt, !ElemT.n32.isFlt, decide (ElemT.e4 ≠ .t2), decide (VCond.le ≠ .un), decide (ElemT.f.isFlt ∧ RedOp.add = .add),
    decide ((jobOf (bench .v fun j => { j with v := { j.v with masks := [] } })).v.mask = BitVec.allOnes 128)].all id = true := by
  decide +kernel

theorem witness_MasksMatchAndMoves : [
    meets .v (fun j => { j with v := { j.v with masks := List.replicate 7 0xFF } }) (.vmpush t0 (.reg 1) .n8) any,
    meets .v id (.vminv t0) fun _ j => decide (j.v.masks = 0xFF :: []),
    meets .v id (.vmpop t0) any, meets .v (fun j => { j with v := { j.v with masks := [] } }) (.vmpop t0) any,
    meets .v (fun j => { j with v := { j.v with masks := [0] } }) (.vskip t0 1) any,
    meets .v id (.vmatch t0 (.reg 1) (.reg 2) (.reg 3) .n32) any,
    meets .v id (.vmov t0 (.reg 1) 0) fun s j => !j.walkWrites 0 && decide ((wantAddrs (vmovWants s 0 j 0)).map Prod.snd = [0]),
    meets .v id (.vmov t0 (.reg 1) 1) fun s j => j.walkWrites 1 && decide ((wantAddrs (vmovWants s 0 j 1)).map Prod.snd = [0x100000]),
    meets .v id (.vmov t0 (.q 3) 1) fun _ j => j.walkWrites 1].all id = true := by
  decide +kernel

/-- M's register 1 holds `x`. -/
def withM (x : W32) (j : Job) : Job := setT 1 x j

/-- An instruction of M is in turn and ready, and one source lies in a range. -/
def readyM (f : Job → Job) (i : Instr) (n lo hi : Nat) : Bool :=
  let s := bench .m f
  let j := jobOf s
  let x := ((argAt (sourcesOf j .m i) n).scalar 32 (j.reg .m)).toNat
  decide (s.turn = .eng 0 .m ∧ preciseFault s 0 j .m i = none ∧ timedReady s 0 j i = .ok ∧ lo ≤ x ∧ x ≤ hi)

theorem witness_MatrixConfiguration : [
    meets .m (withM 1) (.tshape t0 (.reg 1) (.reg 1) (.reg 1)) fun _ j =>
      decide (((argAt (sourcesOf j .m (.tshape t0 (.reg 1) (.reg 1) (.reg 1))) 2).scalar 32 (j.reg .m)).toNat = 1),
    meets .m (withM 64) (.tshape t0 (.reg 1) (.reg 1) (.reg 1)) any, readyM (withM 65) (.tshape t0 (.reg 1) (.reg 1) (.reg 1)) 2 65 65,
    readyM id (.tshape t0 (.reg 1) (.reg 1) (.reg 1)) 0 0 0, meets .m (withM 0x3000) (.tcfg t0 (.reg 1) 1) any,
    meets .m (withM 0x01000004) (.tcfg t0 (.reg 1) 0) fun _ j =>
      let x := ((argAt (sourcesOf j .m (.tcfg t0 (.reg 1) 0)) 0).scalar 32 (j.reg .m)).toNat
      !j.twinWait && decide (x / 2 ^ 24 ≠ 0 ∧ x / 4 % 4 = 1),
    meets .m (withM 0x00000008) (.tcfg t0 (.reg 1) 0) fun _ j =>
      let x := ((argAt (sourcesOf j .m (.tcfg t0 (.reg 1) 0)) 0).scalar 32 (j.reg .m)).toNat
      !j.twinWait && decide (x / 2 ^ 24 = 0 ∧ x / 4 % 4 = 2),
    meets .m (withM 7) (.tcfg t0 (.reg 1) 2) any, meets .m (withM 7) (.tcfg t0 (.reg 1) 3) any, meets .m id (.tzero t0 7) any].all id
      = true := by
  decide +kernel

/-- The least shape; banks 0 and 8 of these formats. -/
def small (f g : W32) (j : Job) : Job :=
  { j with m := { j.m with shapeM := 1, shapeN := 1, shapeK := 1 }, tfmt := ((Vector.replicate 32 0).set 0 f).set 8 g }

/-- A reduction issues and has a kind. -/
def startsB (f g : W32) (i : Instr) (k : AccKind) : Bool :=
  meets .m (small f g) i fun s j => decide (needKind (j.issuing .m i) i (mWindow s 0 (j.issuing .m i) i).wants = some k)

theorem witness_ReductionsIssue : [
    startsB 0 0 (.tmma t0 1 0 2 true) .int, startsB 7 7 (.tmma t0 1 0 2 false) .flt,
    startsB 0x00080089 0x000C0089 (.tmmax t0 7 0 2 true) .flt, startsB 11 0 (.tmmat t0 0 0 2 false) .int,
    startsB 6 6 (.tmmas t0 1 0 2 4 true) .flt].all id = true := by
  decide +kernel

/-- A reduction in flight of the least shape, with its two rows of bytes of 1 read. -/
def benchFlight (i : Instr) : MFlight :=
  { instr := i, pc := 0, left := 1, accs := [⟨0, some 0, 0, none, some onesRow⟩, ⟨0, some 2, 0x80000, none, some onesRow⟩],
    shape := (1, 1, 1), cfg := #v[0x40000004, 0x00000008, 0x3F800000, 0], fmts := Vector.replicate 32 0, flags := 0, bad := none }

theorem witness_ReductionSums : [
    (let f := benchFlight (.tmma t0 1 0 2 true)
     !(f.typeOf (f.rows (some 0))).isFlt && !(f.typeOf (f.rows (some 0))).isFp8 && !(f.typeOf (f.rows (some 2))).isFp8
       && decide (0 / 64 < f.shape.1 ∧ 0 % 64 < f.shape.2.1 ∧ ¬ 4095 / 64 < f.shape.1))].all id = true := by
  decide +kernel

/-- TRETQ's output type .E4. -/
def quants (j : Job) : Job := let k := small 0 0 j; { k with m := { k.m with tcfg := k.m.tcfg.set 1 9 } }

/-- Core 0 holds a fault of the epilogue's arithmetic. -/
def struck (s : State) : State := s.setCore 0 { s.core 0 with latent := [.epilogue 0] }

theorem witness_Retirements : [
    meets .m (small 0 0) (.tret t0 1 1 true) any, meets .m (small 0 0) (.tret t0 1 1 false) any,
    (let s := struck (bench .m (small 0 0))
     issuesB s .m (.tret t0 1 1 true) && (s.core 0).faulty inEpilogue && decide ((jobOf s).prof ≠ 2)),
    !((bench .m (small 0 0)).core 0).faulty inEpilogue, meets .m quants (.tretq t0 1 1 false) any, meets .m id (.tspill t0 1 1) any, meets .m id (.tfill t0 1 0) any].all id = true := by
  decide +kernel

theorem witness_MatrixMovesAndStatus : [
    meets .m (fun j => { j with m := j.m.setAcc 1 { j.m.accAt 1 with kind := .int } }) (.tacc t0 1 0) fun _ j =>
      decide ((j.m.accAt 1).kind = .int),
    meets .m (withM 32767) (.tchk t0 (.reg 2) (.reg 1) 3) fun _ j =>
      decide (((argAt (sourcesOf j .m (.tchk t0 (.reg 2) (.reg 1) 3)) 0).scalar 32 (j.reg .m)).toNat < 32768),
    readyM (withM 32768) (.tchk t0 (.reg 2) (.reg 1) 3) 0 32768 32768, readyM (withM 32768) (.tchk t0 (.reg 2) (.reg 1) 7) 0 32768 32768,
    meets .m (withM 32767) (.tchk t0 (.reg 2) (.reg 1) 7) any,
    [0, 1, 2, 4, 5, 6].all fun f => meets .m id (.tchk t0 (.reg 2) (.reg 1) f) any].all id = true := by
  decide +kernel

/-- The bench of C with its job changed. -/
def cBench (f : Job → Job) : State := bench .c f

theorem witness_HoldsTrapsAndHandler : [
    (let s := cBench fun j => { j with hold := true }
     (jobOf s).hold && !s.holdStays 0 (jobOf s)),
    !(jobOf (cBench id)).hold,
    (let s := cBench fun j => { j with hold := true }
     decide (s.members 0 (jobOf s) = [0]) && (s.holders 0 (jobOf s)).contains 0),
    (let j := jobOf (cBench fun j => { j with c := { j.c with pwrap := true, ppre := true, vec := 0x101, cmp := none } })
     j.asyncDue && !j.atStop && decide (j.c.vec.toNat % 2 = 1) && j.c.pwrap),
    (let j := jobOf (cBench fun j => { j with c := { j.c with ppre := true, vec := 1, cmp := none } })
     j.asyncDue && !j.c.pwrap && j.c.ppre),
    (let j := jobOf (cBench fun j => { j with c := { j.c with pflag := true, vec := 1, cmp := none } })
     j.asyncDue && !j.c.pwrap && !j.c.ppre),
    (let j := jobOf (cBench fun j => { j with c := { j.c with pflag := true, cmp := none } })
     j.asyncDue && decide (j.c.vec.toNat % 2 = 0))].all id = true := by
  decide +kernel

theorem witness_EndOfCycle : [
    decide (coreIsl 0 = 0) && ((islCores 0).all fun d => decide (d = 0) || ((cBench id).job d).isNone),
    decide ((cBench id).members 0 (jobOf (cBench id)) = [0]),
    (let j := jobOf (cBench id)
     !j.deadlocked && decide (j.raised = [] ∧ j.v.pend = [] ∧ j.m.pend = [])),
    !(cBench id).heldEnd 0 (jobOf (cBench id)),
    (let s := cBench fun j => { j with hold := true, hasV := true }
     s.heldEnd 0 (jobOf s) && !(jobOf s).atStop),
    (let s := cBench fun j => { j with hold := true, hasV := true, stopping := true }
     s.heldEnd 0 (jobOf s) && (jobOf s).atStop)].all id = true := by
  decide +kernel

/-- Lines of context 0 with translation tables that map the first GiB onto itself, for every kind of access. -/
def tables : SMap Line := [(0x30000 / 128, { benchLine with data := 0x31001 }), (0x31000 / 128, { benchLine with data := 0x1F })]

/-- The bench with those tables named by the descriptor of context 0. -/
def mapped (s : State) : State :=
  { s with mem := Memory.writeBytes [] 0x10000 (bytesOfNat 32 (2 ^ 88 + 0x30001)), lines := s.lines ++ tables }

/-- A job at its stop take with nothing under way. -/
def atEnd (j : Job) : Job := { j with stopping := true, c := { j.c with wait := .final, cmp := none } }

/-- Every stream of the job has ended. -/
def finals (j : Job) : Job :=
  { atEnd j with a := { j.a with wait := .final }, v := { j.v with wait := .final }, m := { j.m with wait := .final } }

/-- The bench's card changed. -/
def withCard (f : Card → Card) (s : State) : State := s.setCard 0 0 (f benchCard)

theorem witness_StopsAndWaits : [
    (let s := { cBench id with halts := [(0, [0, 1])] }
     s.halts.any fun h => decide (h.1 = (jobOf s).ctx) && h.2.contains 0),
    (let j := jobOf (cBench atEnd)
     j.still && (cBench atEnd).live j.ctx && decide (j.m.flights = [])),
    decide ((cBench id).halts = [] ∧ State.reset.job 5 = none),
    (let j := jobOf (bench .m finals)
     j.still && j.hasM && !j.stopFails),
    (let j := jobOf (bench .m fun j => { finals j with m := { (finals j).m with
        unchk := 1, acc := j.m.acc.set 0 { Acc.init with kind := .int, ck := [(0, 1)] } } })
     j.still && j.hasM && j.stopFails)].all id = true := by
  decide +kernel

/-- The bench with its card to be saved from `base` on. -/
def saving (base : Nat) (cs : List CoreId) (s : State) : State :=
  withCard (fun x => { x with phase := .saving, cores := cs, save := base }) s

set_option maxRecDepth 100000 in
theorem witness_Saves : [
    (let s := saving 0x400000 [] (cBench atEnd)
     s.live 0 && (match (s.card 0 0).map fun x => s.saveAll x x.cores with
      | some (.ok _) => true
      | _ => false)),
    (let s := saving 0x400000 [0] (cBench atEnd)
     match (s.card 0 0).map fun x => s.saveAll x x.cores with
      | some (.error (0, .fail _ _)) => true
      | _ => false),
    (let s := saving 0x400000 [0] { mapped (cBench atEnd) with lines := [] }
     match (s.card 0 0).map fun x => s.saveAll x x.cores with
      | some (.error (_, .wait _)) => true
      | _ => false)].all id = true := by
  decide +kernel

/-- A queued card that waits for capacity since time 0. -/
def waitingCard (x : Card) : Card := { x with phase := .queued, cores := [], capSince := some 0, readySince := some 0, launched := false }

/-- The bench with a card in place of its own, and no job. -/
def idleBench (f : Card → Card) : State := withCard f { bench .c id with cores := State.reset.cores }

theorem witness_CardWaits : [
    (let s := idleBench waitingCard
     decide ((s.card 0 0).map (fun x => (x.capSince, x.capWait)) = some (some 0, 0)) && decide (0 + 1000 * 0 ≤ s.time) &&
       s.unlaunched 0 0 && s.cardReady (waitingCard benchCard) && !s.flagBar 0 && decide (s.promotedOrder 0 = [])),
    (let s := idleBench fun x => { waitingCard x with raw := x.raw + 2 ^ 832 }
     decide ((s.card 0 0).map (fun x => x.capWait) = some 1) && decide (s.time < 0 + 1000 * 1)),
    (let s := cBench fun j => { j with c := { j.c with wait := .phase 0 3 } }
     decide ((jobOf s).c.wait = .phase 0 3) && !(jobOf s).trapped .c && decide (0 + 1000 * (jobOf s).capwait ≤ s.time)),
    (let s := cBench fun j => { j with capwait := 1, c := { j.c with wait := .phase 0 3 } }
     decide (s.time < 0 + 1000 * (jobOf s).capwait)),
    decide (0 + 100000 ≤ ({ cBench id with time := 100000 } : State).time)].all id = true := by
  decide +kernel

/-- A launch record at page 2: one range of one page, with its COUNT as given. -/
def recordLine (n : Nat) : Row := BitVec.ofNat 1024 (n + 2 ^ 128 * (0x2000 + 2 ^ 64 * 1))

/-- A queued card with that record, of which `l` is to be done. -/
def recorded (l : Option (List RecEnt)) (x : Card) : Card :=
  { waitingCard x with raw := x.raw + 2 ^ 704 * 0x2000, recEnts := l }

/-- The bench with that card and record. -/
def recording (n : Nat) (l : Option (List RecEnt)) : State :=
  let s := idleBench (recorded l)
  { mapped s with lines := (64, { benchLine with data := recordLine n }) :: tables }

/-- One page at page 2. -/
def onePage (act : Nat) : RecEnt := { base := 0x2000, pages := 1, action := act }

set_option maxRecDepth 100000 in
theorem witness_LaunchRecord : [
    (let s := recording 1 none
     decide ((s.card 0 0).map (fun x => (x.launchRec, x.readySince, x.recordDone, x.recEnts)) = some (0x2000, some 0, false, none)) &&
       (match s.readRecord (recorded none benchCard) with
        | .entries l => decide (l = [onePage 0])
        | _ => false)),
    (match (recording 0 none).readRecord (recorded none benchCard) with
      | .bad => true
      | _ => false),
    (let s := recording 1 (some [onePage 0])
     decide (s.cluPart 0 = some 0 ∧ (s.card 0 0).bind (fun x => x.recEnts) = some [onePage 0]) &&
       ((s.cluster 0).walks.toList.any fun v => v.isNone) && (match s.walkTables 0 0x2000 with
        | .leaf t => [0, 1, 2].all fun k => ((s.walkUsed 0 0x2000).recLeaf 0 0 0 0 (onePage k) t).isSome
        | _ => false)),
    (match (idleBench (recorded (some [onePage 0]))).walkTables 0 0x2000 with
      | .stop z => decide (z = ⟨0, 3⟩)
      | _ => false)].all id = true := by
  decide +kernel

theorem witness_DispatchAndLaunch : [
    (let s := (idleBench fun x => { waitingCard x with phase := .running }).markReady 0
     (s.cluPart 0).isSome && decide (s.readyCards 0 = [] ∧ s.promotedOrder 0 = [] ∧ s.coreFree 3 = true ∧ (s.cluster 0).idleSince = none)),
    (let s := (idleBench waitingCard).markReady 0
     decide (s.roundOrder 0 = [0] ∧ s.promotedOrder 0 = [] ∧ s.flagBar 0 = false ∧ s.coreFree 0 = true) &&
       !(((s.tryCard 0 0).noteLaunch s 0 0).idleCluster 0)),
    (let b := idleBench waitingCard
     let s := ({ b with cores := b.cores.map fun c => { c with selfTest := true } } : State).markReady 0
     decide (s.roundOrder 0 = [0] ∧ s.promotedOrder 0 = []) && (cluCores 0).all fun c => !s.coreFree c),
    (let s := (idleBench waitingCard).markReady 0
     (s.card 0 0).isSome && s.unlaunched 0 0),
    (let s := { idleBench waitingCard with time := 19990 * 1 }
     let f := s.setIsland 0 { s.island 0 with flagged := true }
     (f.markReady 0).flagBar 0 && !(f.markReady 0).idleCluster 0),
    (let s := idleBench waitingCard
     s.recordOver (waitingCard benchCard) && (waitingCard benchCard).page.isNone && (match s.consider 0 0 (waitingCard benchCard) with
      | .ok _ _ => true
      | _ => false))].all id = true := by
  decide +kernel

/-- Bytes at page 2, as lines of context 0. -/
def withPage (bs : List Byte) (s : State) : State :=
  { s with lines := (List.range ((bs.length + 127) / 128)).map (fun k =>
      (64 + k, { benchLine with data := BitVec.ofNat 1024 (natOfBytes ((bs.drop (128 * k)).take 128)) })) ++ tables }

/-- A card whose job descriptor is at page 2. -/
def launchCard (x : Card) : Card := { waitingCard x with raw := x.raw + 2 ^ 576 * 0x2000, vars := some (Vector.replicate 8 none) }

/-- A descriptor of a job with C alone at 0x1000. -/
def goodDesc : List Byte := withCrc (bytesOfNat 316 (1 + 2 ^ 16 + 2 ^ 64 * 0x1000))

/-- Island 0 at level 0, where each of its cores has one row fewer than the greatest profile needs. -/
def tight (s : State) : State :=
  { s.setIsland 0 { s.island 0 with level := 0 } with
    cores := s.cores.map fun c => { c with grades := (List.range 33).map fun k => (31 * 544 + k, 4) } }

set_option maxRecDepth 100000 in
theorem witness_Launches : [
    (let s := withPage (List.replicate 320 0) (mapped (idleBench launchCard))
     decide ((launchCard benchCard).jobDesc = 0x2000 ∧ (launchCard benchCard).phase = .queued ∧ s.cluPart 0 = some 0) &&
       (match s.cardRead 0 0 (launchCard benchCard) 0x2000 5 with
        | .data bs => !descOk bs
        | _ => false)),
    (let s := idleBench launchCard
     match s.fit 0 (launchCard benchCard) with
     | .go cs _ _ => decide (cs = [0])
     | _ => false),
    (let s := idleBench launchCard
     decide ((s.setIsland 0 { s.island 0 with bal := -1 }).fit 0 (launchCard benchCard) = .budget)),
    (let s := idleBench launchCard
     decide (({ s with cores := s.cores.map fun c => { c with selfTest := true } } : State).fit 0 (launchCard benchCard) = .cores)),
    (let s := tight (idleBench launchCard)
     decide (s.fit 0 { launchCard benchCard with raw := (launchCard benchCard).raw + 2 ^ 320 * 0xC0C0C0C0 } = .capacity))].all id = true := by
  decide +kernel

set_option maxRecDepth 100000 in
theorem witness_Launches_good : [
    (let s := withPage goodDesc (mapped (idleBench launchCard))
     (match s.cardRead 0 0 (launchCard benchCard) 0x2000 5 with
        | .data bs => descOk bs
        | _ => false) && !isTwin (s.island (cluIsl 0)).level && !(launchCard benchCard).fuse && !(s.island (coreIsl 0)).flagged),
    (let s := withPage (withCrc (bytesOfNat 316 (1 + 2 ^ 16 * 9 + 2 ^ 64 * 0x1000))) (mapped (idleBench launchCard))
     let t := s.setIsland 0 { s.island 0 with level := 5 }
     (match t.cardRead 0 0 (launchCard benchCard) 0x2000 5 with
        | .data bs => descOk bs && descHas (natOfBytes bs) .m
        | _ => false) && isTwin (t.island (cluIsl 0)).level)].all id = true := by
  decide +kernel

/-- Every stream of the bench's job has ended, at time 0. -/
def endedBench (f : Card → Card) : State :=
  withCard (fun x => f { x with ended := some 0 }) (bench .c fun j => { j with c := { j.c with wait := .final } })

/-- A staged write at an address. -/
def stagedAt (pa : Nat) (x : Card) : Card := { x with staged := [⟨pa, pa, [1]⟩] }

theorem witness_CardRetirement : [
    (let s := endedBench id
     (jobOf s).ended && s.live 0 && decide (benchCard.phase = .running ∧ benchCard.cores = [0]) && (s.firstUnready 0 []).isNone &&
       s.retiresNext { benchCard with ended := some 0 }),
    (let s := endedBench fun x => { x with ended := some 1 }
     let t := s.setCluster 0 { s.cluster 0 with cards := (s.cluster 0).cards ++ [(1, { benchCard with ended := some 0 })] }
     (t.allCards.any fun e => decide (e.2.2.phase = .running ∧ e.2.2.ended = some 0) && t.live e.2.2.ctx) &&
       !t.retiresNext { benchCard with ended := some 1 }),
    (let s := endedBench (stagedAt 0x2000)
     (s.firstUnready 0 (stagedAt 0x2000 benchCard).staged).isNone),
    (let s := endedBench (stagedAt 0x2080)
     match s.firstUnready 0 (stagedAt 0x2080 benchCard).staged with
     | some (_, .fill _) => true
     | _ => false),
    (let s := { endedBench (stagedAt 0x3000) with sealMeta := [(3, { tag := 0, ver := 1, state := 1, kgen := 1, ctx := 9 })] }
     match s.firstUnready 0 (stagedAt 0x3000 benchCard).staged with
     | some (_, .fail _) => true
     | _ => false),
    ((endedBench id).original benchCard).isNone, decide (({ benchCard with raw := 0, ssem := some 5 } : Card).decCtr = some 0)].all id = true := by
  decide +kernel

/-- A command window with these registers. -/
def withWin (w : CmdWin) (j : Job) : Job := { j with win := #v[w, CmdWin.init] }

/-- A good command: one line of 256 bytes within the scratchpad. -/
def goodWin : CmdWin := { cmd := #v[0, 0x1000, 0x0001000001001000, 0xC00], tag := 0, err := 0, rej := 255 }

/-- The command of `goodWin` in the queue of copy engine 0. -/
def queuedCopy (n : Nat) (j : Job) : Job :=
  { j with copies := #v[List.replicate n (blankCmd goodWin.cmd), []] }

theorem witness_CopyWindow : [
    (let s := bench .a (queuedCopy 4)
     decide (4 ≤ ((jobOf s).copiesOf 0).length)),
    (let s := bench .a fun j => withWin goodWin (queuedCopy 3 j)
     decide (((jobOf s).copiesOf 0).length < 4 ∧ s.copyCode 0 (jobOf s) ((jobOf s).winAt 0) 0xFFFF = 0) &&
       !(jobOf s).goWaits 0 (copyFields ((jobOf s).winAt 0).cmd)),
    (let s := bench .a fun j => withWin goodWin { j with a := { j.a with posted := [.scratch 0 0 [1] 5 0 0] } }
     (jobOf s).goWaits 0 (copyFields ((jobOf s).winAt 0).cmd)),
    (let s := bench .a (withWin goodWin)
     decide (s.copyCode 0 (jobOf s) ((jobOf s).winAt 0) 0x10000 = 3 ∧ ((jobOf s).winAt 0).rej = 255)),
    decide ((0 : W64).toNat / 2 ^ 40 = 0), decide (2 ^ 32 ≤ (0xFFFFFFFFFF000000 : W64).toNat / 2 ^ 40 * ((0xFFFFFFFFFF000000 : W64).toNat / 2 ^ 24 % 2 ^ 16)),
    (let x : W64 := 0x0001000001001001
     decide (x.toNat / 2 ^ 40 ≠ 0 ∧ x.toNat / 2 ^ 24 % 2 ^ 16 ≠ 0 ∧ x.toNat % 2 ^ 21 % 32 ≠ 0)),
    (bench .a id).rowUsable 0 0x1000].all id = true := by
  decide +kernel

/-- A command from page 2 into the scratchpad, or of page 3, which has no translation. -/
def fromPage (src : W64) (started : Bool) (cur : Nat) (j : Job) : Job :=
  { j with copies := #v[[{ blankCmd #v[src, 0x1000, 0x0000800001001000, 0x400] with cur, started, xl := [benchEnt 2 false] }], []] }

/-- What the addresses of the oldest command on engine 0 give. -/
def headXl (s : State) : XlStep :=
  match (jobOf s).headCopy 0 with
  | some x => s.xlAll 0 (jobOf s) 0 (copyPlaces (copyFields x.cmd)) x.xl
  | none => .fault .protection 0

/-- Engine 0 may start the oldest command, which is not denied. -/
def mayStart (s : State) : Bool :=
  s.copyLive (jobOf s) && !(jobOf s).atStop && ((jobOf s).copyDenied 0).isNone && ((jobOf s).headCopy 0).any fun x => !x.started

/-- A command from the scratchpad to this address. -/
def toPage (dst : W64) (j : Job) : Job := { j with copies := #v[[blankCmd #v[0x1000, dst, 0x0000800001001000, 0x800]], []] }

/-- A started command from the scratchpad to the scratchpad: one line of 256 bytes from 0 to 0x400, of which `cur` are done. -/
def localCopy (cur : Nat) (j : Job) : Job :=
  { j with copies := #v[[{ blankCmd #v[0, 0x400, 0x0001000001001000, 0xC00] with cur, started := true }], []] }

theorem witness_CopyEngines : [
    (let s := bench .a (fromPage 0x2000 false 0)
     mayStart s && (match headXl s with
      | .ok _ => true
      | _ => false)),
    (let b := bench .a (fromPage 0xFFFFFFFFF000 false 0)
     let s : State := { b with cores := b.cores.map fun c => { c with tlb := [{ benchEnt 2 false with vpage := 0xFFFFFFFFF, rd := false }] } }
     mayStart s && (match headXl s with
      | .fault k va => decide (k = .protection ∧ va = 0xFFFFFFFFF000)
      | _ => false)),
    (let s := bench .a (toPage 0x1000)
     mayStart s && (match headXl s with
      | .fault k va => decide (k = .protection ∧ va = 0x1000)
      | _ => false)),
    (let s := bench .a (toPage 0x5000)
     mayStart s && (match headXl s with
      | .miss a va _ => decide (a = .write ∧ va = 0x5000) && ((jobOf s).copyPage 0 va).isNone
      | _ => false)),
    (let s := bench .a fun j => { fromPage 0x2000 false 0 j with
        pages := [{ user := .copy 0, va := 0x2000, tag := none, fails := 5, denied := some .pageDenied }] }
     s.copyLive (jobOf s) && !(jobOf s).atStop && decide ((jobOf s).copyDenied 0 = some (.pageDenied, 0x2000))),
    (let s := bench .a fun j => { fromPage 0x2000 false 0 j with
        pages := [{ user := .eng .a, va := 0, tag := some 1, fails := 0, denied := none }] }
     s.copyHeld 0 (jobOf s) && decide ((jobOf s).copyDenied 0 = none) && ((jobOf s).headCopy 0).any fun x => !x.begun),
    (let s := bench .a (fromPage 0x2000 false 0)
     !s.copyHeld 0 (jobOf s)),
    (let s := bench .a (localCopy 0)
     decide (s.copyTurn (coreClu 0) 0 = some 0) && !s.yieldsAt 0 0 && (match (jobOf s).headCopy 0 with
      | some x => (copyFields x.cmd).srcl && (copyFields x.cmd).dstl && decide ((copyFields x.cmd).lines = 1 ∧
        (copyFields x.cmd).len = 256 ∧ x.srcFmt = x.dstFmt ∧ x.peer = none)
      | none => false)),
    (let s := bench .a (fromPage 0x2000 false 0)
     decide (s.copyTurn (coreClu 0) 0 ≠ some 0)),
    decide (256 * 1 ≤ 0 + 256 ∧ 0 + 255 < 256 * 1),
    (let s := bench .a fun j => { j with a := { j.a with copyFault := some { e := 0, cause := .protection, addr := 1 } } }
     (jobOf s).a.copyFault.isSome && (jobOf s).copyDue)].all id = true := by
  decide +kernel

/-- C stands at a compared command (END 1, at page 1) that it reached 8 cycles ago. -/
def comparing (chk : CArch) (third : Option ThirdRun) (cyc : Nat) : State :=
  let s := bench .c fun j => { j with cyc, c := { j.c with cmp := some { reach := 0, stalled := false, agreed := false }, chk, third } }
  { s with lines := [(0x1000 / 128, { benchLine with data := 0xA0000001 })] }

/-- C's state with register 1 changed by these bits. -/
def otherArch (x : W32) : CArch := flipReg 1 x (benchJob .c).c.arch

/-- C at `bp` on p0, at page 1, with p0's checker copy as given. -/
def sigging (chk : CArch) : State :=
  let s := comparing chk none 8
  { s with lines := [(0x1000 / 128, { benchLine with data := 0x9C000405 })] }

/-- A third run of a command, or of a digest, that has come to a state. -/
def endRun (arch : CArch) (command : Bool) : ThirdRun := { wait := 0, todo := [], arch, ins := [], command }

theorem witness_Comparison : [
    (let s := comparing (benchJob .c).c.arch none 8
     s.live 0 && decide ((jobOf s).c.third = none ∧ (jobOf s).c.trail = []) && (match s.instrAt 0 (jobOf s) 0x1000 with
      | some i => (jobOf s).agrees i && (unready s 0 (jobOf s) i).isNone
      | none => false)),
    (let s := sigging (otherArch 1)
     match s.instrAt 0 (jobOf s) 0x1000 with
      | some i => !(jobOf s).agrees i && (unready s 0 (jobOf s) i).isNone
      | none => false),
    decide ((jobOf (comparing (otherArch 1) none 7)).cyc < 0 + 8),
    decide ((jobOf (comparing (benchJob .c).c.arch none 8)).c.chk = (jobOf (comparing (benchJob .c).c.arch none 8)).c.arch),
    (let x := { endRun (otherArch 1) true with wait := 1 }
     !x.over && decide (x.wait ≠ 0)),
    (let st : CStep := { pc := 0x1000, act := .instr (.nop t0), due := 8 }
     let x : ThirdRun := { endRun (otherArch 1) true with todo := [st] }
     !x.over && !st.tail && decide (x.wait = 0 ∧ x.todo = [st])),
    (let st : CStep := { pc := 0x1000, act := .finish (.nop t0), due := 8 }
     st.tail && !({ endRun (otherArch 1) true with wait := 4, todo := [st] } : ThirdRun).over),
    (let s := comparing (otherArch 1) (some (endRun (otherArch 1) false)) 16
     match (jobOf s).c.third with
      | some x => x.over && !x.command && decide (x.arch ≠ (jobOf s).c.primary x ∧ x.arch = (jobOf s).c.chk)
      | none => false),
    (let s := comparing (otherArch 1) (some (endRun (benchJob .c).c.arch true)) 16
     s.live 0 && (match (jobOf s).c.third with
      | some x => x.over && x.command && decide (x.arch = (jobOf s).c.arch ∧ (jobOf s).c.arch ≠ (jobOf s).c.chk)
      | none => false)),
    (let s := comparing (otherArch 1) (some (endRun (benchJob .c).c.arch false)) 16
     match (jobOf s).c.third with
      | some x => x.over && !x.command && decide (x.arch = (jobOf s).c.primary x)
      | none => false),
    (let s := comparing (otherArch 1) (some (endRun (otherArch 2) true)) 16
     match (jobOf s).c.third with
      | some x => x.over && !(jobOf s).c.resolved x
      | none => false)].all id = true := by
  decide +kernel

theorem witness_FaultsAndCoreResets : [
    decide (((bench .c id).core 0).pendDem = []),
    !((bench .c id).core 0).mustDefer ((bench .c id).level 0) 31 543 (Min.min (((bench .c id).core 0).grade 31 543 + 2) 15),
    (let s := bench .c id
     !s.yieldsAt 0 (31 * 65536) && !((s.demote 0 31 543).core 0).belowFloor 14),
    (let s := bench .v fun j => { j with claims := [(0, groupOf 0, .v)] }
     s.yieldsAt 0 0),
    decide (8 ≤ State.reset.hostAllow), decide (({ State.reset with hostAllow := 7 } : State).hostAllow < 8),
    (let j := jobOf (bench .c id)
     decide (j.prof = 0)),
    ((bench .c id).job 0).isSome && decide (strikeCell .inh (benchJob .c).c.arch ≠ (benchJob .c).c.arch ∧
      strikeCell (.pc 4) (benchJob .c).c.arch ≠ (benchJob .c).c.arch),
    decide (State.reset.job 127 = none), (State.reset.protector 0 3 7).isNone,
    ((State.reset.setCore 0 { State.reset.core 0 with selfTest := true }).core 0).selfTest].all id = true := by
  decide +kernel

/-- An island with a step to a level. -/
def stepping (n l : Nat) : State :=
  let s := State.reset
  s.setIsland 0 { s.island 0 with level := n, step := some { target := l, since := 0 }, evacSince := some 0 }

theorem witness_Governor : [
    decide (State.reset.sumWeight ≠ 0), decide ((0 : Int) ≤ (State.reset.island 0).bal ∧ 93 + 1 < (State.reset.island 0).tlim),
    decide ((State.reset.island 0).tlim ≤ 94 + 1), decide (State.reset.job 5 = none),
    decide ((stepping 6 4).island 0).evacSince.isSome && decide (0 + 50000 ≤ ({ stepping 6 4 with time := 50000 } : State).time),
    decide ((stepping 6 4).time < 0 + 50000),
    decide (State.reset.stage ≠ .ready), decide (({ State.reset with stage := .ready } : State).stage = .ready),
    decide (isTwin 8 = false ∧ 6 ≤ 8), decide (isTwin 4 = false ∧ 4 < 6 ∧ (stepping 6 4).refuses 0 4 = false ∧ (stepping 6 4).floorLevel 0 ≤ 4),
    (let b := bench .v fun j => { j with claims := [(0, groupOf 0, .v)] }
     let s := b.setCore 0 { b.core 0 with grades := [(0, 6)] }
     s.moveYields 0 4 0 && !(stepping 6 4).moveYields 0 4 0),
    (let s := stepping 6 4
     decide (s.pendingDemotion 0 = false) && (s.setCore 0 { s.core 0 with pendDem := [(0, 1)] }).pendingDemotion 0),
    (let s := State.reset
     let t := s.setIsland 0 { s.island 0 with level := 5 }
     decide (isTwin (t.island 0).level = true ∧ t.twinOk 0 = false ∧ (t.island 0).step = none)),
    (let s := State.reset
     let t := s.setIsland 0 { s.island 0 with droop := true }
     (t.island 0).droop && !(s.island 0).droop && decide (s.now = [] ∧ (s.monitors[1]).sel = 15)),
    (let s : State := { stepping 6 0 with cores := State.reset.cores.map fun c => { c with grades := (List.range 65).map fun k => (544 + k, 4) } }
     decide (isTwin 0 = false ∧ 0 < s.floorLevel 0)),
    decide (isTwin 5 = true ∧ (stepping 6 5).twinOk 0 = false)].all id = true := by
  decide +kernel

/-- A walk in flight for A's access to page 2. -/
def flight : WalkFlight := { ctx := 0, va := 0x2000, use := .access 0 .a 1, seq := 0, killed := false }

/-- The bench of A with that walk. -/
def walking (s : State) : State := s.setCluster 0 { s.cluster 0 with walks := (s.cluster 0).walks.set 0 (some flight) }

/-- A page request of A, posted with tag 7. -/
def asked : PageReq :=
  { tag := 7, ctx := 0, gen := 0, kind := 1, reason := 0, level := 3, engine := 1, va := 0x2000, coreid := 0, owner := .job 0 (.eng .a),
    posted := true }

/-- The bench with that request in the ring. -/
def asking : State :=
  let s := bench .a id
  s.setPart 0 { s.part 0 with reqs := [asked] }

theorem witness_WalksAndAnswers : [
    (let s := walking (mapped (bench .a id))
     decide ((s.cluster 0).walks[0] = some flight) && (match s.walkTables 0 0x2000 with
      | .leaf e => decide (e.frame = 0 ∧ e.size = 5)
      | _ => false) && decide (s.ctxPart 0 = some 0)),
    (let s := walking (bench .a id)
     (match s.walkTables 0 0x2000 with
      | .stop x => decide (x.reason = 0)
      | _ => false) && (match s.job 0 with
      | some j => decide (j.ctx = 0 ∧ j.pages = [])
      | none => false)),
    !flight.use.isProbe && (let f : WalkFlight := { flight with use := .probe 0 }
     f.use.isProbe && (match (walking (bench .a id)).walkTables f.ctx f.va with
      | .stop _ => true
      | _ => false)),
    (let f : WalkFlight := { flight with use := .access 0 .c 3 }
     decide (f.use.kind = 3 ∧ flight.use.kind ≠ 3)),
    (let s := bench .a fun j => { j with pages := [{ user := .eng .a, va := 0x2000, tag := none, fails := 4, denied := none }] }
     (match s.job 0 with
      | some j => decide (j.ctx = 0 ∧ (0, PageUser.eng .a) = flight.use.user) && j.pages.all fun y => y.at_ (.eng .a) 0x2000
      | none => false)),
    (match ({ mapped (bench .a id) with lines := [] } : State).walkTables 0 0x2000 with
      | .fill n => decide (n = 0x30)
      | _ => false),
    (match ({ mapped (bench .a id) with lines := [(0x30000 / 128, { benchLine with poison := some .eccUe })] } : State).walkTables 0 0x2000 with
      | .bad cause => decide (cause = .eccUe)
      | _ => false),
    decide ((2 : W64).toNat % 2 ^ 16 / 2 ≠ 0 ∧ (1 : W64).toNat % 2 ^ 16 / 2 = 0),
    decide (((State.reset.part 0).reqs.find? fun r => decide (r.tag = 7) && r.posted) = none),
    (let v : W64 := 7 * 2 ^ 32 + 1
     decide (v.toNat % 2 ^ 16 / 2 = 0 ∧ v.toNat / 2 ^ 16 % 2 ^ 16 = asking.ctxGen 0 ∧
       ((asking.part 0).reqs.find? fun r => decide (r.tag = v.toNat / 2 ^ 32) && r.posted) = some asked)),
    (let v : W64 := 7 * 2 ^ 32 + 5 * 2 ^ 16
     decide (v.toNat % 2 ^ 16 / 2 = 0 ∧ v.toNat / 2 ^ 16 % 2 ^ 16 ≠ asking.ctxGen 0))].all id = true := by
  decide +kernel

/-- A fill of frame 2, which context 0 owns. -/
def fill2 : Fill := { frame := 2, ctx := 0, core := some 0, quiet := false }

/-- The bench with that fill. -/
def filling : State := { bench .a id with fills := [fill2] }

/-- Frame 2 with a state and a key generation. -/
def sealed2 (st : BitVec 4) (g : BitVec 8) (s : State) : State :=
  { s with sealMeta := [(2, { tag := 0, ver := 1, state := st, kgen := g, ctx := 0 })] }

/-- Frame 2 wholly in the cache, its first line dirty. -/
def wholeFrame (s : State) : State :=
  { s with lines := (List.range 32).map fun n => (64 + n, { benchLine with dirty := decide (n = 0) }) }

theorem witness_SealedMemory : [
    (let s := { filling with hostAllow := 7 }
     decide (fill2.prepaid = false ∧ s.taskCore fill2.payer = none ∧ s.hostAllow < 8)),
    (let f := { fill2 with task := some 0 }
     (({ filling with fills := [f] } : State).taskCore f.payer).isSome), decide (8 ≤ filling.hostAllow),
    (let s := { filling with lines := [], reseals := [{ frame := 2, victim := none, sweep := true }], hostAllow := 15 }
     decide ((s.blockLines 2).length ≠ 32 ∧ s.blockWriter 2 = none ∧ s.hostAllow < 16 ∧
       ctxOfNum (s.metaOf 2).ctx.toNat = some 0) && (s.ctx 0).key.cur.isSome),
    decide (filling.fills = [fill2] ∧ filling.reseals = [] ∧ fill2.frame = 2 ∧ (filling.metaOf 2).ctx.toNat ≠ ctxNum (1 : CtxId)),
    (let s := sealed2 0 0 filling
     decide ((s.metaOf 2).ctx.toNat = ctxNum (0 : CtxId) ∧ (s.metaOf 2).state = 0) && s.hasRoom 0 2),
    ((filling.ctx 0).key.cur.isSome && decide ((filling.metaOf 2).state ≠ 0 ∧ 1 ≤ (filling.metaOf 2).state.toNat ∧
      (filling.metaOf 2).state.toNat ≤ 3 ∧ (filling.metaOf 2).kgen.toNat = (filling.ctx 0).key.curGen)),
    (let s := sealed2 1 9 filling
     decide ((s.metaOf 2).kgen.toNat ≠ (s.ctx 0).key.curGen ∧ (s.ctx 0).key.prev = none)),
    (let s := sealed2 3 1 filling
     decide ((s.metaOf 2).state = 3 ∧ ctxOfNum (s.metaOf 2).ctx.toNat = some 0)),
    decide (filling.recs = [] ∧ filling.allCards.all (fun e => e.2.2.compDue.isNone) = true),
    decide (2 ∉ filling.badFrames ∧ 2 < frameCount),
    (let s := { filling with badFrames := [2] }
     decide (2 ∈ s.badFrames ∧ (s.metaOf 2).ctx.toNat = ctxNum fill2.ctx) && (s.ctx fill2.ctx).key.cur.isSome),
    (let s := wholeFrame { filling with reseals := [{ frame := 2, victim := none, sweep := false }] }
     decide (s.reseals = [{ frame := 2, victim := none, sweep := false }] ∧ (s.blockLines 2).length = 32) &&
       ((s.blockLines 2).any fun e => e.2.dirty) && decide (8 ≤ s.hostAllow) && (s.ctx 0).key.cur.isSome),
    (let s := wholeFrame { filling with reseals := [{ frame := 2, victim := none, sweep := false }], hostAllow := 7 }
     decide (s.blockWriter 2 = none ∧ s.hostAllow < 8)),
    (let s := sealed2 15 1 filling
     decide (3 < (s.metaOf 2).state.toNat)),
    (let s := { bench .a id with lines := [(64, { benchLine with dirty := true })] }
     decide ((s.blockLines 2).map (fun e => (e.1, e.2.dirty)) = [(64, true)])),
    ((bench .a id).blockLines 2).any (fun e => e.2.dirty) = false].all id = true := by
  decide +kernel

/-- VF 0, over a keyed stream and over one without a key. -/
def vf0 (k : Bool) : HostReq := { vf := 0, keyed := k }

/-- A line of host memory that the device holds. -/
def hosting (d : Bool) : State :=
  { bench .a id with lines := [(hostBase / 128, { benchLine with dirty := d, mesi := .m })], backInv := [hostBase / 128] }

theorem witness_HostAccesses : [
    decide ((bench .a id).stage = .ready ∧ 0x2000 % 64 = 0 ∧ (bench .a id).hostAdmit (vf0 false) 0x2000 = none),
    decide ((bench .a id).hostAdmit (vf0 true) 0x2000 = some 0 ∧ (SMap.find (bench .a id).lines (0x2000 / 128)).isSome),
    decide ((bench .a id).writeGate 0 0x2000 = .ready),
    decide (({ bench .a id with snoop := [64] } : State).writeGate 0 0x2000 = .snoop 64),
    decide (8 ≤ (hosting true).hostAllow ∧ ({ hosting true with hostAllow := 7 } : State).hostAllow < 8),
    (match ({ bench .a id with lines := [(64, { benchLine with poison := some .eccUe })] } : State).writeGate 0 0x2000 with
      | .fail _ => true
      | _ => false),
    decide (hostBase ≤ hostBase / 128 * 128 ∧ (SMap.find (hosting true).lines (hostBase / 128)).isSome),
    decide ((SMap.find (hosting false).lines (hostBase / 128)).isSome), decide (hostBase / 128 ∈ (hosting true).backInv)].all id = true := by
  decide +kernel

/-- Queue 0 of context 0, whose ring of 64 packets stands at page 2, with two packets. -/
def ring : Queue := { Queue.init with qbase := 0x2000, tail := 2, state := .fetching }

/-- The bench with that queue changed, no card, and the first packet as given. -/
def queueing (f : Queue → Queue) (bs : List Byte) : State :=
  let s := mapped (bench .c id)
  let s1 := s.setCtx 0 { s.ctx 0 with queues := [(0, f ring)], ctrbase := 0, ctrn := 4 }
  let s2 := s1.setCluster 0 { s1.cluster 0 with cards := [] }
  { s2 with lines := (64, { benchLine with data := rowOfBytes (bs ++ List.replicate (128 - bs.length) 0) }) :: tables }

theorem witness_Doorbells : [
    decide (State.reset.stage ≠ .ready),
    (let s := queueing (fun u => { u with state := .idle, tail := 0 }) []
     decide (s.stage = .ready ∧ queueCount 0 ≠ 0 ∧ (s.queue 0 0).state = .idle ∧ (s.queue 0 0).levels = []) && (s.ctxPart 0).isSome),
    decide (2 ^ 22 ≤ (0x400000 : W64).toNat), decide ((0x4000 : W64).toNat / 2 ^ 14 % 4 ≠ 0),
    decide (State.reset.ctxPart 0 = none ∧ queueCount 384 ≤ (0x10000 : W64).toNat / 2 ^ 16 % 2 ^ 6),
    decide ((0 : QueueId).val < queueCount 0 ∧ (0x8000000000000001 : W64).toNat / 2 ^ 63 = 1)].all id = true := by
  decide +kernel

/-- A packet: its sequence word, its type, and bytes 8 to 59. -/
def packet (seq ty : Nat) (rest : Nat) : List Byte := withCrc (bytesOfNat 4 seq ++ bytesOfNat 4 ty ++ bytesOfNat 52 rest)

/-- The fetcher takes the packet `bs` from the queue as `f` changes it. -/
def fetching (f : Queue → Queue) (bs : List Byte) : Bool :=
  let s := queueing f bs
  let u := s.queue 0 0
  u.fetches && s.live 0 && (!u.levels.isEmpty || !u.empty) && decide (s.devRead 0 u.packetVa 1 = .data bs)

/-- What the packet is read as. -/
def readAs (bs : List Byte) (k : Packet → Bool) : Bool :=
  match packetOf bs with
  | .ok p => k p
  | .error _ => false

/-- A buffer level at a page of its own. -/
def lvl (n : Nat) : Indirect := { addr := 0x8000 + 0x1000 * n, count := 2, next := 0 }

/-- Four levels; the innermost buffer stands at page 2. -/
def four (u : Queue) : Queue := { u with levels := [{ addr := 0x2000, count := 2, next := 0 }, lvl 1, lvl 2, lvl 3] }

set_option maxRecDepth 100000 in
theorem witness_Packets : [
    fetching id (packet 0 0 0) && readAs (packet 0 0 0) fun p => decide (p = .nop),
    fetching id (packet 0 9 0) && (match packetOf (packet 0 9 0) with
      | .error o => decide (o = 4)
      | .ok _ => false),
    (let bs := packet 0 2 (0x40000 + 2 * 2 ^ 64)
     fetching id bs && (readAs bs fun p => decide (p = .indirect 2 0x40000)) && !ring.loops 0x40000 128),
    (let bs := packet 0 2 (0x40000 + 2 * 2 ^ 64)
     fetching four bs && decide ((four ring).levels.length = 4)),
    (let bs := packet 0 2 (0x2000 + 2 * 2 ^ 64)
     fetching id bs && (readAs bs fun p => decide (p = .indirect 2 0x2000)) && ring.loops 0x2000 128),
    (let bs := packet 0 3 (1 * 2 ^ 64 + 5 * 2 ^ 128 + 1 * 2 ^ 160 + 9 * 2 ^ 192)
     fetching id bs && (readAs bs fun p => decide (p = .signal)) && (match (queueing id bs).packetNames 0 bs with
      | .ok x => decide (x = (some 5, some 1))
      | .error _ => false)),
    (let bs := packet 0 4 (1 * 2 ^ 64 + 5 * 2 ^ 128 + 1 * 2 ^ 160)
     fetching id bs && (readAs bs fun p => decide (p = .wait)) && (match (queueing id bs).packetNames 0 bs with
      | .ok x => decide (x = (some 5, some 1))
      | .error _ => false)),
    (let bs := packet 0 4 (1 * 2 ^ 64 + 5 * 2 ^ 128 + 4 * 2 ^ 160)
     fetching id bs && (readAs bs fun p => decide (p = .wait)) && (match (queueing id bs).packetNames 0 bs with
      | .ok _ => false
      | .error o => decide (o = 28))),
    (let bs := packet 0 3 (1 * 2 ^ 64 + 9 * 2 ^ 128 + 1 * 2 ^ 160)
     fetching id bs && (readAs bs fun p => decide (p = .signal)) && (match (queueing id bs).packetNames 0 bs with
      | .ok _ => false
      | .error o => decide (o = 24))),
    (let bs := packet 0 1 (0x50000 + 3 * 2 ^ 64)
     fetching id bs && (readAs bs fun p => decide (p = .operators 3 0x50000)) && decide (ring.pending = none ∧ ring.opsLeft = 0)),
    fetching id (bytesOfNat 64 1) && decide (packFld (bytesOfNat 64 1) 0 4 ≠ ring.expected ∧ ring.stale < 7),
    fetching (fun u => { u with stale := 7 }) (bytesOfNat 64 1)].all id = true := by
  decide +kernel

/-- A packet in hand, for semaphore 5 and counter 1. -/
def inHand (w : Bool) : QHeld := { wait := w, bits := 1, sem := some 5, ctr := some 1, value := 9 }

/-- An operator that has expanded to one card. -/
def oneCard (c : Bool) : QPend := { cards := [benchCard], argbank := false, castled := c }

/-- A card of queue 0 that has not retired. -/
def busy (s : State) : State := s.setCluster 0 { s.cluster 0 with cards := [(0, benchCard)] }

theorem witness_Castling : [
    (let s := queueing (fun u => { u with held := some (inHand false) }) []
     decide ((s.queue 0 0).held = some (inHand false) ∧ (s.queue 0 0).state = .fetching ∧ (s.queue 0 0).pending = none) &&
       !s.queueBusy 0 0 && s.live 0),
    (busy (queueing (fun u => { u with held := some (inHand false) }) [])).queueBusy 0 0,
    (let s := (queueing (fun u => { u with held := some (inHand true), state := .waiting }) []).semOr 5 1
     decide ((s.queue 0 0).held = some (inHand true) ∧ (s.queue 0 0).state = .waiting) && s.waitPasses (some 1) (some 5) 1),
    !(queueing id []).waitPasses (some 1) (some 5) 1,
    (let s := queueing (fun u => { u with pending := some (oneCard false), state := .waiting, opsLeft := 1 }) []
     decide ((s.queue 0 0).pending = some (oneCard false) ∧ (s.queue 0 0).state = .waiting) && !s.queueBusy 0 0 && s.live 0),
    (let s := (queueing (fun u => { u with pending := some (oneCard false), state := .suspended, prev := .waiting }) []).note (.suspend 0 0)
     s.justSuspended 0 0 && !s.queueBusy 0 0 && s.live 0),
    (let s := queueing (fun u => { u with pending := some (oneCard true), state := .waiting, opsLeft := 1 }) []
     decide ((s.queue 0 0).pending = some (oneCard true) ∧ (s.queue 0 0).state = .waiting) && s.live 0),
    (let s := queueing id []
     (s.setCtx 0 { s.ctx 0 with cardq := 0 }).overQuota 0 1)].all id = true := by
  decide +kernel

/-- The bench with VF 0 in a TDI state. -/
def tdiIs (x : Tdi) : State :=
  let s := bench .c id
  s.setCtx 0 { s.ctx 0 with tdi := x }

theorem witness_FunctionsAndSessions : [
    decide (((tdiIs .unlocked).ctx (vfCtx 0)).tdi = .unlocked), decide (((tdiIs .locked).ctx (vfCtx 0)).tdi = .locked),
    decide (((tdiIs .run).ctx (vfCtx 0)).tdi = .run ∧ ((tdiIs .run).ctx (vfCtx 0)).killed = false),
    (let s := tdiIs .run
     let t := s.setCtx 0 { s.ctx 0 with killed := true }
     decide ((t.ctx (vfCtx 0)).tdi = .run ∧ (t.ctx (vfCtx 0)).killed = true)),
    (let s := tdiIs .locked
     let t := s.setCtx 0 { s.ctx 0 with killed := true }
     decide ((t.ctx (vfCtx 0)).tdi ≠ .run ∧ (t.ctx (vfCtx 0)).killed = true)),
    decide (State.reset.spdm.version = false ∧ State.reset.spdm.algs = false),
    (let x : Spdm := { version := true, caps := true, algs := true, sessions := [(1, false), (2, true)] }
     decide (x.has 1 false = true ∧ x.has 2 true = true ∧ x.has 3 true = false ∧ x.has 3 false = false ∧ x.has 2 false = false)),
    decide ((State.reset.ctx 0).key.sweep = false ∧ (State.reset.ctx 0).key.cur = none),
    ((bench .c id).ctx 0).key.cur.isSome].all id = true := by
  decide +kernel

/-- Partition 0 with a wrap as given. -/
def wrapping (ph : WrapPhase) (run : List (CluId × SlotId × Nat)) : State :=
  let s := bench .c id
  s.setPart 0 { s.part 0 with wrapPhase := ph, wrapDl := 0xFFFFFFFF, wrapRun := run }

theorem witness_Wraps : [
    decide (State.reset.stage ≠ .ready ∧ (bench .c id).stage = .ready),
    decide ((0 : W64).toNat / 2 ^ 16 % 2 ^ 9 < 384 ∧ (0 : W64).toNat / 2 ^ 63 = 0),
    decide ((0x8000000000000000 : W64).toNat / 2 ^ 63 = 1 ∧ ((bench .c id).part 0).wrapDl.toNat < (bench .c id).time + (bench .c id).vmin 0),
    decide ((wrapping .none []).time + (wrapping .none []).vmin 0 ≤ ((wrapping .none []).part 0).wrapDl.toNat),
    decide (((wrapping .vacating []).part 0).wrapPhase = .vacating ∧
      (wrapping .vacating []).time + (wrapping .vacating []).vmin 0 ≤ ((wrapping .vacating []).part 0).wrapDl.toNat),
    decide ((0x8000000002050000 : W64).toNat / 2 ^ 25 % 2 = 1 ∧ 0 + 1 ≤ (0x8000000002050000 : W64).toNat / 2 ^ 16 % 2 ^ 9),
    (let s := wrapping .vacating [(0, 0, 0)]
     decide ((s.part 0).wrapRun = [(0, 0, 0)] ∧ 0 ≤ s.time ∧ (s.card 0 0).map (fun x => (x.phase, x.ctx)) = some (.running, 0)) &&
       s.wrapTarget 0 0),
    (let s := { wrapping .vacating [] with time := 0xFFFFFFFF }
     (match s.job 0 with
      | some j => s.wrapTarget 0 j.ctx && !j.stopped && !j.atStop
      | none => false) && decide (0xFFFFFFFF ≤ s.time + s.drainTime 0 0)),
    ((bench .c id).card 0 0).isSome].all id = true := by
  decide +kernel

/-- Partition 0 with this deadline, and its card changed. -/
def posted (dl : W64) (f : Card → Card) : State :=
  let s := withCard f (bench .c id)
  s.setPart 0 { s.part 0 with wrapDl := dl }

/-- The only running node of the partition, and whether it runs on, with the time left and TCK. -/
def onlyNode (dl : W64) (f : Card → Card) (p : Bool → Nat → Nat → Bool) : Bool :=
  let s := posted dl f
  let x := f benchCard
  let left := (s.part 0).wrapDl.toNat - s.time
  let tck := s.nodeTck 0 x
  decide (s.wrapNodes 0 = [(0, 0, x)] ∧ s.card 0 0 = some x ∧ x.phase = .running) &&
    p (decide (x.cycEst * (1024 - s.nodePid x) * 10 + tck * 1024 * clock10 (s.island x.isl).level ≤
      left * 1024 * clock10 (s.island x.isl).level)) left tck

/-- An estimate of 2^31 cycles. -/
def longRun (x : Card) : Card := { x with raw := x.raw + 2 ^ (8 * 68) * 2 ^ 31 }

theorem witness_WrapPosts : [
    onlyNode 0xFFFFFFFF id fun runs _ _ => runs,
    onlyNode 0x100000 (fun x => { longRun x with save := 0x400000 }) fun runs left tck => !runs && decide (tck ≤ left),
    onlyNode 0x100000 longRun fun runs _ _ => !runs, onlyNode 0 longRun fun runs left tck => !runs && decide (left ≤ tck),
    decide (State.reset.wrapNodes 0 = []),
    (let s := wrapping .vacating []
     decide ((s.part 0).wrapPhase = .vacating) && (s.job 0).any fun j => s.wrapTarget 0 j.ctx),
    (let s := wrapping .vacating []
     let t := s.setPart 0 { s.part 0 with wrapTVft := true, wrapTVf := 3 }
     decide ((t.part 0).wrapPhase = .vacating) && (List.finRange 128).all fun c =>
       (t.job c).all fun j => decide ((t.part 0).wrapTVft = true ∧ j.ctx.val ≠ (t.part 0).wrapTVf)),
    decide (benchDesc.vfbase ≤ 0 ∧ 0 < benchDesc.vfbase + benchDesc.vfn ∧ (0x8000000002000000 : W64).toNat / 2 ^ 25 % 2 = 1 ∧
      (0x8000000002000000 : W64).toNat / 2 ^ 16 % 2 ^ 9 = 0)].all id = true := by
  decide +kernel

theorem witness_ResetsAndBringUp : [
    decide ((State.reset.core 0).pendDem = [] ∧ (State.reset.msixOf none 69).mask = true),
    (let s : State := { State.reset with msix := [(msixKey none 69, { addr := 0, data := 1, mask := false, pending := false })] }
     !(s.msixOf none 69).mask && !s.msixOn none && ({ s with msixCtl := [(fnNo none, 0x8000)] } : State).msixOn none),
    decide (State.reset.stage = .rom), decide (({ State.reset with stage := .failed } : State).stage = .failed), decide (({ State.reset with stage := .verify } : State).stage = .verify),
    decide (({ State.reset with stage := .train } : State).stage = .train), decide (((1 : Fin 6) ≠ 0)),
    decide (({ State.reset with stage := .firmware } : State).stage = .firmware), decide ((bench .c id).stage = .ready)].all id = true := by
  decide +kernel

theorem witness_RegisterWrites : [
    decide ((bench .c id).stage = .ready), decide (State.reset.stage ≠ .ready), decide ((4 : Nat) ≠ 8 ∧ (249 : W64).toNat % 2 ^ 10 < 250),
    decide ((0x0080000000000000 : W64).toNat / 2 ^ 55 = 1),
    decide (State.reset.penv < 2 ^ 16 ∧ State.reset.ppkg < 2 ^ 16),
    (let v : W64 := 0x0258025802EE00FA
     decide (250 ≤ v.toNat % 1024 ∧ v.toNat % 1024 ≤ 750 ∧ 250 ≤ v.toNat / 2 ^ 16 % 1024 ∧ v.toNat / 2 ^ 16 % 1024 ≤ 750))].all id = true := by
  decide +kernel

/-- An intake descriptor: context 0, two slots from `base` on, CONSUMED at 0x2000, and planes of no byte. -/
def intakeAt (base : Nat) : Nat := base * 2 ^ 160 + 2 * 2 ^ 224 + 0x2000 * 2 ^ 256

/-- The bench with stream 0 at a frame, and CONSUMED as 0. -/
def taking (base frame written : Nat) : State :=
  let s := mapped (bench .c id)
  { s with
    intake := s.intake.set 0 { desc := some (intakeAt base), frame, written, dropped := 0 }
    lines := (64, { benchLine with data := 0 }) :: tables }

/-- A frame without pixels. -/
def noPixels : Pixels := { profile := .hevcMain, rate := 30, width := 0, height := 0, deep := false, codes := [] }

/-- The blocks of that frame that are still to be written. -/
def blocksLeft (s : State) (base : Nat) : List (Nat × List Byte) :=
  (s.frameBlocks (intakeAt base) s.intake[0].frame noPixels 0 0).drop s.intake[0].written

set_option maxRecDepth 100000 in
theorem witness_Intake : [
    (let s := taking 0x3000 0 0
     decide (s.intake[0].desc = some (intakeAt 0x3000) ∧ ctxOfNum (intakeAt 0x3000 % 2 ^ 16) = some 0) && s.live 0 &&
       (match s.consumed 0 (intakeAt 0x3000) with
        | .data bs => decide (natOfBytes (bs.take 4) = 0 ∧ s.intake[0].frame < 0 + intakeAt 0x3000 / 2 ^ 224 % 2 ^ 16)
        | _ => false)),
    (let s := taking 0x3000 2 0
     decide (0 + intakeAt 0x3000 / 2 ^ 224 % 2 ^ 16 ≤ s.intake[0].frame)),
    decide ((blocksLeft (taking 0x3000 0 0) 0x3000).length = 1), decide (({ taking 0x3000 0 0 with hostAllow := 7 } : State).hostAllow < 8),
    (let s := taking 0x3000 0 1
     decide (s.intake[0].written ≠ 0) && (match s.intakeLoop 0 1 (blocksLeft s 0x3000) with
      | .done _ => true
      | _ => false)),
    (let s := taking (2 ^ 40) 0 0
     match s.intakeLoop 0 0 (blocksLeft s (2 ^ 40)) with
      | .fail _ => true
      | _ => false)].all id = true := by
  decide +kernel

/-- Port 0 as given. -/
def porting (f : Port → Port) : State := State.reset.setPort 0 (f { Port.init with state := 2, key := some 1 })

set_option maxRecDepth 100000 in
theorem witness_Ports : [
    decide (((porting id).port 0).state = 2 ∧ flitSeq 0 = ((porting id).port 0).rx) && flitCrcOk 0 && !flitCrcOk 1,
    (let x := (porting fun p => { p with rx := 5 }).port 0
     decide (1 ≤ (x.rx - flitSeq 0).toNat ∧ (x.rx - flitSeq 0).toNat ≤ 512)),
    decide (512 < (((porting fun p => { p with rx := 513 }).port 0).rx - flitSeq 0).toNat),
    decide ((State.reset.port 0).state ≠ 2),
    (let x := (porting fun p => { p with replay := [1, 2] }).port 0
     decide ((x.replay.dropWhile fun g => decide (flitSeq g ≠ 2)) = [2] ∧ x.nak = none)),
    (let x := (porting fun p => { p with replay := [1, 2], nak := some (2, 7) }).port 0
     decide (x.nak = some (2, 7) ∧ (x.replay.dropWhile fun g => decide (flitSeq g ≠ 2)) ≠ [] ∧ x.times = [])),
    (let x := (porting fun p => { p with state := 1 }).port 0
     decide (x.state = 1 ∧ x.dead = false ∧ x.key = some 1 ∧ x.waiting = Vector.replicate 3 [])),
    ((porting fun p => { p with dead := true }).port 0).dead,
    decide (((porting id).port 0).key = some 1 ∧ ((porting fun p => { p with key := none }).port 0).key = none),
    (let f := plainFlit 1 3 0
     let s := { porting id with routes := [(3, 4)] }
     flitFormed f && decide (flitDest f = 3 ∧ flitDest f ≠ ⟨s.fabid.toNat, s.fabid.isLt⟩) &&
       (SMap.get 0 s.routes (flitDest f).val).getLsbD 2),
    decide (flitVc (plainFlit 1 3 0) = 1 ∧ ((porting fun p => { p with state := 1 }).port 0).state = 1),
    (let s := porting fun p => { p with times := [0, 0] }
     decide ((s.port 0).state ≠ 0 ∧ ((s.port 0).times.filter fun y => decide (s.time < y + 1000000000)).length = 2))].all id = true := by
  decide +kernel

/-- A request of device 3's context 4 for page 2. -/
def peerReq (op : PeerOp) : PeerReq :=
  { tag := 1, srcDev := 3, srcCtx := 4, kid := kidOf 1, addr := 0x2000, op }

/-- The bench with an entry of the peer map that admits it. -/
def peering : State := { bench .a id with peerMap := [(0, 0x8C00100000000001)] }

/-- A request of core 0 to a peer, sent at time 0. -/
def sent : PeerOut := { tag := 1, core := 0, use := .access, port := 0, sentAt := 0 }

/-- A's oldest posted access: a byte for a core's scratchpad. -/
def posting (k : CoreId) : State :=
  bench .a fun j => { j with a := { j.a with posted := [.scratch k 0 [1] 0 0 0, .scratch k 0 [2] 0 0 0] } }

/-- The neighbouring core runs a job of the same context. -/
def both (s : State) : State := s.setCore 1 { s.core 1 with job := some (benchJob .a) }

theorem witness_PeersAndPostedAccesses : [
    decide (State.reset.peerAdmit (peerReq (.read 8)) = none ∧ State.reset.peerEntry (peerReq (.read 8)) = none),
    decide (peering.peerEntry (peerReq (.read 8)) = some 0x8C00100000000001),
    (match peering.peerRead 0 (peerLines 0x2000 (List.replicate 8 0)) with
      | .data _ p => !p
      | _ => false),
    (let s := { bench .a id with peerReqs := [sent] }
     decide ((s.peerReqs.find? fun x => decide (x.tag = 1)) = some sent ∧ s.time < 0 + 1000 * s.fto)),
    (let s := { bench .a id with peerReqs := [sent], time := 1000000 }
     decide (0 + 1000 * s.fto ≤ s.time)),
    ((posting 0).rowUsable 0 0 && !(posting 0).yieldsAt 0 0 && decide ((jobOf (posting 0)).a.posted.length = 2)),
    !(posting 1).sharesCtx 1 0,
    ((both (posting 1)).sharesCtx 1 0 && (both (posting 1)).rowUsable 1 0 && !(both (posting 1)).yieldsAt 1 0),
    decide ((both (posting 1)).jobidAt 1 = 0) && decide ((both (posting 1)).jobidAt 1 ≠ 1),
    (let s := bench .a fun j => { j with a := { j.a with posted := [.store 0 [{ pa := 0x2000, va := 0x2000, bytes := [7] }] 3 0] } }
     s.live 0 && decide (s.writeGate 0 0x2000 = .ready) && (match s.escape 0 (jobOf s) with
      | .go _ => true
      | _ => false)),
    decide ((State.reset.port (State.reset.peerPort 3)).state = 0 ∧ ((porting id).port ((porting id).peerPort 3)).state ≠ 0),
    (match (bench .a id).escape 0 (benchJob .a) with
      | .go s1 => decide (s1.writeGate 0 0x2000 = .ready)
      | _ => false),
    Posted.holds (.scratch 0 0 [1] 0 0 0) (.scratch 0 0 [2] 0 0 0)].all id = true := by
  decide +kernel

theorem witness_PeerAdmitted : peering.peerAdmit (peerReq (.read 8)) = some 0 := by
  have h1 : peering.peerEntry (peerReq (.read 8)) = some 0x8C00100000000001 := by decide +kernel
  have h2 : (peering.ctx 0).key.cur = some 1 := by decide +kernel
  have h3 : ctxOfNum (bitsAt (0x8C00100000000001 : W64).toNat 26 16) = some 0 := by decide +kernel
  have h4 : (((splitLines 2 0x2000 (List.replicate 8 0)).map fun p => frameOf p.1).all fun f =>
    decide ((peering.metaOf f).ctx.toNat = ctxNum 0)) = true := by decide +kernel
  simp only [State.peerAdmit, h1, h3, h2, Option.map_some]
  rw [if_pos]
  exact ⟨.inl rfl, by simp [peerReq, peerWrites], by decide, h4⟩

/-- A word at the bench's pc. -/
def placed (e : Eng) (w : Nat) : State :=
  let s := bench e id
  { s with lines := [(0x1000 / 128, { benchLine with data := BitVec.ofNat 1024 w })], agenda := [.eng 0 e] }

/-- The word's fetch, and whether the engine is ready for it. -/
def fetched (e : Eng) (w : W32) : Bool :=
  let s := placed e w.toNat
  match s.job 0 with
  | some j => j.ready e && !j.asyncDue && j.a.copyFault.isNone && dueNow j e w && (e.elastic || reached j.take (j.base e)) &&
      decide ({ s with agenda := [], turn := .eng 0 e }.fetchFor 0 j e (j.pc e) = .word w)
  | none => false

theorem witness_StepRunsTheDecoded : [fetched .c 0xA0000001, fetched .a 0x10000183, fetched .v 0x14000C10, fetched .m 0x00000000,
    fetched .c 0xE0000000, isEvent .powerOnReset].all id = true := by
  decide +kernel

end Sys2Proof.Tests
end

section
namespace Sys2Proof.Machine

@[simp] theorem reset_core (c : CoreId) : State.reset.core c = Core.init := Vector.getElem_replicate ..
@[simp] theorem reset_part (p : PartId) : State.reset.part p = Part.init := Vector.getElem_replicate ..
@[simp] theorem reset_island (i : IslId) : State.reset.island i = Island.init := Vector.getElem_replicate ..
@[simp] theorem reset_ctx (c : CtxId) : State.reset.ctx c = Ctx.init := Vector.getElem_replicate ..
@[simp] theorem reset_port (p : Fin 4) : State.reset.port p = Port.init := Vector.getElem_replicate ..

theorem reset_monitor (m : Fin 5) : State.reset.monitors[m.val] = Monitor.init := Vector.getElem_replicate ..

/-- Every sparse table of the reset state is empty. -/
theorem reset_tidy : State.reset.Tidy where
  mem := rfl
  scr c := by rw [reset_core]; rfl
  metas := rfl
  limits := rfl
  queues c := by rw [reset_ctx]; rfl

end Sys2Proof.Machine

open Sys2Proof Sys2Proof.Machine

/-- Settles O56. -/
theorem resetState : Obligations.ResetState := by
  refine ⟨⟨rfl, fun c => ?_, fun p => ?_, fun i => ?_, rfl, rfl, rfl, fun g => rfl, fun p => ?_, rfl, rfl, fun p => ?_,
    fun m => ?_, rfl, rfl⟩, reset_tidy⟩
  · simp [State.job, Core.init]
  · simp [Part.init]
  · simp [Island.init]
  · simp [Part.init]
  · simp [Port.init]
  · simp [reset_monitor, Monitor.init]
end

section
namespace Sys2Proof.Machine

section
variable {w : Nat} (x y z : BitVec w)

theorem add_eq_ofNat : x + y = BitVec.ofNat w (x.toNat + y.toNat) := by
  simp [BitVec.ofNat_add]

theorem sub_eq_ofInt : x - y = BitVec.ofInt w (x.toNat - y.toNat : Int) := by
  apply BitVec.eq_of_toInt_eq
  rw [BitVec.toInt_sub, BitVec.toInt_ofInt]
  simp [BitVec.toInt_eq_toNat_bmod]

theorem mul_eq_ofNat : x * y = BitVec.ofNat w (x.toNat * y.toNat) := by
  simp [BitVec.ofNat_mul]

theorem mad_eq_ofNat : z + x * y = BitVec.ofNat w (z.toNat + x.toNat * y.toNat) := by
  simp [BitVec.ofNat_add, BitVec.ofNat_mul]

theorem and_eq_ofNat : x &&& y = BitVec.ofNat w (x.toNat &&& y.toNat) := by
  simp [BitVec.ofNat_and]

theorem or_eq_ofNat : x ||| y = BitVec.ofNat w (x.toNat ||| y.toNat) := by
  simp [BitVec.ofNat_or]

theorem xor_eq_ofNat : x ^^^ y = BitVec.ofNat w (x.toNat ^^^ y.toNat) := by
  simp [BitVec.ofNat_xor]

theorem shl_eq_ofNat (n : Nat) : x <<< n = BitVec.ofNat w (x.toNat * 2 ^ n) := by
  apply BitVec.eq_of_toNat_eq
  simp [Nat.shiftLeft_eq]

theorem shr_eq_ofNat (n : Nat) : x >>> n = BitVec.ofNat w (x.toNat / 2 ^ n) := by
  apply BitVec.eq_of_toNat_eq
  rw [BitVec.toNat_ushiftRight, Nat.shiftRight_eq_div_pow, BitVec.toNat_ofNat,
    Nat.mod_eq_of_lt (Nat.lt_of_le_of_lt (Nat.div_le_self ..) x.isLt)]

theorem sshiftRight_eq_ofInt (n : Nat) : x.sshiftRight n = BitVec.ofInt w (x.toInt / 2 ^ n) := by
  simp [BitVec.sshiftRight, Int.shiftRight_eq_div_pow]

theorem ite_slt_eq_ofInt_min : (if x.slt y then x else y) = BitVec.ofInt w (min x.toInt y.toInt) := by
  by_cases h : x.toInt < y.toInt
  · simp [BitVec.slt_eq_decide, h, min_eq_left h.le]
  · simp [BitVec.slt_eq_decide, h, min_eq_right (not_lt.1 h)]

theorem ite_slt_eq_ofInt_max : (if x.slt y then y else x) = BitVec.ofInt w (max x.toInt y.toInt) := by
  by_cases h : x.toInt < y.toInt
  · simp [BitVec.slt_eq_decide, h, max_eq_right h.le]
  · simp [BitVec.slt_eq_decide, h, max_eq_left (not_lt.1 h)]

theorem ite_ult_eq_ofNat_min : (if x.ult y then x else y) = BitVec.ofNat w (min x.toNat y.toNat) := by
  by_cases h : x.toNat < y.toNat
  · simp [BitVec.ult, h, min_eq_left h.le]
  · simp [BitVec.ult, h, min_eq_right (not_lt.1 h)]

theorem ite_ult_eq_ofNat_max : (if x.ult y then y else x) = BitVec.ofNat w (max x.toNat y.toNat) := by
  by_cases h : x.toNat < y.toNat
  · simp [BitVec.ult, h, max_eq_right h.le]
  · simp [BitVec.ult, h, max_eq_left (not_lt.1 h)]

end

/-- A scalar instruction that issues gives what any function that agrees with its operation gives. -/
theorem alu_eq {s c e j i d f g} (h : Issues s c e j i) (hf : aluFn i = some (d, f))
    (hg : ∀ w x, f w (x 0) (x 1) (x 2) = g w x) : alu i s = .next (scalarDone s c e j i d g) :=
  (alu_go h hf).trans (congrArg _ (scalarDone_congr fun w x _ => hg w x))

end Sys2Proof.Machine

open Sys2Proof Sys2Proof.Machine

/-- Settles O1. -/
theorem aluGroupResults : Obligations.AluGroupResults := by
  intro s c e j t d a b
  refine ⟨?_, ?_, ?_, ?_, ?_, ?_, ?_, ?_, ?_, ?_, ?_, ?_, ?_, ?_, ?_, ?_⟩ <;> rintro i rfl h
  · exact alu_eq h rfl fun w x => add_eq_ofNat _ _
  · exact alu_eq h rfl fun w x => sub_eq_ofInt _ _
  · exact alu_eq h rfl fun w x => mul_eq_ofNat _ _
  · exact alu_eq h rfl fun w x => rfl
  · exact alu_eq h rfl fun w x => rfl
  · exact alu_eq h rfl fun w x => and_eq_ofNat _ _
  · exact alu_eq h rfl fun w x => or_eq_ofNat _ _
  · exact alu_eq h rfl fun w x => xor_eq_ofNat _ _
  · exact alu_eq h rfl fun w x => shl_eq_ofNat _ _
  · exact alu_eq h rfl fun w x => shr_eq_ofNat _ _
  · exact alu_eq h rfl fun w x => sshiftRight_eq_ofInt _ _
  · exact alu_eq h rfl fun w x => ite_slt_eq_ofInt_min _ _
  · exact alu_eq h rfl fun w x => ite_slt_eq_ofInt_max _ _
  · exact alu_eq h rfl fun w x => ite_ult_eq_ofNat_min _ _
  · exact alu_eq h rfl fun w x => ite_ult_eq_ofNat_max _ _
  · exact alu_eq h rfl fun w x => mad_eq_ofNat _ _ _
end

section
/-! SUPPORT. The canonical form of the sparse tables (State.Tidy) under the updates of the state: what each kind of update
has to show, as rules for `simp`. -/

namespace Sys2Proof.Machine

/-! ## The tables of the cores and of the contexts -/

/-- Every scratchpad is in canonical form. -/
def CoresTidy (v : Vector Core 128) : Prop := ∀ c : CoreId, (v[c.val]'c.isLt).scr.wf = true

/-- Every context's queues are in canonical form. -/
def CtxsTidy (v : Vector Ctx 408) : Prop := ∀ c : CtxId, SMap.wf Queue.init (v[c.val]'c.isLt).queues = true

theorem CoresTidy.set {v : Vector Core 128} (h : CoresTidy v) (c : CoreId) {x : Core} (hx : x.scr.wf = true) :
    CoresTidy (v.set c.val x c.isLt) := by
  intro d
  rw [Vector.getElem_set]
  split
  · exact hx
  · exact h d

theorem CoresTidy.map {v : Vector Core 128} {f : Core → Core} (hf : ∀ x, x.scr.wf = true → (f x).scr.wf = true)
    (h : CoresTidy v) : CoresTidy (v.map f) := by
  intro d
  rw [Vector.getElem_map]
  exact hf _ (h d)

/-- A change of every context that leaves its queues alone keeps the canonical form. -/
theorem CtxsTidy.map {v : Vector Ctx 408} {f : Ctx → Ctx} (hf : ∀ x, (f x).queues = x.queues) (h : CtxsTidy v) :
    CtxsTidy (v.map f) := by
  intro d
  rw [Vector.getElem_map, hf]
  exact h d

theorem CtxsTidy.set {v : Vector Ctx 408} (h : CtxsTidy v) (c : CtxId) {x : Ctx} (hx : SMap.wf Queue.init x.queues = true) :
    CtxsTidy (v.set c.val x c.isLt) := by
  intro d
  rw [Vector.getElem_set]
  split
  · exact hx
  · exact h d

theorem State.tidy_iff {s : State} : s.Tidy ↔ s.mem.wf = true ∧ CoresTidy s.cores ∧ SMap.wf Meta.init s.sealMeta = true ∧
    SMap.wf limitInit s.limits = true ∧ CtxsTidy s.ctxs :=
  ⟨fun ⟨mem, scr, metas, limits, queues⟩ => ⟨mem, scr, metas, limits, queues⟩,
    fun ⟨mem, scr, metas, limits, queues⟩ => ⟨mem, scr, metas, limits, queues⟩⟩

/-- A state given by its fields: a record update has to show nothing but the fields that the canonical form speaks of. -/
@[simp] theorem State.tidy_mk {
    cores clusters islands parts ctxs time frac lines limits wayErrs lastUse snoop backInv mem sealMeta fills
    reseals badFrames fastFrames fastLines frameErrs rowsLost hallow ppkg penv hostAllow sevBase sevSize sevWr sevRd
    sevLost tampers pf0err stage stageErr cfgSigned drop resv msix msixCtl recs monitors fastOut spdm intake fto
    fabid ports routes peerMap peerReqs peerTag halts outbox agenda turn fresh now endSeq} :
    State.Tidy ⟨
      cores, clusters, islands, parts, ctxs, time, frac, lines, limits, wayErrs, lastUse, snoop, backInv, mem,
      sealMeta, fills, reseals, badFrames, fastFrames, fastLines, frameErrs, rowsLost, hallow, ppkg, penv,
      hostAllow, sevBase, sevSize, sevWr, sevRd, sevLost, tampers, pf0err, stage, stageErr, cfgSigned, drop, resv,
      msix, msixCtl, recs, monitors, fastOut, spdm, intake, fto, fabid, ports, routes, peerMap, peerReqs, peerTag,
      halts, outbox, agenda, turn, fresh, now, endSeq⟩ ↔
      Memory.wf mem = true ∧ CoresTidy cores ∧ SMap.wf Meta.init sealMeta = true ∧ SMap.wf limitInit limits = true ∧
        CtxsTidy ctxs := State.tidy_iff

/-! ## What a tidy state gives -/

section
variable {s : State} (h : s.Tidy)
include h

@[simp] theorem State.Tidy.mem_wf : s.mem.wf = true := h.mem
@[simp] theorem State.Tidy.cores_tidy : CoresTidy s.cores := h.scr
@[simp] theorem State.Tidy.scr_wf (c : CoreId) : (s.core c).scr.wf = true := h.scr c
@[simp] theorem State.Tidy.metas_wf : SMap.wf Meta.init s.sealMeta = true := h.metas
@[simp] theorem State.Tidy.limits_wf : SMap.wf limitInit s.limits = true := h.limits
@[simp] theorem State.Tidy.ctxs_tidy : CtxsTidy s.ctxs := h.queues

/-! ## The updates of one part of the state -/

@[simp] theorem State.Tidy.setCore {c x} (hx : Memory.wf x.scr = true) : (s.setCore c x).Tidy := by
  simp [State.setCore, h, CoresTidy.set, hx]

@[simp] theorem State.Tidy.setJob {c j} : (s.setJob c j).Tidy := by simp [State.setJob, h]

@[simp] theorem State.Tidy.setIsland {i x} : (s.setIsland i x).Tidy := by simp [State.setIsland, h]

@[simp] theorem State.Tidy.setCluster {k x} : (s.setCluster k x).Tidy := by simp [State.setCluster, h]

@[simp] theorem State.Tidy.setCtx {c x} (hx : SMap.wf Queue.init x.queues = true) : (s.setCtx c x).Tidy := by
  simp [State.setCtx, h, CtxsTidy.set, hx]

@[simp] theorem State.Tidy.setPart {p x} : (s.setPart p x).Tidy := by simp [State.setPart, h]

@[simp] theorem State.Tidy.setCard {k n x} : (s.setCard k n x).Tidy := by simp [State.setCard, h]

end

end Sys2Proof.Machine
end

section
/-! SUPPORT. The canonical form under choices, folds and the outcomes of a step. -/

namespace Sys2Proof.Machine

/-- An update of other fields than those that the canonical form speaks of keeps it. -/
theorem State.Tidy.same {s t : State} (h : s.Tidy) (mem : t.mem = s.mem := by rfl) (cores : t.cores = s.cores := by rfl)
    (metas : t.sealMeta = s.sealMeta := by rfl) (limits : t.limits = s.limits := by rfl)
    (ctxs : t.ctxs = s.ctxs := by rfl) : t.Tidy := by
  rw [State.tidy_iff, mem, cores, metas, limits, ctxs]
  exact State.tidy_iff.1 h

theorem State.Tidy.withHalts {s : State} (h : s.Tidy) {l} : State.Tidy { s with halts := l } := h.same

/-- So does an update that replaces a core by one with the same scratchpad. -/
theorem State.Tidy.withCore {s t : State} (h : s.Tidy) {c : CoreId} {x : Core}
    (cores : t.cores = s.cores.set c.val x c.isLt := by rfl) (scr : x.scr = (s.core c).scr := by rfl)
    (mem : t.mem = s.mem := by rfl) (metas : t.sealMeta = s.sealMeta := by rfl)
    (limits : t.limits = s.limits := by rfl) (ctxs : t.ctxs = s.ctxs := by rfl) : t.Tidy := by
  rw [State.tidy_iff, mem, cores, metas, limits, ctxs]
  exact State.tidy_iff.1 (h.setCore (x := x) (scr ▸ h.scr c))

/-- So does one that replaces a core by one whose scratchpad is in canonical form. -/
theorem State.Tidy.withCoreWf {s t : State} (h : s.Tidy) {c : CoreId} {x : Core}
    (cores : t.cores = s.cores.set c.val x c.isLt := by rfl) (mem : t.mem = s.mem := by rfl)
    (metas : t.sealMeta = s.sealMeta := by rfl) (limits : t.limits = s.limits := by rfl)
    (ctxs : t.ctxs = s.ctxs := by rfl) (scr : x.scr.wf = true) : t.Tidy := by
  rw [State.tidy_iff, mem, cores, metas, limits, ctxs]
  exact State.tidy_iff.1 (h.setCore scr)

/-- An update of the memory has to show its new form. -/
theorem State.Tidy.withMem {s t : State} (h : s.Tidy) (cores : t.cores = s.cores := by rfl)
    (metas : t.sealMeta = s.sealMeta := by rfl) (limits : t.limits = s.limits := by rfl)
    (ctxs : t.ctxs = s.ctxs := by rfl) (mem : t.mem.wf = true) : t.Tidy := by
  rw [State.tidy_iff, cores, metas, limits, ctxs]
  exact ⟨mem, (State.tidy_iff.1 h).2⟩

/-- An update of the block of one frame keeps it. -/
theorem State.Tidy.withMeta {s : State} (h : s.Tidy) {f : Nat} {m : Meta} :
    State.Tidy { s with sealMeta := SMap.set Meta.init s.sealMeta f m } :=
  ⟨h.mem, h.scr, SMap.wf_set h.metas _ _, h.limits, h.queues⟩

/-- So does an update that replaces a context by one with the same queues. -/
theorem State.Tidy.withCtx {s t : State} (h : s.Tidy) {c : CtxId} {x : Ctx}
    (ctxs : t.ctxs = s.ctxs.set c.val x c.isLt := by rfl) (queues : x.queues = (s.ctx c).queues := by rfl)
    (mem : t.mem = s.mem := by rfl) (cores : t.cores = s.cores := by rfl) (metas : t.sealMeta = s.sealMeta := by rfl)
    (limits : t.limits = s.limits := by rfl) : t.Tidy := by
  rw [State.tidy_iff, mem, cores, metas, limits, ctxs]
  exact State.tidy_iff.1 (h.setCtx (x := x) (queues ▸ h.queues c))

/-- A core put back with its scratchpad as it was. -/
theorem State.Tidy.putCore {s : State} (h : s.Tidy) {c : CoreId} {x : Core} (scr : x.scr = (s.core c).scr := by rfl) :
    (s.setCore c x).Tidy := h.setCore (scr ▸ h.scr c)

/-- A context put back with its queues as they were. -/
theorem State.Tidy.putCtx {s : State} (h : s.Tidy) {c : CtxId} {x : Ctx} (queues : x.queues = (s.ctx c).queues := by rfl) :
    (s.setCtx c x).Tidy := h.setCtx (queues ▸ h.queues c)

theorem State.tidy_ite {p : Prop} [Decidable p] {s t : State} (hs : p → s.Tidy) (ht : ¬p → t.Tidy) :
    (if p then s else t).Tidy := by
  split
  · exact hs ‹_›
  · exact ht ‹_›

theorem State.tidy_dite {p : Prop} [Decidable p] {f : p → State} {g : ¬p → State} (hf : ∀ hp, (f hp).Tidy)
    (hg : ∀ hn, (g hn).Tidy) : (if hp : p then f hp else g hp).Tidy := by
  split
  · exact hf _
  · exact hg _

theorem Core.keepOld_scr (x : Core) (a : Nat) : (x.keepOld a).scr = x.scr := by
  unfold Core.keepOld
  split <;> rfl

/-- A fold whose every round leaves the scratchpad alone leaves it alone. -/
theorem Core.foldl_scr {α : Type} {f : Core → α → Core} (hf : ∀ y a, (f y a).scr = y.scr) {l : List α} {x : Core} :
    (l.foldl f x).scr = x.scr := by
  induction l generalizing x with
  | nil => rfl
  | cons a l ih => exact ih.trans (hf x a)

theorem Core.keepOlds_scr (x : Core) (a n : Nat) : (x.keepOlds a n).scr = x.scr :=
  Core.foldl_scr fun y _ => y.keepOld_scr _

/-- A fold whose every round keeps the canonical form keeps it. -/
theorem State.Tidy.foldl {α : Type} {s : State} (h : s.Tidy) {f : State → α → State} {l : List α}
    (hf : ∀ t x, t.Tidy → (f t x).Tidy) : (l.foldl f s).Tidy := by
  induction l generalizing s with
  | nil => exact h
  | cons x l ih => exact ih (hf s x h)

end Sys2Proof.Machine
end

section
/-! SUPPORT. The canonical form in what an operation answers: the states that the answer holds are tidy, and each is found
again where the answer is known. -/

namespace Sys2Proof.Machine

/-- If a step ends in a next state, that state is tidy. -/
def ResTidy : Res → Prop
  | .next s => s.Tidy
  | _ => True

theorem ResTidy.next {r : Res} {t} (h : ResTidy r) (e : r = .next t) : t.Tidy := by subst e; exact h

theorem ResTidy.ite {p : Prop} [Decidable p] {a b : Res} (ha : p → ResTidy a) (hb : ¬p → ResTidy b) :
    ResTidy (if p then a else b) := by
  split
  · exact ha ‹_›
  · exact hb ‹_›

/-- The state of a pair. -/
def FstTidy {α : Type} (x : State × α) : Prop := x.1.Tidy

theorem FstTidy.fst {α : Type} {x : State × α} (h : FstTidy x) : x.1.Tidy := h

/-- The state, where there is one. -/
def OptTidy : Option State → Prop
  | some s => s.Tidy
  | none => True

theorem OptTidy.some {x : Option State} {t} (h : OptTidy x) (e : x = some t) : t.Tidy := by subst e; exact h

theorem OptTidy.getD {x : Option State} {s : State} (h : OptTidy x) (hs : s.Tidy) : (x.getD s).Tidy := by
  cases x
  exacts [hs, h]

/-- The state of an operation that succeeds. -/
def OkTidy {ε : Type} : Except ε State → Prop
  | .ok s => s.Tidy
  | .error _ => True

theorem OkTidy.ok {ε : Type} {x : Except ε State} {t} (h : OkTidy x) (e : x = .ok t) : t.Tidy := by subst e; exact h

/-- The state of an operation that fails. -/
def ErrTidy {α : Type} : Except State α → Prop
  | .ok _ => True
  | .error s => s.Tidy

theorem ErrTidy.error {α : Type} {x : Except State α} {t} (h : ErrTidy x) (e : x = .error t) : t.Tidy := by
  subst e; exact h

/-- The state of an operation that succeeds with a value. -/
def OkFstTidy {ε α : Type} : Except ε (State × α) → Prop
  | .ok x => x.1.Tidy
  | .error _ => True

theorem OkFstTidy.ok {ε α : Type} {x : Except ε (State × α)} {t a} (h : OkFstTidy x) (e : x = .ok (t, a)) : t.Tidy := by
  subst e; exact h

def RecRes.Tidy : RecRes → Prop
  | .done s | .wait s => s.Tidy

theorem RecRes.Tidy.done {x : RecRes} {t} (h : x.Tidy) (e : x = .done t) : t.Tidy := by subst e; exact h

theorem RecRes.Tidy.wait {x : RecRes} {t} (h : x.Tidy) (e : x = .wait t) : t.Tidy := by subst e; exact h

def Escape.Tidy : Escape → Prop
  | .go s | .stall s => s.Tidy
  | _ => True

theorem Escape.Tidy.go {x : Escape} {t} (h : x.Tidy) (e : x = .go t) : t.Tidy := by subst e; exact h

theorem Escape.Tidy.stall {x : Escape} {t} (h : x.Tidy) (e : x = .stall t) : t.Tidy := by subst e; exact h

def Got.Tidy : Got → Prop
  | .ok s _ | .stay s | .trap s _ _ => s.Tidy

theorem Got.Tidy.ok {x : Got} {t l} (h : x.Tidy) (e : x = .ok t l) : t.Tidy := by subst e; exact h

theorem Got.Tidy.stay {x : Got} {t} (h : x.Tidy) (e : x = .stay t) : t.Tidy := by subst e; exact h

theorem Got.Tidy.trap {x : Got} {t c a} (h : x.Tidy) (e : x = .trap t c a) : t.Tidy := by subst e; exact h

def PeerGot.Tidy : PeerGot → Prop
  | .wait s => s.Tidy
  | _ => True

theorem PeerGot.Tidy.wait {x : PeerGot} {t} (h : x.Tidy) (e : x = .wait t) : t.Tidy := by subst e; exact h

def Elems.Tidy : Elems → Prop
  | .ok s _ | .stay s | .trap s _ _ => s.Tidy

theorem Elems.Tidy.ok {x : Elems} {t l} (h : x.Tidy) (e : x = .ok t l) : t.Tidy := by subst e; exact h

theorem Elems.Tidy.stay {x : Elems} {t} (h : x.Tidy) (e : x = .stay t) : t.Tidy := by subst e; exact h

theorem Elems.Tidy.trap {x : Elems} {t c a} (h : x.Tidy) (e : x = .trap t c a) : t.Tidy := by subst e; exact h

def CRead.Tidy : CRead → Prop
  | .stay s => s.Tidy
  | _ => True

theorem CRead.Tidy.stay {x : CRead} {t} (h : x.Tidy) (e : x = .stay t) : t.Tidy := by subst e; exact h

def CWrite.Tidy : CWrite → Prop
  | .ok s | .stay s => s.Tidy
  | _ => True

theorem CWrite.Tidy.ok {x : CWrite} {t} (h : x.Tidy) (e : x = .ok t) : t.Tidy := by subst e; exact h

theorem CWrite.Tidy.stay {x : CWrite} {t} (h : x.Tidy) (e : x = .stay t) : t.Tidy := by subst e; exact h

def CardRead.Tidy : CardRead → Prop
  | .wait s => s.Tidy
  | _ => True

theorem CardRead.Tidy.wait {x : CardRead} {t} (h : x.Tidy) (e : x = .wait t) : t.Tidy := by subst e; exact h

def Considered.Tidy : Considered → Prop
  | .ok s _ | .wait s => s.Tidy
  | _ => True

theorem Considered.Tidy.ok {x : Considered} {t k} (h : x.Tidy) (e : x = .ok t k) : t.Tidy := by subst e; exact h

theorem Considered.Tidy.wait {x : Considered} {t} (h : x.Tidy) (e : x = .wait t) : t.Tidy := by subst e; exact h

def RecRead.Tidy : RecRead → Prop
  | .wait s => s.Tidy
  | _ => True

theorem RecRead.Tidy.wait {x : RecRead} {t} (h : x.Tidy) (e : x = .wait t) : t.Tidy := by subst e; exact h

def IntakeEnd.Tidy : IntakeEnd → Prop
  | .done s | .wait s _ _ | .fail s => s.Tidy

theorem IntakeEnd.Tidy.done {x : IntakeEnd} {t} (h : x.Tidy) (e : x = .done t) : t.Tidy := by subst e; exact h

theorem IntakeEnd.Tidy.wait {x : IntakeEnd} {t n g} (h : x.Tidy) (e : x = .wait t n g) : t.Tidy := by subst e; exact h

theorem IntakeEnd.Tidy.fail {x : IntakeEnd} {t} (h : x.Tidy) (e : x = .fail t) : t.Tidy := by subst e; exact h

end Sys2Proof.Machine
end

section
/-! SUPPORT. The scratchpad of a core under the changes of its rows: the canonical form that they keep. -/

namespace Sys2Proof.Machine

theorem wf_foldl {α β : Type} (p : β → Memory) {f : β → α → β} (hf : ∀ y a, (p y).wf = true → (p (f y a)).wf = true)
    {l : List α} {x : β} (h : (p x).wf = true) : (p (l.foldl f x)).wf = true := by
  induction l generalizing x with
  | nil => exact h
  | cons a l ih => exact ih (hf x a h)

theorem Memory.wf_foldl {α : Type} {f : Memory → α → Memory} (hf : ∀ m a, m.wf = true → (f m a).wf = true)
    {l : List α} {m : Memory} (h : m.wf = true) : (l.foldl f m).wf = true := by
  induction l generalizing m with
  | nil => exact h
  | cons a l ih => exact ih (hf m a h)

theorem wf_loseRows {n m b lo hi} (h : Memory.wf m = true) : (loseRows n m b lo hi).wf = true :=
  Memory.wf_foldl (fun _ _ hy => Memory.wf_write hy _ _) (SMap.wf_filter _ h)

theorem Core.setMap_scr (x : Core) (b r p : Nat) : (x.setMap b r p).scr = x.scr := rfl

theorem wf_hostRow {m line wr} (h : Memory.wf m = true) : (hostRow m line wr).wf = true := by
  unfold hostRow
  split
  exacts [Memory.wf_writeBytes h, h]

theorem Core.applyGrade_wf {x : Core} {n lvl b p g} (h : x.scr.wf = true) : (x.applyGrade n lvl b p g).scr.wf = true := by
  unfold Core.applyGrade
  dsimp only
  split
  · exact h
  · split
    · exact h
    · split
      · exact h
      · refine wf_loseRows ?_
        split <;> exact h

theorem Core.moveRow_scr (x : Core) (b u u2 l2 r : Nat) : (x.moveRow b u u2 l2 r).scr = x.scr := by
  unfold Core.moveRow
  dsimp only
  split
  · rfl
  · split
    · rfl
    · split <;> rfl

theorem Core.evacuate_scr (x : Core) (l l2 b : Nat) : (x.evacuate l l2 b).scr = x.scr :=
  Core.foldl_scr fun y _ => y.moveRow_scr ..

theorem Core.relevel_wf {x : Core} {n l l2} (h : x.scr.wf = true) : (x.relevel n l l2).scr.wf = true := by
  refine wf_foldl Core.scr (fun y b hy => ?_) h
  dsimp only
  split
  · exact wf_loseRows hy
  · refine wf_foldl Core.scr (fun z k hz => ?_) hy
    split <;> exact hz

theorem Core.freshMap_scr (x : Core) (b l : Nat) : (x.freshMap b l).scr = x.scr :=
  Core.foldl_scr fun y r => y.setMap_scr b r _

/-- A reset empties the scratchpad. -/
theorem Core.afterReset_scr (x : Core) : x.afterReset.scr = [] :=
  Core.foldl_scr fun y b => y.freshMap_scr b 6

theorem Core.loseAll_wf {x : Core} {n} (h : x.scr.wf = true) : (x.loseAll n).scr.wf = true := by
  unfold Core.loseAll
  dsimp only
  exact Memory.wf_foldl (fun _ _ hy => wf_loseRows hy) h

end Sys2Proof.Machine
end

section
/-! SUPPORT. The canonical form under every function of the model that gives a state: one lemma per function, in the order of
the model's files, each from the lemmas of the functions that it calls. A lemma `State.Tidy.f` speaks of `State.f`, a lemma
`f_tidy` of another function `f`. -/

namespace Sys2Proof.Machine

-- one theorem after the other: the lemmas are many, and each thread reserves its stack
set_option Elab.async false

variable {s : State}

/-! ## Access and Cache -/

theorem State.Tidy.scrWrite {c a bs} (h : s.Tidy) : (s.scrWrite c a bs).Tidy :=
  h.setCore (Memory.wf_writeBytes (by rw [Core.keepOlds_scr]; exact h.scr c))

theorem State.Tidy.needFill {f} (h : s.Tidy) : (s.needFill f).Tidy := State.tidy_ite (fun _ => h) fun _ => h.same

theorem State.Tidy.needWalk {clu part ctx va u} (h : s.Tidy) : (s.needWalk clu part ctx va u).Tidy := by
  unfold State.needWalk
  dsimp only
  split
  · exact h
  · split
    exacts [h, h.setCluster]

theorem State.Tidy.hostBack {line l} (h : s.Tidy) : (s.hostBack line l).Tidy :=
  h.withMem (mem := Memory.wf_writeBytes h.mem)

theorem State.Tidy.needReseal {frame victim sweep} (h : s.Tidy) : (s.needReseal frame victim sweep).Tidy :=
  State.tidy_ite (fun _ => h) fun _ => h.same

theorem State.Tidy.makeRoom {ctx line} (h : s.Tidy) : (s.makeRoom ctx line).Tidy := by
  unfold State.makeRoom
  split
  · exact h
  · split
    · exact h
    · split
      · exact h.same
      · split
        · split
          exacts [h.hostBack, h]
        · exact h.needReseal

theorem State.Tidy.makeRooms {ctx frame} (h : s.Tidy) : (s.makeRooms ctx frame).Tidy :=
  h.foldl fun _ _ ht => ht.makeRoom

theorem State.Tidy.install {ctx frame poison} (h : s.Tidy) : (s.install ctx frame poison).Tidy := by
  unfold State.install
  exact h.same

theorem State.Tidy.lineWrite {core pa bs} (h : s.Tidy) : (s.lineWrite core pa bs).Tidy := by
  unfold State.lineWrite
  dsimp only
  split
  exacts [h, h.same]

theorem State.Tidy.touch {pa} (h : s.Tidy) : (s.touch pa).Tidy := by
  unfold State.touch
  split
  exacts [h, h.same]

theorem State.Tidy.hostCache {ctx pa mesi} (h : s.Tidy) : (s.hostCache ctx pa mesi).Tidy := by
  unfold State.hostCache
  dsimp only
  split
  · split
    exacts [h, h.same]
  · split
    exacts [h.makeRoom, h.makeRoom.same]

theorem State.Tidy.commit {ctx core pa bs} (h : s.Tidy) : (s.commit ctx core pa bs).Tidy := by
  unfold State.commit
  exact State.tidy_ite
    (fun _ => State.tidy_ite (fun _ => h.hostCache.lineWrite) fun _ =>
    h.hostCache.withMem (mem := Memory.wf_writeBytes h.hostCache.mem)) fun _ => h.lineWrite

/-! ## Paging -/

theorem State.Tidy.send {o} (h : s.Tidy) : (s.send o).Tidy := h.same

theorem State.Tidy.irq {fn vector} (h : s.Tidy) : (s.irq fn vector).Tidy := by
  unfold State.irq
  exact State.tidy_ite (fun _ => h.same) fun _ => h.send

theorem State.Tidy.pf0Error (h : s.Tidy) : s.pf0Error.Tidy := h.same.irq

theorem State.Tidy.dropEarly (h : s.Tidy) : s.dropEarly.Tidy := h.same

theorem State.Tidy.announce {fn vector} (h : s.Tidy) : (s.announce fn vector).Tidy :=
  State.tidy_ite (fun _ => h.irq) fun _ => h.same

theorem State.Tidy.vfIrq {c vector} (h : s.Tidy) : (s.vfIrq c vector).Tidy := by
  unfold State.vfIrq
  split
  exacts [h.announce, h]

theorem State.Tidy.walkUsed {ctx va} (h : s.Tidy) : (s.walkUsed ctx va).Tidy := by
  unfold State.walkUsed
  split
  · exact h
  · split
    exacts [h, h.foldl fun _ _ ht => ht.touch]

theorem State.Tidy.devDrawn {ctx va n} (h : s.Tidy) : (s.devDrawn ctx va n).Tidy :=
  State.Tidy.foldl (h.same.foldl fun _ _ ht => ht.walkUsed) fun _ _ ht => ht.touch

theorem State.Tidy.ownFill {ctx frame} (h : s.Tidy) : (s.ownFill ctx frame).Tidy :=
  State.tidy_ite (fun _ => h.needFill) fun _ => h

theorem State.Tidy.devWait {ctx r} (h : s.Tidy) : (s.devWait ctx r).Tidy := by
  unfold State.devWait
  split
  exacts [h.ownFill, h]

/-! ## Node -/

theorem State.Tidy.semSet {n x} (h : s.Tidy) : (s.semSet n x).Tidy := h.setCluster

theorem State.Tidy.note {m} (h : s.Tidy) : (s.note m).Tidy := h.same

theorem State.Tidy.semOr {n x} (h : s.Tidy) : (s.semOr n x).Tidy := h.semSet.note

theorem State.Tidy.semClear {n mask} (h : s.Tidy) : (s.semClear n mask).Tidy := h.semSet.note

theorem State.Tidy.semPacket {n x} (h : s.Tidy) : (s.semPacket n x).Tidy := h.semSet

theorem State.Tidy.ctrSet {n x} (h : s.Tidy) : (s.ctrSet n x).Tidy := h.setCluster

theorem State.Tidy.ctrDown {n} (h : s.Tidy) : (s.ctrDown n).Tidy :=
  State.tidy_ite (fun _ => h.setCluster) fun _ => h.ctrSet

theorem State.Tidy.ctrDec {n} (h : s.Tidy) : (s.ctrDec n).Tidy := h.ctrDown.note

theorem State.Tidy.ctrPacket {n x} (h : s.Tidy) : (s.ctrPacket n x).Tidy :=
  h.setCluster.ctrSet.foldl fun _ _ ht => ht.ctrDown

theorem State.Tidy.addBal {i x} (h : s.Tidy) : (s.addBal i x).Tidy := h.setIsland

theorem State.Tidy.addRem {c x} (h : s.Tidy) : (s.addRem c x).Tidy := h.putCtx

theorem State.Tidy.drawReserve {i x} (h : s.Tidy) : (s.drawReserve i x).Tidy := h.setIsland

theorem State.Tidy.spend {c x} (h : s.Tidy) : (s.spend c x).Tidy := by
  unfold State.spend
  split
  · exact h
  · split
    · exact h
    · split
      exacts [h.setCard.drawReserve, h.setCard]

theorem State.Tidy.spendKind {c kind} (h : s.Tidy) : (s.spendKind c kind).Tidy := h.spend.same

theorem State.Tidy.meterBlock {core} (h : s.Tidy) : (s.meterBlock core).Tidy := by
  unfold State.meterBlock
  dsimp only
  split
  · exact h.same
  · split
    · exact h.same
    · split
      · exact h.same
      · split
        exacts [h.setCard.drawReserve, h.setCard.addBal]

theorem State.Tidy.hostDraw {ctx kind pa} (h : s.Tidy) : (s.hostDraw ctx kind pa).Tidy :=
  State.tidy_ite (fun _ => h.meterBlock) fun _ => h

theorem State.Tidy.needSnoop {line} (h : s.Tidy) : (s.needSnoop line).Tidy :=
  State.tidy_ite (fun _ => h) fun _ => h.same.send

theorem State.Tidy.forGate {ctx core g} (h : s.Tidy) : (s.forGate ctx core g).Tidy := by
  unfold State.forGate
  split
  · split
    exacts [h.needFill, h.ownFill]
  · exact h.needSnoop
  · exact h.makeRoom
  · exact h

theorem State.Tidy.sevLose (h : s.Tidy) : s.sevLose.Tidy := h.same.note

theorem State.Tidy.recDone {r} (h : s.Tidy) : (s.recDone r).Tidy := by
  unfold State.recDone
  dsimp only
  split
  · exact State.Tidy.irq (by
      split
      exacts [h.same, h.setPart.irq, h])
  · split
    exacts [h.same, h.setPart.irq, h]

theorem State.Tidy.recTry {r} (h : s.Tidy) : (s.recTry r).Tidy := by
  unfold State.recTry
  split
  · exact h.recDone
  · split
    · exact State.tidy_ite (fun _ => h.sevLose) fun _ => h.pf0Error
    · exact h.ownFill
    · split
      exacts [h.hostDraw.commit.recDone, h.pf0Error, h.forGate]

theorem State.Tidy.recLoop {n} (h : s.Tidy) : (s.recLoop n).Tidy := by
  induction n generalizing s with
  | zero => exact h
  | succ n ih =>
    unfold State.recLoop
    split
    · exact h
    · split
      · exact ih (h.recTry.done ‹_›).same
      · exact h.recTry.wait ‹_›

theorem State.Tidy.drainRecs (h : s.Tidy) : s.drainRecs.Tidy := h.recLoop

theorem State.Tidy.record {dst bytes msg} (h : s.Tidy) : (s.record dst bytes msg).Tidy := h.same.drainRecs

theorem State.Tidy.commitAll {ctx core l} (h : s.Tidy) : (s.commitAll ctx core l).Tidy :=
  h.foldl fun _ _ ht => ht.commit

theorem State.Tidy.escape {core j} (h : s.Tidy) : (s.escape core j).Tidy := by
  unfold State.escape
  split
  · exact h
  · split
    · exact h
    · split
      · trivial
      · exact h.forGate
      · exact h.commitAll.setCard

/-! ## Issue -/

theorem State.Tidy.fetchMissAt {c j e pc f} (h : s.Tidy) : (s.fetchMissAt c j e pc f).Tidy := by
  unfold State.fetchMissAt
  split
  · exact h
  · exact h
  · split
    exacts [h, h.needWalk]
  · exact h.needFill
  · exact h.setJob
  · exact h.setJob

theorem State.Tidy.fetchMiss {c j e f} (h : s.Tidy) : (s.fetchMiss c j e f).Tidy := h.fetchMissAt

theorem State.Tidy.fetchRegion {c j i} (h : s.Tidy) : (s.fetchRegion c j i).Tidy := by
  unfold State.fetchRegion
  split
  · split
    exacts [h.fetchMissAt, h]
  · exact h

theorem withJob_tidy {e k} (hk : ∀ c j, (k c j).Tidy) : ResTidy (withJob s e k) := by
  unfold withJob
  split
  · trivial
  · split
    exacts [hk _ _, trivial]

/-- The frame of an instruction keeps the canonical form if the effect keeps that of the state in which it issues. -/
theorem issueState_tidy {e i occ eff c j} (h : s.Tidy) (heff : ∀ c j, (eff s c j).Tidy) :
    (issueState s e i occ eff c j).Tidy := by
  unfold issueState
  split
  · exact h.setJob
  · exact h.setJob.fetchRegion
  · exact h.setJob
  · exact h.setJob
  · split
    · exact State.Tidy.setJob (h.setCore (x := (s.core c).clearAdder) (h.scr _))
    · exact heff _ _

theorem issue_tidy {e i occ eff} (h : s.Tidy) (heff : ∀ c j, (eff s c j).Tidy) : ResTidy (issue s e i occ eff) :=
  withJob_tidy fun _ _ => issueState_tidy h heff

theorem issueJob_tidy {e i occ f} (h : s.Tidy) : ResTidy (issueJob s e i occ f) :=
  issue_tidy h fun _ _ => h.setJob

/-! ## Control and Fetch -/

theorem State.Tidy.slateMeet {cores group late} (h : s.Tidy) : (s.slateMeet cores group late).Tidy := by
  unfold State.slateMeet
  dsimp only
  split
  · exact h
  · split
    · split
      · exact h.foldl fun _ _ ht => ht.setJob
      · split
        exacts [h.setJob, h]
    · exact h

theorem execSlate_tidy {t g k} (h : s.Tidy) : ResTidy (execSlate t g k s) :=
  issue_tidy h fun _ _ => State.tidy_ite (fun _ => h) fun _ => h.setJob.slateMeet

theorem State.Tidy.meetAgain {cores} (h : s.Tidy) : (s.meetAgain cores).Tidy :=
  State.Tidy.slateMeet (h.foldl fun _ _ ht => ht.setJob.slateMeet)

theorem branchVal_tidy {i o test} (h : s.Tidy) : ResTidy (branchVal i o test s) :=
  issue_tidy h fun _ _ => by
    dsimp only
    exact h.setJob

theorem branchPred_tidy {i p o sense} (h : s.Tidy) : ResTidy (branchPred i p o sense s) :=
  issue_tidy h fun _ _ => h.setJob

theorem callTo_tidy {c j e t} (h : s.Tidy) : (callTo s c j e t).Tidy := by
  unfold callTo
  dsimp only
  split
  · exact h.setJob
  · split
    · exact h.setJob
    · split
      exacts [h.setJob, h, h.scrWrite.setJob]

theorem execCallr_tidy {a} (h : s.Tidy) : ResTidy (execCallr a s) :=
  issue_tidy h fun _ _ => by
    dsimp only
    split
    exacts [h.setJob, callTo_tidy h]

theorem execRet_tidy (h : s.Tidy) : ResTidy (execRet s) :=
  issue_tidy h fun _ _ => by
    dsimp only
    split
    · split <;> exact h.setJob
    · split
      · exact h.setJob
      · split
        · exact h.setJob
        · exact h
        · split <;> exact h.setJob

theorem State.Tidy.fetchUse {c j e} (h : s.Tidy) : (s.fetchUse c j e).Tidy := by
  unfold State.fetchUse
  dsimp only
  split
  · exact State.Tidy.touch (State.tidy_ite (fun _ => h.hostDraw.hostCache) fun _ => h.hostDraw)
  · exact h

/-! ## Energy -/

theorem State.Tidy.recharge {c j new} (h : s.Tidy) : (s.recharge c j new).Tidy := by
  unfold State.recharge
  dsimp only
  split
  exacts [h, h.setCard.addBal]

theorem State.Tidy.settle {clu slot isl} (h : s.Tidy) : (s.settle clu slot isl).Tidy := by
  unfold State.settle
  dsimp only
  split
  exacts [h, h.setCard.addBal.addRem]

theorem State.Tidy.askStop {clu slot cause} (h : s.Tidy) : (s.askStop clu slot cause).Tidy := by
  unfold State.askStop
  dsimp only
  split
  · exact h
  · split
    · exact h
    · exact State.Tidy.setCard (h.foldl fun _ _ ht => by
          split
          exacts [ht.setJob, ht])

/-! ## CtrlC and Scalar -/

theorem setPredBy_tidy {i p f} (h : s.Tidy) : ResTidy (setPredBy i p f s) := issueJob_tidy h

theorem State.Tidy.stageSig {j v b} (h : s.Tidy) : (s.stageSig j v b).Tidy := by
  unfold State.stageSig
  split
  exacts [h.setCard, h]

theorem execSig_tidy {a b} (h : s.Tidy) : ResTidy (execSig a b s) :=
  issue_tidy h fun _ _ => by
    dsimp only
    split
    · exact h.setJob
    · split
      · exact h.setJob
      · split
        · exact h.stageSig.setJob
        · split
          · exact h
          · split
            · exact h.setJob
            · exact h.escape.stall ‹_›
            · exact State.Tidy.setJob (State.Tidy.semOr (h.escape.go ‹_›))

theorem execTrap_tidy {k} (h : s.Tidy) : ResTidy (execTrap k s) :=
  issue_tidy h fun _ _ => State.tidy_ite (fun _ => h.setJob) fun _ => h.setJob

theorem execEret_tidy (h : s.Tidy) : ResTidy (execEret s) :=
  issue_tidy h fun _ _ => State.tidy_ite (fun _ => h.setJob) fun _ => h.setJob

theorem outsideC_tidy {i d f} (h : s.Tidy) : ResTidy (outsideC i d f s) := issue_tidy h fun _ _ => h.setJob

theorem execVarreg_tidy {q k} (h : s.Tidy) : ResTidy (execVarreg q k s) :=
  issue_tidy h fun _ _ => by
    dsimp only
    split <;> exact h.setJob

theorem State.Tidy.yieldCard {j} (h : s.Tidy) : (s.yieldCard j).Tidy := h.askStop

theorem State.Tidy.capShort {c j} (h : s.Tidy) : (s.capShort c j).Tidy := h.same.setJob

theorem phaseTry_tidy {c j k since} (h : s.Tidy) : (phaseTry s c j k since).Tidy := by
  unfold phaseTry
  dsimp only
  split
  · exact h.setJob
  · exact h.setJob
  · exact State.Tidy.setJob (State.tidy_ite (fun _ => h) fun _ => h.recharge)
  · split
    exacts [h.setJob, h.capShort]

theorem execPhase_tidy {k} (h : s.Tidy) : ResTidy (execPhase k s) :=
  issue_tidy h fun _ _ => State.tidy_ite (fun _ => h.setJob.yieldCard) fun _ => phaseTry_tidy h

theorem State.Tidy.retryPhases {i} (h : s.Tidy) : (s.retryPhases i).Tidy :=
  h.foldl fun _ _ ht => State.tidy_ite (fun _ => by
    split
    · split
      exacts [phaseTry_tidy ht, ht]
    · exact ht) fun _ => ht

theorem execYield_tidy (h : s.Tidy) : ResTidy (execYield s) :=
  issue_tidy h fun _ _ => State.tidy_ite (fun _ => h.setJob) fun _ => h.setJob.yieldCard

theorem alu_tidy {i} (h : s.Tidy) : ResTidy (alu i s) := issueJob_tidy h

/-! ## Link -/

theorem State.Tidy.setPort {p x} (h : s.Tidy) : (s.setPort p x).Tidy := h.same

theorem State.Tidy.holdFlit {p f} (h : s.Tidy) : (s.holdFlit p f).Tidy := by
  unfold State.holdFlit
  exact State.tidy_ite (fun _ => h.setPort) fun _ => h

theorem State.Tidy.sendFlit {p f} (h : s.Tidy) : (s.sendFlit p f).Tidy := by
  unfold State.sendFlit
  dsimp only
  split
  · split
    exacts [h.same.setPort.send, h.holdFlit]
  · exact h.holdFlit

theorem State.Tidy.message {d vc o fields} (h : s.Tidy) : (s.message d vc o fields).Tidy := by
  unfold State.message
  exact State.tidy_ite (fun _ => h) fun _ => h.send.sendFlit

theorem State.Tidy.sendAsk {d r} (h : s.Tidy) : (s.sendAsk d r).Tidy := h.message

theorem State.Tidy.sendReply {d tag bs poison} (h : s.Tidy) : (s.sendReply d tag bs poison).Tidy := h.message

/-! ## Steward -/

theorem State.Tidy.setQueue {c q x} (h : s.Tidy) : (s.setQueue c q x).Tidy :=
  h.setCtx (by exact SMap.wf_set (h.queues _) _ _)

theorem State.Tidy.suspendQueue {c q} (h : s.Tidy) : (s.suspendQueue c q).Tidy := by
  unfold State.suspendQueue
  exact State.tidy_ite (fun _ => h.setQueue.note) fun _ => h.setQueue

theorem State.Tidy.suspendAll {c} (h : s.Tidy) : (s.suspendAll c).Tidy := h.foldl fun _ _ ht => ht.suspendQueue

/-- A steward instruction keeps the canonical form if its start and its poll do. -/
theorem stewardOp_tidy {i start poll} (h : s.Tidy) (hs : ∀ c j l, (start s c j l).Tidy) (hp : ∀ c j l,
  (poll s c j l).Tidy) :
    ResTidy (stewardOp i start poll s) := by
  refine withJob_tidy fun c j => ?_
  split
  · exact hp _ _ _
  · exact issueState_tidy h fun _ _ => hs _ _ _

theorem State.Tidy.notice {x f} (h : s.Tidy) : (s.notice x f).Tidy :=
  h.foldl fun _ _ ht => by
    split
    exacts [ht.setJob, ht]

theorem State.Tidy.preempt {c by_ id} (h : s.Tidy) : (s.preempt c by_ id).Tidy :=
  (h.suspendAll.foldl fun _ _ ht => ht.notice.askStop).putCtx

theorem execPreempt_tidy {d a} (h : s.Tidy) : ResTidy (execPreempt d a s) :=
  stewardOp_tidy h (fun _ _ _ => by
    split
    · exact h.setJob
    · split
      · exact h.setJob
      · split
        · exact h.setJob
        · split
          exacts [h.suspendAll.setJob, h.preempt.setJob]) fun _ _ _ => by
    dsimp only
    split
    · exact h.setJob
    · split
      exacts [h.putCtx.setJob, h]

theorem execQsusp_tidy {d a} (h : s.Tidy) : ResTidy (execQsusp d a s) :=
  stewardOp_tidy h (fun _ _ _ => by
    dsimp only
    split
    · exact h.setJob
    · split
      · exact h.setJob
      · split <;> exact h.suspendQueue.setJob) fun _ _ _ => by
      split
      · exact h.setJob
      · split
        exacts [h, h.setJob]

theorem execQres_tidy {d a} (h : s.Tidy) : ResTidy (execQres d a s) :=
  stewardOp_tidy h (fun _ _ _ => by
    dsimp only
    split
    · exact h.setJob
    · split
      exacts [h.setJob, h.setJob, h.setQueue.setJob, h.setJob]) fun _ _ _ => h

theorem execSemmap_tidy {a b} (h : s.Tidy) : ResTidy (execSemmap a b s) :=
  issue_tidy h fun _ _ => by
    dsimp only
    split
    exacts [h.setJob, h.setJob, h.putCtx.setJob]

theorem execDrainm_tidy {d a} (h : s.Tidy) : ResTidy (execDrainm d a s) :=
  stewardOp_tidy h (fun _ _ _ => by
    dsimp only
    split
    · split
      · exact h.setJob
      · split <;> exact h.setJob
    · split
      · split <;> exact h.setJob
      · split
        exacts [h.setJob, h]) fun _ _ _ => State.tidy_ite (fun _ => h.setJob) fun _ => h

theorem State.Tidy.recordAll {ctx va n bs} (h : s.Tidy) : (s.recordAll ctx va n bs).Tidy := by
  induction n generalizing s va bs with
  | zero => exact h
  | succ n ih => exact ih h.record

theorem State.Tidy.seedStopped {x member seed} (h : s.Tidy) : OptTidy (s.seedStopped x member seed) := by
  unfold State.seedStopped
  dsimp only
  split
  · trivial
  · split
    · exact h.devDrawn.recordAll
    · split
      · trivial
      · exact h

theorem State.Tidy.seedWait {x member} (h : s.Tidy) : (s.seedWait x member).Tidy := h.drainRecs.devWait

theorem execRseed_tidy {a b} (h : s.Tidy) : ResTidy (execRseed a b s) := by
  refine issue_tidy h fun c j => ?_
  dsimp only
  split
  · split
    exacts [h.setJob, h.setJob]
  · split
    · exact h.setJob
    · split
      · exact h.setJob.setJob
      · split
        · split
          · exact State.Tidy.setJob (h.seedStopped.some ‹_›)
          · exact h.seedWait
        · exact h.setJob

/-! ## Global -/

theorem State.Tidy.sideFlush {c} (h : s.Tidy) : (s.sideFlush c).Tidy := h.putCore

theorem State.Tidy.sideFlushAll {c j} (h : s.Tidy) : (s.sideFlushAll c j).Tidy := h.foldl fun _ _ ht => ht.sideFlush

theorem State.Tidy.sideDrop {c j pa} (h : s.Tidy) : (s.sideDrop c j pa).Tidy := h.putCore

theorem State.Tidy.sideUpdate {c j pa bs} (h : s.Tidy) : (s.sideUpdate c j pa bs).Tidy := by
  unfold State.sideUpdate
  dsimp only
  split
  exacts [h, h.putCore]

theorem State.Tidy.sideFill {c j pa r} (h : s.Tidy) : (s.sideFill c j pa r).Tidy :=
  State.tidy_ite (fun _ => h) fun _ => h.withCore

theorem State.Tidy.missA {c j va a} (h : s.Tidy) : (s.missA c j va a).Tidy := by
  unfold State.missA
  dsimp only
  split
  · split
    · exact h.setJob
    · split
      exacts [h, h.needWalk]
  · exact h.needWalk

theorem State.Tidy.barred {c j a b} (h : s.Tidy) : (s.barred c j a b).Tidy := by
  unfold State.barred
  split
  exacts [h.missA, h.setJob, h.setJob]

theorem State.Tidy.dropPoison {pa} (h : s.Tidy) : (s.dropPoison pa).Tidy := h.same

theorem State.Tidy.lineGet {c j p} (h : s.Tidy) : (s.lineGet c j p).Tidy := by
  unfold State.lineGet
  split
  · exact State.Tidy.touch (State.tidy_ite (fun _ => h.hostCache) fun _ => h)
  · exact h.dropPoison
  · exact h
  · exact h.needFill
  · exact h

theorem State.Tidy.lineRead {c j p} (h : s.Tidy) : (s.lineRead c j p).Tidy := by
  unfold State.lineRead
  split
  exacts [h, h.hostDraw.lineGet]

theorem State.Tidy.sideRows {c j l} (h : s.Tidy) : (s.sideRows c j l).Tidy := by
  induction l generalizing s with
  | nil => exact h
  | cons p ps ih =>
    unfold State.sideRows
    dsimp only
    split
    · next t rs e =>
      have ht : t.Tidy := by
        split at e
        · cases e
          exact h
        · split at e
          · cases e
            exact (h.lineGet.ok ‹_›).sideFill
          · exact h.lineGet.ok e
      split
      exacts [(ih ht).ok ‹_›, ih ht]
    · split
      · exact h
      · split
        exacts [(h.lineGet.ok ‹_›).sideFill, h.lineGet]

theorem State.Tidy.sideRead {c j l} (h : s.Tidy) : (s.sideRead c j l).Tidy := by
  unfold State.sideRead
  dsimp only
  split
  · exact h.needFill
  · split
    exacts [h, h.same.sideRows]

theorem State.Tidy.askOne {c ctx use pa op} (h : s.Tidy) : (s.askOne c ctx use pa op).Tidy := h.same.sendAsk

theorem State.Tidy.askPeer {c ctx use parts} (h : s.Tidy) : (s.askPeer c ctx use parts).Tidy :=
  State.Tidy.foldl (h.foldl fun _ _ ht => ht.meterBlock) fun _ _ ht => ht.askOne

theorem State.Tidy.peerAccess {c j parts} (h : s.Tidy) : (s.peerAccess c j parts).Tidy := by
  unfold State.peerAccess
  dsimp only
  split
  · exact h.askPeer.setJob
  · split
    · exact h
    · trivial
    · trivial

theorem State.Tidy.stageWrite {c j p bs} (h : s.Tidy) : (s.stageWrite c j p bs).Tidy := by
  unfold State.stageWrite
  split
  exacts [h, h.setCard.sideUpdate]

/-! ## CopyGo -/

theorem execCopyGo_tidy {core e value} (h : s.Tidy) : ResTidy (execCopyGo core e value s) := by
  unfold execCopyGo
  split
  · exact h
  · split
    exacts [h, h.setJob]

/-! ## LocalA -/

/-- An access keeps the canonical form if its effect keeps that of the state in which it issues. -/
theorem accessOp_tidy {i eff} (h : s.Tidy) (heff : ∀ c j j1 vs, (eff s c j j1 vs).Tidy) :
    ResTidy (accessOp i eff s) :=
  issue_tidy h fun _ _ => heff _ _ _ _

theorem State.Tidy.doneA {c j} (h : s.Tidy) : (s.doneA c j).Tidy := h.setJob

theorem State.Tidy.giveA {c j d x} (h : s.Tidy) : (s.giveA c j d x).Tidy := h.doneA

/-- An access of a scratchpad keeps the canonical form if its two effects do. -/
theorem State.Tidy.localDo {c j addr g win go} (h : s.Tidy) (hwin : ∀ o, (win o).Tidy) (hgo : ∀ k b, (go k b).Tidy) :
    (s.localDo c j addr g win go).Tidy := by
  unfold State.localDo
  split
  exacts [h.setJob, h, hwin _, hgo _ _]

theorem State.Tidy.scrThen {k b bs c j} (h : s.Tidy) : (s.scrThen k b bs c j).Tidy := h.scrWrite.doneA

theorem execAld_tidy {z d a k} (h : s.Tidy) : ResTidy (execAld z d a k s) :=
  accessOp_tidy h fun _ _ _ _ => h.localDo (fun _ => State.tidy_ite (fun _ => h.giveA) fun _ => h.giveA) fun _ _ =>
    h.giveA

theorem execAst_tidy {z d a k} (h : s.Tidy) : ResTidy (execAst z d a k s) :=
  accessOp_tidy h fun _ _ _ _ => h.localDo (fun _ => State.tidy_ite (fun _ => by
    split
    exacts [h.doneA, h]) fun _ => h.doneA) fun _ _ => h.scrThen

theorem execArd_tidy {q a k} (h : s.Tidy) : ResTidy (execArd q a k s) :=
  accessOp_tidy h fun _ _ _ _ => h.localDo (fun _ => h) fun _ _ => h.doneA

theorem execAwr_tidy {q a k} (h : s.Tidy) : ResTidy (execAwr q a k s) :=
  accessOp_tidy h fun _ _ _ _ => h.localDo (fun _ => h) fun _ _ => h.scrThen

theorem execRld_tidy {z d a k} (h : s.Tidy) : ResTidy (execRld z d a k s) :=
  accessOp_tidy h fun _ _ _ _ => h.localDo (fun _ => h) fun _ _ => h.spendKind.giveA

theorem execRst_tidy {z d a k} (h : s.Tidy) : ResTidy (execRst z d a k s) :=
  accessOp_tidy h fun _ _ _ _ => by
    dsimp only
    split
    · exact h.setJob
    · split
      exacts [h.spendKind.doneA, h]

theorem execWset_tidy {w a k} (h : s.Tidy) : ResTidy (execWset w a k s) :=
  accessOp_tidy h fun c j j1 vs => h.localDo (fun _ => h) fun x b => by
    dsimp only
    split
    · exact h.setJob
    · exact State.tidy_ite (fun _ => h) fun _ => h.doneA

theorem execWadv_tidy {w n} (h : s.Tidy) : ResTidy (execWadv w n s) :=
  accessOp_tidy h fun _ _ _ _ => by
    split
    · exact h.setJob
    · split
      · exact h.setJob
      · split
        exacts [h.setJob, h.doneA]

theorem State.Tidy.rowDone {c j n} (h : s.Tidy) : (s.rowDone c j n).Tidy := by
  unfold State.rowDone
  exact State.tidy_ite (fun _ => h.doneA) fun _ => h.setJob

/-- AFILL and ADRAIN keep the canonical form if the move of a row does. -/
theorem fillOp_tidy {i a w dir row} (h : s.Tidy) (hrow : ∀ c j r b, (row s c j r b).Tidy) :
    ResTidy (fillOp i a w dir row s) := by
  refine issue_tidy h fun c j => ?_
  split
  · exact h.setJob
  · split
    · exact h.setJob
    · split
      · exact h.doneA
      · split
        · exact h.setJob
        · split
          exacts [h, hrow _ _ _ _]

theorem State.Tidy.rowMoved {c j w r n move} (h : s.Tidy) (hm : FstTidy (move s j)) :
    (s.rowMoved c j w r n move).Tidy := by
  unfold State.rowMoved
  split
  exacts [h.setJob, hm.fst.rowDone]

theorem execAfill_tidy {q a w} (h : s.Tidy) : ResTidy (execAfill q a w s) :=
  fillOp_tidy h fun _ _ _ _ => State.tidy_ite (fun _ => h) fun _ => h.rowMoved h.scrWrite

theorem execAdrain_tidy {q a w} (h : s.Tidy) : ResTidy (execAdrain q a w s) :=
  fillOp_tidy h fun _ _ _ _ => State.tidy_ite (fun _ => h) fun _ => State.tidy_ite (fun _ => h) fun _ => h.rowMoved h

theorem State.Tidy.acquire {c j acq sc} (h : s.Tidy) : (s.acquire c j acq sc).Tidy :=
  State.tidy_ite (fun _ => h.sideFlushAll) fun _ => h

theorem execSamo_tidy {o d a sc r wide} (h : s.Tidy) : ResTidy (execSamo o d a sc r wide s) :=
  accessOp_tidy h fun _ _ _ _ => h.localDo (fun _ => h) fun _ _ => h.scrWrite.acquire.giveA

theorem State.Tidy.barApply {k b n} (h : s.Tidy) : (s.barApply k b n).Tidy := h.scrWrite

/-- A barrier operation keeps the canonical form if its effect does. -/
theorem barOp_tidy {i k load eff} (h : s.Tidy) (heff : ∀ c j j1 vs x b, (eff s c j j1 vs x b).Tidy) :
    ResTidy (barOp i k load eff s) :=
  accessOp_tidy h fun _ _ _ _ => h.localDo (fun _ => h) fun _ _ => heff _ _ _ _ _ _

theorem execBarr_tidy {a k} (h : s.Tidy) : ResTidy (execBarr a k s) :=
  barOp_tidy h fun _ _ _ _ _ _ => State.tidy_ite (fun _ => h) fun _ => h.barApply.doneA

theorem execBwait_tidy {d a k} (h : s.Tidy) : ResTidy (execBwait d a k s) :=
  barOp_tidy h fun _ _ _ _ _ _ => State.tidy_ite (fun _ => h) fun _ => h.giveA

theorem execFenceFull_tidy {sc m} (h : s.Tidy) : ResTidy (execFenceFull sc m s) :=
  accessOp_tidy h fun _ _ _ _ => State.tidy_ite (fun _ => h) fun _ => h.acquire.doneA

theorem execFenceAsync_tidy {sc m} (h : s.Tidy) : ResTidy (execFenceAsync sc m s) :=
  accessOp_tidy h fun _ _ _ _ => State.tidy_ite (fun _ => h) fun _ => h.doneA

/-! ## GlobalA -/

theorem State.Tidy.loadElems {c j n ps} (h : s.Tidy) : (s.loadElems c j n ps).Tidy := by
  unfold State.loadElems
  dsimp only
  split
  · split
    exacts [h.sideRead.ok ‹_›, h.sideRead.stay ‹_›, h.sideRead.trap ‹_›]
  · split
    · exact h.peerAccess.wait ‹_›
    · exact h
    · split
      exacts [h.sideRead.ok ‹_›, h.sideRead.stay ‹_›, h.sideRead.trap ‹_›]

/-- A load keeps the canonical form if what it does with the bytes does. -/
theorem State.Tidy.loadAt {c j cls n vas k} (h : s.Tidy) (hk : ∀ t vals, t.Tidy → (k t vals).Tidy) :
    (s.loadAt c j cls n vas k).Tidy := by
  unfold State.loadAt
  split
  · exact h.barred
  · split
    · exact h
    · split
      · exact h.loadElems.stay ‹_›
      · exact State.Tidy.setJob (h.loadElems.trap ‹_›)
      · exact hk _ _ (h.loadElems.ok ‹_›)

theorem State.Tidy.stageMost {c j l} (h : s.Tidy) : FstTidy (s.stageMost c j l) := by
  induction l generalizing s with
  | nil => exact h
  | cons x l ih =>
    unfold State.stageMost
    split
    exacts [ih h.stageWrite, (ih h).fst]

theorem State.Tidy.stageAll {c j l} (h : s.Tidy) : OptTidy (s.stageAll c j l) := by
  induction l generalizing s with
  | nil => exact h
  | cons x l ih =>
    unfold State.stageAll
    split
    exacts [ih h.stageWrite, trivial]

theorem State.Tidy.storeAt {c j j1 cls n l} (h : s.Tidy) : (s.storeAt c j j1 cls n l).Tidy := by
  unfold State.storeAt
  dsimp only
  split
  · exact h.barred
  · split
    · exact h.setJob
    · split
      · exact h
      · split
        exacts [h, h.stageMost.fst.doneA]

theorem execGscat_tidy {z q a b cls} (h : s.Tidy) : ResTidy (execGscat z q a b cls s) :=
  issue_tidy h fun _ _ => by
    dsimp only
    exact h.storeAt

theorem State.Tidy.atomicAt {c j j1 cls d n va f peerOp acq sc} (h : s.Tidy) :
    (s.atomicAt c j j1 cls d n va f peerOp acq sc).Tidy := by
  unfold State.atomicAt
  dsimp only
  split
  · exact h.barred
  · split
    · exact h
    · split
      · exact h
      · split
        · split
          · exact h.escape.stall ‹_›
          · exact h.setJob
          · split
            · exact (State.Tidy.peerAccess (h.escape.go ‹_›)).wait ‹_›
            · exact State.Tidy.setJob (h.escape.go ‹_›)
            · exact State.Tidy.giveA (State.Tidy.acquire (h.escape.go ‹_›))
        · split
          · exact h.lineRead.stay ‹_›
          · exact State.Tidy.setJob (h.lineRead.trap ‹_›)
          · split
            · split
              · exact (State.Tidy.escape (h.lineRead.ok ‹_›)).stall ‹_›
              · exact h.setJob
              · split
                · exact State.Tidy.giveA (State.Tidy.acquire (State.Tidy.sideDrop (by
                  split
                  · exact (State.Tidy.escape (h.lineRead.ok ‹_›)).go ‹_›
                  · exact State.Tidy.commit (State.Tidy.hostDraw ((State.Tidy.escape (h.lineRead.ok ‹_›)).go ‹_›)))))
                · exact State.Tidy.setJob ((State.Tidy.escape (h.lineRead.ok ‹_›)).go ‹_›)
                · exact State.Tidy.forGate ((State.Tidy.escape (h.lineRead.ok ‹_›)).go ‹_›)
            · exact h.setJob
            · exact State.Tidy.forGate (h.lineRead.ok ‹_›)

theorem State.Tidy.dropXl {p x} (h : s.Tidy) : (s.dropXl p x).Tidy :=
  h.foldl fun _ _ ht => by
    split
    · exact ht
    · split
      exacts [ht.setJob, ht]

theorem State.Tidy.shootStart {p x core} (h : s.Tidy) : (s.shootStart p x core).Tidy :=
  h.setPart.dropXl.foldl fun _ _ ht => ht.setCluster.foldl fun _ _ ht1 => ht1.putCore

theorem tlbinvOp_tidy {i covers} (h : s.Tidy) : ResTidy (tlbinvOp i covers s) :=
  withJob_tidy fun _ _ => by
    dsimp only
    split
    · split
      exacts [h, h.doneA]
    · exact issueState_tidy h fun _ _ => by
        split
        exacts [h.setJob, h.shootStart.setJob]

theorem State.Tidy.probeWalk {c j va} (h : s.Tidy) : (s.probeWalk c j va).Tidy := h.needWalk

theorem execL1opLine_tidy {a} (h : s.Tidy) : ResTidy (execL1opLine a s) :=
  accessOp_tidy h fun _ _ _ _ => by
    dsimp only
    split
    · exact h.probeWalk
    · exact State.Tidy.doneA (State.tidy_ite (fun _ => h) fun _ => h.sideDrop)
    · exact h.sideFlushAll.doneA

theorem State.Tidy.prefFill {c j sc pa frame} (h : s.Tidy) : (s.prefFill c j sc pa frame).Tidy := by
  unfold State.prefFill
  exact State.tidy_ite (fun _ => h.same) fun _ => h.needFill

theorem State.Tidy.prefetch {c j sc pa kind} (h : s.Tidy) : (s.prefetch c j sc pa kind).Tidy := by
  unfold State.prefetch
  dsimp only
  split
  · split
    · exact State.Tidy.touch (State.tidy_ite (fun _ => h.hostDraw.hostCache) fun _ => h)
    · exact State.Tidy.sideFill (State.Tidy.touch (State.tidy_ite (fun _ => h.hostDraw.hostCache) fun _ => h))
  · exact h.prefFill
  · exact h

theorem execPref_tidy {sc a b cls} (h : s.Tidy) : ResTidy (execPref sc a b cls s) :=
  accessOp_tidy h fun _ _ _ _ => by
    dsimp only
    split
    · exact h
    · split
      · exact h.probeWalk
      · split
        · exact h.doneA
        · split
          exacts [h, h.prefetch.doneA]
      · exact h.doneA

theorem State.Tidy.postFails {c j n cause addr} (h : s.Tidy) : (s.postFails c j n cause addr).Tidy := h.setJob

theorem State.Tidy.performStore {c j n kind parts cls pc} (h : s.Tidy) :
    (s.performStore c j n kind parts cls pc).Tidy := by
  unfold State.performStore
  dsimp only
  split
  · exact h
  · split
    · exact h.postFails
    · split
      · exact h.escape.stall ‹_›
      · exact h.postFails
      · split
        · exact State.Tidy.postFails (h.escape.go ‹_›)
        · split
          · exact State.Tidy.setJob (State.Tidy.askPeer (h.escape.go ‹_›))
          · exact State.Tidy.setJob
              (State.Tidy.foldl (State.Tidy.hostDraw (h.escape.go ‹_›)) fun _ _ ht => ht.commit.sideUpdate)
        · exact State.Tidy.forGate (h.escape.go ‹_›)
    · exact h.forGate

theorem execAccessPerformsAtHome_tidy {core n} (h : s.Tidy) : ResTidy (execAccessPerformsAtHome core n s) := by
  unfold execAccessPerformsAtHome
  split
  · exact h
  · split
    · exact h
    · split
      · exact h
      · split
        · split
          · exact h.setJob
          · split
            · exact h.postFails
            · split
              exacts [h, h.scrWrite.setJob]
        · exact h.performStore
        · exact h
        · exact h.setJob

/-! ## Copy -/

theorem State.Tidy.missCopy {c j e va a} (h : s.Tidy) : (s.missCopy c j e va a).Tidy :=
  State.tidy_ite (fun _ => h.setJob) fun _ => h.setJob.needWalk

theorem execCopyCommandStart_tidy {core e} (h : s.Tidy) : ResTidy (execCopyCommandStart core e s) := by
  unfold execCopyCommandStart
  dsimp only
  split
  · exact h
  · split
    · exact h
    · split
      · exact h
      · split
        · exact h.setJob
        · split
          · exact h
          · show State.Tidy _
            split
            exacts [h.setJob, h.missCopy, h.setJob]

theorem State.Tidy.burstRead {c j x l bs} (h : s.Tidy) : (s.burstRead c j x l bs).Tidy := by
  induction l generalizing bs with
  | nil => trivial
  | cons p l ih =>
    have hnext : ∀ (b r : List Byte), CRead.Tidy (match s.burstRead c j x l r with
        | .ok more => .ok (b ++ more)
        | y => y) := fun b r => by
      split
      exacts [trivial, ih]
    unfold State.burstRead
    dsimp only
    split
    · exact hnext _ _
    · split
      · exact hnext _ _
      · split
        · exact hnext _ _
        · trivial
        · trivial
        · exact h.needFill
        · exact h

theorem State.Tidy.copyLocal {c j x l} (h : s.Tidy) : (s.copyLocal c j x l).Tidy :=
  h.foldl fun _ _ ht => State.tidy_ite (fun _ => ht) fun _ => by
    split
    exacts [ht, ht.scrWrite]

theorem State.Tidy.copyGlobal {c j l} (h : s.Tidy) : (s.copyGlobal c j l).Tidy := by
  unfold State.copyGlobal
  split
  · trivial
  · split
    · exact h.stageAll.some ‹_›
    · split
      · trivial
      · exact h.forGate
      · split
        · exact h.escape.stall ‹_›
        · trivial
        · split
          · trivial
          · exact State.Tidy.forGate (h.escape.go ‹_›)
          · exact State.Tidy.foldl (h.escape.go ‹_›) fun _ _ ht => State.tidy_ite (fun _ => ht) fun _ =>
              ht.commit.sideUpdate

theorem State.Tidy.turnOver {c e} (h : s.Tidy) : (s.turnOver c e).Tidy := h.setCluster

theorem State.Tidy.burstDone {c j e x f n} (h : s.Tidy) : (s.burstDone c j e x f n).Tidy := by
  unfold State.burstDone
  exact State.tidy_ite (fun _ => h.spendKind.turnOver.setJob) fun _ => h.spendKind.turnOver.barApply.setJob

theorem State.Tidy.touchReads {l : List (Piece × Nat)} (h : s.Tidy) :
    (l.foldl (fun st y => if y.1.kind = 2 then st else st.touch y.1.pa) s).Tidy :=
  h.foldl fun _ _ ht => State.tidy_ite (fun _ => ht) fun _ => ht.touch

theorem State.Tidy.burst {c j e x} (h : s.Tidy) : (s.burst c j e x).Tidy := by
  unfold State.burst
  dsimp only
  generalize @ite (List (Nat × Nat)) _ (_) [] [((copyFields x.cmd).bar, 32)] = bar
  split <;> split
  on_goal 5 => split
  on_goal 6 =>
    split
    exacts [h, h.burstDone]
  on_goal 4 => exact h.setJob
  on_goal 3 => exact h
  on_goal 2 => exact h.askPeer.setJob
  all_goals
    split
    · exact h
    · split
      · exact h.burstRead.stay ‹_›
      · exact h.setJob
      · split
        · exact h
        · split
          · exact h.copyGlobal.stay ‹_›
          · exact h.setJob
          · split
            · exact State.Tidy.burstDone (State.Tidy.touchReads (h.copyGlobal.ok ‹_›).same.copyLocal)
            · exact State.Tidy.setJob
                (State.Tidy.askPeer (State.Tidy.touchReads (h.copyGlobal.ok ‹_›).same.copyLocal))

theorem execCopyBurstComplete_tidy {core e} (h : s.Tidy) : ResTidy (execCopyBurstComplete core e s) := by
  unfold execCopyBurstComplete
  dsimp only
  split
  · exact h
  · split
    · exact h
    · split
      exacts [h, h.setCluster.burst]

theorem execCopyFaultTrap_tidy {core} (h : s.Tidy) : ResTidy (execCopyFaultTrap core s) := by
  unfold execCopyFaultTrap
  split
  · exact h
  · split
    · exact h
    · split
      exacts [h.setJob, h]

/-! ## Rows -/

theorem State.Tidy.gradeNow {c b p g} (h : s.Tidy) : (s.gradeNow c b p g).Tidy :=
  h.withCoreWf (scr := by dsimp only; exact Core.applyGrade_wf (h.scr _))

theorem State.Tidy.regrade {c b p g} (h : s.Tidy) : (s.regrade c b p g).Tidy := by
  unfold State.regrade
  exact State.tidy_ite (fun _ => h.putCore) fun _ => h.gradeNow

theorem State.Tidy.demote {c b p} (h : s.Tidy) : (s.demote c b p).Tidy := h.regrade

theorem State.Tidy.applyDemotions {c} (h : s.Tidy) : (s.applyDemotions c).Tidy :=
  h.putCore.foldl fun _ _ ht => ht.withCoreWf (scr := by exact Core.applyGrade_wf (ht.scr _))

/-! ## Contain -/

theorem State.Tidy.enqueue {clu x} (h : s.Tidy) : OptTidy (s.enqueue clu x) := by
  unfold State.enqueue
  split
  · trivial
  · exact State.Tidy.setCtx h.setCard (h.queues _)

theorem State.Tidy.enqueueD {t : State} {clu x} (h : s.Tidy) (ht : t.Tidy) : ((s.enqueue clu x).getD t).Tidy := by
  with_reducible exact h.enqueue.getD ht

theorem State.Tidy.removeCard {clu slot} (h : s.Tidy) : (s.removeCard clu slot).Tidy := by
  unfold State.removeCard
  dsimp only
  split
  exacts [h, h.setCluster.putCtx]

theorem State.Tidy.writeRecord {x status} (h : s.Tidy) : (s.writeRecord x status).Tidy := h.record

theorem State.Tidy.faultCard {clu slot status} (h : s.Tidy) : (s.faultCard clu slot status).Tidy := by
  unfold State.faultCard
  split
  · exact h
  · split
    exacts [h.writeRecord.removeCard.removeCard, h.writeRecord.removeCard]

theorem State.Tidy.writeStop {ctx bs} (h : s.Tidy) : (s.writeStop ctx bs).Tidy := by
  unfold State.writeStop
  dsimp only
  split
  exacts [h.putCtx, h.putCtx.record]

theorem State.Tidy.stopRecords {c j cause classC} (h : s.Tidy) : (s.stopRecords c j cause classC).Tidy := by
  unfold State.stopRecords
  dsimp only
  exact State.Tidy.foldl (h.foldl fun _ _ ht => ht.writeStop) fun _ _ ht => by
    split
    exacts [ht.writeStop, ht]

theorem State.Tidy.wrapCheck {p} (h : s.Tidy) : (s.wrapCheck p).Tidy := by
  unfold State.wrapCheck
  exact State.tidy_ite (fun _ => h.setPart.announce) fun _ => h

theorem State.Tidy.wrapVacated {ctx} (h : s.Tidy) : (s.wrapVacated ctx).Tidy := by
  unfold State.wrapVacated
  split
  exacts [h, h.wrapCheck]

theorem State.Tidy.noteVar {j} (h : s.Tidy) : (s.noteVar j).Tidy := by
  unfold State.noteVar
  split
  · split
    exacts [h.setCard, h]
  · exact h

theorem State.Tidy.unserve {c} (h : s.Tidy) : (s.unserve c).Tidy := h.setCluster

theorem State.Tidy.dropReqs {c} (h : s.Tidy) : (s.dropReqs c).Tidy := h.same

theorem State.Tidy.dropJob {c} (h : s.Tidy) : (s.dropJob c).Tidy := by
  unfold State.dropJob
  dsimp only
  split
  exacts [h, h.noteVar.putCore.applyDemotions.unserve.dropReqs.wrapVacated]

theorem State.Tidy.stopNode {x cause classC} (h : s.Tidy) : (s.stopNode x cause classC).Tidy := by
  unfold State.stopNode
  dsimp only
  exact State.Tidy.vfIrq (State.Tidy.foldl (h.foldl fun _ _ ht => by
    split
    exacts [ht.stopRecords, ht]) fun _ _ ht => ht.dropJob)

theorem State.Tidy.queueError {ctx q code level seq addr detail head} (h : s.Tidy) :
    (s.queueError ctx q code level seq addr detail head).Tidy :=
  h.record.setQueue

theorem State.Tidy.haltQueues {ctx} (h : s.Tidy) : (s.haltQueues ctx).Tidy :=
  h.foldl fun _ _ ht => State.tidy_ite (fun _ => ht) fun _ => ht.queueError.setQueue

theorem State.Tidy.settleRun {clu slot} (h : s.Tidy) : (s.settleRun clu slot).Tidy := by
  unfold State.settleRun
  split
  · exact h
  · split
    exacts [h, h.settle]

theorem State.Tidy.haltEnd {ctx} (h : s.Tidy) : (s.haltEnd ctx).Tidy :=
  State.Tidy.wrapVacated (State.Tidy.vfIrq (State.Tidy.haltQueues (h.foldl fun _ _ ht => ht.settleRun.faultCard)))

theorem State.Tidy.haltSettle (h : s.Tidy) : s.haltSettle.Tidy := h.same.foldl fun _ _ ht => ht.haltEnd

theorem State.Tidy.kill {ctx} (h : s.Tidy) : (s.kill ctx).Tidy := by
  unfold State.kill
  split
  · exact h
  · refine State.Tidy.haltSettle (State.Tidy.withHalts (h.putCtx.foldl fun _ _ ht => ?_))
    split
    exacts [ht.setCard, ht]

theorem State.Tidy.haltArrive {c} (h : s.Tidy) : (s.haltArrive c).Tidy := by
  refine State.Tidy.haltSettle (State.Tidy.withHalts ?_)
  split
  · exact h
  · split
    exacts [h.stopRecords.dropJob.vfIrq, h]

theorem State.Tidy.quarantine {c} (h : s.Tidy) : (s.quarantine c).Tidy := h.putCore

theorem State.Tidy.countFault {c lim cause} (h : s.Tidy) : (s.countFault c lim cause).Tidy := by
  unfold State.countFault
  dsimp only
  split
  · split
    exacts [h.putCore.quarantine, h.putCore]
  · split
    exacts [h.putCore.quarantine, h.putCore]
  · exact h.quarantine
  · exact h

theorem State.Tidy.countFaults {cores} (h : s.Tidy) {s1 : State} : (s.countFaults s1 cores).Tidy :=
  h.foldl fun _ _ ht => by
    split
    exacts [ht.foldl fun _ _ ht1 => ht1.countFault, ht]

theorem State.Tidy.requeue {clu slot f} (h : s.Tidy) : (s.requeue clu slot f).Tidy := by
  unfold State.requeue
  split
  · exact h
  · dsimp only
    split
    · exact h.setCard
    · split
      exacts [h.setCard, h.setCluster.setCard]

theorem State.Tidy.comeHome {k} (h : s.Tidy) : (s.comeHome k).Tidy := h.foldl fun _ _ ht => ht.requeue

theorem State.Tidy.endRun {clu slot} (h : s.Tidy) : (s.endRun clu slot).Tidy := by
  unfold State.endRun
  split
  exacts [h, h.setCard.settle]

theorem State.Tidy.dropPoisoned {x cause} (h : s.Tidy) : (s.dropPoisoned x cause).Tidy := h.same

theorem State.Tidy.compensate {clu slot} (h : s.Tidy) : (s.compensate clu slot).Tidy := by
  unfold State.compensate
  split
  · exact h
  · split
    · exact h
    · dsimp only
      split
      · exact h.requeue
      · split
        · exact h.kill
        · split
          · split
            exacts [h.kill, h.devDrawn.setCard.enqueueD h]
          · split
            exacts [h.devWait, h.kill]

theorem State.Tidy.compensateAll (h : s.Tidy) : s.compensateAll.Tidy := h.foldl fun _ _ ht => ht.compensate

theorem State.Tidy.nodeTrap {clu slot cause} (h : s.Tidy) : (s.nodeTrap clu slot cause).Tidy := by
  unfold State.nodeTrap
  split
  · exact h
  · extract_lets code head comp part spent rescue fatal stopcnt x s1
    have h1 : s1.Tidy := State.Tidy.endRun (State.Tidy.dropPoisoned h.setCard.stopNode.countFaults)
    clear_value s1
    exact State.tidy_ite (fun _ => h1.kill) fun _ =>
      State.tidy_ite (fun _ => h1.requeue.compensateAll) fun _ => h1.requeue

theorem State.Tidy.nodeFails {c cause val} (h : s.Tidy) : (s.nodeFails c cause val).Tidy := by
  unfold State.nodeFails
  dsimp only
  split
  exacts [h, h.setJob.nodeTrap]

theorem State.Tidy.mapOut {c} (h : s.Tidy) : (s.mapOut c).Tidy := State.tidy_ite (fun _ => h.nodeFails) fun _ => h

theorem State.Tidy.resolveTraps {c} (h : s.Tidy) : (s.resolveTraps c).Tidy := by
  unfold State.resolveTraps
  dsimp only
  split
  · exact h
  · split
    exacts [h, h.nodeTrap]

/-! ## Seal -/

theorem State.Tidy.sample {k isl x} (h : s.Tidy) : (s.sample k isl x).Tidy := by
  unfold State.sample
  exact State.tidy_ite (fun _ => h.same.note) fun _ => h

theorem State.Tidy.sevPut {e} (h : s.Tidy) : (s.sevPut e).Tidy := h.record

theorem State.Tidy.sealEvent {kind ctx frame} (h : s.Tidy) : (s.sealEvent kind ctx frame).Tidy := by
  unfold State.sealEvent
  exact State.tidy_ite (fun _ => h.sevLose) fun _ => State.tidy_ite
    (fun _ => State.tidy_ite (fun _ => h.same) fun _ => h.sevLose) fun _ => h.sevPut

theorem State.Tidy.sevDrain (h : s.Tidy) : s.sevDrain.Tidy := by
  unfold State.sevDrain
  split
  · exact h
  · exact h.foldl fun _ _ ht => by
        split
        · split
          exacts [ht, ht.same.sevPut]
        · exact ht

theorem State.Tidy.fastReturn (h : s.Tidy) : s.fastReturn.Tidy := h.same.note

theorem State.Tidy.fastFrame {frame} (h : s.Tidy) : (s.fastFrame frame).Tidy :=
  State.tidy_ite (fun _ => h) fun _ => State.tidy_ite (fun _ => h.same) fun _ => h.same.fastReturn

theorem State.Tidy.frameCorrected {frame} (h : s.Tidy) : (s.frameCorrected frame).Tidy := h.same.fastFrame

theorem State.Tidy.readCorrected {frame found} (h : s.Tidy) : (s.readCorrected frame found).Tidy :=
  State.tidy_ite (fun _ => h.frameCorrected) fun _ => h

theorem State.Tidy.ownOn (h : s.Tidy) : s.ownOn.Tidy := h.drainRecs.compensateAll

theorem State.Tidy.sideGo {f} (h : s.Tidy) : (s.sideGo f).Tidy :=
  h.foldl fun _ _ ht => by
    split
    · exact ht
    · split
      · exact ht
      · split
        exacts [ht.sideFill, ht]

theorem State.Tidy.blame {frame t} (h : s.Tidy) : (s.blame frame t).Tidy := h.same

theorem State.Tidy.tagFailed {frame} (h : s.Tidy) : (s.tagFailed frame).Tidy := by
  unfold State.tagFailed
  dsimp only
  split
  · split
    exacts [h.sealEvent.kill, h.sealEvent]
  · exact h.withMeta.sealEvent

theorem execSealFillComplete_tidy {frame found} (h : s.Tidy) : ResTidy (execSealFillComplete frame found s) := by
  unfold execSealFillComplete
  split
  · exact h
  · extract_lets payer finish
    split
    · exact h
    · have hfinish : ∀ t : State, t.Tidy → (finish t).Tidy := fun t ht =>
        State.Tidy.ownOn (State.Tidy.sample (State.tidy_ite (fun _ => ht.readCorrected.same) fun _ =>
          State.Tidy.meterBlock ht.readCorrected.same))
      split
      · exact hfinish _ h
      · with_reducible refine ResTidy.ite (fun _ => ?_) fun _ => ?_
        · exact h.makeRooms
        · refine hfinish _ ?_
          split
          exacts [h.makeRooms.install.blame, h.makeRooms.install.blame.tagFailed, h.makeRooms.install.sideGo]

theorem State.Tidy.writeBlock {frame victim} (h : s.Tidy) : (s.writeBlock frame victim).Tidy := by
  have hs := h.foldl (l := s.blockLines frame) (f := fun st e =>
    if e.2.dirty then
      { st with
        mem := st.mem.writeBytes (e.1 * 128) (bytesOfRow e.2.data)
        lines := st.lines.insert e.1 { e.2 with dirty := false } }
    else st) fun t x ht => State.tidy_ite (fun _ => ht.withMem (mem := Memory.wf_writeBytes ht.mem)) fun _ => ht
  unfold State.writeBlock
  dsimp only
  split
  exacts [hs.same, hs]

theorem State.Tidy.sealBlock {frame key gen sweep} (h : s.Tidy) : (s.sealBlock frame key gen sweep).Tidy := by
  unfold State.sealBlock
  exact State.tidy_ite (fun _ => h.withMeta.sealEvent) fun _ => h.withMeta

theorem State.Tidy.sweepOn {c} (h : s.Tidy) : (s.sweepOn c).Tidy := by
  unfold State.sweepOn
  dsimp only
  split
  · exact h
  · split
    exacts [h.putCtx.needReseal, h.putCtx.sealEvent]

theorem State.Tidy.sweepPast {r} (h : s.Tidy) : (s.sweepPast r).Tidy := by
  unfold State.sweepPast
  dsimp only
  split
  · exact h
  · split
    exacts [h, h.putCtx.sweepOn]

theorem State.Tidy.resealFails {c r} (h : s.Tidy) : (s.resealFails c r).Tidy :=
  State.Tidy.sweepPast
    (State.Tidy.kill (State.Tidy.sealEvent ⟨h.mem, h.scr, SMap.wf_set h.metas _ _, h.limits, h.queues⟩))

theorem execResealComplete_tidy {frame found} (h : s.Tidy) : ResTidy (execResealComplete frame found s) := by
  unfold execResealComplete
  split
  · exact h
  · extract_lets m whole s0 by_ s1
    have h0 : s0.Tidy := h.same
    have h1 : s1.Tidy := State.tidy_ite (fun _ => h0) fun _ => h0.readCorrected.meterBlock
    clear_value s0 s1
    split
    · exact h0
    · with_reducible refine ResTidy.ite (fun _ => ?_) fun _ => ?_
      · exact h
      · exact State.tidy_ite (fun _ => h1.resealFails.ownOn) fun _ => h1.writeBlock.sealBlock.meterBlock.sweepPast.ownOn

theorem execFrameAssign_tidy {frame ctx} (h : s.Tidy) : ResTidy (execFrameAssign frame ctx s) := by
  have hs : State.Tidy { s with
      sealMeta := SMap.set Meta.init s.sealMeta frame { s.metaOf frame with ctx, state := 0 }
      mem := s.mem.filter fun e => decide (e.1 / 4096 ≠ frame)
      lines := s.lines.filter fun e => decide (e.1 / 32 ≠ frame)
      reseals := s.reseals.filter fun r => decide (r.frame ≠ frame) } :=
    ⟨SMap.wf_filter _ h.mem, h.scr, SMap.wf_set h.metas _ _, h.limits, h.queues⟩
  refine State.tidy_ite (fun _ => h) fun _ => State.Tidy.ownOn ?_
  split
  exacts [hs.sweepOn, hs]

theorem State.Tidy.keyInstall {c key} (h : s.Tidy) : OptTidy (s.keyInstall c key) := by
  unfold State.keyInstall
  dsimp only
  split
  · trivial
  · split
    exacts [h.putCtx, h.putCtx.sweepOn]

theorem State.Tidy.fastLine {line} (h : s.Tidy) : (s.fastLine line).Tidy := by
  unfold State.fastLine
  exact State.tidy_ite (fun _ => h) fun _ => State.tidy_ite (fun _ => h.same) fun _ => h.same.fastReturn

theorem State.Tidy.wayError {line} (h : s.Tidy) : (s.wayError line).Tidy := h.same

theorem State.Tidy.rowLost {c b r} (h : s.Tidy) : (s.rowLost c b r).Tidy := by
  unfold State.rowLost
  dsimp only
  split
  exacts [h.nodeFails, h.withCoreWf (scr := by dsimp only; exact wf_loseRows (h.scr _))]

theorem State.Tidy.scrubRow {c b p found} (h : s.Tidy) : (s.scrubRow c b p found).Tidy := by
  unfold State.scrubRow
  dsimp only
  split
  · exact h
  · exact h.demote.mapOut
  · exact State.Tidy.mapOut (by
      split
      exacts [h.gradeNow, h.gradeNow.rowLost])

theorem State.Tidy.cardFails {e cause val} (h : s.Tidy) : (s.cardFails e cause val).Tidy := by
  unfold State.cardFails
  split
  exacts [h.nodeFails, h.nodeTrap]

theorem State.Tidy.committedLost {line} (h : s.Tidy) : (s.committedLost line).Tidy := by
  unfold State.committedLost
  split
  · split
    exacts [h.kill, h.same]
  · exact h

theorem State.Tidy.scrubLine {line found} (h : s.Tidy) : (s.scrubLine line found).Tidy := by
  unfold State.scrubLine
  dsimp only
  split
  · exact h
  · exact h.fastLine
  · split
    · exact h.wayError.committedLost
    · split
      exacts [h.wayError.cardFails, h.wayError.committedLost]

theorem State.Tidy.scrubFrame {frame found} (h : s.Tidy) : (s.scrubFrame frame found).Tidy := by
  unfold State.scrubFrame
  dsimp only
  split
  · exact h
  · split
    exacts [h.meterBlock, h.meterBlock.frameCorrected, h.meterBlock.same]

theorem execScrubRead_tidy {u found} (h : s.Tidy) : ResTidy (execScrubRead u found s) := by
  unfold execScrubRead
  show State.Tidy _
  split
  · split
    exacts [h, h.scrubRow]
  · exact h.scrubLine
  · exact h.scrubFrame

/-! ## Translate -/

theorem State.Tidy.prqPut {p r} (h : s.Tidy) : (s.prqPut p r).Tidy := h.setPart.record

theorem State.Tidy.prqDrain {p} (h : s.Tidy) : (s.prqDrain p).Tidy :=
  h.foldl fun _ _ ht => State.tidy_ite (fun _ => ht) fun _ => ht.prqPut

theorem State.Tidy.askPage {own ctx kind reason level engine va coreid owner} (h : s.Tidy) :
    (s.askPage own ctx kind reason level engine va coreid owner).Tidy :=
  h.setPart.prqDrain

theorem State.Tidy.probeEnds {f} (h : s.Tidy) : (s.probeEnds f).Tidy := by
  unfold State.probeEnds
  dsimp only
  split
  · split
    exacts [h.setJob, h]
  · exact h

theorem State.Tidy.walkGood {k f e} (h : s.Tidy) : (s.walkGood k f e).Tidy := by
  unfold State.walkGood
  dsimp only
  split
  exacts [h.setCluster.withCore.setJob, h.setCluster.withCore]

theorem State.Tidy.walkBad {f w} (h : s.Tidy) : (s.walkBad f w).Tidy := by
  unfold State.walkBad
  dsimp only
  split
  · exact h
  · split
    · exact h
    · split
      · split
        exacts [h.setJob, h.setJob.askPage]
      · split
        exacts [h.setJob, h.setJob.askPage]

theorem State.Tidy.walkCause {f cause} (h : s.Tidy) : (s.walkCause f cause).Tidy := by
  unfold State.walkCause
  split
  split
  · exact h
  · split
    exacts [h, h.setJob]

theorem execPageWalkEnd_tidy {cluster walk} (h : s.Tidy) : ResTidy (execPageWalkEnd cluster walk s) := by
  unfold execPageWalkEnd
  dsimp only
  split
  · exact h
  · split
    · exact h.setCluster
    · show State.Tidy _
      split
      · exact h.setCluster.walkUsed.walkGood
      · split
        exacts [h.setCluster.probeEnds, h.setCluster.walkUsed.walkBad]
      · split
        exacts [h.setCluster.probeEnds, h.setCluster.walkCause]
      · exact h.needFill

theorem State.Tidy.queueAnswer {ctx q r grant} (h : s.Tidy) : (s.queueAnswer ctx q r grant).Tidy := by
  unfold State.queueAnswer
  exact State.tidy_ite (fun _ => h.setQueue) fun _ => h.queueError.setQueue

theorem State.Tidy.cardRefused {k slot x status} (h : s.Tidy) : (s.cardRefused k slot x status).Tidy :=
  h.setCard.faultCard

theorem State.Tidy.answer {r grant} (h : s.Tidy) : (s.answer r grant).Tidy := by
  unfold State.answer
  split
  · split
    · exact h
    · split
      exacts [h, h.setJob]
  · exact h.queueAnswer
  · split
    · exact h
    · split
      · exact h
      · split
        exacts [h.setCard, h.cardRefused]
  · split
    exacts [h, h.setCard]

theorem State.Tidy.reserved {b} (h : s.Tidy) : (s.reserved b).Tidy := h.same

theorem execPageRequestAnswer_tidy {part value} (h : s.Tidy) : ResTidy (execPageRequestAnswer part value s) := by
  unfold execPageRequestAnswer
  dsimp only
  split
  · exact h.dropEarly
  · split
    · exact h.reserved
    · split
      · exact h.setPart
      · split
        exacts [h.setPart, h.setPart.answer]

theorem State.Tidy.readRecord {x} (h : s.Tidy) : (s.readRecord x).Tidy := by
  unfold State.readRecord
  dsimp only
  split
  · trivial
  · split
    · split
      · split <;> trivial
      · split
        · exact h.devWait
        · trivial
    · split
      · exact h.devWait
      · trivial

theorem State.Tidy.meterCard {k slot} (h : s.Tidy) : (s.meterCard k slot).Tidy := by
  unfold State.meterCard
  split
  exacts [h.setCard, h]

theorem State.Tidy.cardFill {k slot ctx frame quiet} (h : s.Tidy) : (s.cardFill k slot ctx frame quiet).Tidy := by
  unfold State.cardFill
  split
  · exact h
  · split
    exacts [h.needFill, h.needFill.meterCard]

theorem State.Tidy.recFill {k slot ctx va e} (h : s.Tidy) : OptTidy (s.recFill k slot ctx va e) := by
  unfold State.recFill
  dsimp only
  split
  · exact h
  · split
    · split
      · trivial
      · exact h.meterBlock.foldl fun _ _ ht => ht.hostCache
    · split
      exacts [h, h.cardFill]

theorem State.Tidy.recMigrate {p k slot ctx va e} (h : s.Tidy) : (s.recMigrate p k slot ctx va e).Tidy := by
  unfold State.recMigrate
  dsimp only
  split
  · exact h
  · exact State.Tidy.askPage (by
      split
      exacts [h.setCard, h])

theorem State.Tidy.recLeaf {p k slot ctx e t} (h : s.Tidy) : OptTidy (s.recLeaf p k slot ctx e t) := by
  unfold State.recLeaf
  dsimp only
  split
  · exact h.recMigrate
  · split
    exacts [h.same.recFill, h.same]

theorem State.Tidy.recSet {k slot l} (h : s.Tidy) : (s.recSet k slot l).Tidy := by
  unfold State.recSet
  split
  exacts [h, h.setCard]

theorem State.Tidy.recWalk {p k slot ctx e rest} (h : s.Tidy) : (s.recWalk p k slot ctx e rest).Tidy := by
  unfold State.recWalk
  split
  · exact h
  · split
    · exact h.recSet
    · split
      · exact h.walkUsed.recSet
      · exact h.walkUsed.recSet
      · exact h.ownFill
      · split
        exacts [State.Tidy.recSet (h.walkUsed.recLeaf.some ‹_›), h]

theorem execLaunchRecordWalk_tidy {cluster slot} (h : s.Tidy) : ResTidy (execLaunchRecordWalk cluster slot s) := by
  unfold execLaunchRecordWalk
  dsimp only
  split
  · exact h
  · split
    · exact h
    · split
      · exact h.recWalk
      · show State.Tidy _
        split
        · exact h
        · split
          exacts [h.devDrawn.recSet, h.readRecord.wait ‹_›, h.setCluster.recSet]
      · exact h.recSet

theorem execLaunchRecordTimeout_tidy {cluster slot} (h : s.Tidy) :
    ResTidy (execLaunchRecordTimeout cluster slot s) := by
  unfold execLaunchRecordTimeout
  split
  · exact h
  · split
    · exact h
    · split
      exacts [h, h.setCard]

/-! ## HostMem -/

theorem execHostSnoop_tidy {line kind} (h : s.Tidy) : ResTidy (execHostSnoop line kind s) := by
  have hback : ∀ l : Line, (if l.dirty then
      State.send (State.meterBlock { s with mem := s.mem.writeBytes (line * 128) (bytesOfRow l.data) } none) (.writeBack line)
    else s).Tidy := fun l =>
    State.tidy_ite (fun _ => (State.Tidy.meterBlock (h.withMem (mem := Memory.wf_writeBytes h.mem))).send) fun _ => h
  unfold execHostSnoop
  split
  · exact h
  · dsimp only
    split
    · exact h
    · split
      · exact (hback _).same
      · exact (hback _).withMem (mem := wf_hostRow (hback _).mem)
      · exact h
      · exact h.withMem (mem := wf_hostRow h.mem)

theorem execHostMemRead_tidy {req addr} (h : s.Tidy) : ResTidy (execHostMemRead req addr s) := by
  unfold execHostMemRead
  dsimp only
  split
  · exact h.send
  · split
    · exact h.pf0Error.send
    · split
      · exact h.touch.same.send
      · split
        exacts [h.pf0Error.send, h.ownFill]

theorem execHostMemWrite_tidy {req addr data} (h : s.Tidy) : ResTidy (execHostMemWrite req addr data s) := by
  unfold execHostMemWrite
  dsimp only
  split
  · exact h
  · split
    · exact h.pf0Error
    · split
      exacts [h.commit, h.commit, h.ownFill, h, h, h, h.pf0Error]

/-! ## Matrix -/

theorem reduceIssue_tidy {i c new} (h : s.Tidy) : ResTidy (reduceIssue i c new s) := issue_tidy h fun _ _ => h.setJob

theorem retireIssue_tidy {i c out after} (h : s.Tidy) : ResTidy (retireIssue i c out after s) := by
  refine issue_tidy h fun k j => State.Tidy.setJob ?_
  split
  · exact State.Tidy.same (h.putCore (c := k) (x := (s.core k).sound inEpilogue))
  · exact h

theorem execTchk_tidy {tm d a f} (h : s.Tidy) : ResTidy (execTchk tm d a f s) := by
  unfold execTchk
  dsimp only
  exact issue_tidy h fun _ _ => h.same.setJob

theorem State.Tidy.writeRowM {c prof a r} (h : s.Tidy) : FstTidy (s.writeRowM c prof a r) := by
  unfold State.writeRowM
  dsimp only
  split
  · refine State.Tidy.setCore h.same ?_
    dsimp only
    exact Memory.wf_writeRow (h.scr c) ..
  · refine h.setCore ?_
    dsimp only
    exact Memory.wf_writeRow (h.scr c) ..

theorem State.Tidy.makeAccs {c prof f l} (h : s.Tidy) : FstTidy (s.makeAccs c prof f l) := by
  induction l generalizing s f with
  | nil => exact h
  | cons a l ih =>
    unfold State.makeAccs
    split
    · exact ih h
    · split
      · split
        · split
          exacts [ih h.writeRowM, ih h]
        · exact h
      · exact ih h

theorem State.Tidy.tickFlight {c f} (h : s.Tidy) : (s.tickFlight c f).Tidy := by
  unfold State.tickFlight
  dsimp only
  split
  · exact h
  · split
    · exact h.makeAccs.fst.setJob
    · split <;> exact h.makeAccs.fst.setJob

theorem State.Tidy.tickM {c} (h : s.Tidy) : (s.tickM c).Tidy := by
  unfold State.tickM
  dsimp only
  split
  exacts [h, h.setJob.foldl fun _ _ ht => ht.tickFlight]

/-! ## Image -/

theorem State.Tidy.sealWrite {ctx key f pa bs} (h : s.Tidy) : (s.sealWrite ctx key f pa bs).Tidy :=
  State.Tidy.sealBlock (h.withMem (mem := Memory.wf_writeBytes h.mem))

theorem State.Tidy.leafWrite {ctx e va bs} (h : s.Tidy) : OkTidy (s.leafWrite ctx e va bs) := by
  unfold State.leafWrite
  dsimp only
  split
  · trivial
  · split
    · trivial
    · split
      · trivial
      · split
        · trivial
        · exact h.sealWrite

theorem State.Tidy.imageWrite {c ctx va bs} (h : s.Tidy) : OkTidy (s.imageWrite c ctx va bs) := by
  unfold State.imageWrite
  split
  · trivial
  · split
    · trivial
    · exact State.Tidy.meterBlock (h.leafWrite.ok ‹_›)

theorem State.Tidy.imageWrites {c ctx base l} (h : s.Tidy) : OkTidy (s.imageWrites c ctx base l) := by
  induction l generalizing s with
  | nil => exact h
  | cons x l ih =>
    unfold State.imageWrites
    split
    exacts [trivial, ih (h.imageWrite.ok ‹_›)]

theorem State.Tidy.restoreRows {c prof rows} (h : s.Tidy) : (s.restoreRows c prof rows).Tidy := by
  unfold State.restoreRows
  refine h.withCoreWf (scr := ?_)
  exact Memory.wf_foldl
    (fun _ _ hy => Memory.wf_writeBytes hy) (Memory.wf_foldl (fun _ _ hy => wf_loseRows hy) (h.scr c))

/-! ## Start -/

theorem State.Tidy.cardRead {k slot x va n} (h : s.Tidy) : (s.cardRead k slot x va n).Tidy := by
  unfold State.cardRead
  split
  · trivial
  · split
    · trivial
    · split
      · trivial
      · exact h.setCard.askPage
  · trivial
  · trivial
  · exact h.ownFill
  · exact h

theorem State.Tidy.consider {k slot x} (h : s.Tidy) : (s.consider k slot x).Tidy := by
  unfold State.consider
  dsimp only
  split
  · exact h
  · split
    · exact h
    · split
      · trivial
      · split
        · exact h.cardRead.wait ‹_›
        · trivial
        · split
          · exact h.devDrawn
          · trivial

theorem State.Tidy.leaveTwin {i} (h : s.Tidy) : (s.leaveTwin i).Tidy := by
  unfold State.leaveTwin
  exact State.tidy_ite (fun _ => h.setIsland) fun _ => h

theorem State.Tidy.chargeLaunch {i x charge} (h : s.Tidy) : (s.chargeLaunch i x charge).Tidy := h.addBal.addRem

theorem State.Tidy.clearWait {x} (h : s.Tidy) : (s.clearWait x).Tidy := by
  unfold State.clearWait
  split
  · split
    exacts [h.semClear, h]
  · exact h

theorem State.Tidy.sampleReady {i x} (h : s.Tidy) : (s.sampleReady i x).Tidy := by
  unfold State.sampleReady
  split
  exacts [h.sample, h]

theorem State.Tidy.startCard {k slot x p desc cores v charge} (h : s.Tidy) :
    (s.startCard k slot x p desc cores v charge).Tidy := by
  unfold State.startCard
  dsimp only
  exact State.Tidy.sampleReady (h.setPart.chargeLaunch.clearWait.setCard.foldl fun _ _ ht => State.Tidy.setJob
    (State.tidy_ite (fun _ => ht.sideFlush) fun _ => ht))

theorem State.Tidy.placeImage {c r} (h : s.Tidy) : (s.placeImage c r).Tidy := by
  unfold State.placeImage
  split
  · exact h
  · split
    exacts [h.nodeFails, h.setJob.restoreRows]

theorem State.Tidy.resumeCard {k slot x cores charge} (h : s.Tidy) : (s.resumeCard k slot x cores charge).Tidy := by
  unfold State.resumeCard
  dsimp only
  split
  · exact h
  · split
    · exact h.cardFill
    · exact h
    · exact State.Tidy.sampleReady
        (State.Tidy.meetAgain
        (State.Tidy.foldl (h.chargeLaunch.setCard.foldl fun _ _ ht => ht.sideFlush.setJob) fun _ _ ht =>
        ht.placeImage))

/-! ## Cards -/

theorem State.Tidy.dropCard {k slot status cause} (h : s.Tidy) : (s.dropCard k slot status cause).Tidy := by
  unfold State.dropCard
  split
  · exact h
  · split
    exacts [h.kill, h.setCard.faultCard]

theorem State.Tidy.launch {k slot x cores v charge} (h : s.Tidy) : (s.launch k slot x cores v charge).Tidy := by
  unfold State.launch
  dsimp only
  split
  · split
    exacts [h.leaveTwin, h.resumeCard]
  · exact h
  · split
    · exact h.dropCard
    · split
      · exact h.cardRead.wait ‹_›
      · exact h.dropCard
      · split
        · exact h.dropCard
        · split
          exacts [h.leaveTwin, h.devDrawn.startCard]

theorem State.Tidy.tryCard {k slot} (h : s.Tidy) : (s.tryCard k slot).Tidy := by
  unfold State.tryCard
  dsimp only
  split
  · exact h
  · split
    · exact h
    · split
      · exact h.consider.wait ‹_›
      · exact h.dropCard
      · split
        · exact State.Tidy.launch (State.Tidy.setCard (h.consider.ok ‹_›))
        · exact State.Tidy.setCard (h.consider.ok ‹_›)
        · exact State.Tidy.setCard (h.consider.ok ‹_›)
        · split
          · exact State.Tidy.setCard (h.consider.ok ‹_›)
          · split
            · exact State.Tidy.dropCard (State.Tidy.setCard (h.consider.ok ‹_›))
            · exact State.Tidy.setCard (State.Tidy.setCard (h.consider.ok ‹_›))

theorem State.Tidy.noteLaunch {k slot} (h : s.Tidy) {s1 : State} : (s.noteLaunch s1 k slot).Tidy := by
  unfold State.noteLaunch
  split
  · exact h
  · split
    exacts [h.note, h]

theorem State.Tidy.walkCard {k slot} (h : s.Tidy) : (s.walkCard k slot).Tidy :=
  State.tidy_ite (fun _ => h.tryCard.noteLaunch) fun _ => h

theorem State.Tidy.tryPromoted {k l} (h : s.Tidy) : FstTidy (s.tryPromoted k l) := by
  induction l generalizing s with
  | nil => exact h
  | cons x l ih =>
    unfold State.tryPromoted
    dsimp only
    split
    exacts [h.walkCard, ih h.walkCard]

theorem State.Tidy.ownRound {k} (h : s.Tidy) : (s.ownRound k).Tidy := by
  unfold State.ownRound
  exact State.tidy_ite (fun _ => h.tryPromoted.fst.foldl fun _ _ ht => ht.walkCard) fun _ => h.tryPromoted.fst

theorem State.Tidy.considered {k slot} (h : s.Tidy) : (s.considered k slot).Tidy := by
  unfold State.considered
  split
  · exact h
  · split
    · exact h
    · split
      exacts [State.Tidy.setCard (h.consider.ok ‹_›), h.consider.wait ‹_›, h]

theorem State.Tidy.considerSpoils {k} (h : s.Tidy) : (s.considerSpoils k).Tidy :=
  h.foldl fun _ _ ht => ht.foldl fun _ _ ht1 => State.tidy_ite (fun _ => ht1.considered) fun _ => ht1

theorem State.Tidy.stealOne {k} (h : s.Tidy) : (s.stealOne k).Tidy := by
  unfold State.stealOne
  dsimp only
  split
  · split
    exacts [h.considerSpoils, h.considerSpoils.setCluster.setCard.tryCard]
  · exact h.considerSpoils

theorem State.Tidy.markReady {k} (h : s.Tidy) : (s.markReady k).Tidy := h.setCluster

theorem State.Tidy.markAll (h : s.Tidy) : s.markAll.Tidy := h.foldl fun _ _ ht => ht.markReady

theorem State.Tidy.gainRound {k slot} (h : s.Tidy) : (s.gainRound k slot).Tidy := by
  unfold State.gainRound
  split
  · split
    exacts [h.setCard, h]
  · exact h

theorem execDispatchRound_tidy {cluster} (h : s.Tidy) : ResTidy (execDispatchRound cluster s) := by
  unfold execDispatchRound
  dsimp only
  split
  · exact h
  · exact State.Tidy.setCluster
      (State.Tidy.foldl
      (State.tidy_ite
      (fun _ => State.Tidy.stealOne
      (State.tidy_ite (fun _ => h.comeHome.markReady.foldl fun _ _ ht => ht.considered) fun _ =>
      State.Tidy.ownRound (h.comeHome.markReady.foldl fun _ _ ht => ht.considered))) fun _ => State.tidy_ite
      (fun _ => h.comeHome.markReady.foldl fun _ _ ht => ht.considered) fun _ =>
      State.Tidy.ownRound (h.comeHome.markReady.foldl fun _ _ ht => ht.considered)) fun _ _ ht => ht.gainRound)

theorem execCapacityWaitTimeout_tidy {cluster slot} (h : s.Tidy) :
    ResTidy (execCapacityWaitTimeout cluster slot s) := by
  unfold execCapacityWaitTimeout
  dsimp only
  split
  · exact h
  · split
    · exact h
    · split
      · exact h
      · exact State.tidy_ite
          (fun _ => State.Tidy.dropCard (State.tidy_ite (fun _ => h) fun _ => h.tryCard.noteLaunch)) fun _ =>
          State.tidy_ite (fun _ => h) fun _ => h.tryCard.noteLaunch

theorem State.Tidy.performSigs {ctx l} (h : s.Tidy) : FstTidy (s.performSigs ctx l) := by
  induction l generalizing s with
  | nil => exact h
  | cons x l ih =>
    unfold State.performSigs
    split
    exacts [ih h.semOr, ih h]

theorem State.Tidy.signalCard {x} (h : s.Tidy) : (s.signalCard x).Tidy := by
  unfold State.signalCard
  dsimp only
  split
  · exact State.Tidy.semOr (by
      split
      exacts [h.ctrDec, h])
  · split
    exacts [h.ctrDec, h]

theorem State.Tidy.finishCard {k slot x} (h : s.Tidy) : (s.finishCard k slot x).Tidy := by
  unfold State.finishCard
  dsimp only
  split
  exacts [h.signalCard.removeCard, h.signalCard.removeCard.removeCard]

theorem State.Tidy.leaveCores {x} (h : s.Tidy) : (s.leaveCores x).Tidy :=
  h.foldl fun _ _ ht => by
    dsimp only
    split
    · exact ht
    · split
      exacts [ht.sample.dropJob, ht.sample.dropJob.putCore]

theorem State.Tidy.retireEnd {k slot x} (h : s.Tidy) : (s.retireEnd k slot x).Tidy :=
  State.tidy_ite (fun _ => h) fun _ => h.finishCard.leaveCores

theorem State.Tidy.retire {k slot x c0 j0} (h : s.Tidy) : (s.retire k slot x c0 j0).Tidy := by
  unfold State.retire
  dsimp only
  split
  · exact h.drainRecs.retireEnd
  · split
    · exact h.nodeFails
    · exact h.forGate
    · exact h.commitAll.performSigs.fst.setCard.settle.setCard.writeRecord.retireEnd

theorem execCardRetire_tidy {cluster slot} (h : s.Tidy) : ResTidy (execCardRetire cluster slot s) := by
  unfold execCardRetire
  dsimp only
  split
  · exact h
  · split
    · exact h
    · split
      · exact h
      · split
        exacts [h, h.retire]

/-! ## Save -/

theorem State.Tidy.toSave {k slot} (h : s.Tidy) : (s.toSave k slot).Tidy := by
  unfold State.toSave
  split
  · exact h
  · split
    exacts [h.setCard, h]

theorem execJobStop_tidy {core} (h : s.Tidy) : ResTidy (execJobStop core s) := by
  unfold execJobStop
  dsimp only
  split
  · exact h
  · split
    · exact h
    · split
      · exact h.foldl fun _ _ ht => ht.tickM
      · split
        · exact State.Tidy.resolveTraps (h.foldl fun _ _ ht => ht.tickM)
        · split
          · exact State.Tidy.resolveTraps (State.Tidy.setJob (h.foldl fun _ _ ht => ht.tickM))
          · exact State.Tidy.toSave (State.Tidy.setJob (h.foldl fun _ _ ht => ht.tickM))

theorem State.Tidy.saveAll {x l} (h : s.Tidy) : OkFstTidy (s.saveAll x l) := by
  induction l generalizing s with
  | nil => exact h
  | cons c l ih =>
    unfold State.saveAll
    split
    · exact ih h
    · dsimp only
      split
      · trivial
      · next e =>
        have ht := (State.Tidy.imageWrites h.same).ok e
        split
        exacts [trivial, (ih ht).ok ‹_›]

theorem execSaveComplete_tidy {cluster slot} (h : s.Tidy) : ResTidy (execSaveComplete cluster slot s) := by
  unfold execSaveComplete
  dsimp only
  split
  · exact h
  · split
    · exact h
    · split
      · exact h.nodeFails
      · exact h.forGate
      · exact State.Tidy.foldl (State.Tidy.requeue (State.Tidy.settle (h.saveAll.ok ‹_›))) fun _ _ ht => ht.dropJob

theorem State.Tidy.wrapDiscard {k slot} (h : s.Tidy) : (s.wrapDiscard k slot).Tidy := by
  unfold State.wrapDiscard
  split
  exacts [h, h.stopNode.dropPoisoned.endRun.faultCard]

theorem State.Tidy.wrapEnd {k slot} (h : s.Tidy) : (s.wrapEnd k slot).Tidy := by
  unfold State.wrapEnd
  split
  · exact h
  · split
    exacts [h.kill, h.wrapDiscard]

theorem State.Tidy.wrapChoose {p k slot tck left} (h : s.Tidy) : (s.wrapChoose p k slot tck left).Tidy := by
  unfold State.wrapChoose
  dsimp only
  split
  · exact h
  · split
    · exact h
    · split
      · exact h.setPart
      · split
        exacts [h.askStop, h.wrapEnd]

theorem State.Tidy.wrapPost {p vft vf} (h : s.Tidy) : (s.wrapPost p vft vf).Tidy :=
  State.Tidy.wrapCheck
    (State.Tidy.foldl
    (State.Tidy.foldl (h.setPart.announce.foldl fun _ _ ht => ht.suspendAll) fun _ _ ht => ht.notice) fun _ _ ht =>
    ht.wrapChoose)

theorem execWrapPost_tidy {part value} (h : s.Tidy) : ResTidy (execWrapPost part value s) := by
  unfold execWrapPost
  dsimp only
  split
  · exact h.dropEarly
  · split
    · exact h.setPart
    · split
      · exact State.tidy_ite (fun _ => h.setPart) fun _ => h.setPart.announce
      · split
        · exact State.tidy_ite (fun _ => h.setPart) fun _ => h.setPart.announce
        · split
          · split
            exacts [State.tidy_ite (fun _ => h.setPart) fun _ => h.setPart.announce, h.wrapPost]
          · split
            exacts [State.tidy_ite (fun _ => h.setPart) fun _ => h.setPart.announce, h.wrapPost]

theorem execWrapCutoff_tidy {part cluster} (h : s.Tidy) : ResTidy (execWrapCutoff part cluster s) := by
  unfold execWrapCutoff
  dsimp only
  split
  · exact h
  · show State.Tidy _
    exact h.setPart.foldl fun _ _ ht => by
      split
      · split
        exacts [ht.askStop, ht]
      · exact ht

theorem execWrapStopDeadline_tidy {part core} (h : s.Tidy) : ResTidy (execWrapStopDeadline part core s) := by
  unfold execWrapStopDeadline
  dsimp only
  split
  · exact h
  · split
    exacts [h, h.wrapEnd]

/-! ## Vector -/

theorem vrun_tidy {i occ lat d f} (h : s.Tidy) : ResTidy (vrun i occ lat d f s) := issueJob_tidy h

theorem vbin_tidy {i lat t d op} (h : s.Tidy) : ResTidy (vbin i lat t d op s) := vrun_tidy h

theorem vtern_tidy {i lat t d op} (h : s.Tidy) : ResTidy (vtern i lat t d op s) := vrun_tidy h

theorem vun_tidy {i occ lat t d op} (h : s.Tidy) : ResTidy (vun i occ lat t d op s) := vrun_tidy h

theorem vfromScalar_tidy {i t d f} (h : s.Tidy) : ResTidy (vfromScalar i t d f s) := issueJob_tidy h

theorem vtoScalar_tidy {i lat d f} (h : s.Tidy) : ResTidy (vtoScalar i lat d f s) := issueJob_tidy h

theorem execVmov_tidy {tm d w} (h : s.Tidy) : ResTidy (execVmov tm d w s) :=
  issue_tidy h fun _ _ => by
    dsimp only
    split <;> exact h.setJob

/-! ## Cycle -/

theorem State.Tidy.storeRow {c x} (h : s.Tidy) : (s.storeRow c x).Tidy := by
  unfold State.storeRow
  dsimp only
  split
  · exact h
  · split
    · exact State.Tidy.setJob (h.setCore (by dsimp only; exact Memory.wf_writeRow (h.scr _) _ _ _))
    · exact h.setJob

theorem State.Tidy.storeRows {c} (h : s.Tidy) : (s.storeRows c).Tidy := by
  unfold State.storeRows
  dsimp only
  split
  exacts [h, h.setJob.foldl fun _ _ ht => ht.storeRow]

theorem State.Tidy.agreed {core j} (h : s.Tidy) : (s.agreed core j).Tidy := by
  unfold State.agreed
  dsimp only
  split
  exacts [h.setJob, h.setJob.same]

theorem execComparedCommandIssue_tidy {core} (h : s.Tidy) : ResTidy (execComparedCommandIssue core s) := by
  unfold execComparedCommandIssue
  split
  · exact h
  · split
    · exact h
    · split
      · exact h
      · split
        · exact h
        · split
          · exact h
          · split
            exacts [h.agreed, h.setJob]

theorem State.Tidy.countMasked {j} (h : s.Tidy) : (s.countMasked j).Tidy := by
  unfold State.countMasked
  split
  exacts [h.setCard, h]

theorem execThirdRunEnd_tidy {core} (h : s.Tidy) : ResTidy (execThirdRunEnd core s) := by
  unfold execThirdRunEnd
  dsimp only
  split
  · exact h
  · split
    · exact h
    · split
      · exact h
      · split
        · exact State.tidy_ite (fun _ => h.countMasked.agreed) fun _ => h.countMasked.setJob
        · exact h.quarantine.setJob.resolveTraps

theorem execTrapEntry_tidy {core} (h : s.Tidy) : ResTidy (execTrapEntry core s) := by
  unfold execTrapEntry
  split
  · exact h
  · split
    exacts [h, h.setJob]

theorem State.Tidy.unhold {c} (h : s.Tidy) : (s.unhold c).Tidy := by
  unfold State.unhold
  split
  exacts [h.setJob, h]

theorem execHoldEnd_tidy {core} (h : s.Tidy) : ResTidy (execHoldEnd core s) := by
  unfold execHoldEnd
  dsimp only
  split
  · exact h
  · split
    exacts [h, (h.foldl fun _ _ ht => ht.unhold).same]

theorem State.Tidy.deadlock {c} (h : s.Tidy) : (s.deadlock c).Tidy := by
  unfold State.deadlock
  split
  · exact h
  · split
    · exact h
    · split
      · split
        exacts [h.setJob, h]
      · split
        exacts [h.setJob, h]

theorem State.Tidy.noteLevel {c j} (h : s.Tidy) : (s.noteLevel c j).Tidy := by
  unfold State.noteLevel
  split
  exacts [h, h.setCard]

theorem State.Tidy.chargeCycle {c j} (h : s.Tidy) : (s.chargeCycle c j).Tidy := h.noteLevel.spendKind

theorem State.Tidy.coreCycle {c held} (h : s.Tidy) : (s.coreCycle c held).Tidy := by
  unfold State.coreCycle
  dsimp only
  split
  · exact h.putCore
  · split
    · split
      exacts [h.setJob.storeRows, h.setJob.storeRows.tickM]
    · exact State.Tidy.chargeCycle ((State.tidy_ite (fun _ => h.setJob.storeRows) fun _ =>
        h.setJob.storeRows.tickM).putCore)

theorem State.Tidy.stampCard {c} (h : s.Tidy) : (s.stampCard c).Tidy := by
  unfold State.stampCard
  dsimp only
  split
  · exact h
  · split
    · exact h
    · split
      exacts [h.same, h]

theorem State.Tidy.twinGuard {i} (h : s.Tidy) : (s.twinGuard i).Tidy :=
  State.tidy_ite (fun _ => h.leaveTwin) fun _ => h

theorem execIslandCycle_tidy {island} (h : s.Tidy) : ResTidy (execIslandCycle island s) :=
  State.Tidy.twinGuard
    (State.Tidy.setIsland
    (State.Tidy.ownOn
    (State.Tidy.foldl
    (State.Tidy.foldl
    (State.Tidy.foldl (State.Tidy.foldl (h.foldl fun _ _ ht => ht.deadlock) fun _ _ ht => ht.resolveTraps)
    fun _ _ ht => ht.coreCycle) fun _ _ ht => ht.resolveTraps) fun _ _ ht => ht.stampCard)))

theorem State.Tidy.mapJob {c f} (h : s.Tidy) : (s.mapJob c f).Tidy := by
  unfold State.mapJob
  split
  exacts [h.setJob, h]

theorem execSingleFault_tidy {kind} (h : s.Tidy) : ResTidy (execSingleFault kind s) := by
  unfold execSingleFault
  show State.Tidy _
  dsimp only
  split
  · exact h.scrubRow
  · exact h.scrubLine
  · exact h.frameCorrected
  · exact h.mapJob
  · exact h.mapJob
  · exact h.mapJob
  · exact h.mapJob
  · exact h
  · exact h
  · exact h.putCore
  · exact h.mapJob
  · exact h.putCore
  · exact h.putCore

/-! ## Governor -/

theorem State.Tidy.evacuate {i l2} (h : s.Tidy) : (s.evacuate i l2).Tidy :=
  h.foldl fun _ _ ht => ht.foldl fun _ _ ht1 =>
    State.tidy_ite (fun _ => ht1) fun _ => ht1.setCore (by rw [Core.evacuate_scr]; exact ht1.scr _)

theorem State.Tidy.tryDown {i} (h : s.Tidy) : (s.tryDown i).Tidy := by
  unfold State.tryDown
  exact State.tidy_ite (fun _ => h) fun _ => State.tidy_ite (fun _ => h.setIsland) fun _ => h.evacuate.setIsland

theorem State.Tidy.startUp {i} (h : s.Tidy) : (s.startUp i).Tidy := h.setIsland

theorem State.Tidy.chooseStep {i was12 temp} (h : s.Tidy) : (s.chooseStep i was12 temp).Tidy := by
  unfold State.chooseStep
  dsimp only
  split
  · exact h
  · split
    · exact h.tryDown
    · exact h.startUp
    · split
      exacts [h.tryDown, h]

theorem State.Tidy.flagIsland {i} (h : s.Tidy) : (s.flagIsland i).Tidy := by
  unfold State.flagIsland
  exact State.tidy_ite (fun _ => h.foldl fun _ _ ht => ht.mapJob) fun _ => h

theorem State.Tidy.islandBoundary {pool sum i x} (h : s.Tidy) : (s.islandBoundary pool sum i x).Tidy := by
  unfold State.islandBoundary
  exact h.setIsland.flagIsland.chooseStep.twinGuard.sample

theorem execGovernorInterval_tidy {sense} (h : s.Tidy) : ResTidy (execGovernorInterval sense s) := by
  unfold execGovernorInterval
  extract_lets pool sum s1 s2
  have h1 : s1.Tidy := h.foldl fun _ _ ht => ht.islandBoundary
  clear_value s1
  have h2 : s2.Tidy := ⟨h1.mem, h1.scr, h1.metas, h1.limits, CtxsTidy.map (fun _ => rfl) h1.ctxs_tidy⟩
  exact h2.foldl fun _ _ ht => ht.retryPhases

theorem State.Tidy.abandonStep {i down} (h : s.Tidy) : (s.abandonStep i down).Tidy := h.setIsland

theorem execEvacuationTimeout_tidy {island} (h : s.Tidy) : ResTidy (execEvacuationTimeout island s) := by
  unfold execEvacuationTimeout
  split
  · exact h
  · split
    exacts [h, h.abandonStep]

theorem State.Tidy.relevel {i l2} (h : s.Tidy) : (s.relevel i l2).Tidy :=
  State.Tidy.setIsland (h.foldl fun _ _ ht => ht.withCoreWf (scr := by exact Core.relevel_wf (ht.scr _)))

theorem execLevelChange_tidy {island} (h : s.Tidy) : ResTidy (execLevelChange island s) := by
  unfold execLevelChange
  dsimp only
  split
  · exact h
  · split
    · exact h.abandonStep
    · split
      · exact h.relevel.retryPhases
      · split
        · exact h.abandonStep
        · exact State.tidy_ite (fun _ => h.evacuate) fun _ => h.evacuate.relevel.retryPhases

theorem execPhaseCapwaitTimeout_tidy {core} (h : s.Tidy) : ResTidy (execPhaseCapwaitTimeout core s) := by
  unfold execPhaseCapwaitTimeout
  split
  · exact h
  · split
    · split
      exacts [h, h.capShort]
    · exact h

theorem execDroopRecover_tidy {island depth} (h : s.Tidy) : ResTidy (execDroopRecover island depth s) := by
  unfold execDroopRecover
  dsimp only
  split
  exacts [h, h.setIsland.sample]

theorem State.Tidy.passCycle {i} (h : s.Tidy) : (s.passCycle i).Tidy := by
  have hm := h.markAll
  unfold State.passCycle
  generalize s.markAll = t at hm
  exact hm.same

/-! ## Queues -/

theorem State.Tidy.queueHalt {ctx q code addr detail head} (h : s.Tidy) :
    (s.queueHalt ctx q code addr detail head).Tidy :=
  h.queueError.setQueue

theorem State.Tidy.queueFault {ctx q w va} (h : s.Tidy) : (s.queueFault ctx q w va).Tidy := by
  unfold State.queueFault
  dsimp only
  split
  · exact h
  · split
    exacts [h.queueHalt, h.setQueue.askPage]

theorem State.Tidy.queueRead {ctx q va n} (h : s.Tidy) : ErrTidy (s.queueRead ctx q va n) := by
  unfold State.queueRead
  split
  · trivial
  · exact h.queueFault
  · exact h.queueHalt
  · exact h.queueHalt
  · exact h.ownFill
  · exact h

/-- The packet of a queue keeps the canonical form if what is done with it does. -/
theorem State.Tidy.withPacket {ctx q stale k} (h : s.Tidy) (hs : ∀ t bs, t.Tidy → (stale t bs).Tidy)
    (hk : ∀ t bs p, t.Tidy → (k t bs p).Tidy) : (s.withPacket ctx q stale k).Tidy := by
  unfold State.withPacket
  dsimp only
  split
  · exact h
  · split
    · exact h.setQueue
    · split
      · exact h.queueRead.error ‹_›
      · split
        exacts [hk _ _ _ h.devDrawn.setQueue, hs _ _ h.devDrawn.setQueue]

theorem execNopPacket_tidy {ctx queue} (h : s.Tidy) : ResTidy (execNopPacket ctx queue s) := by
  unfold execNopPacket
  show State.Tidy _
  exact h.withPacket (fun _ _ ht => ht) fun _ _ _ ht => by
    split
    exacts [ht.setQueue, ht]

theorem execBadpacket_tidy {ctx queue} (h : s.Tidy) : ResTidy (execBadpacket ctx queue s) := by
  unfold execBadpacket
  show State.Tidy _
  exact h.withPacket (fun _ _ ht => ht) fun _ _ _ ht => by
    split
    exacts [ht.queueHalt, ht]

theorem execStaleReread_tidy {ctx queue} (h : s.Tidy) : ResTidy (execStaleReread ctx queue s) := by
  unfold execStaleReread
  dsimp only
  exact h.withPacket (fun _ _ ht => State.tidy_ite (fun _ => ht.setQueue) fun _ => ht.queueError.setQueue)
    fun _ _ _ ht => ht.setQueue

theorem execIndirect_tidy {ctx queue} (h : s.Tidy) : ResTidy (execIndirect ctx queue s) := by
  unfold execIndirect
  dsimp only
  show State.Tidy _
  exact h.withPacket (fun _ _ ht => ht) fun _ _ _ ht => by
    split
    · split
      · exact ht.queueHalt
      · split
        exacts [ht.queueHalt, ht.setQueue]
    · exact ht

theorem State.Tidy.takePacket {ctx q bs wait} (h : s.Tidy) : (s.takePacket ctx q bs wait).Tidy := by
  unfold State.takePacket
  dsimp only
  split
  exacts [h.queueHalt, h.setQueue]

theorem execSignal_tidy {ctx queue} (h : s.Tidy) : ResTidy (execSignal ctx queue s) := by
  unfold execSignal
  show State.Tidy _
  exact h.withPacket (fun _ _ ht => ht) fun _ _ _ ht => by
    split
    exacts [ht.takePacket, ht]

theorem execWait_tidy {ctx queue} (h : s.Tidy) : ResTidy (execWait ctx queue s) := by
  unfold execWait
  show State.Tidy _
  exact h.withPacket (fun _ _ ht => ht) fun _ _ _ ht => by
    split
    exacts [ht.takePacket, ht]

theorem execSignalPacketPerform_tidy {ctx queue} (h : s.Tidy) : ResTidy (execSignalPacketPerform ctx queue s) := by
  unfold execSignalPacketPerform
  dsimp only
  split
  · exact h
  · split
    · exact h
    · show State.Tidy _
      exact State.Tidy.setQueue (by
        split
        · exact State.Tidy.ctrPacket (by
          split
          exacts [h.semPacket, h])
        · split
          exacts [h.semPacket, h])

theorem execWaitPacketRelease_tidy {ctx queue} (h : s.Tidy) : ResTidy (execWaitPacketRelease ctx queue s) := by
  unfold execWaitPacketRelease
  dsimp only
  split
  · exact h
  · split
    exacts [h, h.setQueue]

theorem State.Tidy.templates {ctx q cards k n} (h : s.Tidy) : ErrTidy (s.templates ctx q cards k n) := by
  induction n generalizing k with
  | zero => trivial
  | succ n ih =>
    unfold State.templates
    split
    · exact h.queueRead.error ‹_›
    · split
      · exact h.queueHalt
      · split
        exacts [ih.error ‹_›, trivial]

theorem State.Tidy.expand {ctx q} (h : s.Tidy) : (s.expand ctx q).Tidy := by
  unfold State.expand
  dsimp only
  split
  · exact h.queueRead.error ‹_›
  · split
    · exact h.queueHalt
    · split
      · exact h.queueHalt
      · split
        · exact h.devDrawn.devDrawn.devDrawn.setQueue
        · next e =>
          split at e
          · cases e
          · exact h.queueRead.error e
        · next e _ => exact h.templates.error e

theorem execOperators_tidy {ctx queue} (h : s.Tidy) : ResTidy (execOperators ctx queue s) := by
  unfold execOperators
  dsimp only
  split
  · exact h
  · split
    · exact h.expand
    · show State.Tidy _
      exact h.withPacket (fun _ _ ht => ht) fun _ _ _ ht => by
        split
        exacts [ht.setQueue.expand, ht]

theorem State.Tidy.placeCard {x} (h : s.Tidy) : (s.placeCard x).Tidy := by
  have ht : State.Tidy { s with fresh := s.fresh + 1 } := h.same
  unfold State.placeCard
  dsimp only
  split
  · next e => with_reducible exact ht.enqueue.some e
  · exact h

theorem State.Tidy.queueCards {ctx q p} (h : s.Tidy) : (s.queueCards ctx q p).Tidy := by
  unfold State.queueCards
  exact State.tidy_ite (fun _ => h.setQueue) fun _ => State.Tidy.setQueue (h.foldl fun _ _ ht => ht.placeCard)

theorem execCastling_tidy {ctx queue} (h : s.Tidy) : ResTidy (execCastling ctx queue s) := by
  unfold execCastling
  dsimp only
  split
  · exact h
  · split
    · exact h
    · split
      · exact h.setQueue.queueCards.setQueue
      · split
        exacts [h, h.setQueue.queueCards]

theorem execQuotaWaitRelease_tidy {ctx queue} (h : s.Tidy) : ResTidy (execQuotaWaitRelease ctx queue s) := by
  unfold execQuotaWaitRelease
  dsimp only
  split
  · exact h
  · split
    exacts [h, h.queueCards]

theorem execDoorbell_tidy {ctx value} (h : s.Tidy) : ResTidy (execDoorbell ctx value s) := by
  unfold execDoorbell
  dsimp only
  split
  · exact h.dropEarly
  · split
    · exact h.pf0Error
    · split
      exacts [h.reserved, h.setQueue]

theorem execQctlReset_tidy {ctx queue value} (h : s.Tidy) : ResTidy (execQctlReset ctx queue value s) := by
  unfold execQctlReset
  dsimp only
  split
  · exact h.dropEarly
  · split
    exacts [h, h.same.setQueue]

theorem State.Tidy.leaveRun {v t} (h : s.Tidy) : (s.leaveRun v t).Tidy := by
  unfold State.leaveRun
  exact State.tidy_ite (fun _ => h.putCtx.kill) fun _ => State.tidy_ite (fun _ => h.putCtx.vfIrq) fun _ => h.putCtx

theorem execTdiLeaveRun_tidy {vf} (h : s.Tidy) : ResTidy (execTdiLeaveRun vf s) := by
  unfold execTdiLeaveRun
  split
  exacts [h.leaveRun, h]

theorem execTdispMessage_tidy {vf msg} (h : s.Tidy) : ResTidy (execTdispMessage vf msg s) := by
  unfold execTdispMessage
  dsimp only
  show State.Tidy _
  split
  exacts [h.putCtx, h.putCtx, h.leaveRun, h.putCtx, h]

/-! ## Spdm -/

theorem State.Tidy.respond {kind} (h : s.Tidy) : (s.respond kind).Tidy := h.same.send

theorem State.Tidy.answerWith {bs} (h : s.Tidy) : (s.answerWith bs).Tidy := h.send

theorem State.Tidy.spdmError (h : s.Tidy) : s.spdmError.Tidy := h.send

/-- An exchange of SPDM keeps the canonical form if its answer does. -/
theorem State.Tidy.spdmIf {ok f} (h : s.Tidy) (hf : ∀ t, t.Tidy → (f t).Tidy) : ResTidy (s.spdmIf ok f) :=
  State.tidy_ite (fun _ => hf s h) fun _ => h.spdmError

theorem execFinish_tidy {session verified} (h : s.Tidy) : ResTidy (execFinish session verified s) := by
  unfold execFinish
  dsimp only
  split
  · exact h.spdmError
  · split
    exacts [h.same.respond, h.same.spdmError]

theorem execKeyset_tidy {session ctx kind key} (h : s.Tidy) : ResTidy (execKeyset session ctx kind key s) := by
  unfold execKeyset
  dsimp only
  split
  · exact h.spdmError
  · split
    · split
      exacts [State.Tidy.respond (h.keyInstall.some ‹_›), h.spdmError]
    · exact h.putCtx.respond

/-! ## Bringup -/

theorem State.Tidy.deviceReset (h : s.Tidy) : s.deviceReset.Tidy :=
  ⟨SMap.wf_filter _ h.mem, CoresTidy.map (fun x _ => by rw [x.afterReset_scr]; rfl) h.cores_tidy, reset_tidy.metas,
    reset_tidy.limits, reset_tidy.queues⟩

theorem State.Tidy.coreReset {c} (h : s.Tidy) : (s.coreReset c).Tidy := by
  unfold State.coreReset
  extract_lets s1 x t
  have h1 : s1.Tidy := h.nodeFails
  have hx : x.scr.wf = true := Core.loseAll_wf (h1.scr c)
  clear_value x
  have ht : t.Tidy := h1.setCore hx
  clear_value t
  exact ht.same

theorem execCoreSelfTestEnd_tidy {core passed} (h : s.Tidy) : ResTidy (execCoreSelfTestEnd core passed s) := by
  unfold execCoreSelfTestEnd
  dsimp only
  split
  exacts [h, h.putCore]

theorem State.Tidy.formPart {f} (h : s.Tidy) : (s.formPart f).Tidy := State.tidy_ite (fun _ => h.setPart) fun _ => h

theorem State.Tidy.ownSemaphore {n vf} (h : s.Tidy) : (s.ownSemaphore n vf).Tidy := h.setCluster

theorem State.Tidy.setIntake {k d} (h : s.Tidy) : (s.setIntake k d).Tidy :=
  State.tidy_ite (fun _ => h) fun _ => h.same

theorem State.Tidy.tableFrame {pa bs f} (h : s.Tidy) : (s.tableFrame pa bs f).Tidy := by
  unfold State.tableFrame
  dsimp only
  split
  · exact h
  · split
    · exact h
    · split
      · exact h.sealWrite
      · split
        exacts [h.resealFails, h.writeBlock.sealWrite]

theorem State.Tidy.setTable {pa bs} (h : s.Tidy) : (s.setTable pa bs).Tidy :=
  State.tidy_ite (fun _ => h.withMem (mem := Memory.wf_writeBytes h.mem)) fun _ => h.foldl fun _ _ ht => ht.tableFrame

theorem State.Tidy.shootBy {p x} (h : s.Tidy) : (s.shootBy p x).Tidy := by
  unfold State.shootBy
  split
  exacts [h.shootStart, h]

theorem State.Tidy.setUp {u} (h : s.Tidy) : (s.setUp u).Tidy :=
  State.Tidy.foldl ((State.Tidy.foldl
    (State.Tidy.foldl (State.Tidy.foldl (h.foldl fun _ _ ht => ht.formPart) fun _ _ ht => ht.setTable) fun _ _ ht =>
    ht.ownSemaphore) fun _ _ ht => ht.setIntake).same) fun _ _ ht => ht.shootBy

theorem State.Tidy.stageFails {err} (h : s.Tidy) : (s.stageFails err).Tidy := h.same.irq

theorem State.Tidy.verified {x} (h : s.Tidy) : (s.verified x).Tidy := by
  unfold State.verified
  split
  exacts [h.same, h.stageFails]

theorem execBringupStageAdvance_tidy {outcome} (h : s.Tidy) : ResTidy (execBringupStageAdvance outcome s) := by
  unfold execBringupStageAdvance
  show State.Tidy _
  split
  · split
    exacts [h.setUp, h]
  · exact h
  · split
    exacts [h, h.stageFails]
  · exact h.verified
  · exact h.same.setUp.irq
  · exact h.same

theorem State.Tidy.hostBlockWrite {ctx pa bs} (h : s.Tidy) : OkTidy (s.hostBlockWrite ctx pa bs) := by
  unfold State.hostBlockWrite
  dsimp only
  split
  · trivial
  · exact h.foldl fun _ _ ht => ht.commit

theorem State.Tidy.intakeWrite {ctx va bs} (h : s.Tidy) : OkTidy (s.intakeWrite ctx va bs) := by
  unfold State.intakeWrite
  split
  · trivial
  · split
    · trivial
    · dsimp only
      split
      · trivial
      · next e =>
        split at e
        exacts [(h.hostBlockWrite.ok e).meterBlock, (h.leafWrite.ok e).meterBlock]

theorem State.Tidy.intakeLoop {ctx n l} (h : s.Tidy) : (s.intakeLoop ctx n l).Tidy := by
  induction l generalizing s n with
  | nil => exact h
  | cons x l ih =>
    unfold State.intakeLoop
    split
    exacts [ih (h.intakeWrite.ok ‹_›), h, h]

theorem State.Tidy.intakeSignal {ctx d f} (h : s.Tidy) : (s.intakeSignal ctx d f).Tidy := by
  unfold State.intakeSignal
  split
  exacts [h.semOr, h]

theorem State.Tidy.putIntake {k x} (h : s.Tidy) : (s.putIntake k x).Tidy := h.same

theorem State.Tidy.intakeFrame {k x ctx d data status pts} (h : s.Tidy) :
    (s.intakeFrame k x ctx d data status pts).Tidy := by
  unfold State.intakeFrame
  split
  · exact State.Tidy.intakeSignal (State.Tidy.putIntake (h.intakeLoop.done ‹_›))
  · exact State.Tidy.forGate (State.Tidy.putIntake (h.intakeLoop.wait ‹_›))
  · exact State.Tidy.putIntake (h.intakeLoop.fail ‹_›)

theorem execFrameDecoded_tidy {stream data status pts} (h : s.Tidy) :
    ResTidy (execFrameDecoded stream data status pts s) := by
  unfold execFrameDecoded
  dsimp only
  split
  · exact h
  · split
    · exact h
    · split
      · exact h
      · split
        · exact h.intakeFrame
        · split
          · split
            exacts [h.putIntake, h.devDrawn.intakeFrame]
          · split
            exacts [h.devWait, h.putIntake]

theorem State.Tidy.setMonitor {m x} (h : s.Tidy) : (s.setMonitor m x).Tidy := h.same

theorem State.Tidy.clearMonitor {m} (h : s.Tidy) : (s.clearMonitor m).Tidy := h.setMonitor

theorem execMonitorClr_tidy {m} (h : s.Tidy) : ResTidy (execMonitorClr m s) := by
  unfold execMonitorClr
  split
  exacts [h.dropEarly, h.clearMonitor]

theorem execFastsetCountClear_tidy (h : s.Tidy) : ResTidy (execFastsetCountClear s) := by
  unfold execFastsetCountClear
  split
  exacts [h.dropEarly, h.same]

/-! ## Fabric -/

theorem State.Tidy.peerEnd {r bad bs} (h : s.Tidy) : (s.peerEnd r bad bs).Tidy := by
  unfold State.peerEnd
  dsimp only
  split
  · exact h.same
  · split
    · split
      · exact h.same
      · split
        exacts [h.same.postFails, h.same.setJob]
    · exact h.same.setJob

theorem State.Tidy.portState {p st} (h : s.Tidy) : (s.portState p st).Tidy :=
  State.tidy_ite (fun _ => h) fun _ => h.setPort.irq

theorem State.Tidy.portDown {p} (h : s.Tidy) : (s.portDown p).Tidy :=
  h.setPort.portState.foldl fun _ _ ht => ht.peerEnd

theorem State.Tidy.deliver {key f} (h : s.Tidy) : (s.deliver key f).Tidy := by
  unfold State.deliver
  exact State.tidy_ite (fun _ => h) fun _ => h.same.sendFlit

theorem execFlitReceive_tidy {port flit macOk} (h : s.Tidy) : ResTidy (execFlitReceive port flit macOk s) := by
  unfold execFlitReceive
  dsimp only
  split
  · exact h
  · split
    · exact h
    · split
      · exact h.send
      · split
        · exact h.portDown.sealEvent
        · split
          · exact h.setPort.send.deliver
          · split <;> exact h.send

theorem State.Tidy.retrain {p} (h : s.Tidy) : (s.retrain p).Tidy := by
  unfold State.retrain
  exact State.tidy_ite (fun _ => h.setPort.note.portDown) fun _ => h.setPort.note.portState

theorem State.Tidy.replayAll {p} (h : s.Tidy) : (s.replayAll p).Tidy := h.setPort.note.foldl fun _ _ ht => ht.send

theorem execFlitReplay_tidy {port seq} (h : s.Tidy) : ResTidy (execFlitReplay port seq s) := by
  unfold execFlitReplay
  dsimp only
  split
  · exact h
  · exact State.tidy_ite (fun _ => h.setPort.replayAll.retrain) fun _ => h.setPort.replayAll

theorem execPortRetrainComplete_tidy {port} (h : s.Tidy) : ResTidy (execPortRetrainComplete port s) := by
  unfold execPortRetrainComplete
  dsimp only
  split
  exacts [h, h.same.setPort.portState.replayAll.foldl fun _ _ ht => ht.sendFlit]

theorem State.Tidy.peerRefuse {r} (h : s.Tidy) : (s.peerRefuse r).Tidy := by
  unfold State.peerRefuse
  split
  exacts [h.pf0Error, h.pf0Error, h.pf0Error.sendReply]

theorem State.Tidy.peerWrite {ctx r l back} (h : s.Tidy) : (s.peerWrite ctx r l back).Tidy := by
  unfold State.peerWrite
  split
  · exact State.Tidy.sendReply (h.foldl fun _ _ ht => ht.commit)
  · exact h.peerRefuse
  · exact h.forGate

theorem State.Tidy.peerServe {ctx r} (h : s.Tidy) : (s.peerServe ctx r).Tidy := by
  unfold State.peerServe
  dsimp only
  split
  · exact h.peerWrite
  · exact h.peerWrite
  · split
    · exact h.ownFill
    · exact h.peerRefuse
    · split
      · exact State.Tidy.sendReply (h.foldl fun _ _ ht => ht.touch)
      · split
        · exact State.Tidy.sendReply (h.foldl fun _ _ ht => ht.touch)
        · exact State.Tidy.peerWrite (h.foldl fun _ _ ht => ht.touch)

theorem execPeerRequest_tidy {req} (h : s.Tidy) : ResTidy (execPeerRequest req s) := by
  unfold execPeerRequest
  show State.Tidy _
  split
  exacts [h.peerRefuse, h.peerServe]

theorem execPeerResponse_tidy {tag poisoned data} (h : s.Tidy) : ResTidy (execPeerResponse tag poisoned data s) := by
  unfold execPeerResponse
  show State.Tidy _
  split
  exacts [h, h.peerEnd]

theorem execPeerRequestTimeout_tidy {tag} (h : s.Tidy) : ResTidy (execPeerRequestTimeout tag s) := by
  unfold execPeerRequestTimeout
  show State.Tidy _
  split
  · exact h
  · split
    exacts [h, h.peerEnd]

/-! ## Regs -/

/-- A write of a field keeps the canonical form if the field's new value does. -/
theorem State.Tidy.putField {b ok f} (h : s.Tidy) (hf : ∀ t, t.Tidy → (f t).Tidy) : (s.putField b ok f).Tidy :=
  State.tidy_ite (fun _ => hf s h) fun _ => h.reserved

/-- A write of a whole register keeps the canonical form if its effect does. -/
theorem State.Tidy.wide {b n addr width f} (h : s.Tidy) (hf : ∀ t, t.Tidy → (f t).Tidy) :
    (s.wide b n addr width f).Tidy :=
  State.tidy_ite (fun _ => hf s h) fun _ => h.reserved

theorem stateOr_tidy {r} (h : s.Tidy) (hr : ResTidy r) : (stateOr s r).Tidy := by
  cases r
  exacts [hr, h, h]

theorem State.Tidy.putStatus {firmware v} (h : s.Tidy) : (s.putStatus firmware v).Tidy := by
  unfold State.putStatus
  exact State.tidy_ite (fun _ => h.deviceReset) fun _ => State.tidy_ite (fun _ => h.coreReset) fun _ => h

theorem State.Tidy.putGovpkg {v} (h : s.Tidy) : (s.putGovpkg v).Tidy := by
  unfold State.putGovpkg
  exact State.Tidy.putField (State.Tidy.putField h.same fun _ ht => ht.same) fun _ ht => ht.same

theorem State.Tidy.putGovisl {i v} (h : s.Tidy) : (s.putGovisl i v).Tidy := by
  unfold State.putGovisl
  exact State.tidy_ite (fun _ => h.setIsland.putField fun _ ht => ht) fun _ =>
    State.Tidy.leaveTwin (h.setIsland.putField fun _ ht => ht)

theorem State.Tidy.putClass {i k v} (h : s.Tidy) : (s.putClass i k v).Tidy := h.setIsland

theorem State.Tidy.putGov {o width v} (h : s.Tidy) : (s.putGov o width v).Tidy := by
  unfold State.putGov
  exact State.tidy_ite (fun _ => h.wide fun _ ht => ht.putGovpkg) fun _ => State.tidy_ite
    (fun _ => State.tidy_ite (fun _ => h.wide fun _ ht => ht.putClass.putClass) fun _ => State.tidy_ite
    (fun _ => h.wide fun _ ht => ht.putGovisl) fun _ => State.tidy_ite (fun _ => h.wide fun _ ht => ht) fun _ =>
    h.reserved) fun _ => h.reserved

theorem State.Tidy.putCache {o width v} (h : s.Tidy) : (s.putCache o width v).Tidy :=
  h.wide fun _ ht => State.tidy_ite (fun _ => ⟨ht.mem, ht.scr, ht.metas, SMap.wf_set ht.limits _ _, ht.queues⟩)
    fun _ => ht

theorem State.Tidy.putVfquota {c v} (h : s.Tidy) : (s.putVfquota c v).Tidy := by
  unfold State.putVfquota
  exact h.putCtx.putField fun _ ht => ht.putCtx

theorem State.Tidy.putRelcfg {p v} (h : s.Tidy) : (s.putRelcfg p v).Tidy := by
  unfold State.putRelcfg
  dsimp only
  split
  · exact State.Tidy.setPart (h.setPart.putField fun _ ht => ht.setPart)
  · exact State.Tidy.setPart (h.setPart.putField fun _ ht => ht.setPart)
  · exact State.Tidy.setPart (h.setPart.putField fun _ ht => ht.setPart)
  · exact State.Tidy.reserved (h.setPart.putField fun _ ht => ht.setPart)

theorem State.Tidy.putSev {o width v} (h : s.Tidy) : (s.putSev o width v).Tidy :=
  State.tidy_ite (fun _ => h.wide fun _ ht => ht.same.sevDrain) fun _ => State.tidy_ite
    (fun _ => h.wide fun _ ht => ht.putField fun _ ht1 => ht1.same.sevDrain) fun _ => State.tidy_ite
    (fun _ => h.wide fun _ ht => ht) fun _ => State.tidy_ite (fun _ => h.wide fun _ ht => ht.same.sevDrain) fun _ =>
    State.tidy_ite (fun _ => h.wide fun _ ht => ht.same) fun _ => h.reserved

theorem State.Tidy.putFabcfg {v} (h : s.Tidy) : (s.putFabcfg v).Tidy := h.same.putField fun _ ht => ht.same

theorem State.Tidy.putPort {p v} (h : s.Tidy) : (s.putPort p v).Tidy := h.setPort

theorem State.Tidy.putPeer {e v} (h : s.Tidy) : (s.putPeer e v).Tidy := by
  unfold State.putPeer
  exact h.putField fun _ ht => ht.same

theorem State.Tidy.atPart {k f} (h : s.Tidy) (hf : ∀ p, (f p).Tidy) : (s.atPart k f).Tidy := by
  unfold State.atPart
  split
  exacts [hf _, h.reserved]

theorem State.Tidy.putFirmware {o width v} (h : s.Tidy) : (s.putFirmware o width v).Tidy :=
  State.tidy_dite (fun _ => h.wide fun _ ht => State.tidy_ite (fun _ => ht.putVfquota) fun _ => ht) fun _ =>
  State.tidy_ite (fun _ => h.wide fun _ ht => ht.atPart fun _ =>
    State.tidy_ite (fun _ => ht.setPart.prqDrain) fun _ => ht) fun _ =>
  State.tidy_ite (fun _ => h.wide fun _ ht => ht.atPart fun _ => stateOr_tidy ht (execPageRequestAnswer_tidy ht))
    fun _ =>
  State.tidy_ite (fun _ => h.wide fun _ ht => ht) fun _ =>
  State.tidy_ite (fun _ => h.putSev) fun _ =>
  State.tidy_ite (fun _ => h.wide fun _ ht => ht) fun _ =>
  State.tidy_ite (fun _ => h.wide fun _ ht => ht.atPart fun _ => ht.putRelcfg) fun _ =>
  State.tidy_ite (fun _ => h.wide fun _ ht => ht.atPart fun _ =>
    State.tidy_ite (fun _ => stateOr_tidy ht (execWrapPost_tidy ht)) fun _ => ht.setPart) fun _ =>
  State.tidy_ite (fun _ => h.wide fun _ ht => ht.putFabcfg) fun _ =>
  State.tidy_ite (fun _ => h.wide fun _ ht => ht.putPort) fun _ =>
  State.tidy_ite (fun _ => h.wide fun _ ht => ht.same) fun _ =>
  State.tidy_ite (fun _ => h.wide fun _ ht => ht.putPeer) fun _ => h.reserved

theorem State.Tidy.putEdge {m i v} (h : s.Tidy) : (s.putEdge m i v).Tidy := by
  unfold State.putEdge
  exact State.tidy_ite (fun _ => h) fun _ => h.putField fun _ ht => ht.setMonitor

theorem State.Tidy.putMonitor {m o width v} (h : s.Tidy) : (s.putMonitor m o width v).Tidy := by
  unfold State.putMonitor
  dsimp only
  split
  · exact h.wide fun _ ht => State.tidy_ite (fun _ => ht.setMonitor.clearMonitor) fun _ => ht.setMonitor
  · split
    · exact h.wide fun _ ht => ht
    · split
      · exact h.wide fun _ ht => ht.putEdge.putEdge
      · split
        exacts [h.wide fun _ ht => ht, h.reserved]

theorem State.Tidy.putMonitors {o width v} (h : s.Tidy) : (s.putMonitors o width v).Tidy :=
  State.tidy_ite (fun _ => h.putMonitor) fun _ => State.tidy_ite (fun _ => h.wide fun _ ht => ht.same) fun _ =>
    h.reserved

theorem State.Tidy.putIdentity {o width} (h : s.Tidy) : (s.putIdentity o width).Tidy :=
  State.tidy_ite (fun _ => h.wide fun _ ht => ht) fun _ => h.reserved

theorem State.Tidy.sendPending {fn n} (h : s.Tidy) : (s.sendPending fn n).Tidy := by
  unfold State.sendPending
  dsimp only
  split
  exacts [h, h.foldl fun _ _ ht => State.tidy_ite (fun _ => ht.same.irq) fun _ => ht]

theorem State.Tidy.putMsixCtl {fn v} (h : s.Tidy) : (s.putMsixCtl fn v).Tidy := h.same.sendPending

theorem State.Tidy.putMsix {b fn vector o width v} (h : s.Tidy) : (s.putMsix b fn vector o width v).Tidy := by
  unfold State.putMsix
  exact State.tidy_ite (fun _ => h.reserved) fun _ => State.tidy_ite (fun _ => h.same.irq) fun _ => h.same

theorem State.Tidy.putQbase {c q v} (h : s.Tidy) : (s.putQbase c q v).Tidy := h.setQueue.putField fun _ ht => ht

theorem State.Tidy.putQueue {c q r width v} (h : s.Tidy) : (s.putQueue c q r width v).Tidy :=
  State.tidy_ite (fun _ => h.reserved) fun _ => h.wide fun _ ht => State.tidy_ite (fun _ => ht.putQbase) fun _ =>
    State.tidy_ite (fun _ => ht.setQueue) fun _ => State.tidy_ite
    (fun _ => stateOr_tidy ht (execQctlReset_tidy ht)) fun _ => ht

theorem State.Tidy.putBar0 {c o width v} (h : s.Tidy) : (s.putBar0 c o width v).Tidy := by
  unfold State.putBar0
  split
  · exact h.wide fun _ ht => stateOr_tidy ht (execDoorbell_tidy ht)
  · split
    · exact h.wide fun _ ht => ht
    · split
      · exact h.putQueue
      · split
        · split
          exacts [h.putMsix, h.reserved]
        · split
          exacts [h.wide fun _ ht => ht, h.reserved]

theorem State.Tidy.putReg {firmware addr width value} (h : s.Tidy) : (s.putReg firmware addr width value).Tidy :=
  State.tidy_ite (fun _ => h.putIdentity) fun _ =>
  State.tidy_ite (fun _ => State.tidy_ite (fun _ => h.wide fun _ ht => ht.putStatus) fun _ => h.reserved) fun _ =>
  State.tidy_ite (fun _ => h.dropEarly) fun _ =>
  State.tidy_ite (fun _ => h.putGov) fun _ =>
  State.tidy_ite (fun _ => h.putCache) fun _ =>
  State.tidy_ite (fun _ => h.putFirmware) fun _ =>
  State.tidy_ite (fun _ => h.putMonitors) fun _ =>
  State.tidy_dite (fun _ => h.putBar0) fun _ =>
  State.tidy_ite (fun _ => h.putMsix) fun _ =>
  State.tidy_ite (fun _ => h.wide fun _ ht => ht) fun _ =>
  State.tidy_ite (fun _ => by
    split
    · exact State.tidy_ite (fun _ => h.putMsixCtl) fun _ => h
    · exact h) fun _ => h

theorem execRegisterWrite_tidy {addr width value} (h : s.Tidy) : ResTidy (execRegisterWrite addr width value s) := by
  unfold execRegisterWrite
  show State.Tidy _
  split <;> exact h.putReg

end Sys2Proof.Machine
end

section
/-! SUPPORT. The canonical form under every instruction and event, and under a step. -/

namespace Sys2Proof.Machine

variable {s : State}

/-- Every instruction and every event keeps the canonical form. The terms stand in the order of the arms of `exec`. -/
theorem exec_tidy {i} (h : s.Tidy) : ResTidy (exec i s) := by
  unfold exec
  split
  exacts [
    issueJob_tidy h, issueJob_tidy h, issue_tidy h fun _ _ => h.setJob, execSlate_tidy h,
    issue_tidy h fun _ _ => h.setJob, issue_tidy h fun _ _ => h.setJob, issue_tidy h fun _ _ => h.setJob,
    issue_tidy h fun _ _ => h.setJob, branchVal_tidy h, branchVal_tidy h, issue_tidy h fun _ _ => callTo_tidy h,
    execCallr_tidy h, execRet_tidy h, issue_tidy h fun _ _ => h.setJob, alu_tidy h, alu_tidy h, alu_tidy h,
    alu_tidy h, alu_tidy h, alu_tidy h, alu_tidy h, alu_tidy h, alu_tidy h, alu_tidy h, alu_tidy h, alu_tidy h,
    alu_tidy h, alu_tidy h, alu_tidy h, alu_tidy h, alu_tidy h, alu_tidy h, alu_tidy h, alu_tidy h, alu_tidy h,
    alu_tidy h, alu_tidy h, alu_tidy h, alu_tidy h, alu_tidy h, alu_tidy h, alu_tidy h, alu_tidy h, alu_tidy h,
    alu_tidy h, alu_tidy h, issue_tidy h fun _ _ => h.setJob, issueJob_tidy h, setPredBy_tidy h, setPredBy_tidy h,
    setPredBy_tidy h, setPredBy_tidy h, issueJob_tidy h, branchPred_tidy h, branchPred_tidy h, issueJob_tidy h,
    execSig_tidy h, issue_tidy h fun _ _ => h.setJob, execTrap_tidy h, execEret_tidy h, outsideC_tidy h,
    outsideC_tidy h, execVarreg_tidy h, issueJob_tidy h, outsideC_tidy h, execPhase_tidy h, execPreempt_tidy h,
    execQsusp_tidy h, execQres_tidy h, execSemmap_tidy h, execDrainm_tidy h, execRseed_tidy h, execYield_tidy h,
    execAld_tidy h, execAst_tidy h, execArd_tidy h, execAwr_tidy h, execAfill_tidy h, execAdrain_tidy h,
    execWset_tidy h, execWadv_tidy h, accessOp_tidy h fun _ _ _ _ => h.loadAt fun _ _ ht => ht.giveA,
    accessOp_tidy h fun _ _ _ _ => h.storeAt, issue_tidy h fun _ _ => h.loadAt fun _ _ ht => ht.doneA,
    execGscat_tidy h, accessOp_tidy h fun _ _ _ _ => h.atomicAt, accessOp_tidy h fun _ _ _ _ => h.atomicAt,
    accessOp_tidy h fun _ _ _ _ => h.atomicAt, execSamo_tidy h, execRst_tidy h, execRld_tidy h,
    barOp_tidy h fun _ _ _ _ _ _ => h.scrThen, execBarr_tidy h, execBwait_tidy h,
    barOp_tidy h fun _ _ _ _ _ _ => h.giveA, accessOp_tidy h fun _ _ _ _ => h.acquire.doneA,
    accessOp_tidy h fun _ _ _ _ => h.doneA, execFenceFull_tidy h, execFenceAsync_tidy h,
    accessOp_tidy h fun _ _ _ _ => h.giveA, tlbinvOp_tidy h, tlbinvOp_tidy h, tlbinvOp_tidy h, execL1opLine_tidy h,
    accessOp_tidy h fun _ _ _ _ => h.sideFlushAll.doneA, execPref_tidy h, vbin_tidy h, vbin_tidy h, vbin_tidy h,
    vtern_tidy h, vbin_tidy h, vbin_tidy h, vbin_tidy h, vbin_tidy h, vbin_tidy h, vbin_tidy h, vbin_tidy h,
    vbin_tidy h, vun_tidy h, vun_tidy h, vun_tidy h, vun_tidy h, vun_tidy h, vun_tidy h, vun_tidy h, vtern_tidy h,
    vrun_tidy h, vtern_tidy h, vrun_tidy h, vrun_tidy h, issueJob_tidy h, vbin_tidy h, vrun_tidy h, vrun_tidy h,
    vrun_tidy h, vrun_tidy h, vfromScalar_tidy h, issueJob_tidy h, issueJob_tidy h, issueJob_tidy h, issueJob_tidy h,
    vfromScalar_tidy h, vtoScalar_tidy h, vrun_tidy h, vrun_tidy h, vtoScalar_tidy h, issueJob_tidy h,
    vtoScalar_tidy h, issueJob_tidy h, execVmov_tidy h, issueJob_tidy h, issueJob_tidy h, issueJob_tidy h,
    reduceIssue_tidy h, reduceIssue_tidy h, reduceIssue_tidy h, reduceIssue_tidy h, retireIssue_tidy h,
    retireIssue_tidy h, retireIssue_tidy h, issue_tidy h fun _ _ => h.setJob, issue_tidy h fun _ _ => h.setJob,
    issue_tidy h fun _ _ => h.setJob, execTchk_tidy h, execHoldEnd_tidy h, execTrapEntry_tidy h, h.haltArrive,
    execDispatchRound_tidy h, execCapacityWaitTimeout_tidy h, execCardRetire_tidy h, execCopyGo_tidy h,
    execCopyCommandStart_tidy h, execCopyBurstComplete_tidy h, execCopyFaultTrap_tidy h,
    execComparedCommandIssue_tidy h, execThirdRunEnd_tidy h, execGovernorInterval_tidy h,
    execEvacuationTimeout_tidy h, execLevelChange_tidy h, execPhaseCapwaitTimeout_tidy h, h.setIsland,
    execDroopRecover_tidy h, execScrubRead_tidy h, execPageWalkEnd_tidy h, execPageRequestAnswer_tidy h, h.setPart,
    execLaunchRecordWalk_tidy h, execLaunchRecordTimeout_tidy h, execSealFillComplete_tidy h,
    execResealComplete_tidy h, execFrameAssign_tidy h, State.tidy_ite (fun _ => h.needReseal) fun _ => h,
    State.tidy_ite (fun _ => h.same.ownOn) fun _ => h, execHostSnoop_tidy h, execHostMemRead_tidy h,
    execHostMemWrite_tidy h, execDoorbell_tidy h, execNopPacket_tidy h, execOperators_tidy h, execIndirect_tidy h,
    execSignal_tidy h, execSignalPacketPerform_tidy h, execWait_tidy h, execWaitPacketRelease_tidy h,
    execStaleReread_tidy h, execCastling_tidy h, execQuotaWaitRelease_tidy h, execQctlReset_tidy h, h.leaveRun,
    execTdiLeaveRun_tidy h, h.spdmIf fun _ ht => ht.same.answerWith, h.spdmIf fun _ ht => ht.send,
    h.spdmIf fun _ ht => ht.same.answerWith, h.spdmIf fun _ ht => ht.same.answerWith,
    h.spdmIf fun _ ht => ht.same.respond, execFinish_tidy h, h.spdmIf fun _ ht => ht.same.respond, execKeyset_tidy h,
    execJobStop_tidy h, execSaveComplete_tidy h, execWrapPost_tidy h, execWrapCutoff_tidy h,
    execWrapStopDeadline_tidy h, h.coreReset, execCoreSelfTestEnd_tidy h, execBringupStageAdvance_tidy h,
    execFrameDecoded_tidy h, execMonitorClr_tidy h, execFastsetCountClear_tidy h, execFlitReceive_tidy h,
    execFlitReplay_tidy h, execPortRetrainComplete_tidy h, execPeerRequest_tidy h, execPeerResponse_tidy h,
    execPeerRequestTimeout_tidy h, execRegisterWrite_tidy h, execIslandCycle_tidy h, withJob_tidy fun _ _ => h.setJob,
    execAccessPerformsAtHome_tidy h, execBadpacket_tidy h, execSingleFault_tidy h, execTdispMessage_tidy h, h.withCtx,
    h.same.answerWith, h.spdmIf fun _ ht => ht.same.respond, h.spdmIf fun _ ht => ht.send, h.deviceReset,
    h.deviceReset, h.deviceReset]

theorem runEngine_tidy {c e} (h : s.Tidy) : ResTidy (runEngine s c e) := by
  unfold runEngine
  split
  · exact h
  · split
    · exact exec_tidy h
    · split
      · exact exec_tidy h
      · split
        · exact h
        · split
          · exact h
          · split
            · split
              exacts [exec_tidy h.fetchUse, h]
            · exact h.fetchMiss

theorem State.Tidy.withTime (h : s.Tidy) {n l} : State.Tidy { s with time := n, now := l } := h.same

theorem runTurn_tidy {t} (h : s.Tidy) : ResTidy (runTurn s t) := by
  unfold runTurn
  split
  · exact runEngine_tidy h.same
  · split
    exacts [exec_tidy h, h]
  · exact State.tidy_ite (fun _ => h) fun _ => h.markAll.withTime
  · exact h.passCycle

theorem step_tidy (h : s.Tidy) : ResTidy (step s) := by
  unfold step
  split
  · exact runTurn_tidy h.same
  · split
    exacts [runTurn_tidy h.same, h]

end Sys2Proof.Machine
end

section
open Sys2Proof Sys2Proof.Machine

/-- Settles O57: each instruction and each event keeps the canonical form (`exec_tidy`), and a turn does one of them. -/
theorem stepKeepsTidy : Obligations.StepKeepsTidy :=
  fun _ _ h e => (step_tidy h).next e
end

section
/-! SUPPORT. The command window of the copy engines (R156-R159): what a window and a queue of commands read after a write, what
GO answers, and the rejection codes on the numbers of the command registers. -/

namespace Sys2Proof.Machine

/-! ## Windows and queues of commands -/

section
variable (j : Job) (e : CopyId) (w : CmdWin) (l : List CopyCmd)

@[simp] theorem Job.winAt_setWin : (j.setWin e w).winAt e = w := by simp [Job.winAt, Job.setWin]

@[simp] theorem Job.copiesOf_setWin (k : CopyId) : (j.setWin e w).copiesOf k = j.copiesOf k := rfl

@[simp] theorem Job.copiesOf_setCopies : (j.setCopies e l).copiesOf e = l := by simp [Job.copiesOf, Job.setCopies]

variable {e} {k : CopyId} (hk : k ≠ e)
include hk

theorem Job.winAt_setWin_ne : (j.setWin e w).winAt k = j.winAt k :=
  Vector.getElem_set_ne e.isLt k.isLt fun h => hk (Fin.ext h.symm)

theorem Job.copiesOf_setCopies_ne : (j.setCopies e l).copiesOf k = j.copiesOf k :=
  Vector.getElem_set_ne e.isLt k.isLt fun h => hk (Fin.ext h.symm)

end

/-! ## GO -/

section
variable {s : State} {c : CoreId} {e : CopyId} {j : Job} {go : W64}

theorem execCopyGo_eq (hj : s.job c = some j) :
    execCopyGo c e go s = .next ((s.copyGoJob c j e go).elim s (s.setJob c)) := by
  simp only [execCopyGo, hj]
  cases s.copyGoJob c j e go <;> rfl

theorem State.copyGoJob_full (hq : 4 ≤ (j.copiesOf e).length) : s.copyGoJob c j e go = none := if_pos hq

variable (hq : (j.copiesOf e).length < 4)
include hq

theorem State.copyGoJob_waits (hw : j.goWaits c (copyFields (j.winAt e).cmd) = true) : s.copyGoJob c j e go = none := by
  rw [State.copyGoJob, if_neg (by omega), if_pos hw]

variable (hw : j.goWaits c (copyFields (j.winAt e).cmd) = false)
include hw

theorem State.copyGoJob_rejects (hc : s.copyCode c j (j.winAt e) go ≠ 0) : s.copyGoJob c j e go =
    some (j.setWin e { (j.winAt e).reject with err := BitVec.ofNat 8 (s.copyCode c j (j.winAt e) go) }) := by
  rw [State.copyGoJob, if_neg (by omega), if_neg (by simp [hw])]
  exact if_pos hc

/-- The command that GO queues (R158). -/
def State.goCommand (s : State) (c : CoreId) (j : Job) (e : CopyId) (go : W64) : CopyCmd :=
  let f := copyFields (j.winAt e).cmd
  { cmd := (j.winAt e).cmd, tag := go.setWidth 16, srcFmt := (s.endFmt c j.ctx f.srcl f.src).getD 0
    dstFmt := (s.endFmt c j.ctx f.dstl f.dst).getD 0, seed := j.rseed, jobs := s.cluJobs c
    behind := !(j.copiesOf e).isEmpty, cur := 0, started := false, begun := false, xl := [], peer := none }

theorem State.copyGoJob_queues (hc : s.copyCode c j (j.winAt e) go = 0) : s.copyGoJob c j e go =
    some ((j.setCopies e (j.copiesOf e ++ [s.goCommand c j e go])).setWin e { j.winAt e with tag := go.setWidth 16 }) := by
  rw [State.copyGoJob, if_neg (by omega), if_neg (by simp [hw])]
  exact if_neg (not_not.2 hc)

end

/-! ## Stores to the command registers, and loads -/

section
variable (s : State) (c : CoreId) (j : Job) (e : CopyId) (n : Fin 4)

theorem Job.windowLoad_cmd : j.windowLoad (64 * e.val + 8 * n.val) = (j.winAt e).cmd[n] := by
  fin_cases e <;> fin_cases n <;> rfl

theorem Job.windowLoad_go : j.windowLoad (64 * e.val + 0x20) = 0 := by fin_cases e <;> rfl

theorem State.windowStore_cmd (x : W64) : s.windowStore c j (64 * e.val + 8 * n.val) x =
    some (j.setWin e { j.winAt e with cmd := (j.winAt e).cmd.set n.val x n.isLt }) := by
  fin_cases e <;> fin_cases n <;> rfl

/-- The tag and the error code stand in STAT where the count of rejections keeps to its byte. -/
theorem Job.statWord_tag_err (hr : (j.winAt e).rej ≤ 255) : (j.statWord e).toNat / 65536 % 65536 = (j.winAt e).tag.toNat ∧
    (j.statWord e).toNat / 256 % 256 = (j.winAt e).err.toNat := by
  have ht := (j.winAt e).tag.isLt
  have he := (j.winAt e).err.isLt
  simp only [Job.statWord, BitVec.toNat_ofNat]
  omega

end

/-! ## The rejection codes (R159) -/

theorem bitsAt_eq (x lo w : Nat) : bitsAt x lo w = x / 2 ^ lo % 2 ^ w := by rw [bitsAt, Nat.shiftRight_eq_div_pow]

theorem cmdBits_eq (cmd : Vector W64 4) (r : Fin 4) (lo w : Nat) :
    cmdBits cmd r lo w = (cmd[r.val]'r.isLt).toNat / 2 ^ lo % 2 ^ w := bitsAt_eq ..

theorem copyFields_len (cmd : Vector W64 4) : (copyFields cmd).len = cmd[2].toNat / 2 ^ 40 := by
  show cmdBits cmd 2 40 24 = _
  rw [cmdBits_eq]
  have := cmd[2].isLt
  exact Nat.mod_eq_of_lt (by show cmd[2].toNat / 2 ^ 40 < 2 ^ 24; omega)

theorem copyFields_lines (cmd : Vector W64 4) : (copyFields cmd).lines = cmd[2].toNat / 2 ^ 24 % 2 ^ 16 :=
  cmdBits_eq cmd 2 24 16

theorem copyFields_bar (cmd : Vector W64 4) : (copyFields cmd).bar = cmd[2].toNat % 2 ^ 21 :=
  (cmdBits_eq cmd 2 0 21).trans (by rw [Nat.pow_zero, Nat.div_one]; rfl)

section
variable {s : State} {c : CoreId} {j : Job} {w : CmdWin} {go : W64}

/-- The command has a length: its number of bytes is neither 0 nor too large (code 1 of R159). -/
def CopyFields.hasLength (f : CopyFields) : Prop := ¬(f.len = 0 ∨ f.lines = 0 ∨ 2 ^ 32 ≤ f.len * f.lines)

/-- Its barrier is aligned and in a usable row (code 2 of R159). -/
def CopyFields.hasBar (f : CopyFields) (s : State) (c : CoreId) : Prop := ¬(f.bar % 32 ≠ 0 ∨ !s.rowUsable c f.bar)

theorem State.copyCode_length (h : ¬(copyFields w.cmd).hasLength) : s.copyCode c j w go = 1 := if_pos (not_not.1 h)

theorem State.copyCode_bar (hl : (copyFields w.cmd).hasLength) (h : ¬(copyFields w.cmd).hasBar s c) :
    s.copyCode c j w go = 2 := (if_neg hl).trans (if_pos (not_not.1 h))

theorem State.copyCode_reserved (hl : (copyFields w.cmd).hasLength) (hb : (copyFields w.cmd).hasBar s c)
    (h : cmdBits w.cmd 2 21 3 ≠ 0 ∨ cmdBits w.cmd 3 0 10 ≠ 0 ∨ go.toNat / 65536 ≠ 0) : s.copyCode c j w go = 3 :=
  (if_neg hl).trans ((if_neg hb).trans (if_pos (by tauto)))

end

end Sys2Proof.Machine
end

section
open Sys2Proof Sys2Proof.Machine

/-- Settles O37: GO answers by the four cases of `copyGoJob`, and the codes follow the order of the checks of `copyCode`. -/
theorem copyWindow : Obligations.CopyWindow := by
  refine ⟨fun s c e j go hj => ⟨fun hq => ?_, fun hw => ?_, fun hq hw hc => ?_, fun hq hw hc => ?_, fun n x => ?_,
    j.windowLoad_go e, j.statWord_tag_err e⟩, fun s c j w go => ⟨fun h => ?_, fun h1 h2 h3 h => ?_, fun h1 h2 h3 h4 h5 h => ?_⟩⟩
  · rw [exec_copyGo, execCopyGo_eq hj, State.copyGoJob_full hq]
    rfl
  · rw [exec_copyGo, execCopyGo_eq hj]
    by_cases hq : 4 ≤ (j.copiesOf e).length
    · rw [State.copyGoJob_full hq]
      rfl
    · rw [State.copyGoJob_waits (by omega) hw]
      rfl
  · refine ⟨_, s.goCommand c j e go, by rw [exec_copyGo, execCopyGo_eq hj, State.copyGoJob_queues hq hw hc]; rfl, ?_⟩
    refine ⟨?_, rfl, rfl, rfl, rfl, rfl, rfl, rfl, fun i => ?_, ?_, fun k hk => ⟨?_, ?_⟩, rfl, rfl⟩
    · simp
    · exact Vector.getElem_ofFn _
    · simp
    · rw [Job.copiesOf_setWin, Job.copiesOf_setCopies_ne _ _ hk]
    · rw [Job.winAt_setWin_ne _ _ hk]
      rfl
  · refine ⟨_, by rw [exec_copyGo, execCopyGo_eq hj, State.copyGoJob_rejects hq hw hc]; rfl, by simp, ?_⟩
    rw [Job.winAt_setWin]
    rfl
  · refine ⟨_, s.windowStore_cmd c j e n x, ?_, fun m hm => ?_⟩
    · rw [Job.windowLoad_cmd, Job.winAt_setWin]
      exact Vector.getElem_set_self _
    · rw [Job.windowLoad_cmd, Job.windowLoad_cmd, Job.winAt_setWin]
      exact Vector.getElem_set_ne n.isLt m.isLt fun h => hm (Fin.ext h.symm)
  · rw [← copyFields_len, ← copyFields_lines] at h
    exact State.copyCode_length (not_not.2 h)
  · rw [← copyFields_len] at h1 h3
    rw [← copyFields_lines] at h2 h3
    rw [← copyFields_bar] at h
    exact State.copyCode_bar (by rw [CopyFields.hasLength]; omega) (not_not.2 (by simpa using h))
  · rw [← copyFields_len] at h1 h3
    rw [← copyFields_lines] at h2 h3
    rw [← copyFields_bar] at h4 h5
    refine State.copyCode_reserved (by rw [CopyFields.hasLength]; omega) (by simp [CopyFields.hasBar, h4, h5]) ?_
    rw [cmdBits_eq, cmdBits_eq, Nat.pow_zero, Nat.div_one]
    refine h.imp_right fun h => h.imp_right fun h => ?_
    omega
end

section
/-! SUPPORT. Writes and reads of registers: which block an address reaches, and what the registers of a block do there. -/

namespace Sys2Proof.Machine

/-! ## Counts of reserved writes, and widths -/

section
variable (s : State) (b : RegBlock)

theorem State.reserved_count : SMap.get 0 (s.reserved b).resv b.key = SMap.get 0 s.resv b.key + 1 := by
  unfold State.reserved SMap.set
  rw [if_neg (Nat.succ_ne_zero _)]
  exact SMap.get_insert_self ..

theorem State.putField_ok {ok : Bool} (h : ok = true) (f : State → State) : s.putField b ok f = f s := if_pos h

theorem State.putField_reserved {ok : Bool} (h : ok = false) (f : State → State) : s.putField b ok f = s.reserved b :=
  if_neg (by simp [h])

theorem State.wide_aligned {n o : Nat} (ho : o % 8 = 0) (f : State → State) : s.wide b n o n f = f s := if_pos ⟨rfl, ho⟩

theorem State.wide_width {n o w : Nat} (hw : w ≠ n) (f : State → State) : s.wide b n o w f = s.reserved b :=
  if_neg fun h => hw h.1

end

theorem toNat_mod_word (v : W64) : v.toNat % 2 ^ (8 * 8) = v.toNat := Nat.mod_eq_of_lt v.isLt

/-! ## The block that an address reaches -/

theorem behindBar2_eq_none {a : Nat} (ha : a < pf0Bar2) : behindBar2 a = none := by rw [behindBar2, if_pos ha]

theorem lt_pf0Bar2 {a : Nat} (ha : a < 2 ^ 60) : a < pf0Bar2 := by
  unfold pf0Bar2 msixCaps pf0Msix queueRegs
  omega

section
variable (s : State) {o : Nat} (w : Nat) (v : W64)

theorem registerWrite_of_lt {a : Nat} (ha : a < 2 ^ 60) : exec (.registerWrite a w v) s = .next (s.putReg true a w v) := by
  rw [exec_registerWrite, execRegisterWrite, behindBar2_eq_none (lt_pf0Bar2 ha)]

theorem write_early {a : Nat} (hs : s.stage ≠ .ready) (ha : 0x000FF0011000 ≤ a) (hb : a < 2 ^ 60) :
    exec (.registerWrite a w v) s = .next s.dropEarly := by
  rw [registerWrite_of_lt s w v hb]
  simp only [State.putReg, decide_eq_true_eq]
  rw [if_neg (by omega), if_neg (by omega), if_pos hs]

theorem write_identity (ho : o < 0x10000) :
    exec (.registerWrite (0x000FF0000000 + o) w v) s = .next (s.putIdentity o w) := by
  rw [registerWrite_of_lt s w v (by omega)]
  simp only [State.putReg, decide_eq_true_eq]
  rw [if_pos (by omega), Nat.add_sub_cancel_left]

theorem State.putReg_status (fw : Bool) : s.putReg fw 0x000FF0010000 8 v = s.putStatus fw v.toNat := by
  simp only [State.putReg, decide_eq_true_eq, toNat_mod_word]
  rw [if_neg (by omega), if_pos (by omega), if_pos trivial, State.wide_aligned _ _ rfl]

theorem write_status : exec (.registerWrite 0x000FF0010000 8 v) s = .next (s.putStatus true v.toNat) := by
  rw [registerWrite_of_lt s 8 v (by omega), State.putReg_status]

/-- The host reaches STATUS through PF0 BAR2. -/
theorem write_status_bar2 : exec (.registerWrite (pf0Bar2 + 0x10000) 8 v) s = .next (s.putStatus false v.toNat) := by
  have hb : behindBar2 (pf0Bar2 + 0x10000) = some 0x000FF0010000 := rfl
  rw [exec_registerWrite, execRegisterWrite, hb]
  exact congrArg _ (s.putReg_status v false)

variable (hs : s.stage = .ready)
include hs

theorem write_gov (ho : o < 0x10000) :
    exec (.registerWrite (0x000FF0100000 + o) w v) s = .next (s.putGov o w (v.toNat % 2 ^ (8 * w))) := by
  rw [registerWrite_of_lt s w v (by omega)]
  simp only [State.putReg, decide_eq_true_eq]
  rw [if_neg (by omega), if_neg (by omega), if_neg (not_not.2 hs), if_pos (by omega), Nat.add_sub_cancel_left]

theorem write_cache (ho : o < 0x1000) :
    exec (.registerWrite (0x000FF0200000 + o) w v) s = .next (s.putCache o w (v.toNat % 2 ^ (8 * w))) := by
  rw [registerWrite_of_lt s w v (by omega)]
  simp only [State.putReg, decide_eq_true_eq]
  rw [if_neg (by omega), if_neg (by omega), if_neg (not_not.2 hs), if_neg (by omega), if_pos (by omega),
    Nat.add_sub_cancel_left]

theorem write_monitors (ho : o < 0x1000) :
    exec (.registerWrite (0x000FF0400000 + o) w v) s = .next (s.putMonitors o w (v.toNat % 2 ^ (8 * w))) := by
  rw [registerWrite_of_lt s w v (by omega)]
  simp only [State.putReg, decide_eq_true_eq]
  rw [if_neg (by omega), if_neg (by omega), if_neg (not_not.2 hs), if_neg (by omega), if_neg (by omega), if_neg (by omega),
    if_pos (by omega), Nat.add_sub_cancel_left]

end

/-! ## The governor -/

section
variable (s : State) (i : IslId) {r : Nat} (w v : Nat)

theorem State.putGov_pkg : s.putGov 0x8000 w v = s.wide .gov 8 0x8000 w fun s => s.putGovpkg v := if_pos rfl

theorem State.putGov_class (hr : r < 0x3C0) : s.putGov (0x1000 * i.val + r) w v =
    s.wide .gov 8 r w fun s => (s.putClass i (r / 4) (v % 2 ^ 32)).putClass i (r / 4 + 1) (v / 2 ^ 32) := by
  have hi : (⟨(0x1000 * i.val + r) / 0x1000 % 8, Nat.mod_lt _ (by decide)⟩ : IslId) = i := Fin.ext (by dsimp only; omega)
  have hm : (0x1000 * i.val + r) % 0x1000 = r := by omega
  simp only [State.putGov, hi, hm]
  rw [if_neg (by omega), if_pos (by omega), if_pos hr]

theorem State.putGov_floor : s.putGov (0x1000 * i.val + 0x418) w v = s.wide .gov 8 0x418 w id := by
  have hm : (0x1000 * i.val + 0x418) % 0x1000 = 0x418 := by omega
  simp only [State.putGov, hm]
  rw [if_neg (by omega), if_pos (by omega), if_neg (by decide), if_neg (by decide), if_pos (by decide)]

/-- A package limit is in the range that GOVPKG permits (R350). -/
abbrev govRange (x : Nat) : Prop := 250 ≤ x ∧ x ≤ 750

theorem State.putGovpkg_ok (he : govRange (v % 2 ^ 10)) (hp : govRange (v / 2 ^ 16 % 2 ^ 10)) : s.putGovpkg v = { s with
    penv := v % 2 ^ 10, ppkg := v / 2 ^ 16 % 2 ^ 10, hallow := v / 2 ^ 32 % 2 ^ 16 } := by
  simp only [State.putGovpkg, bitsAt_eq, Nat.pow_zero, Nat.div_one]
  rw [State.putField_ok _ _ (decide_eq_true he), State.putField_ok _ _ (decide_eq_true hp)]

theorem State.putField_resv_le (b : RegBlock) (ok : Bool) {f : State → State} (hf : ∀ t, (f t).resv = t.resv) :
    SMap.get 0 s.resv b.key ≤ SMap.get 0 (s.putField b ok f).resv b.key := by
  cases ok
  · rw [State.putField_reserved _ _ rfl, State.reserved_count]
    omega
  · rw [State.putField_ok _ _ rfl, hf]

theorem State.putGovpkg_penv_reserved (he : ¬govRange (v % 2 ^ 10)) : (s.putGovpkg v).penv = s.penv ∧
    (s.putGovpkg v).hallow = v / 2 ^ 32 % 2 ^ 16 ∧
    SMap.get 0 s.resv RegBlock.gov.key < SMap.get 0 (s.putGovpkg v).resv RegBlock.gov.key := by
  simp only [State.putGovpkg, bitsAt_eq, Nat.pow_zero, Nat.div_one]
  rw [State.putField_reserved _ _ (decide_eq_false he)]
  refine ⟨?_, ?_, ?_⟩
  · unfold State.putField State.reserved
    split <;> rfl
  · unfold State.putField State.reserved
    split <;> rfl
  · rw [State.reserved_count]
    exact Nat.lt_succ_of_le (State.putField_resv_le { s with hallow := v / 2 ^ 32 % 2 ^ 16 } .gov _ fun _ => rfl)

end

/-! ## The writes of the governor's registers -/

section
variable (s : State) (hs : s.stage = .ready) (i : IslId) (w : Nat) (v : W64)
include hs

theorem write_govpkg : exec (.registerWrite 0x000FF0108000 8 v) s = .next (s.putGovpkg v.toNat) := by
  rw [show (0x000FF0108000 : Nat) = 0x000FF0100000 + 0x8000 from rfl, write_gov s 8 v hs (by omega), State.putGov_pkg,
    State.wide_aligned _ _ rfl, toNat_mod_word]

theorem write_govpkg_width (hw : w ≠ 8) : exec (.registerWrite 0x000FF0108000 w v) s = .next (s.reserved .gov) := by
  rw [show (0x000FF0108000 : Nat) = 0x000FF0100000 + 0x8000 from rfl, write_gov s w v hs (by omega), State.putGov_pkg,
    State.wide_width _ _ hw]

theorem write_gov_misaligned : exec (.registerWrite 0x000FF0100404 8 v) s = .next (s.reserved .gov) := by
  rw [show (0x000FF0100404 : Nat) = 0x000FF0100000 + 0x404 from rfl, write_gov s 8 v hs (by omega)]
  rfl

theorem write_floor : exec (.registerWrite (0x000FF0100418 + 0x1000 * i.val) 8 v) s = .next s := by
  rw [show 0x000FF0100418 + 0x1000 * i.val = 0x000FF0100000 + (0x1000 * i.val + 0x418) by omega,
    write_gov s 8 v hs (by omega), State.putGov_floor, State.wide_aligned _ _ rfl]
  rfl

theorem write_class (k : Fin 120) : exec (.registerWrite (0x000FF0100000 + 0x1000 * i.val + 8 * k.val) w v) s =
    .next (s.wide .gov 8 (8 * k.val) w fun s =>
      (s.putClass i (2 * k.val) (v.toNat % 2 ^ (8 * w) % 2 ^ 32)).putClass i (2 * k.val + 1) (v.toNat % 2 ^ (8 * w) / 2 ^ 32)) := by
  rw [Nat.add_assoc, write_gov s w v hs (by omega), State.putGov_class s i w _ (by omega),
    show 8 * k.val / 4 = 2 * k.val by omega]

end

/-! ## The system cache -/

theorem write_limit (s : State) (hs : s.stage = .ready) (v : W64) (g : Fin 256) :
    exec (.registerWrite (0x000FF0200000 + 16 * g.val) 8 v) s =
      .next { s with limits := SMap.set limitInit s.limits g.val (v.toNat % 2 ^ 22) } := by
  rw [write_cache s 8 v hs (by omega), State.putCache, State.wide_aligned _ _ (by omega), if_pos (by omega), toNat_mod_word,
    bitsAt_eq, Nat.pow_zero, Nat.div_one, Nat.mul_div_cancel_left _ (by decide)]

/-! ## STATUS -/

theorem State.putStatus_corerst (s : State) (fw : Bool) {v : Nat} (hv : v / 2 ^ 55 = 1) :
    s.putStatus fw v = if fw then s.coreReset ⟨v / 2 ^ 48 % 2 ^ 7, Nat.mod_lt _ (by decide)⟩ else s := by
  have h63 : bitsAt v 63 1 ≠ 1 := by
    rw [bitsAt_eq]
    omega
  have hk : bitsAt v 48 8 / 128 = 1 := by
    rw [bitsAt_eq]
    omega
  have hc : (⟨bitsAt v 48 8 % 128, Nat.mod_lt _ (by decide)⟩ : CoreId) = ⟨v / 2 ^ 48 % 2 ^ 7, Nat.mod_lt _ (by decide)⟩ := by
    refine Fin.ext ?_
    dsimp only
    rw [bitsAt_eq]
    omega
  rw [State.putStatus, if_neg h63]
  cases fw <;> simp [hk, hc]

/-! ## The monitors -/

/-- The settings of a monitor: the island and the freeze. -/
def Monitor.settings (x : Monitor) : Nat × Bool := (x.sel, x.frz)

theorem Monitor.settings_take (x : Monitor) (n : Int) : (x.take n).settings = x.settings := by
  unfold Monitor.take
  split <;> rfl

theorem State.clearMonitor_settings (s : State) (m : Fin 5) :
    ((s.clearMonitor m).monitors[m.val]).settings = (s.monitors[m.val]).settings := by
  simp only [State.clearMonitor, State.setMonitor, Vector.getElem_set_self]
  refine List.foldlRecOn (motive := fun x : Monitor => x.settings = (s.monitors[m.val]).settings) _ _ rfl fun x hx e _ => ?_
  split
  · split
    exacts [(Monitor.settings_take ..).trans hx, hx]
  · exact hx

theorem State.putMonitors_first (s : State) (m : Fin 5) (w v : Nat) : s.putMonitors (0x100 * m.val) w v = s.putMonitor m 0 w v := by
  have hi : (⟨0x100 * m.val / 0x100 % 5, Nat.mod_lt _ (by decide)⟩ : Fin 5) = m := Fin.ext (by dsimp only; omega)
  have hr : 0x100 * m.val % 0x100 = 0 := by omega
  rw [State.putMonitors, if_pos (by omega), hi, hr]

theorem State.putMonitor_settings (s : State) (m : Fin 5) (v : Nat) :
    ((s.putMonitor m 0 8 v).monitors[m.val]).settings = (bitsAt v 4 4, decide (bitsAt v 1 1 = 1)) := by
  simp only [State.putMonitor, if_pos, State.wide_aligned]
  split
  · rw [State.clearMonitor_settings]
    simp [State.setMonitor, Monitor.settings]
  · simp [State.setMonitor, Monitor.settings]

/-! ## Reads -/

section
variable (s : State) {a o : Nat}

theorem State.readReg_word (ha : a < pf0Bar2) (h8 : a % 8 = 0) : s.readReg a 8 = BitVec.ofNat 64 (s.regWord a) := by
  rw [State.readReg, behindBar2_eq_none ha, Option.getD_none, h8, Nat.div_mul_cancel (Nat.dvd_of_mod_eq_zero h8), Nat.pow_zero,
    Nat.div_one]
  exact BitVec.eq_of_toNat_eq (by simp)

/-- A read of 2 bytes gives the bits of the word that stand there. -/
theorem State.readReg_half {k : Nat} (ha : a + k < pf0Bar2) (h8 : a % 8 = 0) (hk : k < 8) :
    (s.readReg (a + k) 2).toNat = s.regWord a / 2 ^ (8 * k) % 2 ^ 16 := by
  rw [State.readReg, behindBar2_eq_none ha, Option.getD_none, show (a + k) % 8 = k by omega, show (a + k) / 8 * 8 = a by omega,
    BitVec.toNat_ofNat]
  omega

theorem State.regWord_early (hs : s.stage ≠ .ready) (ha : 0x000FF0011000 ≤ a) : s.regWord a = 0 := by
  simp only [State.regWord, decide_eq_true_eq]
  rw [if_neg (by omega), if_neg (by omega), if_pos hs]

theorem State.regWord_partCode : s.regWord 0x000FF0000000 = 0x0009A768 * 2 ^ 32 := by
  simp only [State.regWord, decide_eq_true_eq]
  rw [if_pos (by omega)]
  exact if_pos rfl

/-- GOVPKG holds the two limits of the package in its low words. -/
theorem State.govWord_pkg (he : s.penv < 2 ^ 16) (hp : s.ppkg < 2 ^ 16) :
    s.govWord 0x8000 % 2 ^ 16 = s.penv ∧ s.govWord 0x8000 / 2 ^ 16 % 2 ^ 16 = s.ppkg := by
  rw [State.govWord, if_pos rfl]
  omega

theorem State.govWord_floor (i : IslId) : s.govWord (0x1000 * i.val + 0x418) = s.floorLevel i := by
  have hi : (⟨(0x1000 * i.val + 0x418) / 0x1000 % 8, Nat.mod_lt _ (by decide)⟩ : IslId) = i := Fin.ext (by dsimp only; omega)
  have hm : (0x1000 * i.val + 0x418) % 0x1000 = 0x418 := by omega
  simp only [State.govWord, hi, hm]
  rw [if_neg (by omega), if_pos (by omega), if_neg (by decide), if_neg (by decide), if_neg (by decide), if_pos trivial]

variable (hs : s.stage = .ready)
include hs

theorem State.regWord_gov (ho : o < 0x10000) : s.regWord (0x000FF0100000 + o) = s.govWord o := by
  simp only [State.regWord, decide_eq_true_eq]
  rw [if_neg (by omega), if_neg (by omega), if_neg (not_not.2 hs), if_pos (by omega), Nat.add_sub_cancel_left]

theorem State.regWord_doorbell (c : CtxId) : s.regWord (queueRegs + 0x10000 * c.val) = 0 := by
  have hc := c.isLt
  have hq : queueRegs = 2 ^ 60 := rfl
  simp only [State.regWord, decide_eq_true_eq]
  rw [if_neg (by omega), if_neg (by omega), if_neg (not_not.2 hs), if_neg (by omega), if_neg (by omega), if_neg (by omega),
    if_neg (by omega), dif_pos (by omega)]
  have ho : (queueRegs + 0x10000 * c.val - queueRegs) % 0x10000 = 0 := by omega
  rw [ho]
  rfl

end

end Sys2Proof.Machine
end

section
open Sys2Proof Sys2Proof.Machine

/-- Settles O50: each address reaches its block, and the register there answers. -/
theorem registerWrites : Obligations.RegisterWrites := by
  intro s v g m w
  refine ⟨fun hs h1 h2 h3 h4 => ?_, fun hs h => ?_, fun hs hw => write_govpkg_width s hs w v hw,
    fun hs => write_gov_misaligned s hs v, fun i hs => write_floor s hs i v, fun i k hs => ⟨?_, ?_⟩, s.reserved_count,
    fun ht hs => ?_, fun hs => ?_, fun hs => ⟨?_, ?_, ?_, ?_⟩, ?_, ?_, fun h => ⟨?_, ?_⟩, ?_, fun hs => ?_,
    fun hs => ⟨fun i => ?_, fun he hp => ⟨?_, ?_⟩, fun c => ?_⟩⟩
  · exact (write_govpkg s hs v).trans (congrArg _ (s.putGovpkg_ok _ ⟨h1, h2⟩ ⟨h3, h4⟩))
  · exact ⟨_, write_govpkg s hs v, s.putGovpkg_penv_reserved _ (by omega)⟩
  · refine (write_class s hs i 8 v k).trans ?_
    rw [State.wide_aligned _ _ (by omega), toNat_mod_word]
  · exact (write_class s hs i 4 v k).trans (congrArg _ (State.wide_width _ _ (by decide) _))
  · exact ⟨_, write_limit s hs v g, SMap.get_set_self ht.limits .., fun h hh => SMap.get_set_ne ht.limits hh _⟩
  · have hx := s.putMonitor_settings m v.toNat
    simp only [Monitor.settings, Prod.mk.injEq, bitsAt_eq] at hx
    refine ⟨s.putMonitor m 0 8 v.toNat, ?_, hx.1, ?_⟩
    · refine (write_monitors s 8 v hs (by omega)).trans ?_
      rw [State.putMonitors_first, toNat_mod_word]
    · rw [hx.2, decide_eq_true_eq]
      rfl
  · exact write_early s 8 v hs (by decide) (by decide)
  · exact write_early s 8 v hs (by decide) (by decide)
  · exact write_early s 8 v hs (by decide) (by decide)
  · exact write_early s 8 v hs (by decide) (by decide)
  · exact write_identity s (o := 8) 8 v (by decide)
  · exact write_identity s (o := 8) 4 v (by decide)
  · exact (write_status s v).trans (congrArg _ (s.putStatus_corerst true h))
  · exact (write_status_bar2 s v).trans (congrArg _ (s.putStatus_corerst false h))
  · rw [s.readReg_word (by decide) (by decide), s.regWord_partCode]
    rfl
  · rw [s.readReg_word (by decide) (by decide), s.regWord_early hs (by decide)]
    rfl
  · rw [s.readReg_word (lt_pf0Bar2 (by omega)) (by omega),
      show 0x000FF0100418 + 0x1000 * i.val = 0x000FF0100000 + (0x1000 * i.val + 0x418) by omega, s.regWord_gov hs (by omega),
      State.govWord_floor]
  · exact (s.readReg_half (a := 0x000FF0108000) (k := 0) (by decide) (by decide) (by decide)).trans
      (by rw [s.regWord_gov hs (o := 0x8000) (by decide)]; simpa using (s.govWord_pkg he hp).1)
  · exact (s.readReg_half (a := 0x000FF0108000) (k := 2) (by decide) (by decide) (by decide)).trans
      (by rw [s.regWord_gov hs (o := 0x8000) (by decide)]; exact (s.govWord_pkg he hp).2)
  · have hc := c.isLt
    have hq : queueRegs = 2 ^ 60 := rfl
    have hb : pf0Bar2 = 2 ^ 60 + 0x10000 * 408 + 0x20000 := rfl
    rw [s.readReg_word (by omega) (by omega), s.regWord_doorbell hs]
    rfl
end

section
/-! SUPPORT. What a source yields, where a scalar result goes and how an instruction ends (R30, R39, R41, R75, R76, R86). -/

namespace Sys2Proof.Machine

/-! ## Sources -/

theorem reg_zero (j : Job) (e : Eng) : j.reg e 0 = 0 := by cases e <;> simp [Job.reg, regRead]

@[simp] theorem stream_setStream (j : Job) (q : Fin 16) (x : Stream) : (j.setStream q x).stream q = x := by
  simp [Job.stream, Job.setStream]

theorem stream_setStream_ne (j : Job) {p q : Fin 16} (h : p ≠ q) (x : Stream) : (j.setStream q x).stream p = j.stream p := by
  simp only [Job.stream, Job.setStream]
  exact Vector.getElem_set_ne _ _ fun e => h (Fin.ext e.symm)

theorem pop_streams (j : Job) (q : Fin 16) : (j.pop q).streams = (j.setStream q (j.stream q).pop).streams := by rw [pop_eq]

@[simp] theorem pop_stream (j : Job) (q : Fin 16) : (j.pop q).stream q = (j.stream q).pop := by
  rw [← stream_setStream j q (j.stream q).pop]; simp only [Job.stream, pop_streams]

theorem pop_stream_ne (j : Job) {p q : Fin 16} (h : p ≠ q) : (j.pop q).stream p = j.stream p := by
  rw [← stream_setStream_ne j h (j.stream q).pop]; simp only [Job.stream, pop_streams]

theorem Stream.pop_cons {x : Stream} {r : Row} {rest : List Row} (h : x.q = r :: rest) :
    x.pop = { x with q := rest, popped := x.popped + 1 } := by rw [Stream.pop, h]

theorem Stream.head_cons {x : Stream} {r : Row} {rest : List Row} (h : x.q = r :: rest) : x.head = r := by
  rw [Stream.head, h]; rfl

/-! ## Results -/

theorem setWidth_setWidth_eq_ofNat {k m : Nat} (x : BitVec k) (w : Nat) :
    (x.setWidth w).setWidth m = BitVec.ofNat m (x.toNat % 2 ^ w) :=
  BitVec.eq_of_toNat_eq (by simp only [BitVec.toNat_setWidth, BitVec.toNat_ofNat])

theorem regRead_write {w : Nat} (f : Vector (BitVec w) 32) (n m : Fin 32) (x : BitVec w) :
    regRead (regWrite f n x) m = if m = n ∧ n ≠ 0 then x else regRead f m := by
  by_cases hm : m = n
  · subst hm
    by_cases h0 : m = 0
    · simp [h0, regRead]
    · simp [h0, regRead_write_self]
  · rw [regRead_write_ne _ _ _ _ (Ne.symm hm)]
    simp [hm]

/-- What waits to land for a scalar result of a timed engine (R76). -/
theorem pendScalar_word (lat : Nat) (n : Fin 32) (x : W64) : pendScalar lat n ((x.setWidth 32).setWidth 64) =
    { left := lat, dst := .s n, val := BitVec.ofNat 1024 (x.toNat % 2 ^ 32), mask := BitVec.allOnes 128 } := by
  rw [pendScalar, setWidth_setWidth_eq_ofNat x 32, ← setWidth_setWidth_eq_ofNat (m := 1024)]
  rw [BitVec.setWidth_ofNat_of_le_of_lt (by decide) (Nat.lt_of_lt_of_le (Nat.mod_lt _ (by decide)) (by decide)),
    setWidth_setWidth_eq_ofNat]

/-! ## The end of an instruction -/

/-- An instruction that transfers no control goes on by way of the back-edges that end there. -/
theorem done_flow (j : Job) (e : Eng) (n : Nat) :
    ((j.done e n).pc e, (j.done e n).loops e) = backEdge (j.pc e) (j.pc e + 4) (j.loops e) := by
  cases e
  case c => simp only [Job.done, Job.issued]; rw [traceC_eq]; rfl
  all_goals rfl

theorem done_base (j : Job) {e : Eng} (h : e.elastic = false) (n : Nat) : (j.done e n).base e = j.take + BitVec.ofNat 32 n := by
  cases e with
  | c | a => cases h
  | v | m => rfl

theorem backEdge_inside {pc : VAddr} {l : LoopLvl} (h : pc ≠ l.last) (next : VAddr) (ls : List LoopLvl) :
    backEdge pc next (l :: ls) = (next, l :: ls) := by rw [backEdge, if_neg h]

theorem backEdge_again {pc : VAddr} {l : LoopLvl} (h : pc = l.last) (hn : 1 < l.left) (next : VAddr) (ls : List LoopLvl) :
    backEdge pc next (l :: ls) = (l.first, { l with left := l.left - 1 } :: ls) := by rw [backEdge, if_pos h, if_pos hn]

theorem backEdge_over {pc : VAddr} {l : LoopLvl} (h : pc = l.last) (hn : l.left ≤ 1) (next : VAddr) (ls : List LoopLvl) :
    backEdge pc next (l :: ls) = backEdge pc next ls := by rw [backEdge, if_pos h, if_neg (by omega)]

end Sys2Proof.Machine
end

section
open Sys2Proof Sys2Proof.Machine

/-- Settles O3: sources, results and the end of a scalar instruction, by engine and by the levels that are open. -/
theorem scalarOperandsAndEnd : Obligations.ScalarOperandsAndEnd := by
  refine ⟨fun j e n q r r2 rest => ?_, fun j n m q f => ?_, fun j e occ => ?_⟩
  · refine ⟨fun w => ⟨rfl, rfl⟩, reg_zero j e, fun h => ?_, fun h d => ?_⟩
    · simp only [readField, fA, Val.scalar, pop_stream, Stream.pop_cons h, Stream.head_cons h]
      exact ⟨fun _ => trivial, trivial, trivial, fun p hp => pop_stream_ne j hp⟩
    · simp only [readFields, readField, fA, fB, fD, pop_stream, Stream.pop_cons h, Stream.head_cons h]
      rfl
  · refine ⟨?_, ?_, ⟨?_, rfl⟩, ⟨?_, rfl⟩, fun e => ⟨?_, ?_, fun x k => ?_, fun p hp => ?_⟩⟩
    · exact regRead_write ..
    · simp only [Job.result, Job.write, Job.reg, CEng.upd, regRead_write]
      split
      · exact setWidth_setWidth_eq_ofNat _ 32
      · rfl
    · simp only [Job.result, Job.write, pendScalar_word]
    · simp only [Job.result, Job.write, pendScalar_word]
    · simp only [Job.result, Job.push, stream_setStream, Stream.push]
    · simp only [Job.result, Job.push, stream_setStream, Stream.push, Stream.tick, setWidth_setWidth_eq_ofNat, List.append_assoc]
    · exact result_reg _ _ _ _ _ _ (by simp)
    · exact result_stream _ _ _ _ _ (by simpa using hp.symm)
  · have hflow := done_flow j e occ
    refine ⟨fun h => ?_, fun l ls h hl => ?_, fun l ls h hl hn => ?_, fun l h hl hn => ?_, fun l k ls h hl hn hk hm => ?_,
      fun h => done_base j h occ, fun x n => congrFun (done_reg ..) n, done_streams .., (done_beside j e occ).pc⟩
    all_goals rw [h] at hflow
    · exact Prod.ext_iff.mp hflow
    · rw [backEdge_inside hl] at hflow
      exact Prod.ext_iff.mp hflow
    · rw [backEdge_again hl hn] at hflow
      exact Prod.ext_iff.mp hflow
    · rw [backEdge_over hl hn] at hflow
      exact Prod.ext_iff.mp hflow
    · rw [backEdge_over hl hn, backEdge_again hk hm] at hflow
      exact Prod.ext_iff.mp hflow
end

section
/-! SUPPORT. Meetings of the streams of a job (R34, R40, R84): which stream stands where, what leaving a slate or a rendezvous
does, and when the last arrival is there. -/

namespace Sys2Proof.Machine

/-! ## Where a stream stands -/

/-- Where a stream stands: its wait, whether it has acted in this cycle, its program counter and loop levels, and for a timed one
the take from which its idle count runs. -/
def Job.standing (j : Job) (x : Eng) : Wait × Bool × VAddr × List LoopLvl × Option W32 :=
  (j.wait x, j.acted x, j.pc x, j.loops x, if x.elastic then none else some (j.base x))

/-- Where a stream stands once it has left its meeting, with its idle count from take `t`. -/
def Job.past (j : Job) (t : W32) (x : Eng) : Wait × Bool × VAddr × List LoopLvl × Option W32 :=
  (.run, true, (backEdge (j.pc x) (j.pc x + 4) (j.loops x)).1, (backEdge (j.pc x) (j.pc x + 4) (j.loops x)).2,
    if x.elastic then none else some t)

/-- An engine's end of a meeting: it leaves if the meeting frees it and it is present. -/
def Job.freed (p : Eng → Bool) (t : W32 → W32) (j : Job) (e : Eng) : Job :=
  if p e && j.has e then (j.leave e).rebase (t j.take) e else j

theorem mem_allEngs (e : Eng) : e ∈ allEngs := by cases e <;> decide

theorem Job.standing_arrived (j : Job) {e x : Eng} (h : x ≠ e) (w : Wait) :
    ((j.setWait e w).act e).standing x = j.standing x := by
  cases e <;> cases x
  case c.c | a.a | v.v | m.m => exact absurd rfl h
  all_goals rfl

@[simp] theorem Job.arrived_wait (j : Job) (e : Eng) (w : Wait) : ((j.setWait e w).act e).wait e = w := by cases e <;> rfl

@[simp] theorem Job.arrived_has (j : Job) (e x : Eng) (w : Wait) : ((j.setWait e w).act e).has x = j.has x := by
  cases e <;> cases x <;> rfl

@[simp] theorem Job.arrived_pc (j : Job) (e x : Eng) (w : Wait) : ((j.setWait e w).act e).pc x = j.pc x := by
  cases e <;> cases x <;> rfl

@[simp] theorem Job.arrived_loops (j : Job) (e x : Eng) (w : Wait) : ((j.setWait e w).act e).loops x = j.loops x := by
  cases e <;> cases x <;> rfl

@[simp] theorem Job.arrived_reg (j : Job) (e x : Eng) (w : Wait) : ((j.setWait e w).act e).reg x = j.reg x := by
  cases e <;> cases x <;> rfl

@[simp] theorem Job.arrived_take (j : Job) (e : Eng) (w : Wait) : ((j.setWait e w).act e).take = j.take := by cases e <;> rfl

/-! ## Leaving -/

/-- A take boundary after a step of C changes what the checker needs. -/
theorem traceC_boundary (j : Job) (x : CEng) : ∃ g, g.arch = x.arch ∧ g.wait = x.wait ∧ g.acted = x.acted ∧
    (Job.traceC { j with c := x }).boundary = { j with c := g } :=
  ⟨(Job.traceC { j with c := x }).boundary.c, by rw [traceC_eq]; rfl, by rw [traceC_eq]; rfl, by rw [traceC_eq]; rfl,
    by rw [traceC_eq]; rfl⟩

/-- Where a stream goes on after an instruction that transfers no control. -/
def Job.onward (j : Job) (e : Eng) : VAddr × List LoopLvl := backEdge (j.pc e) (j.pc e + 4) (j.loops e)

theorem leave_a (j : Job) : j.leave .a =
    { j with a := { j.a with pc := (j.onward .a).1, loops := (j.onward .a).2, wait := .run, acted := true } } := rfl

theorem leave_v (j : Job) : j.leave .v =
    { j with v := { j.v with pc := (j.onward .v).1, loops := (j.onward .v).2, wait := .run, acted := true } } := rfl

theorem leave_m (j : Job) : j.leave .m =
    { j with m := { j.m with pc := (j.onward .m).1, loops := (j.onward .m).2, wait := .run, acted := true } } := rfl

/-- C as it leaves a meeting, but for what the checker needs. -/
def Job.awayC (j : Job) : CEng :=
  { j.c with arch := { j.c.arch with pc := (j.onward .c).1, loops := (j.onward .c).2 }, wait := .run, acted := true }

/-- C leaves a meeting: it goes on after it, and what the checker needs is brought up to date. -/
theorem leave_c (j : Job) : ∃ g, g.arch = j.awayC.arch ∧ g.wait = .run ∧ g.acted = true ∧ j.leave .c = { j with c := g } := by
  have h : ((j.next .c).setWait .c .run).act .c = { j with c := j.awayC } := rfl
  obtain ⟨g, ha, hw, hd, hg⟩ := traceC_boundary j j.awayC
  exact ⟨g, ha, hw, hd, (congrArg (fun k => k.traceC.boundary) h).trans hg⟩

@[simp] theorem left_has (j : Job) (e x : Eng) (t : W32) : ((j.leave e).rebase t e).has x = j.has x := by
  cases e
  case c =>
    obtain ⟨g, -, -, -, hg⟩ := leave_c j
    rw [hg]
    cases x <;> rfl
  all_goals
    simp only [leave_a, leave_v, leave_m]
    cases x <;> rfl

@[simp] theorem left_take (j : Job) (e : Eng) (t : W32) : ((j.leave e).rebase t e).take = j.take := by
  cases e
  case c =>
    obtain ⟨g, -, -, -, hg⟩ := leave_c j
    rw [hg]
    rfl
  all_goals
    simp only [leave_a, leave_v, leave_m]
    rfl

@[simp] theorem left_reg (j : Job) (e x : Eng) (t : W32) : ((j.leave e).rebase t e).reg x = j.reg x := by
  cases e
  case c =>
    obtain ⟨g, ha, -, -, hg⟩ := leave_c j
    rw [hg]
    cases x
    case c =>
      funext n
      simp only [Job.reg, Job.rebase, ha, Job.awayC]
    all_goals rfl
  all_goals
    simp only [leave_a, leave_v, leave_m]
    cases x <;> rfl

theorem left_standing (j : Job) (e : Eng) (t : W32) : ((j.leave e).rebase t e).standing e = j.past t e := by
  cases e
  case c =>
    obtain ⟨g, ha, hw, hd, hg⟩ := leave_c j
    rw [hg]
    simp only [Job.standing, Job.past, Job.rebase, Job.wait, Job.acted, Job.pc, Job.loops, ha, hw, hd]
    rfl
  all_goals
    simp only [leave_a, leave_v, leave_m]
    rfl

theorem left_standing_ne (j : Job) {e x : Eng} (h : x ≠ e) (t : W32) : ((j.leave e).rebase t e).standing x = j.standing x := by
  cases e
  case c =>
    obtain ⟨g, -, -, -, hg⟩ := leave_c j
    rw [hg]
    cases x
    case c => exact absurd rfl h
    all_goals rfl
  case a =>
    rw [leave_a]
    cases x
    case a => exact absurd rfl h
    all_goals rfl
  case v =>
    rw [leave_v]
    cases x
    case v => exact absurd rfl h
    all_goals rfl
  case m =>
    rw [leave_m]
    cases x
    case m => exact absurd rfl h
    all_goals rfl

section
variable (p : Eng → Bool) (t : W32 → W32) (j : Job)

@[simp] theorem freed_has (e x : Eng) : (j.freed p t e).has x = j.has x := by unfold Job.freed; split <;> simp
@[simp] theorem freed_take (e : Eng) : (j.freed p t e).take = j.take := by unfold Job.freed; split <;> simp
@[simp] theorem freed_reg (e x : Eng) : (j.freed p t e).reg x = j.reg x := by unfold Job.freed; split <;> simp

theorem freed_standing_ne {e x : Eng} (h : x ≠ e) : (j.freed p t e).standing x = j.standing x := by
  unfold Job.freed; split
  · exact left_standing_ne j h _
  · rfl

theorem freed_standing (e : Eng) :
    (j.freed p t e).standing e = if p e && j.has e then j.past (t j.take) e else j.standing e := by
  unfold Job.freed; split
  · exact left_standing j e _
  · rfl

theorem past_congr {j k : Job} {x : Eng} (h : k.standing x = j.standing x) (t : W32) : k.past t x = j.past t x := by
  simp only [Job.standing, Prod.mk.injEq] at h
  obtain ⟨-, -, hp, hl, -⟩ := h
  simp only [Job.past, hp, hl]

/-- A meeting's end, engine by engine, keeps the takes, the engines and the registers. -/
theorem foldl_freed_keeps (l : List Eng) : (l.foldl (Job.freed p t) j).take = j.take ∧
    (∀ x, (l.foldl (Job.freed p t) j).has x = j.has x) ∧ ∀ x, (l.foldl (Job.freed p t) j).reg x = j.reg x := by
  induction l generalizing j with
  | nil => exact ⟨rfl, fun _ => rfl, fun _ => rfl⟩
  | cons e l ih => obtain ⟨h1, h2, h3⟩ := ih (j.freed p t e); simp [h1, h2, h3]

/-- A meeting's end frees the engines that it names and the job has, and leaves the others where they stand. -/
theorem foldl_freed_standing {l : List Eng} (hl : l.Nodup) (x : Eng) : (l.foldl (Job.freed p t) j).standing x =
    if decide (x ∈ l) && p x && j.has x then j.past (t j.take) x else j.standing x := by
  induction l generalizing j with
  | nil => rfl
  | cons e l ih =>
    rw [List.foldl_cons, ih _ (List.nodup_cons.mp hl).2]
    by_cases hx : x = e
    · subst hx
      simp only [(List.nodup_cons.mp hl).1, freed_standing, List.mem_cons_self, decide_true, decide_false, Bool.true_and,
        Bool.false_and, Bool.false_eq_true, if_false]
    · have hs := freed_standing_ne p t j hx
      simp only [List.mem_cons, hx, false_or, freed_has, freed_take, past_congr hs, hs]

end

theorem allEngs_nodup : allEngs.Nodup := by decide

/-! ## The end of a slate -/

theorem release_eq (j : Job) (late : Bool) : j.release late =
    let k := allEngs.foldl (Job.freed (fun _ => true) fun _ => 0) j
    { k with
      take := 0, zeroed := true, hold := j.hold || (late && (j.meets .v || j.meets .m)), tfmt := k.fmt
      rseed := k.nseed.getD k.rseed, nseed := none } := rfl

theorem release_standing (j : Job) (late : Bool) {x : Eng} (h : j.has x = true) : (j.release late).standing x = j.past 0 x := by
  have hf := foldl_freed_standing (fun _ => true) (fun _ => 0) j allEngs_nodup x
  simp only [mem_allEngs, h, decide_true, Bool.and_self, if_true] at hf
  rw [← hf]
  cases x <;> rfl

theorem release_reg (j : Job) (late : Bool) (x : Eng) : (j.release late).reg x = j.reg x := by
  rw [← (foldl_freed_keeps (fun _ => true) (fun _ => 0) j allEngs).2.2 x]
  cases x <;> rfl

/-- The stream has arrived at a slate of job scope. -/
def Wait.atSlate : Wait → Bool
  | .slate g _ _ => !g
  | _ => false

theorem Wait.atSlate_eq_false {w : Wait} (h : ∀ since id, w ≠ .slate false id since) : w.atSlate = false := by
  cases w with
  | slate g id since =>
    cases g
    · exact absurd rfl (h since id)
    · rfl
  | _ => rfl

/-- The arrivals of a job at a slate are those of its streams that stand there. -/
theorem arrivals_length (c : CoreId) (j : Job) :
    (arrivalsOf c j false).length = (allEngs.filter fun e => j.has e).countP fun x => (j.wait x).atSlate := by
  rw [arrivalsOf, List.length_filterMap_eq_countP, List.countP_filter]
  refine List.countP_congr fun x _ => ?_
  cases j.has x
  · simp
  · cases j.wait x with
    | slate g id since => cases g <;> simp [Wait.atSlate]
    | _ => simp [Wait.atSlate]

/-- Until every stream is there, a slate has fewer arrivals than the job has streams. -/
theorem arrivals_lt (c : CoreId) (j : Job) {x : Eng} (h : j.has x = true) (hx : (j.wait x).atSlate = false) :
    (arrivalsOf c j false).length < j.streamCount := by
  rw [arrivals_length, Job.streamCount, List.countP_lt_length_iff]
  exact ⟨x, by simp [mem_allEngs, h], by simp [hx]⟩

/-- With the last stream, a slate has as many arrivals as the job has streams. -/
theorem arrivals_all (c : CoreId) (j : Job) (h : ∀ x, j.has x = true → (j.wait x).atSlate = true) :
    (arrivalsOf c j false).length = j.streamCount := by
  rw [arrivals_length, Job.streamCount, List.countP_eq_length]
  exact fun x hx => h x (List.mem_filter.mp hx).2

theorem mem_arrivals {c : CoreId} {j : Job} {a : Arrival} (h : a ∈ arrivalsOf c j false) :
    ∃ x, j.has x = true ∧ j.wait x = .slate false a.id a.since := by
  obtain ⟨x, -, hx⟩ := List.mem_filterMap.mp h
  split at hx
  · rename_i hh
    split at hx
    · rename_i g id since hw
      split at hx
      · rename_i hg
        cases hx
        exact ⟨x, hh, by rw [hw, hg]⟩
      · cases hx
    · cases hx
  · cases hx

theorem firstArr_isSome (a : Arrival) (l : List Arrival) : ∃ b ∈ a :: l, firstArr (a :: l) = some b := by
  induction l generalizing a with
  | nil => exact ⟨a, by simp, rfl⟩
  | cons x l ih =>
    obtain ⟨b, hb, h⟩ := ih x
    rw [firstArr, h]
    dsimp only
    split
    · exact ⟨b, List.mem_cons_of_mem _ hb, rfl⟩
    · exact ⟨a, List.mem_cons_self, rfl⟩

theorem lastArr_isSome (a : Arrival) (l : List Arrival) : ∃ b, lastArr (a :: l) = some b := by
  induction l generalizing a with
  | nil => exact ⟨a, rfl⟩
  | cons x l ih =>
    obtain ⟨b, h⟩ := ih x
    rw [lastArr, h]
    dsimp only
    split
    · exact ⟨b, rfl⟩
    · exact ⟨a, rfl⟩

theorem jobsOf_own (s : State) (c : CoreId) (j : Job) : (s.setJob c j).jobsOf [c] = [(c, j)] := by
  simp [State.jobsOf]

/-- A slate of a job is not met while a stream is still to come or the job stands at its stop take. -/
theorem slateMeet_waits (s : State) (c : CoreId) (j : Job) (late : Bool)
    (h : (arrivalsOf c j false).length < j.streamCount ∨ j.atStop = true) :
    (s.setJob c j).slateMeet [c] false late = s.setJob c j := by
  rw [State.slateMeet, jobsOf_own]
  simp only [List.flatMap_cons, List.flatMap_nil, List.append_nil, List.map_cons, List.map_nil, List.foldl_cons, List.foldl_nil,
    Nat.zero_add, List.any_cons, List.any_nil, Bool.or_false, decide_eq_true_eq, Bool.or_eq_true, if_pos h]

/-- A slate that every stream has reached under one identifier releases the job. -/
theorem slateMeet_releases (s : State) (c : CoreId) (j : Job) (late : Bool) (k : BitVec 9) {e : Eng} (he : j.has e = true)
    (h : ∀ x, j.has x = true → ∃ since, j.wait x = .slate false k since) (hs : j.atStop = false) :
    (s.setJob c j).slateMeet [c] false late = (s.setJob c j).setJob c (j.release late) := by
  have hall : ∀ x, j.has x = true → (j.wait x).atSlate = true := fun x hx => by
    obtain ⟨since, hw⟩ := h x hx
    rw [hw]
    rfl
  have hid : ∀ a ∈ arrivalsOf c j false, a.id = k := fun a ha => by
    obtain ⟨x, hx, hw⟩ := mem_arrivals ha
    obtain ⟨since, hw'⟩ := h x hx
    rw [hw] at hw'
    cases hw'
    rfl
  have hlen := arrivals_all c j hall
  have hpos : 0 < j.streamCount := by
    rw [Job.streamCount, List.length_pos_iff_exists_mem]
    exact ⟨e, by simp [mem_allEngs, he]⟩
  obtain ⟨a, l, hl⟩ := List.exists_cons_of_length_pos (hlen ▸ hpos)
  obtain ⟨b, hb, hf⟩ := firstArr_isSome a l
  obtain ⟨d, hd⟩ := lastArr_isSome a l
  rw [State.slateMeet, jobsOf_own]
  simp only [List.flatMap_cons, List.flatMap_nil, List.append_nil, List.map_cons, List.map_nil, List.foldl_cons, List.foldl_nil,
    Nat.zero_add, List.any_cons, List.any_nil, Bool.or_false, hlen, hs, Nat.lt_irrefl, decide_false, Bool.false_eq_true,
    if_false]
  rw [hl] at hid ⊢
  simp only [hf, hd]
  rw [if_pos]
  rw [List.all_eq_true]
  exact fun x hx => by simp [hid x hx, hid b hb]

/-! ## The end of a rendezvous -/

theorem rdvRelease_eq (j : Job) (m : BitVec 4) (late : Bool) : j.rdvRelease m late =
    { (allEngs.foldl (Job.freed (maskHas m) (· + 1)) j).markMeet m with
      hold := j.hold || (late && ((maskHas m .v && j.meets .v) || (maskHas m .m && j.meets .m))) } := rfl

theorem rdvRelease_standing (j : Job) (m : BitVec 4) (late : Bool) {x : Eng} (hm : maskHas m x = true) (h : j.has x = true) :
    (j.rdvRelease m late).standing x = j.past (j.take + 1) x := by
  have hf := foldl_freed_standing (maskHas m) (· + 1) j allEngs_nodup x
  simp only [mem_allEngs, hm, h, decide_true, Bool.and_self, if_true] at hf
  rw [← hf, rdvRelease_eq, Job.markMeet]
  split
  all_goals cases x <;> rfl

theorem rdvRelease_keeps (j : Job) (m : BitVec 4) (late : Bool) :
    (j.rdvRelease m late).take = j.take ∧ ∀ x, (j.rdvRelease m late).reg x = j.reg x := by
  obtain ⟨ht, -, hr⟩ := foldl_freed_keeps (maskHas m) (· + 1) j allEngs
  rw [rdvRelease_eq, Job.markMeet]
  constructor
  · rw [← ht]
    split <;> rfl
  · intro x
    rw [← hr x]
    split
    all_goals cases x <;> rfl

theorem firstOf_eq_none {α : Type} : ∀ {l : List (Option α)}, (∀ x ∈ l, x = none) → firstOf l = none
  | [], _ => rfl
  | none :: l, h => firstOf_eq_none (l := l) fun x hx => h x (List.mem_cons_of_mem _ hx)
  | some a :: l, h => absurd (h (some a) List.mem_cons_self) (by simp)

/-- No stream that waits under the same identifier names another set of streams and is named or names the arriving one. -/
theorem rdvClash_eq_none {j : Job} {e : Eng} {k : BitVec 6} {m : BitVec 4}
    (h : ∀ x, x ≠ e → j.has x = true → ∀ mask since, j.wait x = .rdv k mask since → mask = m) : rdvClash j e k m = none := by
  rw [rdvClash]
  refine firstOf_eq_none fun o ho => ?_
  obtain ⟨x, -, rfl⟩ := List.mem_map.mp ho
  split
  · rename_i hx
    split
    · rename_i k' m' since hw
      refine if_neg fun hk => ?_
      exact hk.2.1 (h x hx.1 hx.2 m' since (hk.1 ▸ hw))
    · rfl
  · rfl

theorem maskAlone_eq_true {m : BitVec 4} {e : Eng} : maskAlone m e = true ↔ ∀ x, x ≠ e → maskHas m x = false := by
  simp only [maskAlone, List.all_eq_true, mem_allEngs, true_implies, Bool.or_eq_true, decide_eq_true_eq, Bool.not_eq_true']
  exact forall_congr' fun x => or_iff_not_imp_left

theorem rdvMet_eq_true {j : Job} {e : Eng} {k : BitVec 6} {m : BitVec 4}
    (h : ∀ x, x ≠ e → maskHas m x = true → j.has x = true → ∃ since, j.wait x = .rdv k m since) : rdvMet j e k m = true := by
  rw [rdvMet, List.all_eq_true]
  intro x _
  by_cases hx : x = e
  · simp [hx]
  · cases hm : maskHas m x
    · simp
    · cases hj : j.has x
      · simp
      · obtain ⟨since, hw⟩ := h x hx hm hj
        simp [hw]

theorem rdvMet_eq_false {j : Job} {e x : Eng} {k : BitVec 6} {m : BitVec 4} (hx : x ≠ e) (hm : maskHas m x = true)
    (hj : j.has x = true) (hw : ∀ id mask since, j.wait x ≠ .rdv id mask since) : rdvMet j e k m = false := by
  rw [rdvMet, List.all_eq_false]
  refine ⟨x, mem_allEngs x, ?_⟩
  simp only [hx, hm, hj, decide_false, Bool.not_true, Bool.or_self, Bool.not_eq_true]

/-- Stream `x` of the job has left its meeting, with its idle count from take `t`, when the job is `k`. -/
structure Job.Gone (j k : Job) (t : W32) (x : Eng) : Prop where
  run : k.wait x = .run
  acted : k.acted x = true
  pc : j.loops x = [] → k.pc x = j.pc x + 4
  base : x.elastic = false → k.base x = t

theorem Job.Gone.of_standing {j k : Job} {t : W32} {x : Eng} (h : k.standing x = j.past t x) : j.Gone k t x := by
  simp only [Job.standing, Job.past, Prod.mk.injEq] at h
  obtain ⟨hw, ha, hp, -, hb⟩ := h
  refine ⟨hw, ha, fun hl => ?_, fun he => ?_⟩
  · rw [hp, hl]
    rfl
  · simpa only [he, Bool.false_eq_true, if_false, Option.some.injEq] using hb

/-- A stream that issues a meeting instruction has arrived at it. -/
def Job.arrived (j : Job) (e : Eng) (i : Instr) (w : Wait) : Job := ((j.issuing e i).setWait e w).act e

section
variable (j : Job) (e : Eng) (i : Instr) (w : Wait)

theorem arrived_wait : (j.arrived e i w).wait e = w := Job.arrived_wait ..

theorem arrived_wait_ne {x : Eng} (h : x ≠ e) : (j.arrived e i w).wait x = j.wait x := by
  rw [← issuing_wait j e x i]
  exact congrArg Prod.fst (Job.standing_arrived (j.issuing e i) h w)

theorem arrived_has (x : Eng) : (j.arrived e i w).has x = j.has x := by simp [Job.arrived]
theorem arrived_pc (x : Eng) : (j.arrived e i w).pc x = j.pc x := by simp [Job.arrived]
theorem arrived_loops (x : Eng) : (j.arrived e i w).loops x = j.loops x := by simp [Job.arrived]
theorem arrived_reg (x : Eng) : (j.arrived e i w).reg x = j.reg x := by simp [Job.arrived]
theorem arrived_take : (j.arrived e i w).take = j.take := by simp [Job.arrived]

end

/-- Issuing leaves a job at its stop take, or short of it. -/
theorem issuing_atStop (j : Job) (e : Eng) (i : Instr) : (j.issuing e i).atStop = j.atStop := by
  rw [issuing_eq]
  rfl

section
variable {s : State} {c : CoreId} {e : Eng} {j : Job} {t : Tm}

theorem exec_slate_arrives {k : BitVec 9} (h : Issues s c e j (.slate t false k)) (ho : e = .a → j.a.ownPosted c = false) :
    exec (.slate t false k) s = .next
      ((s.setJob c (j.arrived e (.slate t false k) (.slate false k j.cyc))).slateMeet [c] false e.elastic) := by
  rw [exec_slate, execSlate, h.eng, issue_go h]
  simp only [h.eng]
  have hn : (decide (e = .a) && (j.issuing e (.slate t false k)).a.ownPosted c) = false := by
    cases e <;> simp_all
  simp only [hn, issuing_cyc, Bool.false_and, State.reach, Bool.false_eq_true, if_false]
  rfl

theorem exec_rdv_arrives {m : BitVec 4} {k : BitVec 6} (h : Issues s c e j (.rdv t m k)) (hk : k ≠ 0) :
    exec (.rdv t m k) s = .next (s.setJob c ((j.issuing e (.rdv t m k)).rdvArrive e k m)) := by
  rw [exec_rdv, execRdv, h.eng, issue_go h]
  simp only [if_neg hk, h.eng]

end

/-- A stream that arrives at a rendezvous that is not complete with it waits there. -/
theorem rdvArrive_waits {j : Job} {e : Eng} {k : BitVec 6} {m : BitVec 4} (hc : rdvClash j e k m = none)
    (hm : rdvMet j e k m = false) (ha : maskAlone m e = false) :
    j.rdvArrive e k m = (j.setWait e (.rdv k m j.cyc)).act e := by
  simp only [Job.rdvArrive, ha, hc, hm, Bool.false_and, Bool.false_eq_true, if_false]

/-- The last stream to arrive at a rendezvous completes it, and a mask that names no other is met at once. -/
theorem rdvArrive_meets {j : Job} {e : Eng} {k : BitVec 6} {m : BitVec 4}
    (h : maskAlone m e = true ∨ rdvClash j e k m = none ∧ rdvMet j e k m = true ∧ j.atStop = false) :
    j.rdvArrive e k m = ((j.setWait e (.rdv k m j.cyc)).act e).rdvRelease m e.elastic := by
  simp only [Job.rdvArrive]
  rcases h with ha | ⟨hc, hm, hs⟩
  · rw [if_pos ha]
  · simp only [hc, hm, hs, Bool.not_false, Bool.and_self, if_true, ite_self]

end Sys2Proof.Machine
end

section
open Sys2Proof Sys2Proof.Machine

/-- Settles O6: a meeting waits for its last stream, and then every stream that it names goes on. -/
theorem streamsMeet : Obligations.StreamsMeet := by
  refine ⟨fun s c e j t k i hi h hown => ?_, fun s c e j t m k i hi h => ⟨fun hk => ?_, fun hk hx hsame => ?_,
    fun hk hall hstop hme => ?_⟩⟩
  all_goals subst hi
  · intro waiting
    rw [exec_slate_arrives h hown]
    have gone {x : Eng} (hj : j.has x = true) : waiting.Gone (waiting.release e.elastic) 0 x :=
      .of_standing (release_standing _ _ ((arrived_has j e _ _ x).trans hj))
    refine ⟨fun hw => congrArg _ (slateMeet_waits s c _ _ (hw.imp_left ?_)), fun hall hs => ⟨_, _, congrArg _
      (slateMeet_releases s c _ _ k (e := e) ?_ (fun x hx => ?_) hs), job_setJob .., rfl, ?_, ?_, ?_, ?_, fun d hd => ?_, rfl⟩⟩
    · rintro ⟨x, hx, hj, hw⟩
      refine arrivals_lt c _ (x := x) ?_ (Wait.atSlate_eq_false ?_)
      · rw [arrived_has, hj]
      · rwa [arrived_wait_ne _ _ _ _ hx]
    · rw [arrived_has, h.has]
    · by_cases he : x = e
      · subst he
        exact ⟨_, arrived_wait ..⟩
      · rw [arrived_has] at hx
        rw [arrived_wait_ne _ _ _ _ he]
        exact hall x he hx
    · intro x hx
      exact ⟨(gone hx).run, (gone hx).acted⟩
    · intro x hx hl
      exact ((gone hx).pc ((arrived_loops ..).trans hl)).trans (congrArg (· + 4) (arrived_pc ..))
    · exact fun x hx hj => (gone hj).base hx
    · intro x n
      rw [release_reg, arrived_reg]
    · rw [core_setJob_ne _ _ _ _ hd, core_setJob_ne _ _ _ _ hd]
  · rw [exec_rdv, execRdv, h.eng, issue_go h]
    simp only [if_pos hk, h.eng]
  · obtain ⟨x, hx, hm, hj, hw⟩ := hx
    rw [exec_rdv_arrives h hk, rdvArrive_waits, issuing_cyc]
    · exact rdvClash_eq_none fun y hy hj mask since hw =>
        hsame y hy (by rwa [issuing_has] at hj) mask since (by rwa [issuing_wait] at hw)
    · exact rdvMet_eq_false hx hm (by rw [issuing_has, hj]) (by rwa [issuing_wait])
    · refine Bool.eq_false_iff.mpr fun ha => ?_
      rw [maskAlone_eq_true.mp ha x hx] at hm
      cases hm
  · rw [exec_rdv_arrives h hk, rdvArrive_meets, issuing_cyc]
    · have gone {x : Eng} (hm : maskHas m x = true) (hj : j.has x = true) :=
        Job.Gone.of_standing (rdvRelease_standing (j.arrived e (.rdv t m k) (.rdv k m j.cyc)) m e.elastic hm
          ((arrived_has ..).trans hj))
      obtain ⟨htake, hreg⟩ := rdvRelease_keeps (j.arrived e (.rdv t m k) (.rdv k m j.cyc)) m e.elastic
      refine ⟨_, _, rfl, job_setJob .., htake.trans (arrived_take ..), fun x hm hj => (gone hm hj).run, fun x hm hj hl => ?_,
        fun x hx hm hj => ?_, fun x n => ?_, fun d hd => core_setJob_ne _ _ _ _ hd, rfl⟩
      · exact ((gone hm hj).pc (by rw [arrived_loops, hl])).trans (by rw [arrived_pc])
      · exact ((gone hm hj).base hx).trans (by rw [arrived_take])
      · exact congrFun ((hreg x).trans (arrived_reg ..)) n
    · refine hstop.imp maskAlone_eq_true.mpr fun hs => ⟨rdvClash_eq_none fun x hx hj mask since hw => ?_, rdvMet_eq_true ?_, ?_⟩
      · rw [issuing_has] at hj
        rw [issuing_wait] at hw
        cases hm : maskHas m x
        · exact absurd hw (hs.2 x hx hm k mask since)
        · obtain ⟨since', hw'⟩ := hall x hx hm hj
          rw [hw'] at hw
          cases hw
          rfl
      · intro x hx hm hj
        rw [issuing_wait]
        rw [issuing_has] at hj
        exact hall x hx hm hj
      · rw [issuing_atStop, hs.1]
end

section
/-! SUPPORT. Branches, calls and returns (R47-R50, R89-R91, R102): targets, the levels that a branch leaves, and the
return-address store. -/

namespace Sys2Proof.Machine

/-! ## Targets -/

/-- An offset counts words, with its sign (R55). -/
theorem signExtend_words {w : Nat} (o : BitVec w) : (o.signExtend 48 <<< 2 : VAddr) = BitVec.ofInt 48 (4 * o.toInt) := by
  rw [BitVec.shiftLeft_eq_mul_twoPow, BitVec.ofInt_mul, mul_comm]
  rfl

theorem target16_eq (o : BitVec 16) (p : VAddr) : target16 o p = p + BitVec.ofInt 48 (4 * o.toInt) := by
  rw [target16, signExtend_words]

theorem target23_eq (o : BitVec 23) (p : VAddr) : target23 o p = p + BitVec.ofInt 48 (4 * o.toInt) := by
  rw [target23, signExtend_words]

theorem loopsAfter_eq (t : VAddr) (ls : List LoopLvl) :
    loopsAfter t ls = ls.filter fun l => decide (l.first.toNat ≤ t.toNat ∧ t.toNat ≤ l.last.toNat) := by
  simp only [loopsAfter, BitVec.le_def, Bool.decide_and]

/-- A branch goes on at its target and ends the levels whose body excludes it, or goes on as any instruction does (R47, R89). -/
theorem branchIf_eq (b : Bool) (t p : VAddr) (ls : List LoopLvl) : branchIf b t p ls =
    if b then (t, ls.filter fun l => decide (l.first.toNat ≤ t.toNat ∧ t.toNat ≤ l.last.toNat)) else backEdge p (p + 4) ls := by
  rw [branchIf, branchTo, loopsAfter_eq]

/-- The test of all bits of a source, at its engine's width (R89). -/
theorem beq_zero_setWidth {w : Nat} (h : w ≤ 64) (x : BitVec w) : (x.setWidth 64 == 0) = decide (x.toNat = 0) := by
  rw [Bool.eq_iff_iff, beq_iff_eq, decide_eq_true_eq, BitVec.toNat_eq, BitVec.toNat_setWidth_of_le h]
  rfl

theorem engWidth_le (e : Eng) : engWidth e ≤ 64 := by cases e <;> decide

/-! ## Branches -/

section
variable {s : State} {c : CoreId} {e : Eng} {j : Job}

theorem branchVal_go {i : Instr} (h : Issues s c e j i) (o : BitVec 16) (test : W64 → Bool) : branchVal i o test s = .next
    (s.setJob c (((j.sourced e i).flowBy e fun get pc ls =>
      branchIf (test (((argAt (sourcesOf j e i) 0).scalar (engWidth e) get).setWidth 64)) (target16 o pc) pc ls).issued
        e 1)) := by
  obtain rfl := h.eng
  rw [branchVal, issue_go h]
  rfl

/-- The job after C has gone on by a branch on predicate `p`. -/
def Job.branched (j : Job) (p : Fin 8) (o : BitVec 16) (sense : Bool) : Job :=
  { j with c := j.c.upd fun a =>
      { a with
        pc := (branchIf (a.pred p == sense) (target16 o a.pc) a.pc a.loops).1
        loops := (branchIf (a.pred p == sense) (target16 o a.pc) a.pc a.loops).2 } }

theorem branchPred_go {i : Instr} (h : Issues s c .c j i) (p : Fin 8) (o : BitVec 16) (sense : Bool) :
    branchPred i p o sense s = .next (s.setJob c (((j.issuing .c i).branched p o sense).issued .c 1)) := by
  rw [branchPred, issue_go h]
  rfl

theorem branched_flow (j : Job) (i : Instr) (p : Fin 8) (o : BitVec 16) (sense : Bool) :
    (((j.issuing .c i).branched p o sense).pc .c, ((j.issuing .c i).branched p o sense).loops .c) =
      branchIf (j.c.arch.pred p == sense) (target16 o (j.pc .c)) (j.pc .c) (j.loops .c) := by
  simp only [Job.branched, Job.pc, Job.loops, CEng.upd, issuing_arch]

theorem branched_reg (j : Job) (p : Fin 8) (o : BitVec 16) (sense : Bool) (x : Eng) : (j.branched p o sense).reg x = j.reg x := by
  cases x <;> rfl

end

/-! ## The return-address store -/

theorem Ras.push_room {r : Ras} (h : r.held < 16) (x : W64) :
    r.push x = { r with pos := r.pos.setIfInBounds r.held x, held := r.held + 1 } := if_pos h

theorem Ras.push_full {r : Ras} (h : r.held = 16) (x : W64) : r.push x =
    { r with
      pos := Vector.ofFn fun i : Fin 16 => if h : i.val + 1 < 16 then r.pos[i.val + 1] else x
      spilled := (r.spilled + 1) % 65536 } := if_neg (by omega)

theorem Ras.push_win (r : Ras) (x : W64) : (r.push x).win = r.win := by
  rw [Ras.push]; split <;> rfl

theorem Ras.drop_win_pos (r : Ras) : r.drop.win = r.win ∧ r.drop.pos = r.pos := by
  rw [Ras.drop]; split <;> exact ⟨rfl, rfl⟩

theorem Ras.drop_held {r : Ras} (h : 0 < r.held) : r.drop = { r with held := r.held - 1 } := if_pos h

theorem Ras.drop_spilled {r : Ras} (h : r.held = 0) : r.drop = { r with spilled := r.spilled - 1 } := if_neg (by omega)

section
variable {s : State} {c : CoreId} {e : Eng} {j : Job}

/-- A call whose store has taken the return address, and that goes on at `t`. -/
def Job.called (j : Job) (e : Eng) (ret : VAddr) (t : (Fin 32 → W64) → VAddr → VAddr) : Job :=
  (((j.updRas e fun r => r.push (ret.setWidth 64)).flowBy e fun get p ls => (t get p, ls))).issued e 1

theorem callTo_room (h : (j.ras e).held < 16) (t : (Fin 32 → W64) → VAddr → VAddr) :
    callTo s c j e t = s.setJob c (j.called e (j.pc e + 4) t) := by
  simp only [callTo, if_pos h]
  rfl

theorem callTo_spills (h : (j.ras e).held = 16) (hl : (j.ras e).spilled < 16 * (j.ras e).len)
    (hg : spillGate s c j ((j.ras e).spillAddr (j.ras e).spilled) = .ok) (t : (Fin 32 → W64) → VAddr → VAddr) :
    callTo s c j e t = (s.scrWrite c ((j.ras e).spillAddr (j.ras e).spilled) (bytesOfNat 8 (j.ras e).pos[0].toNat)).setJob c
      (j.called e (j.pc e + 4) t) := by
  have hw : ¬ ((j.ras e).len = 0 ∨ (j.ras e).spilled = 16 * (j.ras e).len) := by omega
  simp only [callTo, if_neg (show ¬ (j.ras e).held < 16 by omega), if_neg hw, hg]
  rfl

theorem exec_call_go {o : BitVec 23} (h : Issues s c e j (.call o)) :
    exec (.call o) s = .next (callTo s c (j.issuing e (.call o)) e fun _ p => target23 o p) := by
  obtain rfl := h.eng
  rw [exec_call, execCall, issue_go h]

/-- The target that R90 gives to a CALLR at `p` for the value `x` of its register. -/
def callrGoal (e : Eng) (x : W64) (p : VAddr) : VAddr :=
  match e with
  | .c => BitVec.ofNat 48 (p.toNat / 2 ^ 32 * 2 ^ 32 + x.toNat % 2 ^ 32)
  | _ => BitVec.ofNat 48 x.toNat

theorem callrTarget_reg (e : Eng) (j : Job) (a : Fin 32) (p : VAddr) :
    callrTarget e (((j.reg e a).setWidth (engWidth e)).setWidth 64) p = callrGoal e (j.reg e a) p := by
  cases e
  case c => simp [callrTarget, callrGoal, engWidth, Job.reg]
  all_goals
    apply BitVec.eq_of_toNat_eq
    simp [callrTarget, callrGoal, engWidth, Job.reg]

theorem callrTarget_aligned {e : Eng} {j : Job} {a : Fin 32} (h : (j.reg e a).toNat % 4 = 0) (p : VAddr) :
    (callrTarget e (((j.reg e a).setWidth (engWidth e)).setWidth 64) p).toNat % 4 = 0 := by
  rw [callrTarget_reg]
  cases e
  all_goals
    simp only [callrGoal, BitVec.toNat_ofNat]
    omega

/-- Two targets that agree for C's primary, and for the registers of another engine, make the same call. -/
theorem called_congr {j : Job} {e : Eng} {t u : (Fin 32 → W64) → VAddr → VAddr} (hc : e = .c → t = u)
    (h : ∀ k : Job, t (k.reg e) = u (k.reg e)) (ret : VAddr) : j.called e ret t = j.called e ret u := by
  cases e
  case c => rw [hc rfl]
  all_goals simp only [Job.called, Job.flowBy, h]

theorem readFields_callr (j : Job) (a : Fin 32) :
    readFields j (fieldsOf j (.callr (.reg a))) = (j, [.reg a]) := rfl

/-- A CALLR whose target is aligned, on a store with room, calls it. -/
theorem exec_callr_room {a : Fin 32} (h : Issues s c e j (.callr (.reg a))) (hr : (j.ras e).held < 16)
    (ha : (j.reg e a).toNat % 4 = 0) :
    exec (.callr (.reg a)) s = .next (s.setJob c ((j.issuing e (.callr (.reg a))).called e (j.pc e + 4) fun get p =>
      callrTarget e (((get a).setWidth (engWidth e)).setWidth 64) p)) := by
  obtain rfl := h.eng
  have hal := callrTarget_aligned ha ((j.issuing s.turnEng (.callr (.reg a))).pc s.turnEng)
  rw [← issuing_reg j s.turnEng s.turnEng (.callr (.reg a))] at hal
  have hfull : ¬ (j.ras s.turnEng).held = 16 := by omega
  rw [exec_callr, execCallr, issue_go h]
  simp only [readFields_callr, argAt, List.getD_cons_zero, Val.scalar, hal, ne_eq, not_true, if_false, issuing_ras, hfull,
    decide_false, Bool.false_and, Bool.false_eq_true]
  rw [callTo_room (by rwa [issuing_ras]), issuing_pc]

/-- A RET that takes its target from the store. -/
theorem exec_ret_held (h : Issues s c e j .ret) {n : Nat} {x : W64} (hn : (j.ras e).held = n + 1)
    (hx : (j.ras e).pos.toList[n]? = some x) (ha : x.toNat % 4 = 0) :
    exec .ret s = .next (s.setJob c
      ((((j.issuing e .ret).updRas e Ras.drop).flow e fun _ ls => (x.setWidth 48, ls)).issued e 1)) := by
  obtain rfl := h.eng
  have hd : (j.ras s.turnEng).pos.toList.getD n 0 = x := by simp [List.getD, hx]
  rw [exec_ret, execRet, issue_go h]
  simp only [issuing_ras, hn, Nat.succ_pos, if_true, Nat.add_sub_cancel, hd, ha, ne_eq, not_true, if_false]

/-- A RET that takes its target from the spill window. -/
theorem exec_ret_spilled (h : Issues s c e j .ret) (hn : (j.ras e).held = 0) (hs : 0 < (j.ras e).spilled)
    (hg : spillGate s c (j.issuing e .ret) ((j.ras e).spillAddr ((j.ras e).spilled - 1)) = .ok)
    {x : W64} (hx : x = BitVec.ofNat 64 (natOfBytes (s.scrRead c ((j.ras e).spillAddr ((j.ras e).spilled - 1)) 8)))
    (ha : x.toNat % 4 = 0) :
    exec .ret s = .next (s.setJob c (((((j.issuing e .ret).log e x).updRas e Ras.drop).flow e
      fun _ ls => (x.setWidth 48, ls)).issued e 1)) := by
  obtain rfl := h.eng
  rw [exec_ret, execRet, issue_go h]
  simp only [issuing_ras, hn, Nat.lt_irrefl, if_false, if_neg (Nat.ne_of_gt hs), hg, ← hx, ha, ne_eq, not_true,
    Nat.one_ne_zero]

end

end Sys2Proof.Machine
end

section
open Sys2Proof Sys2Proof.Machine

/-- Settles O8: the flow of each transfer and the store that each call leaves. -/
theorem branchesAndCalls : Obligations.BranchesAndCalls := by
  refine ⟨fun s c e j o o23 a p => ?_, fun s c e j o a => ⟨?_, ?_, ?_, ?_, ?_⟩,
    fun r x n => ⟨fun h => ?_, fun h => ?_, fun h => ?_, fun h hs => ?_, r.push_win x, r.drop_win_pos⟩⟩
  · intro taken goal zero
    refine ⟨?_, ?_, ?_, ?_, ?_⟩ <;> rintro _ rfl h
    · rw [exec_br, execBr, h.eng, issue_go h]
      simp only [h.eng, branchTo, loopsAfter_eq, target23_eq]
      rfl
    · rw [exec_bz, execBz, branchVal_go h]
      simp only [branchIf_eq, target16_eq, beq_zero_setWidth (engWidth_le e)]
      rfl
    · rw [exec_bnz, execBnz, branchVal_go h]
      simp only [branchIf_eq, target16_eq, bne, beq_zero_setWidth (engWidth_le e)]
      rfl
    · refine ⟨_, branchPred_go h p o true, ?_, fun x n => ?_, ?_⟩
      · rw [branched_flow, branchIf_eq, target16_eq, beq_true]
      · rw [branched_reg, issuing_reg]
      · exact issuing_streams ..
    · refine ⟨_, branchPred_go h p o false, ?_, fun x n => ?_, ?_⟩
      · rw [branched_flow, branchIf_eq, target16_eq, beq_false]
      · rw [branched_reg, issuing_reg]
      · exact issuing_streams ..
  · rintro _ rfl h hr
    rw [exec_call_go h, callTo_room (by rwa [issuing_ras])]
    simp only [target23_eq, issuing_pc]
    rfl
  · rintro _ rfl h hr hl hg
    rw [exec_call_go h, callTo_spills]
    all_goals simp only [issuing_ras]
    · simp only [target23_eq, issuing_pc]
      rfl
    all_goals assumption
  · rintro _ rfl h hr ha
    rw [exec_callr_room h hr ha, called_congr (u := fun get p => callrGoal e (get a) p)]
    · rfl
    · rintro rfl
      funext get p
      simp [callrTarget, callrGoal, engWidth]
    · intro k
      funext p
      exact callrTarget_reg e k a p
  · rintro _ rfl h n x hn hx ha
    rw [exec_ret_held h hn hx ha, BitVec.ofNat_toNat]
  · rintro _ rfl h hn hs hg x hx ha
    rw [exec_ret_spilled h hn hs hg hx ha, BitVec.ofNat_toNat]
  · rw [Ras.push_room h]
    exact ⟨rfl, rfl, by simp [Vector.getElem_setIfInBounds, eq_comm]⟩
  · rw [Ras.push_full h]
    exact ⟨h, rfl, by simp⟩
  · rw [Ras.drop_held h]
    exact ⟨rfl, rfl⟩
  · rw [Ras.drop_spilled h]
    exact ⟨h, rfl⟩
end

section
/-! SUPPORT. The lanes of a row (R222), the bytes that a mask lets through (R228, R230) and where a vector result goes (R226). -/

namespace Sys2Proof.Machine

/-! ## Lanes -/

theorem natOfLanes_lt (w : Nat) : ∀ l : List Nat, natOfLanes w l < 2 ^ (w * l.length)
  | [] => Nat.one_pos
  | x :: xs => by
    have hx : x % 2 ^ w < 2 ^ w := Nat.mod_lt _ (Nat.two_pow_pos w)
    have ih : 2 ^ w * (natOfLanes w xs + 1) ≤ 2 ^ w * 2 ^ (w * xs.length) := Nat.mul_le_mul_left _ (natOfLanes_lt w xs)
    rw [natOfLanes, List.length_cons, Nat.mul_succ, Nat.pow_add, Nat.mul_comm (2 ^ (w * xs.length))]
    rw [Nat.mul_succ] at ih
    omega

/-- Each lane of a list of lanes is its own bits. -/
theorem bitsAt_natOfLanes (w : Nat) : ∀ (l : List Nat) (k : Nat) (h : k < l.length),
    bitsAt (natOfLanes w l) (w * k) w = l[k] % 2 ^ w
  | x :: xs, 0, _ => by
    rw [bitsAt_eq, natOfLanes, Nat.mul_zero, Nat.pow_zero, Nat.div_one, Nat.add_mul_mod_self_left, Nat.mod_mod]
    rfl
  | x :: xs, k + 1, h => by
    have hx : x % 2 ^ w < 2 ^ w := Nat.mod_lt _ (Nat.two_pow_pos w)
    have ih := bitsAt_natOfLanes w xs k (Nat.lt_of_succ_lt_succ h)
    rw [bitsAt_eq] at ih ⊢
    rw [natOfLanes, Nat.mul_succ, Nat.add_comm (w * k), Nat.pow_add, ← Nat.div_div_eq_div_mul,
      Nat.add_mul_div_left _ _ (Nat.two_pow_pos w), Nat.div_eq_of_lt hx, Nat.zero_add, ih]
    rfl

theorem lane_rowOfLanes {w k : Nat} {l : List Nat} (hk : k < l.length) (hl : w * l.length ≤ 1024) :
    lane w (rowOfLanes w l) k = l[k] % 2 ^ w := by
  have hlt := (natOfLanes_lt w l).trans_le (Nat.pow_le_pow_right Nat.two_pos hl)
  rw [lane, rowOfLanes, BitVec.toNat_ofNat, Nat.mod_eq_of_lt hlt, bitsAt_natOfLanes w l k hk]

theorem width_mul_count (t : ElemT) : t.width * t.count = 1024 := by cases t <;> rfl

/-! ## Masks -/

theorem maskOf_getLsbD (f : Nat → Bool) {b : Nat} (hb : b < 128) : (maskOf f).getLsbD b = f b := by
  have hbit := bitsAt_natOfLanes 1 ((List.range 128).map fun j => (f j).toNat) b (by simpa using hb)
  simp only [bitsAt_eq, Nat.one_mul, Nat.pow_one, List.getElem_map, List.getElem_range] at hbit
  rw [maskOf, BitVec.getLsbD_ofNat, Nat.testBit_eq_decide_div_mod_eq, hbit]
  cases f b <;> simp [hb]

/-- A byte may be written when the lane that holds it, or whose bits it holds, is active (R230). -/
theorem laneMask_getLsbD (t : ElemT) (cm : Mask) {b : Nat} (hb : b < 128) : (laneMask t.width cm).getLsbD b =
    if t.width < 8 then cm.getLsbD b else cm.getLsbD (t.width * (8 * b / t.width) / 8) := by
  rw [laneMask]
  by_cases h : t.width ≤ 8
  · rw [if_pos h]
    split
    · rfl
    · rw [show t.width = 8 by omega, Nat.mul_div_cancel_left _ (by decide), Nat.mul_div_cancel_left _ (by decide)]
  · rw [if_neg h, if_neg (by omega), maskOf_getLsbD _ hb]
    rfl

/-! ## Delivery -/

theorem lanewise_lane (t : ElemT) (cm : Mask) (f : Nat → Nat × Flags) {k : Nat} (hk : k < t.count)
    (h : activeLane t.width cm k = true) : lane t.width (lanewise t cm f).row k = (f k).1 % 2 ^ t.width := by
  rw [lanewise]
  dsimp only
  rw [lane_rowOfLanes (by simpa using hk) (by simp [width_mul_count])]
  simp [h]

theorem pushIn_stream_self (j : Job) (q : Fin 16) (lat : Nat) (r : Row) (f : Flags) :
    (j.pushIn q lat r f).stream q = { j.stream q with reserved := (j.stream q).reserved + 1 } :=
  stream_setStream j q _

theorem vout_reg_v (j : Job) (n : Fin 32) (lat : Nat) (o : VOut) : (j.vout (.reg n) lat o).v =
    { j.v with
      pend := j.v.pend ++ [{ left := lat, dst := .v n, val := o.row, mask := o.mask }]
      flights := j.v.flights ++ (if o.flags = 0 then [] else [⟨lat, none, o.flags⟩]) } := by
  simp only [Job.vout, Job.landIn, VEng.flagsIn]
  split
  · rw [List.append_nil]
  · rfl

end Sys2Proof.Machine
end

section
open Sys2Proof Sys2Proof.Machine

/-- Settles O21: the lanes that the mask lets through, and what a delivery adds to the results under way. -/
theorem vectorDelivery : Obligations.VectorDelivery := by
  refine ⟨fun t cm f k b hk hb => ⟨lanewise_lane t cm f hk, fun hw => ?_, fun hw => ?_⟩, fun j lat o n q => ⟨?_, ?_, fun x => ?_⟩⟩
  · exact (laneMask_getLsbD t cm hb).trans (if_neg (by omega))
  · exact (laneMask_getLsbD t cm hb).trans (if_pos hw)
  · rw [vout_reg_v]
    exact ⟨rfl, rfl, rfl, rfl⟩
  · refine ⟨rfl, rfl, rfl, ?_, ?_, fun p hp => pushIn_stream _ _ _ _ _ _ hp⟩
    all_goals rw [Job.vout, pushIn_stream_self]
  · rw [vout_eq]
    exact ⟨rfl, rfl, rfl, rfl, rfl, rfl⟩
end

section
/-! SUPPORT. The end of a hold (R43, R313), and the entry of the handler at a boundary of C (R128-R131). -/

namespace Sys2Proof.Machine

/-! ## The end of a hold -/

/-- The job held no longer. -/
def Job.unheld (j : Job) : Job := { j with hold := false }

theorem unhold_of_job {s : State} {c : CoreId} {j : Job} (h : s.job c = some j) : s.unhold c = s.setJob c j.unheld := by
  rw [State.unhold, h]
  rfl

theorem unhold_core_ne (s : State) {c d : CoreId} (h : d ≠ c) : (s.unhold c).core d = s.core d := by
  rw [State.unhold]
  split
  · exact core_setJob_ne s c d _ h
  · rfl

theorem unhold_job (s : State) (c d : CoreId) :
    (s.unhold c).job d = if d = c then (s.job d).map Job.unheld else s.job d := by
  by_cases h : d = c
  · subst h
    cases hj : s.job d with
    | none => simp [State.unhold, hj]
    | some j => simp [unhold_of_job hj]
  · rw [if_neg h, State.job, unhold_core_ne s h]
    rfl

theorem unhold_rest (s : State) (c : CoreId) : { s.unhold c with cores := s.cores } = s := by
  rw [State.unhold]
  split <;> rfl

/-- The end of a hold reaches the jobs of a list of cores and nothing else. -/
theorem foldl_unhold (l : List CoreId) (s : State) :
    (∀ d ∈ l, ∀ x, s.job d = some x → (l.foldl State.unhold s).job d = some x.unheld) ∧
    (∀ d, d ∉ l → (l.foldl State.unhold s).core d = s.core d) ∧ { l.foldl State.unhold s with cores := s.cores } = s := by
  induction l generalizing s with
  | nil => exact ⟨fun d hd => absurd hd List.not_mem_nil, fun _ _ => rfl, rfl⟩
  | cons c l ih =>
    obtain ⟨hjob, hcore, hrest⟩ := ih (s.unhold c)
    refine ⟨fun d hd x hx => ?_, fun d hd => ?_, ?_⟩
    · by_cases hl : d ∈ l
      · have hu := unhold_job s c d
        rw [hx] at hu
        split at hu
        · exact hjob d hl x.unheld hu
        · exact hjob d hl x hu
      · obtain rfl : d = c := (List.mem_cons.mp hd).resolve_right hl
        rw [List.foldl_cons, State.job, hcore d hl]
        have hu := unhold_job s d d
        rwa [hx, if_pos rfl] at hu
    · obtain ⟨hc, hl⟩ := not_or.mp (mt List.mem_cons.mpr hd)
      rw [List.foldl_cons, hcore d hl, unhold_core_ne s hc]
    · have hu := unhold_rest s c
      exact (congrArg (fun t : State => { t with cores := s.cores }) hrest).trans hu

/-- A member of the holders is held. -/
def State.heldAt (s : State) (d : CoreId) : Bool :=
  match s.job d with
  | some x => x.hold
  | none => false

theorem heldAt_eq_true {s : State} {d : CoreId} : s.heldAt d = true ↔ ∃ x, s.job d = some x ∧ x.hold = true := by
  rw [State.heldAt]
  split
  · rename_i x hx
    simp [hx]
  · rename_i hx
    simp [hx]

theorem holdEnd_eq {s : State} {c : CoreId} {j : Job} (h : s.job c = some j) : exec (.holdEnd c) s =
    if !(s.holders c j).any s.heldAt || s.holdStays c j then .next s
    else .next { (s.holders c j).foldl State.unhold s with
      agenda := (s.holders c j).flatMap (fun d => [.eng d .v, .eng d .m]) ++ s.agenda } := by
  rw [exec_holdEnd, execHoldEnd, h]
  rfl

/-- A hold that a holder of the gang is in, and whose causes are gone, ends. -/
theorem holdEnd_ends {s : State} {c : CoreId} {j : Job} (h : s.job c = some j)
    (hd : ∃ d ∈ s.holders c j, ∃ x, s.job d = some x ∧ x.hold = true) (hs : s.holdStays c j = false) :
    exec (.holdEnd c) s = .next { (s.holders c j).foldl State.unhold s with
      agenda := (s.holders c j).flatMap (fun d => [.eng d .v, .eng d .m]) ++ s.agenda } := by
  obtain ⟨d, hm, hx⟩ := hd
  have hany : (s.holders c j).any s.heldAt = true := List.any_eq_true.mpr ⟨d, hm, heldAt_eq_true.mpr hx⟩
  rw [holdEnd_eq h, hany, hs]
  rfl

theorem holders_own {s : State} {c : CoreId} {j : Job} (h : s.job c = some j) (hm : s.members c j = [c])
    (hs : s.holdStays c j = false) : s.holders c j = [c] := by
  have ha : j.atStop = false := (Bool.or_eq_false_iff.mp hs).1
  rw [State.holders, hm, List.filter_cons, h]
  simp [ha]

/-! ## The entry of the handler -/

/-- Where the entry of the handler leaves C: at the handler, with its trap registers written and its notices as they were. -/
structure CEng.Entered (g x : CEng) (cause : Cause) (val : W32) (ret : VAddr) : Prop where
  arch : g.arch = { x.arch with pc := x.handler x.arch.pc, inh := true }
  tpc : g.tpc = ret.setWidth 32
  tval : g.tval = val
  code : g.code = BitVec.ofNat 5 (causeCode cause)
  wait : g.wait = .run
  notices : g.pwrap = x.pwrap ∧ g.ppre = x.ppre ∧ g.pflag = x.pflag

/-- What the checker's log and trace leave of C. -/
structure CEng.Noted (g x : CEng) : Prop where
  arch : g.arch = x.arch
  vec : g.vec = x.vec
  notices : g.pwrap = x.pwrap ∧ g.ppre = x.ppre ∧ g.pflag = x.pflag

theorem log_noted (j : Job) (x : W64) : ∃ g, j.log .c x = { j with c := g } ∧ g.Noted j.c := by
  rw [Job.log, logIn_eq]
  exact ⟨_, rfl, rfl, rfl, rfl, rfl, rfl⟩

theorem traced_noted (j : Job) (x : CEng) (pc : VAddr) (act : CAct) :
    ∃ g, Job.traced { j with c := x } pc act = { j with c := g } ∧ g.Noted x := by
  rw [Job.traced]
  split
  · exact ⟨_, rfl, rfl, rfl, rfl, rfl, rfl⟩
  · exact ⟨x, rfl, rfl, rfl, rfl, rfl, rfl⟩

theorem log_traced_noted (j : Job) (x : W64) (pc : VAddr) (act : CAct) :
    ∃ g, (j.log .c x).traced pc act = { j with c := g } ∧ g.Noted j.c := by
  obtain ⟨g, hg, ga, gv, gp, gq, gf⟩ := log_noted j x
  obtain ⟨k, hk, ka, kv, kp, kq, kf⟩ := traced_noted j g pc act
  rw [hg]
  exact ⟨k, hk, ka.trans ga, kv.trans gv, kp.trans gp, kq.trans gq, kf.trans gf⟩

/-- C `x` at a handler `h`, at a take boundary. -/
def CEng.entered (x : CEng) (h : VAddr) (cause : Cause) (val : W32) (ret : VAddr) : CEng :=
  let arch := { x.arch with pc := h, inh := true }
  { x with
    arch, ckpt := arch, span := [], spanIn := [], tpc := ret.setWidth 32, tval := val, code := BitVec.ofNat 5 (causeCode cause)
    wait := .run, acted := true, cmp := none }

/-- The job whose C enters a handler `h`, once its log and its trace are written. -/
def Job.atHandler (j1 : Job) (h : VAddr) (cause : Cause) (val : W32) (ret : VAddr) : Job :=
  let c := j1.c.upd fun a => { a with pc := h, inh := true }
  Job.boundary { j1 with c := { c with
    tpc := ret.setWidth 32, tval := val, code := BitVec.ofNat 5 (causeCode cause), wait := .run, acted := true, cmp := none } }

theorem enter_eq (j : Job) (cause : Cause) (val : W32) (ret : VAddr) : j.enter cause val ret =
    ((j.log .c ((j.c.handler j.c.arch.pc).setWidth 64)).traced j.c.arch.pc (.jump (j.c.handler j.c.arch.pc) true)).atHandler
      (j.c.handler j.c.arch.pc) cause val ret := by
  unfold Job.enter Job.atHandler
  rfl

theorem atHandler_eq (j : Job) (k : CEng) (h : VAddr) (cause : Cause) (val : W32) (ret : VAddr) :
    Job.atHandler { j with c := k } h cause val ret = { j with c := k.entered h cause val ret } := by
  simp only [Job.atHandler, Job.boundary, CEng.entered, CEng.upd]

theorem enter_spec (j : Job) (cause : Cause) (val : W32) (ret : VAddr) :
    ∃ g, j.enter cause val ret = { j with c := g } ∧ g.Entered j.c cause val ret := by
  obtain ⟨k, hk, ha, -, hn⟩ := log_traced_noted j ((j.c.handler j.c.arch.pc).setWidth 64) j.c.arch.pc
    (.jump (j.c.handler j.c.arch.pc) true)
  refine ⟨k.entered (j.c.handler j.c.arch.pc) cause val ret, ?_, ?_⟩
  · rw [enter_eq, hk, atHandler_eq]
  · constructor
    all_goals simp only [CEng.entered, ha, hn, and_self]

theorem handler_eq (x : CEng) (pc : VAddr) :
    x.handler pc = BitVec.ofNat 48 (pc.toNat / 2 ^ 32 * 2 ^ 32 + x.vec.toNat / 4 * 4) := rfl

theorem en_eq (x : CEng) : x.en = decide (x.vec.toNat % 2 = 1) := by
  rw [CEng.en, BitVec.getLsbD, Nat.testBit_zero]

/-- The notice that a boundary of C takes: the first in the order WRAP, PREEMPT, FLAG, and no other (R130). -/
structure Notice (s : State) (j : Job) (x : CEng) (cause : Cause) (val : W32) : Prop where
  wrap : j.c.pwrap = true → causeCode cause = 0x1E ∧ x.pwrap = false ∧ x.ppre = j.c.ppre ∧ x.pflag = j.c.pflag ∧
    val = s.wrapMicros j
  preempt : j.c.pwrap = false → j.c.ppre = true → causeCode cause = 0x1D ∧ x.ppre = false ∧ x.pflag = j.c.pflag ∧ val = 0
  flag : j.c.pwrap = false → j.c.ppre = false → causeCode cause = 0x19 ∧ x.pflag = false ∧ val = sat32 (toBoundary s.time)

theorem asyncEntry_spec (s : State) (j : Job) : ∃ x cause val,
    s.asyncEntry j = Job.enter { j with c := x } cause val j.c.arch.pc ∧ x.arch = j.c.arch ∧ x.vec = j.c.vec ∧ Notice s j x cause val := by
  cases hw : j.c.pwrap
  · cases hp : j.c.ppre
    · refine ⟨{ j.c with pflag := false }, .flag, _, ?_, rfl, rfl, ?_, ?_, fun _ _ => ⟨rfl, rfl, rfl⟩⟩
      · simp only [State.asyncEntry, hw, hp, Bool.false_eq_true, if_false]
      · simp [hw]
      · simp [hp]
    · refine ⟨{ j.c with ppre := false }, .preempt, _, ?_, rfl, rfl, ?_, fun _ _ => ⟨rfl, rfl, rfl, rfl⟩, ?_⟩
      · simp only [State.asyncEntry, hw, hp, Bool.false_eq_true, if_false, if_true]
      · simp [hw]
      · simp [hp]
  · refine ⟨{ j.c with pwrap := false }, .wrap, _, ?_, rfl, rfl, fun _ => ⟨rfl, rfl, rfl, rfl, rfl⟩, ?_, ?_⟩
    · simp only [State.asyncEntry, hw, if_true]
    all_goals simp [hw]

theorem trapEntry_eq {s : State} {c : CoreId} {j : Job} (h : s.job c = some j) (hd : j.asyncDue = true) (hs : j.atStop = false) :
    exec (.trapEntry c) s = .next (s.setJob c (if j.c.en then s.asyncEntry j else j.asyncDefault)) := by
  rw [exec_trapEntry, execTrapEntry, h]
  simp only [hd, hs, Bool.not_true, Bool.or_self, Bool.false_eq_true, if_false]

end Sys2Proof.Machine
end

section
open Sys2Proof Sys2Proof.Machine

/-- Settles O32: a hold ends for all its holders at once, and a boundary of C takes its first notice. -/
theorem holdsTrapsAndHandler : Obligations.HoldsTrapsAndHandler := by
  refine ⟨fun s c e j w cause => ?_, fun s c j hj hd hs => ⟨fun hv => ?_, fun hv => ?_⟩⟩
  · intro held
    refine ⟨fun hj hm hh hs => ?_, fun hj hd hs => ?_, fun hj hn => ?_, fun hi => ?_⟩
    · have hl := holders_own hj hm hs
      rw [holdEnd_ends hj ⟨c, by simp [hl], j, hj, hh⟩ hs, hl, List.foldl_cons, List.foldl_nil, unhold_of_job hj]
      rfl
    · obtain ⟨hjob, hcore, hrest⟩ := foldl_unhold (s.holders c j) s
      refine ⟨_, holdEnd_ends hj hd hs, rfl, hjob, hcore, ?_, ?_⟩
      · exact (congrArg State.mem hrest :)
      · exact (congrArg State.clusters hrest :)
    · rw [holdEnd_eq hj, if_pos]
      rw [Bool.or_eq_true, Bool.not_eq_true', List.any_eq_false]
      exact hn.imp_left fun h d hd hx => h ⟨d, hd, heldAt_eq_true.mp hx⟩
    · refine ⟨j.raise e cause w, ?_, ?_, fun x n => ?_, rfl⟩
      · rw [exec_reservedEncoding, execReservedEncoding, hi.eng, withJob_of hi]
      · cases e <;> rfl
      · cases x <;> rfl
  · obtain ⟨x, cause, val, hx, hxa, hxv, hn⟩ := asyncEntry_spec s j
    obtain ⟨g, hg, he⟩ := enter_spec { j with c := x } cause val j.c.arch.pc
    obtain ⟨gp, gq, gf⟩ := he.notices
    refine ⟨{ j with c := g }, ?_, ?_, he.tpc, he.wait, fun hp => ?_, fun hp hq => ?_, fun hp hq => ?_, rfl, rfl, rfl, rfl, rfl⟩
    · rw [trapEntry_eq hj hd hs, en_eq, hv, hx, hg]
      rfl
    · exact he.arch.trans (by rw [handler_eq, hxa, hxv])
    · obtain ⟨hc, h1, h2, h3, h4⟩ := hn.wrap hp
      exact ⟨by rw [he.code, hc]; rfl, gp.trans h1, gq.trans h2, gf.trans h3, he.tval.trans h4⟩
    · obtain ⟨hc, h1, h2, h3⟩ := hn.preempt hp hq
      exact ⟨by rw [he.code, hc]; rfl, gq.trans h1, gf.trans h2, he.tval.trans h3⟩
    · obtain ⟨hc, h1, h2⟩ := hn.flag hp hq
      exact ⟨by rw [he.code, hc]; rfl, gf.trans h1, he.tval.trans h2⟩
  · refine ⟨j.asyncDefault, ?_, rfl, rfl, rfl, rfl, fun hf => ?_, rfl, rfl, rfl⟩
    · rw [trapEntry_eq hj hd hs, en_eq, hv]
      rfl
    · rw [Job.asyncDefault, if_pos hf]
      exact ⟨rfl, rfl⟩
end

section
/-! SUPPORT. The turns of the agenda: which turn a step runs and what an engine's turn does. -/

namespace Sys2Proof.Machine

/-- A step runs the turn at the head of the agenda. -/
theorem step_of_agenda {s : State} {x : Turn} {rest : List Turn} (h : s.agenda = x :: rest) :
    step s = runTurn { s with agenda := rest } x := by
  simp only [step, h]

/-- An engine that is ready and due runs the instruction that its decoder reads from the word at its pc (R30, R39). -/
theorem runEngine_word {s : State} {c e} {j : Job} {w : W32} (hj : s.job c = some j) (hready : j.ready e = true)
    (hasync : e = .c → j.asyncDue = false) (hcopy : e = .a → j.a.copyFault = none)
    (hfetch : s.fetchFor c j e (j.pc e) = .word w) (hbase : e.elastic = false → reached j.take (j.base e) = true)
    (hdue : dueNow j e w = true) : runEngine s c e = exec (instrOf e w) (s.fetchUse c j e) := by
  have hnotice : (decide (e = .c) && j.asyncDue) = false := by
    by_cases he : e = .c <;> simp [he, hasync]
  have hfault : (decide (e = .a) && j.copyDue) = false := by
    by_cases he : e = .a <;> simp [he, hcopy, Job.copyDue]
  have htime : (!e.elastic && !reached j.take (j.base e)) = false := by
    cases he : e.elastic <;> simp [he, hbase]
  simp [runEngine, hj, hnotice, hfault, hready, htime, hfetch, hdue]

/-- An instruction that has a word is no event. -/
theorem isEvent_of_encode {i : Instr} {w} (h : encode i = some w) : isEvent i = false := by
  unfold isEvent
  split
  · rfl
  · rw [h]; rfl

end Sys2Proof.Machine
end

section

open Sys2Proof Sys2Proof.Machine

/-- Settles O55: a step runs the head of the agenda, and an engine's turn that passes its guards runs what it decodes. -/
theorem stepRunsTheDecoded : Obligations.StepRunsTheDecoded := by
  refine ⟨fun s c e rest j w hagenda hj hready hasync hcopy => ?_, fun s i n rest => ⟨fun h hi => ?_, fun h hn => ?_,
    fun h => ?_, fun i w => isEvent_of_encode⟩⟩
  · intro t hfetch hbase hdue
    have hstep : step s = exec (instrOf e w) (t.fetchUse c j e) :=
      (step_of_agenda hagenda).trans (runEngine_word (s := t) hj hready hasync hcopy hfetch hbase hdue)
    exact ⟨fun i hi => by simpa [instrOf, hi] using hstep, fun cause hc => by simpa [instrOf, hc] using hstep⟩
  · simp [step_of_agenda h, runTurn, hi]
  · simp [step_of_agenda h, runTurn, hn]
  · simp [step_of_agenda h, runTurn]
end

section
/-! SUPPORT. The scalar instructions that write D: their destination, their operands, and what they leave alone. -/

namespace Sys2Proof.Machine

/-- A scalar instruction with these operand fields, which writes a function of its sources to `d`. -/
structure ScalarForm (i : Instr) (j : Job) (d : Opnd) (os : List Opnd) : Prop where
  fn : ∃ f, aluFn i = some (d, f)
  exec : ∀ s, exec i s = alu i s
  opnds : (fieldsOf j i).map Field.opnd = os

/-- The scalar forms read two sources, one, or none. -/
theorem scalarForms_shape (j : Job) (t : Tm) (d a b : Opnd) (k : BitVec 10) (h : BitVec 6) (m : BitVec 16) :
    ∀ i ∈ scalarForms t d a b k h m,
      ScalarForm i j d [a, b, d] ∨ ScalarForm i j d [a, d] ∨ ScalarForm i j d [d] := by
  simp only [scalarForms, List.forall_mem_cons]
  refine ⟨?_, ?_, ?_, ?_, ?_, ?_, ?_, ?_, ?_, ?_, ?_, ?_, ?_, ?_, ?_, ?_, ?_, ?_, ?_, ?_, ?_, ?_, ?_, ?_, ?_, ?_, ?_, ?_, ?_, ?_,
    ?_, ?_, by simp⟩
  iterate 20 exact .inl ⟨⟨_, rfl⟩, fun _ => rfl, rfl⟩
  iterate 10 exact .inr (.inl ⟨⟨_, rfl⟩, fun _ => rfl, rfl⟩)
  iterate 2 exact .inr (.inr ⟨⟨_, rfl⟩, fun _ => rfl, rfl⟩)

/-- A scalar form that issues writes a function of its sources and goes on. -/
theorem ScalarForm.issues {s c e j i d os} (hf : ScalarForm i j d os) (h : Issues s c e j i) :
    ∃ f, Sys2Proof.Machine.exec i s = .next (s.setJob c (((j.sourced e i).result e d f).done e 1)) := by
  obtain ⟨⟨_, hfn⟩, hexec, -⟩ := hf
  exact ⟨_, (hexec s).trans (alu_go h hfn)⟩

/-- A stream that no operand field of an instruction names is as it was once the sources are read. -/
theorem sourced_stream {j : Job} {e : Eng} {i : Instr} {q : Fin 16}
    (h : ∀ o ∈ (fieldsOf (j.issuing e i) i).map Field.opnd, o ≠ .q q) : (j.sourced e i).stream q = j.stream q :=
  (readFields_stream _ _ q fun _ hf => h _ (List.mem_map_of_mem hf)).trans (issuing_stream j e i q)

/-- Reading sources, writing a scalar result and going on change no register but D, and none at once in a timed engine. -/
theorem scalarJob_reg {j : Job} {e x : Eng} {i : Instr} {d : Opnd} {f : (Fin 32 → W64) → W64} {n}
    (h : x ≠ e ∨ d ≠ .reg n ∨ e.elastic = false) :
    (((j.sourced e i).result e d f).done e 1).reg x n = j.reg x n := by
  rw [done_reg, result_reg _ _ _ _ _ _ h, sourced_reg]

/-- They change no stream but those that the operand fields and D name. -/
theorem scalarJob_stream {j : Job} {e : Eng} {i : Instr} {d : Opnd} {f : (Fin 32 → W64) → W64} {q : Fin 16}
    (hi : ∀ o ∈ (fieldsOf (j.issuing e i) i).map Field.opnd, o ≠ .q q) (hd : d ≠ .q q) :
    (((j.sourced e i).result e d f).done e 1).stream q = j.stream q := by
  have hdone : (((j.sourced e i).result e d f).done e 1).stream q = ((j.sourced e i).result e d f).stream q := by
    simp only [Job.stream, done_streams]
  rw [hdone, result_stream _ _ _ _ _ hd, sourced_stream hi]

theorem scalarJob_beside (j : Job) (e : Eng) (i : Instr) (d : Opnd) (f : (Fin 32 → W64) → W64) :
    j.Beside e (((j.sourced e i).result e d f).done e 1) :=
  ((sourced_beside j e i).trans (result_beside _ e d f)).trans (done_beside _ e 1)

end Sys2Proof.Machine
end

section

open Sys2Proof Sys2Proof.Machine

/-- Settles O59: every scalar form reads its sources, writes one result and goes on, and the rules of Laws/Frame say what
each of the three leaves alone. -/
theorem scalarFrame : Obligations.ScalarFrame := by
  intro s t c e j tm d a b k h m i hi hiss hexec
  obtain ⟨os, hform, hos⟩ : ∃ os, ScalarForm i (j.issuing e i) d os ∧ os ⊆ [a, b, d] := by
    rcases scalarForms_shape (j.issuing e i) tm d a b k h m i hi with hf | hf | hf
    all_goals exact ⟨_, hf, by simp⟩
  obtain ⟨f, hf⟩ := ScalarForm.issues ⟨hform.fn, hform.exec, rfl⟩ hiss
  obtain rfl : _ = t := Host.Outcome.next.inj (hf.symm.trans hexec)
  have hjob := jobOnly_setJob s c (((j.sourced e i).result e d f).done e 1)
  have hbeside := scalarJob_beside j e i d f
  refine ⟨hjob, hjob.bytes.1, hjob.bytes.2, _, job_setJob _ _ _, hbeside, fun x n => scalarJob_reg, fun q ha hb hd => ?_,
    fun x n => srRead_beside hjob hbeside x n⟩
  refine scalarJob_stream (fun o ho => ?_) hd
  rw [hform.opnds] at ho
  rcases List.mem_cons.1 (hos ho) with rfl | ho
  · exact ha
  · rcases List.mem_cons.1 ho with rfl | ho
    · exact hb
    · rwa [List.mem_singleton.1 ho]
end

section
/-! SUPPORT. What the updates of lines, cards, queues, records and accounts leave alone: every core, the turn, and the cycles
that each island has passed. -/

namespace Sys2Proof.Machine

/-- `t` has the cores, the turn and the islands' cycles of `r`. -/
structure State.Quiet (r t : State) : Prop where
  cores : t.cores = r.cores
  turn : t.turn = r.turn
  cycles : ∀ i, (t.island i).cycles = (r.island i).cycles

/-! ## Rules -/

theorem State.Quiet.refl (s : State) : s.Quiet s := ⟨rfl, rfl, fun _ => rfl⟩

theorem State.quiet_ite {r : State} {p : Prop} [Decidable p] {s t : State} (hs : p → r.Quiet s) (ht : ¬p → r.Quiet t) :
    r.Quiet (if p then s else t) := by
  split
  · exact hs ‹_›
  · exact ht ‹_›

/-- An `Option` of a state holds a quiet one. -/
def State.QuietOpt (r : State) (x : Option State) : Prop := ∀ t, x = some t → r.Quiet t

theorem State.QuietOpt.getD {r s : State} {x : Option State} (h : r.QuietOpt x) (hs : r.Quiet s) : r.Quiet (x.getD s) := by
  cases x with
  | none => exact hs
  | some t => exact h t rfl

/-- The state in the outcome of a record's write is quiet. -/
def State.QuietRec (r : State) : RecRes → Prop
  | .done t => r.Quiet t
  | .wait t => r.Quiet t

section
variable {r s : State} (h : r.Quiet s)
include h

theorem State.Quiet.job (c : CoreId) : s.job c = r.job c := by simp [State.job, State.core, h.cores]

/-- An update that reaches neither the cores nor the turn nor the islands. -/
theorem State.Quiet.same {t : State} (cores : t.cores = s.cores) (turn : t.turn = s.turn)
    (islands : t.islands = s.islands) : r.Quiet t :=
  ⟨cores.trans h.cores, turn.trans h.turn, fun i => by simp only [State.island, islands]; exact h.cycles i⟩

/-- An island put back with its cycles as they were. -/
theorem State.Quiet.setIsland {i : IslId} {x : Island} (hx : x.cycles = (s.island i).cycles) :
    r.Quiet (s.setIsland i x) := by
  refine ⟨h.cores, h.turn, fun k => ?_⟩
  by_cases hk : k = i
  · subst hk
    simpa [State.island, State.setIsland] using hx.trans (h.cycles k)
  · have hne : i.val ≠ k.val := fun e => hk (Fin.ext e.symm)
    simpa [State.island, State.setIsland, Vector.getElem_set_ne i.isLt k.isLt hne] using h.cycles k

theorem State.Quiet.withHostAllow {n} : r.Quiet { s with hostAllow := n } := h.same rfl rfl rfl
theorem State.Quiet.withPf0err {n} : r.Quiet { s with pf0err := n } := h.same rfl rfl rfl
theorem State.Quiet.withRecs {l} : r.Quiet { s with recs := l } := h.same rfl rfl rfl
theorem State.Quiet.withHalts {l} : r.Quiet { s with halts := l } := h.same rfl rfl rfl
theorem State.Quiet.setCluster {k x} : r.Quiet (s.setCluster k x) := h.same rfl rfl rfl
theorem State.Quiet.setCard {k n x} : r.Quiet (s.setCard k n x) := h.same rfl rfl rfl
theorem State.Quiet.setCtx {k x} : r.Quiet (s.setCtx k x) := h.same rfl rfl rfl
theorem State.Quiet.setPart {p x} : r.Quiet (s.setPart p x) := h.same rfl rfl rfl

/-- A fold of quiet rounds is quiet. -/
theorem State.Quiet.foldl {α : Type} {f : State → α → State} {l : List α} (hf : ∀ t x, r.Quiet t → r.Quiet (f t x)) :
    r.Quiet (l.foldl f s) := by
  induction l generalizing s with
  | nil => exact h
  | cons x l ih => exact ih (hf s x h)

/-! ## Lines and device memory -/

theorem State.Quiet.needFill {f} : r.Quiet (s.needFill f) := State.quiet_ite (fun _ => h) fun _ => h.same rfl rfl rfl

theorem State.Quiet.needReseal {frame victim sweep} : r.Quiet (s.needReseal frame victim sweep) :=
  State.quiet_ite (fun _ => h) fun _ => h.same rfl rfl rfl

theorem State.Quiet.makeRoom {ctx line} : r.Quiet (s.makeRoom ctx line) := by
  unfold State.makeRoom
  split
  · exact h
  · split
    · exact h
    · split
      · exact h.same rfl rfl rfl
      · split
        · exact State.quiet_ite (fun _ => h.same rfl rfl rfl) fun _ => h
        · exact h.needReseal

theorem State.Quiet.lineWrite {core pa bs} : r.Quiet (s.lineWrite core pa bs) := by
  unfold State.lineWrite
  split
  exacts [h, h.same rfl rfl rfl]

theorem State.Quiet.touch {pa} : r.Quiet (s.touch pa) := by
  unfold State.touch
  split
  exacts [h, h.same rfl rfl rfl]

theorem State.Quiet.hostCache {ctx pa mesi} : r.Quiet (s.hostCache ctx pa mesi) := by
  unfold State.hostCache
  split
  · exact State.quiet_ite (fun _ => h) fun _ => h.same rfl rfl rfl
  · exact State.quiet_ite (fun _ => h.makeRoom) fun _ => h.makeRoom.same rfl rfl rfl

theorem State.Quiet.commit {ctx core pa bs} : r.Quiet (s.commit ctx core pa bs) :=
  State.quiet_ite (fun _ => State.quiet_ite (fun _ => h.hostCache.lineWrite) fun _ => h.hostCache.same rfl rfl rfl) fun _ =>
    h.lineWrite

/-! ## Accounts -/

theorem State.Quiet.addBal {i x} : r.Quiet (s.addBal i x) := h.setIsland rfl

theorem State.Quiet.addRem {c x} : r.Quiet (s.addRem c x) := h.setCtx

theorem State.Quiet.drawReserve {i x} : r.Quiet (s.drawReserve i x) := h.setIsland rfl

theorem State.Quiet.meterBlock {core} : r.Quiet (s.meterBlock core) := by
  unfold State.meterBlock
  dsimp only
  split
  · exact h.same rfl rfl rfl
  · split
    · exact h.same rfl rfl rfl
    · split
      · exact h.same rfl rfl rfl
      · exact State.quiet_ite (fun _ => h.setCard.drawReserve) fun _ => h.setCard.addBal

theorem State.Quiet.hostDraw {ctx kind pa} : r.Quiet (s.hostDraw ctx kind pa) :=
  State.quiet_ite (fun _ => h.meterBlock) fun _ => h

theorem State.Quiet.spend {c x} : r.Quiet (s.spend c x) := by
  unfold State.spend
  split
  · exact h
  · split
    · exact h
    · exact State.quiet_ite (fun _ => h.setCard.drawReserve) fun _ => h.setCard

theorem State.Quiet.spendKind {c kind} : r.Quiet (s.spendKind c kind) := h.spend.same rfl rfl rfl

theorem State.Quiet.settle {clu slot isl} : r.Quiet (s.settle clu slot isl) := by
  unfold State.settle
  split
  exacts [h, h.setCard.addBal.addRem]

theorem State.Quiet.settleRun {clu slot} : r.Quiet (s.settleRun clu slot) := by
  unfold State.settleRun
  split
  · exact h
  · exact State.quiet_ite (fun _ => h) fun _ => h.settle

/-! ## Fetches -/

/-- The line of the word that an engine fetches is used. -/
theorem State.Quiet.fetchUse {c j e} : r.Quiet (s.fetchUse c j e) := by
  unfold State.fetchUse
  split
  · exact State.Quiet.touch (State.quiet_ite (fun _ => h.hostDraw.hostCache) fun _ => h.hostDraw)
  · exact h

/-! ## Reads of the device -/

theorem State.Quiet.walkUsed {ctx va} : r.Quiet (s.walkUsed ctx va) := by
  unfold State.walkUsed
  split
  · exact h
  · exact State.quiet_ite (fun _ => h) fun _ => h.foldl fun _ _ ht => ht.touch

theorem State.Quiet.devDrawn {ctx va n} : r.Quiet (s.devDrawn ctx va n) :=
  State.Quiet.foldl (h.withHostAllow.foldl fun _ _ ht => ht.walkUsed) fun _ _ ht => ht.touch

theorem State.Quiet.ownFill {ctx frame} : r.Quiet (s.ownFill ctx frame) := State.quiet_ite (fun _ => h.needFill) fun _ => h

theorem State.Quiet.devWait {ctx x} : r.Quiet (s.devWait ctx x) := by
  unfold State.devWait
  split
  exacts [h.ownFill, h]

/-! ## Messages and records -/

theorem State.Quiet.irq {fn vector} : r.Quiet (s.irq fn vector) :=
  State.quiet_ite (fun _ => h.same rfl rfl rfl) fun _ => h.same rfl rfl rfl

theorem State.Quiet.pf0Error : r.Quiet s.pf0Error := h.withPf0err.irq

theorem State.Quiet.announce {fn vector} : r.Quiet (s.announce fn vector) :=
  State.quiet_ite (fun _ => h.irq) fun _ => h.same rfl rfl rfl

theorem State.Quiet.vfIrq {c vector} : r.Quiet (s.vfIrq c vector) := by
  unfold State.vfIrq
  split
  exacts [h.announce, h]

theorem State.Quiet.needSnoop {line} : r.Quiet (s.needSnoop line) :=
  State.quiet_ite (fun _ => h) fun _ => h.same rfl rfl rfl

theorem State.Quiet.forGate {ctx core g} : r.Quiet (s.forGate ctx core g) := by
  unfold State.forGate
  split
  · split
    exacts [h.needFill, h.ownFill]
  · exact h.needSnoop
  · exact h.makeRoom
  · exact h

theorem State.Quiet.sevLose : r.Quiet s.sevLose := h.same rfl rfl rfl

theorem State.Quiet.recDone {x} : r.Quiet (s.recDone x) := by
  unfold State.recDone
  dsimp only
  split
  · refine State.Quiet.irq ?_
    split
    exacts [h.same rfl rfl rfl, h.setPart.irq, h]
  · split
    exacts [h.same rfl rfl rfl, h.setPart.irq, h]

theorem State.Quiet.recTry {x} : r.QuietRec (s.recTry x) := by
  unfold State.recTry
  split
  · exact h.recDone
  · split
    · exact State.quiet_ite (fun _ => h.sevLose) fun _ => h.pf0Error
    · exact h.ownFill
    · split
      exacts [h.hostDraw.commit.recDone, h.pf0Error, h.forGate]

theorem State.Quiet.recLoop {n} : r.Quiet (s.recLoop n) := by
  induction n generalizing s with
  | zero => exact h
  | succ n ih =>
    unfold State.recLoop
    split
    · exact h
    · next x _ _ =>
      have hx := h.recTry (x := x)
      cases ht : s.recTry x with
      | done t =>
        rw [ht] at hx
        exact ih (State.Quiet.withRecs hx)
      | wait t =>
        rw [ht] at hx
        exact hx

theorem State.Quiet.drainRecs : r.Quiet s.drainRecs := h.recLoop

theorem State.Quiet.record {dst bytes msg} : r.Quiet (s.record dst bytes msg) := h.withRecs.drainRecs

theorem State.Quiet.writeRecord {x status} : r.Quiet (s.writeRecord x status) := h.record

/-! ## Cards, queues and contexts -/

theorem State.Quiet.enqueue {clu x} : r.QuietOpt (s.enqueue clu x) := by
  unfold State.enqueue
  split
  · rintro _ ⟨⟩
  · rintro _ ⟨⟩
    exact h.setCard.setCtx

theorem State.Quiet.removeCard {clu slot} : r.Quiet (s.removeCard clu slot) := by
  unfold State.removeCard
  split
  exacts [h, h.setCluster.setCtx]

theorem State.Quiet.faultCard {clu slot status} : r.Quiet (s.faultCard clu slot status) := by
  unfold State.faultCard
  split
  · exact h
  · split
    exacts [h.writeRecord.removeCard.removeCard, h.writeRecord.removeCard]

theorem State.Quiet.wrapCheck {p} : r.Quiet (s.wrapCheck p) := State.quiet_ite (fun _ => h.setPart.announce) fun _ => h

theorem State.Quiet.wrapVacated {ctx} : r.Quiet (s.wrapVacated ctx) := by
  unfold State.wrapVacated
  split
  exacts [h, h.wrapCheck]

theorem State.Quiet.setQueue {c q x} : r.Quiet (s.setQueue c q x) := h.setCtx

theorem State.Quiet.queueError {ctx q code level seq addr detail head} :
    r.Quiet (s.queueError ctx q code level seq addr detail head) := h.record.setQueue

theorem State.Quiet.haltQueues {ctx} : r.Quiet (s.haltQueues ctx) :=
  h.foldl fun _ _ ht => State.quiet_ite (fun _ => ht) fun _ => ht.queueError.setQueue

theorem State.Quiet.haltEnd {ctx} : r.Quiet (s.haltEnd ctx) :=
  State.Quiet.wrapVacated (State.Quiet.vfIrq (State.Quiet.haltQueues (h.foldl fun _ _ ht => ht.settleRun.faultCard)))

theorem State.Quiet.haltSettle : r.Quiet s.haltSettle := h.withHalts.foldl fun _ _ ht => ht.haltEnd

theorem State.Quiet.kill {ctx} : r.Quiet (s.kill ctx) := by
  unfold State.kill
  split
  · exact h
  · refine State.Quiet.haltSettle (State.Quiet.withHalts (h.setCtx.foldl fun _ _ ht => ?_))
    split
    exacts [ht.setCard, ht]

theorem State.Quiet.requeue {clu slot f} : r.Quiet (s.requeue clu slot f) := by
  unfold State.requeue
  split
  · exact h
  · dsimp only
    split
    · exact h.setCard
    · split
      exacts [h.setCard, h.setCluster.setCard]

theorem State.Quiet.compensate {clu slot} : r.Quiet (s.compensate clu slot) := by
  unfold State.compensate
  split
  · exact h
  · split
    · exact h
    · dsimp only
      split
      · exact h.requeue
      · split
        · exact h.kill
        · split
          · split
            exacts [h.kill, h.devDrawn.setCard.enqueue.getD h]
          · exact State.quiet_ite (fun _ => h.devWait) fun _ => h.kill

theorem State.Quiet.compensateAll : r.Quiet s.compensateAll := h.foldl fun _ _ ht => ht.compensate

theorem State.Quiet.ownOn : r.Quiet s.ownOn := h.drainRecs.compensateAll

theorem State.Quiet.leaveTwin {i} : r.Quiet (s.leaveTwin i) := State.quiet_ite (fun _ => h.setIsland rfl) fun _ => h

theorem State.Quiet.twinGuard {i} : r.Quiet (s.twinGuard i) := State.quiet_ite (fun _ => h.leaveTwin) fun _ => h

theorem State.Quiet.stampCard {c} : r.Quiet (s.stampCard c) := by
  unfold State.stampCard
  split
  · exact h
  · split
    · exact h
    · exact State.quiet_ite (fun _ => h.same rfl rfl rfl) fun _ => h

theorem State.Quiet.noteLevel {c j} : r.Quiet (s.noteLevel c j) := by
  unfold State.noteLevel
  split
  exacts [h, h.setCard]

theorem State.Quiet.chargeCycle {c j} : r.Quiet (s.chargeCycle c j) := h.noteLevel.spendKind

end

end Sys2Proof.Machine
end

section
/-! SUPPORT. Every turn of the agenda ends in a next state: a word runs only on an engine that its decoder serves, and no event
needs a stream. -/

namespace Sys2Proof.Machine

/-! ## What the decoder accepts -/

/-- A decoder's answer names only instructions that are well-formed in the engine. -/
def OkWf (e : Eng) (r : Except Cause Instr) : Prop := ∀ i, r = .ok i → i.wf e = true

section
variable {e : Eng}

@[simp] theorem okWf_error (x : Cause) : OkWf e (.error x) := by
  intro i h
  cases h

@[simp] theorem okWf_accept (fixed : Bool) (i : Option Instr) : OkWf e (accept e fixed i) := by
  cases i with
  | none => exact okWf_error _
  | some i =>
    by_cases h : (fixed && i.wf e) = true
    · simp only [accept, h, if_true]
      rintro _ ⟨⟩
      exact (Bool.and_eq_true_iff.1 h).2
    · simp [accept, h]

@[simp] theorem okWf_acceptQ (n lo : Nat) (fixed : Bool) (f : Option (Fin 16 → Instr)) :
    OkWf e (acceptQ e n lo fixed f) := by
  cases f with
  | none => exact okWf_error _
  | some f =>
    simp only [acceptQ]
    cases opndAt n lo with
    | q q => exact okWf_accept _ _
    | reg _ | bad _ => cases fixed <;> exact okWf_error _

@[simp] theorem okWf_ite (p : Prop) [Decidable p] (a b : Except Cause Instr) :
    OkWf e (if p then a else b) ↔ (p → OkWf e a) ∧ (¬p → OkWf e b) := by
  by_cases h : p <;> simp [h]

theorem okWf_decodeWord (n op : Nat) : OkWf e (decodeWord e n op) := by
  unfold decodeWord
  split <;> simp

theorem okWf_decodeC (n op : Nat) : OkWf e (decodeC e n op) := by
  unfold decodeC
  split <;> simp

theorem okWf_decodeA (n op : Nat) : OkWf e (decodeA e n op) := by
  unfold decodeA
  split <;> simp

theorem okWf_decodeV (n op : Nat) : OkWf e (decodeV e n op) := by
  unfold decodeV
  split <;> simp

theorem okWf_decodeM (n op : Nat) : OkWf e (decodeM e n op) := by
  unfold decodeM
  split <;> simp

end

/-- What an engine's decoder reads is well-formed in that engine. -/
theorem wf_of_decode {e : Eng} {w : W32} {i : Instr} (h : decode e w = .ok i) : i.wf e = true := by
  refine (?_ : OkWf e (decode e w)) i h
  cases e <;> simp [decode, okWf_decodeWord, okWf_decodeC, okWf_decodeA, okWf_decodeV, okWf_decodeM]

/-! ## Words -/

/-- The outcome is a next state. -/
def Res.IsNext (r : Res) : Prop := ∃ t, r = .next t

section
variable {s : State} {c : CoreId} {e x : Eng} {j : Job} (h : InTurn s c e j)
include h

theorem withJob_isNext {k : CoreId → Job → State} (hx : x = e) : Res.IsNext (withJob s x k) :=
  hx ▸ ⟨_, withJob_of h k⟩

theorem stewardOp_isNext {i : Instr} {start poll} (he : e = .c) : Res.IsNext (stewardOp i start poll s) :=
  withJob_isNext h he.symm

theorem tlbinvOp_isNext {i : Instr} {covers} (he : e = .a) : Res.IsNext (tlbinvOp i covers s) :=
  withJob_isNext h he.symm

omit h in
/-- The engine that a conjunct of `wf` names. -/
theorem eng_of_wf {b : Bool} (hw : (e == x && b) = true) : x = e :=
  (eq_of_beq (Bool.and_eq_true_iff.1 hw).1).symm

/-- A word in an engine where it is well-formed has a next state: the engine that it asks for is the one in turn. -/
theorem exec_word_isNext {i : Instr} (hw : i.wf e = true) : Res.IsNext (exec i s) := by
  cases i
  -- the common subset asks for the engine in turn
  case nop | idle | slate | add | sub | mul | mulh | mulhn | and | or | xor | shl | shr | sra | min | max | minn | maxn |
      mad | slt | sltn | seq | sel | clz | popc | mov | addi | andi | ori | xori | movi | movhi | mfs | mts | atTake | rdv |
      loop | loopr | shli | shri | srai | br | bz | bnz | call | callr | ret | lbrk =>
    exact withJob_isNext h h.eng
  -- the words of C, A, V and M ask for their own, which `wf` names
  case pcmp | pcmpi | plog | pmovToPred | pmovFromPred | bp | bnp | selp | sig | trap | eret | bqry | joule | varreg |
      thrack | eclass | phase | semmap | rseed | yield | ald | ast | ard | awr | afill | adrain | wset | wadv | gld | gst |
      ggath | gscat | aamo | acas | aswp | samo | rst | rld | binit | barr | bwait | btest | fenceAcq | fenceRel | fenceFull
      | fenceAsync | tlbp | l1opLine | l1opAll | pref | vsel | vminv | vmpop | vpopm | vmov | tshape | tcfg | tzero | tmma |
      tmmax | tmmat | tmmas | tret | tretq | tspill | tfill | tacc | tstat | tchk =>
    exact withJob_isNext h (eq_of_beq hw).symm
  case endJob | vadd | vsub | vmul | vmin | vmax | vidxw | vidxr | vlane | vins | vmadd | vadds | vshl | vshr | vpopc |
      vmpush | vand | vor | vxor | vnot | vabs | vneg | vrcp | vrsq | vexp | vfma | vscl | vcvt | vqmx | vdqmx | vperm |
      vbcst | vrotm | vskip | vbitt | vbits | vmatch =>
    exact withJob_isNext h (eng_of_wf hw)
  case vcmp t d a u ty =>
    cases u
    all_goals exact withJob_isNext h (eng_of_wf hw)
  case vred t d a u ty | vscan t d a u ty =>
    cases u
    all_goals exact withJob_isNext h (eng_of_wf hw)
  case preempt | qsusp | qres | drainm =>
    dsimp only [exec, execPreempt, execQsusp, execQres, execDrainm]
    exact stewardOp_isNext h (eq_of_beq hw)
  case tlbinvPage | tlbinvCtx | tlbinvAll =>
    dsimp only [exec, execTlbinvPage, execTlbinvCtx, execTlbinvAll]
    exact tlbinvOp_isNext h (eq_of_beq hw)
  -- events have no word
  all_goals exact nomatch hw

theorem execReservedEncoding_isNext {w : W32} {cause : Cause} : Res.IsNext (execReservedEncoding w cause s) :=
  withJob_isNext h h.eng

/-- What an engine in turn reads from a word, or RESERVED_ENCODING, has a next state. -/
theorem exec_instrOf_isNext {w : W32} : Res.IsNext (exec (instrOf e w) s) := by
  cases hd : decode e w with
  | ok i =>
    simp only [instrOf, hd]
    exact exec_word_isNext h (wf_of_decode hd)
  | error cause =>
    simp only [instrOf, hd]
    exact execReservedEncoding_isNext h

end

/-! ## Events -/

/-- An event has a next state: each of its branches gives one. -/
theorem exec_event_isNext {i : Instr} {s : State} (hi : isEvent i = true) : Res.IsNext (exec i s) := by
  cases i
  case haltLineArrival | governorInterval | droopDetect | scrubRead | shootdownComplete | frameAssign | flushOrder |
      backInvalidateResponse | nopPacket | indirect | signal | wait | staleReread | functionLevelReset | getVersion |
      getCapabilities | negotiateAlgorithms | getDigests | getCertificate | challenge | getMeasurements | keyExchange |
      endSession | powerOnReset | pcieHotReset | devrst | corerst | bringupStageAdvance | peerRequest | peerResponse |
      peerRequestTimeout | registerWrite | islandCycle | badpacket | singleFault | tdispMessage | keySlotErase =>
    exact ⟨_, rfl⟩
  case holdEnd | trapEntry | dispatchRound | capacityWaitTimeout | cardRetire | copyGo | copyCommandStart |
      copyBurstComplete | copyFaultTrap | comparedCommandIssue | thirdRunEnd | evacuationTimeout | levelChange |
      phaseCapwaitTimeout | droopRecover | pageWalkEnd | pageRequestAnswer | launchRecordWalk | launchRecordTimeout |
      sealFillComplete | resealComplete | hostSnoop | hostMemRead | hostMemWrite | doorbell | operators |
      signalPacketPerform | waitPacketRelease | castling | quotaWaitRelease | qctlReset | tdiLeaveRun | finish | keyset |
      jobStop | saveComplete | wrapPost | wrapCutoff | wrapStopDeadline | coreSelfTestEnd | frameDecoded | monitorClr |
      fastsetCountClear | flitReceive | flitReplay | portRetrainComplete | accessPerformsAtHome =>
    dsimp only [exec, execHoldEnd, execTrapEntry, execDispatchRound, execCapacityWaitTimeout, execCardRetire, execCopyGo,
        execCopyCommandStart, execCopyBurstComplete, execCopyFaultTrap, execComparedCommandIssue, execThirdRunEnd,
        execEvacuationTimeout, execLevelChange, execPhaseCapwaitTimeout, execDroopRecover, execPageWalkEnd,
        execPageRequestAnswer, execLaunchRecordWalk, execLaunchRecordTimeout, execSealFillComplete, execResealComplete,
        execHostSnoop, execHostMemRead, execHostMemWrite, execDoorbell, execOperators, execSignalPacketPerform,
        execWaitPacketRelease, execCastling, execQuotaWaitRelease, execQctlReset, execTdiLeaveRun, execFinish, execKeyset,
        execJobStop, execSaveComplete, execWrapPost, execWrapCutoff, execWrapStopDeadline, execCoreSelfTestEnd,
        execFrameDecoded, execMonitorClr, execFastsetCountClear, execFlitReceive, execFlitReplay, execPortRetrainComplete,
        execAccessPerformsAtHome]
    repeat' split
    all_goals exact ⟨_, rfl⟩
  all_goals exact nomatch hi

/-! ## Turns -/

/-- With an engine that is ready in turn, what the engine runs has a next state, and so has the turn that waits. -/
theorem runEngine_isNext {s : State} {c : CoreId} {e : Eng} (ht : s.turn = .eng c e) : Res.IsNext (runEngine s c e) := by
  unfold runEngine
  split
  · exact ⟨_, rfl⟩
  · next j hj =>
    split
    · exact exec_event_isNext (i := .trapEntry c) rfl
    · split
      · exact exec_event_isNext (i := .copyFaultTrap c) rfl
      · split
        · exact ⟨_, rfl⟩
        · next hready =>
          have hhas : j.has e = true := by
            simp only [Job.ready, Bool.not_eq_true', Bool.not_eq_false, Bool.and_eq_true] at hready
            obtain ⟨⟨⟨⟨⟨hhas, -⟩, -⟩, -⟩, -⟩, -⟩ := hready
            exact hhas
          have hquiet := (State.Quiet.refl s).fetchUse (c := c) (j := j) (e := e)
          have hin : InTurn (s.fetchUse c j e) c e j := ⟨hquiet.turn.trans ht, (hquiet.job c).trans hj, hhas⟩
          split
          · exact ⟨_, rfl⟩
          · split
            · split
              exacts [exec_instrOf_isNext hin, ⟨_, rfl⟩]
            · exact ⟨_, rfl⟩

theorem runTurn_isNext (s : State) (x : Turn) : Res.IsNext (runTurn s x) := by
  cases x with
  | eng c e => exact runEngine_isNext rfl
  | event i =>
    by_cases hi : isEvent i = true
    · simp only [runTurn, hi, if_true]
      exact exec_event_isNext hi
    · simp only [runTurn, hi]
      exact ⟨_, rfl⟩
  | wait n => exact ⟨_, rfl⟩
  | period i => exact ⟨_, rfl⟩

end Sys2Proof.Machine
end

section

open Sys2Proof Sys2Proof.Machine

/-- Settles O58: a step runs one turn, an engine runs a word only where its decoder accepts it, and events need no stream. -/
theorem stepNeverStops : Obligations.StepNeverStops := by
  intro s
  unfold step
  split
  · exact runTurn_isNext _ _
  · split
    exacts [runTurn_isNext _ _, ⟨_, rfl⟩]
end

section
/-! SUPPORT. The end of an island's cycle on which one job runs, with nothing of V or M in flight (R280). -/

namespace Sys2Proof.Machine

/-! ## One core -/

/-- Nothing of V or M is in flight. -/
structure Job.Calm (j : Job) : Prop where
  vpend : j.v.pend = []
  vflights : j.v.flights = []
  vstores : j.v.stores = []
  mpend : j.m.pend = []
  mflights : j.m.flights = []
  mflags : j.m.flagFlights = []

theorem setJob_self {s : State} {c : CoreId} {j : Job} (h : s.job c = some j) : s.setJob c j = s := by
  have hcore : { s.core c with job := some j } = s.core c := by rw [← h]; rfl
  have hset : s.setCore c (s.core c) = s := by simp only [State.setCore, State.core, Vector.set_getElem_self]
  calc s.setJob c j = s.setCore c { s.core c with job := some j } := rfl
    _ = s := by rw [hcore, hset]

section
variable {j : Job} (h : j.Calm)
include h

theorem Job.Calm.fly_eq : j.fly = j := by
  have hv : { j.v with flights := [], fpflags := j.v.fpflags } = j.v := by rw [← h.vflights]
  have hm : { j.m with flagFlights := [], fpflags := j.m.fpflags } = j.m := by rw [← h.mflags]
  simp [Job.fly, h.vflights, h.mflags, flyIn, flyOn, flagsOf, hv, hm]

theorem Job.Calm.landAll_eq : j.landAll = j := by
  have hv : { j.v with pend := [] } = j.v := by rw [← h.vpend]
  have hm : { j.m with pend := [] } = j.m := by rw [← h.mpend]
  simp [Job.landAll, h.vpend, h.mpend, passTake, hv, hm]

variable {s : State} {c : CoreId} (hj : s.job c = some j)
include hj

theorem Job.Calm.storeRows_eq : s.storeRows c = s := by
  have hv : { j.v with stores := [] } = j.v := by rw [← h.vstores]
  simp [State.storeRows, hj, h.vstores, hv, setJob_self]

theorem Job.Calm.tickM_eq : s.tickM c = s := by
  have hm : { j.m with flights := [] } = j.m := by rw [← h.mflights]
  simp [State.tickM, hj, h.mflights, hm, setJob_self]

end

/-! ## The continuity core -/

theorem digestMeet_arch (c : CEng) : c.digestMeet.arch = c.arch := by
  unfold CEng.digestMeet
  repeat' split
  all_goals rfl

theorem digestMark_arch (c : CEng) : c.digestMark.arch = c.arch := by
  unfold CEng.digestMark
  split
  · exact digestMeet_arch _
  · rfl

theorem checkStep_arch (fetch : VAddr → Option Instr) (fields : Instr → List Field) (c : CEng) :
    (c.checkStep fetch fields).arch = c.arch := by
  unfold CEng.checkStep
  split
  · rfl
  · exact digestMeet_arch _

theorem catchUp_arch (fetch : VAddr → Option Instr) (fields : Instr → List Field) (cyc n : Nat) (c : CEng) :
    (c.catchUp fetch fields cyc n).arch = c.arch := by
  induction n generalizing c with
  | zero => rfl
  | succ n ih =>
    unfold CEng.catchUp
    split
    · exact (ih _).trans (checkStep_arch _ _ _)
    · rfl

/-- The checker and a third run go on, and the primary stays. -/
theorem tick_arch (fetch : VAddr → Option Instr) (fields : Instr → List Field) (cyc : Nat) (c : CEng) :
    (c.tick fetch fields cyc).arch = c.arch := by
  unfold CEng.tick
  split
  · exact (digestMark_arch _).trans (catchUp_arch _ _ _ _ _)
  · rfl

theorem continuity_eq (s : State) (c : CoreId) (j : Job) :
    ∃ k : CEng, k.arch = j.c.arch ∧ Job.continuity s c j = { j with c := k } := by
  unfold Job.continuity
  split
  · exact ⟨_, tick_arch _ _ _ _, rfl⟩
  · exact ⟨j.c, rfl, rfl⟩

/-! ## What the cycle's end gives a job -/

/-- The job after the end of a cycle in which nothing was in flight. -/
def Job.endCycle (s : State) (c : CoreId) (held : Bool) (j : Job) : Job :=
  ((Job.continuity s c (if held then j else j.passClaims)).countTake held).nextCycle

/-- What the end of a cycle does to a job with nothing in flight: pushed entries can be popped, and the rest of what a program
sees stays. -/
structure Job.Passed (j k : Job) : Prop where
  arch : k.c.arch = j.c.arch
  scalarA : k.a.x = j.a.x
  scalarV : k.v.s = j.v.s
  vector : k.v.v = j.v.v
  scalarM : k.m.s = j.m.s
  acc : k.m.acc = j.m.acc
  streams : k.streams = j.streams.map Stream.tick
  raised : k.raised = j.raised
  place : k.cluster = j.cluster ∧ k.slot = j.slot

theorem endCycle_passed (s : State) (c : CoreId) (held : Bool) (j : Job) : j.Passed (j.endCycle s c held) := by
  unfold Job.endCycle
  obtain ⟨k, hk, h⟩ := continuity_eq s c (if held then j else j.passClaims)
  rw [h]
  cases held
  · exact ⟨hk, rfl, rfl, rfl, rfl, rfl, rfl, rfl, rfl, rfl⟩
  · exact ⟨hk, rfl, rfl, rfl, rfl, rfl, rfl, rfl, rfl, rfl⟩

/-- In a cycle without a hold TAKE rises, unless a slate has just set it, and HOLDCYC stays (R38, R40). -/
theorem endCycle_unheld (s : State) (c : CoreId) (j : Job) :
    (j.endCycle s c false).take = (if j.zeroed then j.take else j.take + 1) ∧ (j.endCycle s c false).holdcyc = j.holdcyc := by
  unfold Job.endCycle
  obtain ⟨k, -, h⟩ := continuity_eq s c j.passClaims
  simp only [Bool.false_eq_true, if_false, h, Job.countTake, Job.nextCycle, Bool.or_false, Bool.false_and]
  exact ⟨rfl, rfl⟩

/-- In a held cycle TAKE stays and HOLDCYC rises, up to its greatest value and not past the stop (R38, R438). -/
theorem endCycle_held (s : State) (c : CoreId) (j : Job) :
    (j.endCycle s c true).take = j.take ∧
      (j.endCycle s c true).holdcyc = if j.holdcyc = 0xFFFFFFFF ∨ j.atStop = true then j.holdcyc else j.holdcyc + 1 := by
  unfold Job.endCycle
  obtain ⟨k, -, h⟩ := continuity_eq s c j
  have hstop : ({ j with c := k } : Job).atStop = j.atStop := rfl
  simp only [if_true, h, Job.countTake, Job.nextCycle, Bool.or_true, Bool.true_and, hstop, true_and]
  by_cases hs : j.atStop = true <;> by_cases hc : j.holdcyc = 0xFFFFFFFF <;> simp [hs, hc]

/-! ## One island -/

/-- One job alone on its island and in its gang, with no trap raised. -/
structure State.Alone (s : State) (c : CoreId) (j : Job) : Prop where
  job : s.job c = some j
  others : ∀ d, coreIsl d = coreIsl c → d ≠ c → s.job d = none
  members : s.members c j = [c]
  raised : j.raised = []

/-- A fold whose every round leaves the state as it was. -/
theorem foldl_eq_self {α β : Type} {f : β → α → β} {b : β} {l : List α} (h : ∀ a ∈ l, f b a = b) : l.foldl f b = b := by
  induction l with
  | nil => rfl
  | cons a l ih =>
    rw [List.foldl_cons, h a (by simp)]
    exact ih fun x hx => h x (by simp [hx])

theorem mem_islCores {i : IslId} {d : CoreId} : d ∈ islCores i ↔ coreIsl d = i := by simp [islCores]

theorem nodup_islCores (i : IslId) : (islCores i).Nodup := (List.nodup_finRange 128).filter _

section
variable {s : State} {c : CoreId} {j : Job} (h : s.Alone c j)
include h

/-- A step of the island's cycle that leaves a core without a job alone, and this one, leaves all. -/
theorem State.Alone.foldl_eq {f : State → CoreId → State} (hnone : ∀ d, s.job d = none → f s d = s) (hc : f s c = s) :
    (islCores (coreIsl c)).foldl f s = s := by
  refine foldl_eq_self fun d hd => ?_
  by_cases hdc : d = c
  · rw [hdc, hc]
  · exact hnone d (h.others d (mem_islCores.1 hd) hdc)

theorem State.Alone.resolveTraps_eq : (islCores (coreIsl c)).foldl State.resolveTraps s = s :=
  h.foldl_eq (fun d hd => by simp [State.resolveTraps, hd])
    (by simp [State.resolveTraps, h.job, h.members, h.raised, firstRaised])

theorem State.Alone.deadlock_eq (hd : j.deadlocked = false) : (islCores (coreIsl c)).foldl State.deadlock s = s :=
  h.foldl_eq (fun d hd => by simp [State.deadlock, hd])
    (by simp [State.deadlock, State.gangDeadlock, h.job, h.members, h.raised, hd])

end

theorem members_congr {s t : State} {c : CoreId} {j k : Job}
    (hcard : (t.card k.cluster k.slot).map Card.cores = (s.card j.cluster j.slot).map Card.cores) :
    t.members c k = s.members c j := by
  unfold State.members
  cases ht : t.card k.cluster k.slot <;> cases hs : s.card j.cluster j.slot <;> rw [ht, hs] at hcard <;> simp_all

/-! ## Cards -/

theorem SMap.find_insert_self {α : Type} (m : SMap α) (k : Nat) (x : α) : SMap.find (SMap.insert m k x) k = some x := by
  induction m with
  | nil => simp [SMap.insert, SMap.find]
  | cons e m ih =>
    obtain ⟨i, y⟩ := e
    by_cases hki : k = i
    · simp [SMap.insert, SMap.find, hki]
    · by_cases hlt : k < i
      · simp [SMap.insert, SMap.find, hki, hlt]
      · simp [SMap.insert, SMap.find, hki, hlt, ih]

theorem cluster_setCluster (s : State) (k : CluId) (x : Cluster) : (s.setCluster k x).cluster k = x := by
  simp [State.cluster, State.setCluster]

theorem card_setCard (s : State) (k : CluId) (n : SlotId) (x : Card) : (s.setCard k n x).card k n = some x := by
  simp [State.card, State.setCard, cluster_setCluster, SMap.find_insert_self]

theorem card_drawReserve (s : State) (i : IslId) (n : Nat) (k : CluId) (m : SlotId) :
    (s.drawReserve i n).card k m = s.card k m := rfl

/-- The levels that a task has met are no part of the card's place. -/
theorem noteLevel_cores (s : State) (c : CoreId) (j : Job) :
    ((s.noteLevel c j).card j.cluster j.slot).map Card.cores = (s.card j.cluster j.slot).map Card.cores := by
  unfold State.noteLevel
  cases h : s.card j.cluster j.slot with
  | none => exact congrArg (Option.map Card.cores) h
  | some x => simp only [card_setCard]; rfl

/-- Energy spent on a card is no part of its place. -/
theorem spend_cores {s : State} {c : CoreId} {j : Job} (hj : s.job c = some j) (n : Nat) :
    ((s.spend c n).card j.cluster j.slot).map Card.cores = (s.card j.cluster j.slot).map Card.cores := by
  unfold State.spend
  simp only [hj]
  cases h : s.card j.cluster j.slot with
  | none => exact congrArg (Option.map Card.cores) h
  | some x =>
    dsimp only
    split
    · simp only [card_drawReserve, card_setCard]; rfl
    · simp only [card_setCard]; rfl

theorem chargeCycle_cores {s : State} {c : CoreId} {j : Job} (hj : s.job c = some j) :
    ((s.chargeCycle c j).card j.cluster j.slot).map Card.cores = (s.card j.cluster j.slot).map Card.cores :=
  (spend_cores ((State.Quiet.job (State.Quiet.refl s).noteLevel c).trans hj) _).trans (noteLevel_cores s c j)

/-! ## The cores of one island in turn -/

theorem core_setCore (s : State) (c : CoreId) (x : Core) : (s.setCore c x).core c = x := by
  simp [State.core, State.setCore]

theorem core_setCore_ne (s : State) {c d : CoreId} (h : d ≠ c) (x : Core) : (s.setCore c x).core d = s.core d :=
  Vector.getElem_set_ne c.isLt d.isLt fun e => h (Fin.ext e.symm)

section
variable {s : State} {c : CoreId} {j : Job} (h : s.Alone c j)
include h

theorem State.Alone.coreCycle_idle {d : CoreId} (hd : coreIsl d = coreIsl c) (hdc : d ≠ c) (held : Bool) :
    (s.coreCycle d held).Alone c j ∧ ∀ i, ((s.coreCycle d held).island i).cycles = (s.island i).cycles := by
  simp only [State.coreCycle, h.others d hd hdc]
  refine ⟨⟨?_, fun e he hec => ?_, h.members, h.raised⟩, fun _ => rfl⟩
  · rw [State.job, core_setCore_ne s hdc.symm]
    exact h.job
  · by_cases hed : e = d
    · rw [State.job, hed, core_setCore]
      exact h.others d hd hdc
    · rw [State.job, core_setCore_ne s hed]
      exact h.others e he hec

/-- The end of the cycle for the core with the job. -/
theorem State.Alone.coreCycle_eq (hcalm : j.Calm) (held : Bool) :
    s.coreCycle c held = (s.setCore c { s.core c with olds := [], job := some (j.endCycle s c held) }).chargeCycle c
      (j.endCycle s c held) := by
  have hpass : j.passClaims.landAll = j.landAll.passClaims := rfl
  cases held <;>
    simp [State.coreCycle, h.job, hcalm.fly_eq, setJob_self h.job, hcalm.storeRows_eq h.job, hcalm.tickM_eq h.job,
      hcalm.landAll_eq, Job.endCycle]

theorem State.Alone.coreCycle_job (hcalm : j.Calm) (held : Bool) :
    (s.coreCycle c held).Alone c (j.endCycle s c held) ∧
      ∀ i, ((s.coreCycle c held).island i).cycles = (s.island i).cycles := by
  have hk := endCycle_passed s c held j
  rw [h.coreCycle_eq hcalm]
  generalize j.endCycle s c held = k at hk
  have hu : (s.setCore c { s.core c with olds := [], job := some k }).job c = some k := by rw [State.job, core_setCore]
  have hq := (State.Quiet.refl (s.setCore c { s.core c with olds := [], job := some k })).chargeCycle (c := c) (j := k)
  refine ⟨⟨(hq.job c).trans hu, fun d hd hdc => ?_, ?_, hk.raised.trans h.raised⟩, hq.cycles⟩
  · rw [hq.job d, State.job, core_setCore_ne s hdc]
    exact h.others d hd hdc
  · rw [← h.members]
    refine members_congr ((chargeCycle_cores hu).trans ?_)
    rw [hk.place.1, hk.place.2]
    rfl

/-- Cores without a job pass the end of the cycle in turn. -/
theorem State.Alone.foldl_idle {l : List CoreId} (hl : ∀ d ∈ l, coreIsl d = coreIsl c ∧ d ≠ c) (g : CoreId → Bool) :
    (l.foldl (fun st d => st.coreCycle d (g d)) s).Alone c j ∧
      ∀ i, ((l.foldl (fun st d => st.coreCycle d (g d)) s).island i).cycles = (s.island i).cycles := by
  induction l generalizing s with
  | nil => exact ⟨h, fun _ => rfl⟩
  | cons d l ih =>
    obtain ⟨hd, hdc⟩ := hl d (by simp)
    obtain ⟨halone, hcyc⟩ := h.coreCycle_idle hd hdc (g d)
    obtain ⟨halone2, hcyc2⟩ := ih halone fun e he => hl e (by simp [he])
    exact ⟨halone2, fun i => (hcyc2 i).trans (hcyc i)⟩

/-- All cores of the island pass the end of the cycle: the job's ends its own, in the state that it meets. -/
theorem State.Alone.foldl_coreCycle (hcalm : j.Calm) (g : CoreId → Bool) :
    ∃ u, ((islCores (coreIsl c)).foldl (fun st d => st.coreCycle d (g d)) s).Alone c (j.endCycle u c (g c)) ∧
      ∀ i, (((islCores (coreIsl c)).foldl (fun st d => st.coreCycle d (g d)) s).island i).cycles = (s.island i).cycles := by
  obtain ⟨l1, l2, hl⟩ := List.append_of_mem (mem_islCores.2 rfl : c ∈ islCores (coreIsl c))
  have hisl : ∀ d ∈ l1 ++ c :: l2, coreIsl d = coreIsl c := fun d hd => mem_islCores.1 (hl ▸ hd)
  obtain ⟨-, hnodup, hdisj⟩ := List.nodup_append.1 (hl ▸ nodup_islCores (coreIsl c))
  rw [hl, List.foldl_append, List.foldl_cons]
  obtain ⟨h1, hcyc1⟩ := h.foldl_idle
    (fun d hd => ⟨hisl d (by simp [hd]), hdisj d hd c (by simp)⟩) g
  obtain ⟨h2, hcyc2⟩ := h1.coreCycle_job hcalm (g c)
  obtain ⟨h3, hcyc3⟩ := h2.foldl_idle
    (fun d hd => ⟨hisl d (by simp [hd]), fun e => (List.nodup_cons.1 hnodup).1 (e ▸ hd)⟩) g
  exact ⟨_, h3, fun i => ((hcyc3 i).trans (hcyc2 i)).trans (hcyc1 i)⟩

end

/-- The core's job has been held in this cycle. -/
def State.heldIn (s : State) (d : CoreId) : Bool :=
  match s.job d with
  | some x => s.heldEnd d x
  | none => false

/-- What is left of an island's cycle once the cores have passed it: cards that have ended, records, and the
island's own count. -/
def State.closeCycle (s : State) (i : IslId) : State :=
  let t := ((islCores i).foldl State.stampCard s).ownOn
  (t.setIsland i (t.island i).tick).twinGuard i

theorem execIslandCycle_eq {i : IslId} {s : State}
    (h : (islCores i).foldl State.resolveTraps ((islCores i).foldl State.deadlock s) = s) :
    execIslandCycle i s = .next (State.closeCycle ((islCores i).foldl State.resolveTraps
      ((islCores i).foldl (fun st d => st.coreCycle d (s.heldIn d)) s)) i) := by
  simp only [execIslandCycle, h, List.foldl_map]
  rfl

/-- The jobs pass the close of a cycle as they are, and the island has passed one cycle more. -/
theorem closeCycle_spec (s : State) (i : IslId) :
    (∀ c, (s.closeCycle i).job c = s.job c) ∧ ((s.closeCycle i).island i).cycles = (s.island i).cycles + 1 := by
  have hq : s.Quiet ((islCores i).foldl State.stampCard s).ownOn :=
    State.Quiet.ownOn ((State.Quiet.refl s).foldl fun _ _ ht => ht.stampCard)
  unfold State.closeCycle
  generalize ((islCores i).foldl State.stampCard s).ownOn = t at hq
  have hguard := (State.Quiet.refl (t.setIsland i (t.island i).tick)).twinGuard (i := i)
  refine ⟨fun c => (hguard.job c).trans (hq.job c), (hguard.cycles i).trans ?_⟩
  rw [← hq.cycles i]
  simp [State.island, State.setIsland, Island.tick]

/-- The cycle of an island: the job ends its own, held where it has been held, and the island counts it. -/
theorem State.Alone.islandCycle {s : State} {c : CoreId} {j : Job} (h : s.Alone c j) (hcalm : j.Calm)
    (hdead : j.deadlocked = false) :
    ∃ t u, execIslandCycle (coreIsl c) s = .next t ∧ t.job c = some (j.endCycle u c (s.heldEnd c j)) ∧
      (t.island (coreIsl c)).cycles = (s.island (coreIsl c)).cycles + 1 := by
  obtain ⟨u, hu, hcyc⟩ := h.foldl_coreCycle hcalm s.heldIn
  have hheld : s.heldIn c = s.heldEnd c j := by simp only [State.heldIn, h.job]
  have hexec := execIslandCycle_eq (by rw [h.deadlock_eq hdead, h.resolveTraps_eq])
  rw [hu.resolveTraps_eq] at hexec
  obtain ⟨hjob, hone⟩ := closeCycle_spec ((islCores (coreIsl c)).foldl (fun st d => st.coreCycle d (s.heldIn d)) s) (coreIsl c)
  exact ⟨_, u, hexec, (hjob c).trans (hheld ▸ hu.job), hone.trans (congrArg (· + 1) (hcyc _))⟩

theorem stream_tick {j k : Job} (h : k.streams = j.streams.map Stream.tick) (q : Fin 16) :
    k.stream q = (j.stream q).tick := by
  simp [Job.stream, h]

end Sys2Proof.Machine
end

section

open Sys2Proof Sys2Proof.Machine

/-- Settles O33: no trap is raised and no other core of the island has a job, so that the job ends its own cycle, and the close
of the island's cycle leaves jobs alone. -/
theorem endOfCycle : Obligations.EndOfCycle := by
  rintro s _ c j rfl hj hothers hmembers hraised hvp hvf hvs hmp hmf hmg hdead
  have hcalm : j.Calm := ⟨hvp, hvf, hvs, hmp, hmf, hmg⟩
  obtain ⟨t, u, hexec, hjob, hcyc⟩ := State.Alone.islandCycle ⟨hj, hothers, hmembers, hraised⟩ hcalm hdead
  have hp := endCycle_passed u c (s.heldEnd c j) j
  refine ⟨t, _, hexec, hjob, hcyc, hp.arch, hp.scalarA, hp.scalarV, hp.vector, hp.scalarM, hp.acc, fun q => ?_,
    fun hh => ?_, fun hh => ?_⟩
  · rw [stream_tick hp.streams q]
    exact ⟨rfl, rfl⟩
  · rw [hh]
    exact endCycle_unheld u c j
  · rw [hh]
    exact endCycle_held u c j
end

section
/-! SUPPORT. A dispatch round without a steal (R315-R317), and what a launch reads and starts (R32, R35, R354). -/

namespace Sys2Proof.Machine

/-! ## The round -/

/-- The cluster's idle time runs since `since`, or not at all (R317). -/
def State.idleFrom (s : State) (k : CluId) (since : Option Nat) : State :=
  s.setCluster k { s.cluster k with idleSince := since }

/-- The cards that the dispatcher itself launches in a round (R315, R357). -/
def State.roundLaunches (s : State) (k : CluId) : State := if s.flagBar (cluIsl k) then s else s.ownRound k

/-- A round from the state in which the dispatcher's cards have been considered. -/
def State.roundFrom (s : State) (k : CluId) : State :=
  let t := s.roundLaunches k
  let since := (if s.idleCluster k then (s.cluster k).idleSince else none).getD t.time
  let u := if t.idleCluster k && !s.flagBar (cluIsl k) && decide (since + 2000 ≤ t.time) then t.stealOne k else t
  ((s.roundOrder k).foldl (fun st n => st.gainRound k n) u).idleFrom k (if t.idleCluster k then some since else none)

theorem execDispatchRound_eq {s : State} {k : CluId} (h : (s.cluPart k).isSome = true) :
    execDispatchRound k s = .next ((((s.comeHome k).markReady k).roundOrder k).foldl (fun st m => st.considered k m)
      ((s.comeHome k).markReady k) |>.roundFrom k) := by
  have hsome : (s.cluPart k).isNone = false := by simpa using h
  simp only [execDispatchRound, hsome, Bool.false_eq_true, if_false]
  rfl

section
variable {s : State} {k : CluId}

/-- Without a promoted card the dispatcher walks its ready cards in order. -/
theorem ownRound_of_unpromoted (h : s.promotedOrder k = []) :
    s.ownRound k = (s.roundOrder k).foldl (fun st n => st.walkCard k n) s := by
  simp [State.ownRound, h, State.tryPromoted]

/-- A round after which the cluster is not idle steals nothing, and no idle time runs. -/
theorem roundFrom_of_busy (h : (s.roundLaunches k).idleCluster k = false) :
    s.roundFrom k = ((s.roundOrder k).foldl (fun st n => st.gainRound k n) (s.roundLaunches k)).idleFrom k none := by
  simp [State.roundFrom, h]

theorem roundOrder_of_readyCards (h : s.readyCards k = []) : s.roundOrder k = [] := by
  simp [State.roundOrder, h, sortBy]

/-- A dispatcher without a ready card launches nothing. -/
theorem roundLaunches_of_noCards (hp : s.promotedOrder k = []) (hr : s.readyCards k = []) : s.roundLaunches k = s := by
  simp [State.roundLaunches, ownRound_of_unpromoted hp, roundOrder_of_readyCards hr]

theorem idleCluster_of_noCards (hp : s.promotedOrder k = []) (hr : s.readyCards k = [])
    (hf : ∃ c ∈ cluCores k, s.coreFree c = true) : s.idleCluster k = true := by
  simpa [State.idleCluster, hp, hr] using hf

/-- A cluster without a free core is not idle. -/
theorem idleCluster_of_full (hf : ∀ c ∈ cluCores k, s.coreFree c = false) : s.idleCluster k = false := by
  have hany : (cluCores k).any s.coreFree = false := by simpa using hf
  simp [State.idleCluster, hany]

/-- A walk ends where no core is free. -/
theorem walkCard_of_full {n : SlotId} (hf : ∀ c ∈ cluCores k, s.coreFree c = false) : s.walkCard k n = s := by
  have hany : (cluCores k).any s.coreFree = false := by simpa using hf
  simp [State.walkCard, hany]

theorem walkCard_of_free {n : SlotId} (hf : ∃ c ∈ cluCores k, s.coreFree c = true) :
    s.walkCard k n = (s.tryCard k n).noteLaunch s k n := by
  have hany : (cluCores k).any s.coreFree = true := by simpa using hf
  simp [State.walkCard, hany]

/-- With no ready card and a free core the idle time runs on, and no steal comes before it has lasted 2 us. -/
theorem roundFrom_of_noCards (hp : s.promotedOrder k = []) (hr : s.readyCards k = [])
    (hf : ∃ c ∈ cluCores k, s.coreFree c = true)
    (ht : ∀ since, (s.cluster k).idleSince = some since → s.time < since + 2000) :
    s.roundFrom k = s.idleFrom k (some ((s.cluster k).idleSince.getD s.time)) := by
  have hearly : ¬ (s.cluster k).idleSince.getD s.time + 2000 ≤ s.time := by
    cases h : (s.cluster k).idleSince with
    | none => simp
    | some since => simpa using ht since h
  simp [State.roundFrom, roundLaunches_of_noCards hp hr, idleCluster_of_noCards hp hr hf, roundOrder_of_readyCards hr, hearly]

/-- With one ready card and a free core the card is tried (R315). -/
theorem roundFrom_of_tried {n : SlotId} (hp : s.promotedOrder k = []) (ho : s.roundOrder k = [n])
    (hb : s.flagBar (cluIsl k) = false) (hf : ∃ c ∈ cluCores k, s.coreFree c = true)
    (hi : ((s.tryCard k n).noteLaunch s k n).idleCluster k = false) :
    s.roundFrom k = (((s.tryCard k n).noteLaunch s k n).gainRound k n).idleFrom k none := by
  have hl : s.roundLaunches k = (s.tryCard k n).noteLaunch s k n := by
    simp [State.roundLaunches, hb, ownRound_of_unpromoted hp, ho, walkCard_of_free hf]
  rw [roundFrom_of_busy (hl ▸ hi), hl, ho, List.foldl_cons, List.foldl_nil]

/-- Where no core is free the card stays. -/
theorem roundFrom_of_full {n : SlotId} (hp : s.promotedOrder k = []) (ho : s.roundOrder k = [n])
    (hf : ∀ c ∈ cluCores k, s.coreFree c = false) : s.roundFrom k = (s.gainRound k n).idleFrom k none := by
  have hl : s.roundLaunches k = s := by
    simp [State.roundLaunches, ownRound_of_unpromoted hp, ho, walkCard_of_full hf]
  rw [roundFrom_of_busy (hl.symm ▸ idleCluster_of_full hf), hl, ho, List.foldl_cons, List.foldl_nil]

/-- In the last 10 us before a flagged island's boundary nothing launches (R357). -/
theorem roundFrom_of_barred {n : SlotId} (ho : s.roundOrder k = [n]) (hb : s.flagBar (cluIsl k) = true)
    (hi : s.idleCluster k = false) : s.roundFrom k = (s.gainRound k n).idleFrom k none := by
  have hl : s.roundLaunches k = s := by simp [State.roundLaunches, hb]
  rw [roundFrom_of_busy (hl.symm ▸ hi), hl, ho, List.foldl_cons, List.foldl_nil]

/-- A card that stays gains a waiting round and is promoted by the eighth (R316). -/
theorem gainRound_card {n : SlotId} {x : Card} (hx : s.card k n = some x) (hu : s.unlaunched k n = true) :
    (s.gainRound k n).card k n =
      some { x with rounds := x.rounds + 1, promoted := x.promoted || decide (8 ≤ x.rounds + 1) } := by
  simp only [State.gainRound, hx, hu, if_true]
  exact card_setCard s k n _

end

section
variable {s t : State} {k : CluId} {n : SlotId} {x y : Card} (hx : s.card k n = some x) (hready : s.cardReady x = true)
  (hover : s.recordOver x = true) (hpage : x.page = none) (hc : s.consider k n x = .ok t y)
include hx hready hover hpage hc

/-- A ready card whose records are considered launches where it fits (R359). -/
theorem tryCard_of_go {cores v charge} (hf : (t.setCard k n y).fit k y = .go cores v charge) :
    s.tryCard k n = (t.setCard k n y).launch k n y cores v charge := by
  simp [State.tryCard, hx, hready, hover, hpage, hc, hf]

/-- It stays where it lacks budget or cores. -/
theorem tryCard_of_stay (hf : (t.setCard k n y).fit k y = .budget ∨ (t.setCard k n y).fit k y = .cores) :
    s.tryCard k n = t.setCard k n y := by
  rcases hf with hf | hf <;> simp [State.tryCard, hx, hready, hover, hpage, hc, hf]

/-- One that finds no capacity faults where it allows no wait for it. -/
theorem tryCard_of_capShort (hf : (t.setCard k n y).fit k y = .capacity) (hp : y.phase ≠ .stopped) (hw : y.capWait = 0) :
    s.tryCard k n = (t.setCard k n y).dropCard k n 0xFF01 0x1A := by
  simp [State.tryCard, hx, hready, hover, hpage, hc, hf, hp, hw]

/-- Otherwise its capacity wait starts, or goes on. -/
theorem tryCard_of_capWait (hf : (t.setCard k n y).fit k y = .capacity) (hp : y.phase ≠ .stopped) (hw : y.capWait ≠ 0) :
    s.tryCard k n = (t.setCard k n y).setCard k n { y with capSince := some (y.capSince.getD s.time) } := by
  simp [State.tryCard, hx, hready, hover, hpage, hc, hf, hp, hw]

end

/-! ## The launch -/

/-- `t` differs from `s` in what a read of the device's own draws: the lines' ages and the host allowance. -/
def State.DrawOnly (s t : State) : Prop := ∃ l u a, t = { s with lines := l, lastUse := u, hostAllow := a }

theorem State.DrawOnly.trans {s t u : State} (h : s.DrawOnly t) (g : t.DrawOnly u) : s.DrawOnly u := by
  obtain ⟨_, _, _, rfl⟩ := h
  obtain ⟨_, _, _, rfl⟩ := g
  exact ⟨_, _, _, rfl⟩

theorem State.DrawOnly.refl (s : State) : s.DrawOnly s := ⟨_, _, _, rfl⟩

theorem State.DrawOnly.foldl {α : Type} {f : State → α → State} (hf : ∀ t x, State.DrawOnly t (f t x)) (l : List α) (s : State) :
    s.DrawOnly (l.foldl f s) := by
  induction l generalizing s with
  | nil => exact .refl s
  | cons x l ih => exact (hf s x).trans (ih _)

theorem touch_drawOnly (s : State) (pa : Nat) : s.DrawOnly (s.touch pa) := by
  unfold State.touch
  split
  · exact .refl s
  · exact ⟨_, _, _, rfl⟩

theorem walkUsed_drawOnly (s : State) (ctx : CtxId) (va : Nat) : s.DrawOnly (s.walkUsed ctx va) := by
  unfold State.walkUsed
  split
  · exact .refl s
  · split
    · exact .refl s
    · exact .foldl touch_drawOnly _ s

theorem devDrawn_drawOnly (s : State) (ctx : CtxId) (va n : Nat) : s.DrawOnly (s.devDrawn ctx va n) := by
  have hhost : s.DrawOnly { s with hostAllow := s.hostAllow - 8 * s.devDraws ctx va n } := ⟨_, _, _, rfl⟩
  exact (hhost.trans (.foldl (fun t (p : Nat) => walkUsed_drawOnly t ctx (p * 4096)) _ _)).trans
    (.foldl (fun t (p : Fin 3 × Nat) => touch_drawOnly t p.2) _ _)

/-- A sample reaches the monitors alone: islands, clusters and cores stay. -/
theorem sample_kept (s : State) (k : Fin 5) (i : Option IslId) (x : Int) :
    (s.sample k i x).islands = s.islands ∧ (s.sample k i x).clusters = s.clusters ∧ (s.sample k i x).cores = s.cores := by
  unfold State.sample
  dsimp only
  repeat' split
  all_goals exact ⟨rfl, rfl, rfl⟩

theorem sampleReady_kept (s : State) (i : IslId) (x : Card) : (s.sampleReady i x).islands = s.islands ∧
    (s.sampleReady i x).clusters = s.clusters ∧ (s.sampleReady i x).cores = s.cores := by
  unfold State.sampleReady
  split
  · exact sample_kept _ _ _ _
  · exact ⟨rfl, rfl, rfl⟩

theorem sampleReady_island (s : State) (i m : IslId) (x : Card) : (s.sampleReady i x).island m = s.island m := by
  simp only [State.island, (sampleReady_kept s i x).1]

theorem sampleReady_card (s : State) (i : IslId) (x : Card) (k : CluId) (n : SlotId) :
    (s.sampleReady i x).card k n = s.card k n := by
  simp only [State.card, State.cluster, (sampleReady_kept s i x).2.1]

theorem sampleReady_job (s : State) (i : IslId) (x : Card) (c : CoreId) : (s.sampleReady i x).job c = s.job c := by
  simp only [State.job, State.core, (sampleReady_kept s i x).2.2]

theorem clearWait_islands (s : State) (x : Card) : (s.clearWait x).islands = s.islands := by
  unfold State.clearWait
  split
  · split
    · rfl
    · rfl
  · rfl

/-- The variant that a launch selects, as its jobs hold it (R359). -/
def Card.selected (x : Card) (v : Fin 8 × Variant) : VarSel :=
  { phase := 0, tier := BitVec.ofNat 4 v.2.tier.val, ecl := v.2.ecl, approx := v.2.approx, dg := false,
    valid := decide (x.varn ≠ 0), slot := v.1 }

/-- The job that a launch starts on a card's only core (R32, R35, R36). -/
def Card.soleJob (x : Card) (p : PartId) (q : Part) (k : CluId) (n : SlotId) (desc seq : Nat) (c : CoreId)
    (v : Fin 8 × Variant) : Job :=
  { descJob x p desc with
    jobid := BitVec.ofNat 32 seq, domain := domainOf x [c] 0, cluster := k, slot := n,
    member := 0, var := x.selected v,
    slots := x.vars.getD (Vector.replicate 8 none), bankprof := v.2.prof, prof := q.prof, stageMax := q.stageMax,
    resLim := q.resLim }

/-- The state in which a launch starts its jobs: the launch counts are taken, the charge is drawn, and the card runs. -/
def State.launching (s : State) (k : CluId) (n : SlotId) (x : Card) (p : PartId) (desc : Nat) (cores : List CoreId)
    (v : Fin 8 × Variant) (charge : Nat) : State :=
  (((s.setPart p { s.part p with launches := (s.part p).launches + (s.nextSeq p).2 }).chargeLaunch (cluIsl k) x
    charge).clearWait x).setCard k n { (x.keepArgs desc).started cores charge (s.nextSeq p).1 s.time
      (s.island (cluIsl k)).level (x.selected v) with save := recFld desc 48 8 }

section
variable {s : State} {k : CluId} {n : SlotId} {x : Card} {p : PartId} {desc : Nat} {cores : List CoreId}
  {v : Fin 8 × Variant} {charge : Nat}

theorem launching_islands : (s.launching k n x p desc cores v charge).islands =
    (s.addBal (cluIsl k) (-((charge + x.metered : Nat) : Int))).islands := clearWait_islands _ _

theorem launching_bal : ((s.launching k n x p desc cores v charge).island (cluIsl k)).bal =
    (s.island (cluIsl k)).bal - ((charge + x.metered : Nat) : Int) := by
  simp [State.island, launching_islands, State.addBal, State.setIsland, Int.sub_eq_add_neg]

theorem launching_flagged (i : IslId) :
    ((s.launching k n x p desc cores v charge).island i).flagged = (s.island i).flagged := by
  simp only [State.island, launching_islands, State.addBal, State.setIsland, Vector.getElem_set]
  split
  · next h =>
    obtain rfl : cluIsl k = i := Fin.ext h
    rfl
  · rfl

theorem launching_card : (s.launching k n x p desc cores v charge).card k n =
    some { (x.keepArgs desc).started cores charge (s.nextSeq p).1 s.time (s.island (cluIsl k)).level (x.selected v) with
      save := recFld desc 48 8 } := card_setCard _ k n _

/-- A launch on one core of an island without a flag, for a card that is not fused. -/
theorem startCard_sole {c : CoreId} (hfuse : x.fuse = false) (hflag : (s.island (coreIsl c)).flagged = false) :
    s.startCard k n x p desc [c] v charge = ((s.launching k n x p desc [c] v charge).setJob c
      (x.soleJob p (s.part p) k n desc (s.nextSeq p).1 c v)).sampleReady (cluIsl k) x := by
  have hjob : ∀ j, (s.launching k n x p desc [c] v charge).flagNew c j = j := fun j => by
    simp [State.flagNew, launching_flagged, hflag]
  rw [← hjob (x.soleJob p (s.part p) k n desc (s.nextSeq p).1 c v)]
  simp only [State.startCard, List.zipIdx_cons, List.zipIdx_nil, List.foldl_cons, List.foldl_nil, hfuse, Bool.false_eq_true,
    if_false, Nat.zero_mul, Nat.zero_add]
  rfl

/-- What such a launch leaves: the charge on the island, the running card, and the job on its core. -/
theorem startCard_spec {c : CoreId} (hfuse : x.fuse = false) (hflag : (s.island (coreIsl c)).flagged = false) :
    ((s.startCard k n x p desc [c] v charge).island (cluIsl k)).bal =
        (s.island (cluIsl k)).bal - ((charge + x.metered : Nat) : Int) ∧
      (∃ y, (s.startCard k n x p desc [c] v charge).card k n = some y ∧ y.phase = .running ∧ y.cores = [c] ∧
        y.charge = charge ∧ y.jobid = (s.nextSeq p).1) ∧
      (s.startCard k n x p desc [c] v charge).job c = some (x.soleJob p (s.part p) k n desc (s.nextSeq p).1 c v) := by
  rw [startCard_sole hfuse hflag, sampleReady_island, sampleReady_card, sampleReady_job]
  have hbal := launching_bal (s := s) (k := k) (n := n) (x := x) (p := p) (desc := desc) (cores := [c]) (v := v)
    (charge := charge)
  exact ⟨hbal, ⟨_, launching_card, rfl, rfl, rfl, rfl⟩, job_setJob _ c _⟩

theorem argRegs_read {w : Nat} (m : Fin 32) (h1 : 1 ≤ m.val) (h8 : m.val ≤ 8) :
    regRead (argRegs x desc : Vector (BitVec w) 32) m = (argWord x desc m.val).setWidth w := by
  have hm : m ≠ 0 := fun h => by simp [h] at h1
  simp [regRead, hm, argRegs, h1, h8]

/-- The argument words stand in registers 1 to 8 of C and A (R32). -/
theorem soleJob_reg {q : Part} {seq : Nat} {c : CoreId} {e : Eng} (m : Fin 32) (h8 : m.val ≤ 8) (h1 : 1 ≤ m.val)
    (he : e ∈ [Eng.c, .a]) : (x.soleJob p q k n desc seq c v).reg e m =
      if e = .a then argWord x desc m.val else ((argWord x desc m.val).setWidth 32).setWidth 64 := by
  rcases List.mem_pair.1 he with rfl | rfl
  · exact congrArg (BitVec.setWidth 64) (argRegs_read m h1 h8)
  · exact (argRegs_read m h1 h8).trans (BitVec.setWidth_eq _)

end

section
variable {s : State} {k : CluId} {n : SlotId} {x : Card} {p : PartId} {c : CoreId} {v : Fin 8 × Variant} {charge : Nat}
  {bs : List Byte} (hq : x.phase = .queued) (hp : s.cluPart k = some p) (ha : x.jobDesc % 64 = 0)
  (hr : x.jobDesc < 2 ^ 48) (hread : s.cardRead k n x x.jobDesc 5 = .data bs)
include hq hp ha hr hread

/-- What a launch does with the descriptor that it has read. -/
theorem launch_of_read : s.launch k n x [c] v charge =
    if !descOk bs then s.dropCard k n 0xFF05 0
    else if descHas (natOfBytes bs) .m && isTwin (s.island (coreIsl c)).level then s.leaveTwin (coreIsl c)
    else (s.devDrawn x.ctx x.jobDesc 5).startCard k n x p (natOfBytes bs) [c] v charge := by
  have haddr : ¬(x.jobDesc % 64 ≠ 0 ∨ 2 ^ 48 ≤ x.jobDesc) := by omega
  simp only [State.launch, hq, hp, haddr, hread, if_false, List.headD_cons]
  rfl

theorem launch_of_bad (hbad : descOk bs = false) : s.launch k n x [c] v charge = s.dropCard k n 0xFF05 0 := by
  rw [launch_of_read hq hp ha hr hread, hbad]
  rfl

theorem launch_of_twin (hok : descOk bs = true) (hm : descHas (natOfBytes bs) .m = true)
    (htwin : isTwin (s.island (coreIsl c)).level = true) : s.launch k n x [c] v charge = s.leaveTwin (coreIsl c) := by
  rw [launch_of_read hq hp ha hr hread, hok, hm, htwin]
  rfl

theorem launch_of_good (hok : descOk bs = true)
    (htwin : descHas (natOfBytes bs) .m = true → isTwin (s.island (coreIsl c)).level = false) :
    s.launch k n x [c] v charge = (s.devDrawn x.ctx x.jobDesc 5).startCard k n x p (natOfBytes bs) [c] v charge := by
  have hno : (descHas (natOfBytes bs) .m && isTwin (s.island (coreIsl c)).level) = false := by
    cases hm : descHas (natOfBytes bs) .m
    · rfl
    · exact htwin hm
  rw [launch_of_read hq hp ha hr hread, hok, hno]
  rfl

end

end Sys2Proof.Machine
end

section

open Sys2Proof Sys2Proof.Machine

/-- Settles O35: a round walks one card at most, and no steal follows in the cases named; a launch reads its descriptor and
starts the card's only job. -/
theorem dispatchAndLaunch : Obligations.DispatchAndLaunch := by
  refine ⟨fun s k n hpart => ?_, fun s k n x c v charge p bs hx hq hp ha hr hread => ⟨fun hbad => ?_, fun hok hm htwin => ?_,
    fun hok htwin hfuse hflag => ?_⟩⟩
  · intro s00 s0 idle tried hprom
    have hexec : exec (.dispatchRound k) s = .next (s0.roundFrom k) := execDispatchRound_eq hpart
    refine ⟨fun hr hf ht => hexec.trans (congrArg _ (roundFrom_of_noCards hprom hr hf ht)),
      fun ho hb hf hi => hexec.trans (congrArg _ (roundFrom_of_tried hprom ho hb hf hi)),
      fun ho hf => hexec.trans (congrArg _ (roundFrom_of_full hprom ho hf)),
      fun ho hb hi => hexec.trans (congrArg _ (roundFrom_of_barred ho hb hi)),
      fun t x hx hu => ⟨_, gainRound_card hx hu, rfl, rfl⟩, fun t x hx hready hover hpage t0 y hc => ⟨fun cores v charge =>
        tryCard_of_go hx hready hover hpage hc, tryCard_of_stay hx hready hover hpage hc,
        tryCard_of_capShort hx hready hover hpage hc, tryCard_of_capWait hx hready hover hpage hc⟩⟩
  · exact launch_of_bad hq hp ha hr hread hbad
  · exact launch_of_twin hq hp ha hr hread hok hm htwin
  · obtain ⟨l, u, a, hdrawn⟩ := devDrawn_drawOnly s x.ctx x.jobDesc 5
    rw [launch_of_good hq hp ha hr hread hok htwin, hdrawn]
    obtain ⟨hbal, hcard, hjob⟩ := startCard_spec (s := { s with lines := l, lastUse := u, hostAllow := a }) (k := k) (n := n)
      (x := x) (p := p) (desc := natOfBytes bs) (v := v) (charge := charge) (c := c) hfuse hflag
    exact ⟨hbal, hcard, _, hjob, rfl, rfl, rfl, rfl, rfl, rfl, rfl, rfl, rfl, rfl, rfl, rfl, rfl, fun e m h8 h1 he =>
      soleJob_reg m h8 h1 he⟩
end

section
/-! SUPPORT. The decoder on the encoder's words (R53-R66): when a row of the decoder answers an instruction, the bounds of the
codes in each format, and the words of the common subset and of each engine's own opcodes. -/

namespace Sys2Proof

/-! ## When a row answers an instruction

A row builds an instruction from fields of the word; it is the one that was encoded where each field holds its code. -/

theorem finAt_eq_iff {n lo w : Nat} {x : Fin (2 ^ w)} : finAt n lo w = x ↔ bitsAt n lo w = x.val := Fin.ext_iff

@[simp] theorem finAt_two_eq_iff {n lo : Nat} {x : Fin 4} : @Eq (Fin 4) (finAt n lo 2) x ↔ bitsAt n lo 2 = x.val :=
  finAt_eq_iff

@[simp] theorem finAt_three_eq_iff {n lo : Nat} {x : Fin 8} : @Eq (Fin 8) (finAt n lo 3) x ↔ bitsAt n lo 3 = x.val :=
  finAt_eq_iff

@[simp] theorem finAt_four_eq_iff {n lo : Nat} {x : Fin 16} : @Eq (Fin 16) (finAt n lo 4) x ↔ bitsAt n lo 4 = x.val :=
  finAt_eq_iff

@[simp] theorem finAt_six_eq_iff {n lo : Nat} {x : Fin 64} : @Eq (Fin 64) (finAt n lo 6) x ↔ bitsAt n lo 6 = x.val :=
  finAt_eq_iff

@[simp] theorem bvAt_eq_iff {n lo w : Nat} {x : BitVec w} : bvAt n lo w = x ↔ bitsAt n lo w = x.toNat := by
  refine ⟨?_, bvAt_of⟩
  rintro rfl
  exact (Nat.mod_eq_of_lt (Nat.mod_lt _ (Nat.two_pow_pos w))).symm

@[simp] theorem flagAt_eq_iff {n lo : Nat} {b : Bool} : flagAt n lo = b ↔ bitsAt n lo 1 = b.toNat := by
  refine ⟨?_, flagAt_of⟩
  have hlt : bitsAt n lo 1 < 2 := Nat.mod_lt _ (by decide)
  rintro rfl
  rw [flagAt]
  interval_cases bitsAt n lo 1 <;> rfl

theorem opndOf_eq_iff {k : Fin 64} {x : Opnd} : opndOf k = x ↔ k.val = x.code := by
  refine ⟨?_, fun h => ?_⟩
  · rintro rfl
    unfold opndOf
    split
    · rfl
    · split <;> simp only [Opnd.code] <;> omega
  · obtain rfl : k = ⟨x.code, x.code_lt⟩ := Fin.ext h
    exact opndOf_code _ _

@[simp] theorem opndAt_eq_iff {n lo : Nat} {x : Opnd} : opndAt n lo = x ↔ bitsAt n lo 6 = x.code := opndOf_eq_iff
@[simp] theorem opD_eq_iff {n : Nat} {x : Opnd} : opD n = x ↔ bitsAt n 16 6 = x.code := opndAt_eq_iff
@[simp] theorem opA_eq_iff {n : Nat} {x : Opnd} : opA n = x ↔ bitsAt n 10 6 = x.code := opndAt_eq_iff
@[simp] theorem opB_eq_iff {n : Nat} {x : Opnd} : opB n = x ↔ bitsAt n 4 6 = x.code := opndAt_eq_iff

@[simp] theorem tmAt_eq_iff {n : Nat} {t : Tm} : tmAt n = t ↔ bitsAt n 23 3 = t.idl.val ∧ bitsAt n 22 1 = t.w.toNat := by
  rw [tmAt, Tm.mk.injEq, finAt_eq_iff, flagAt_eq_iff]

section
variable {e : Eng} {i : Instr} (hw : i.wf e = true) {fixed : Bool}
include hw

/-- A row answers a well-formed instruction where its fixed bits hold and its fields are the instruction's. -/
theorem accept_eq_ok {j : Instr} : accept e fixed (some j) = .ok i ↔ fixed = true ∧ j = i := by
  refine ⟨fun h => ?_, fun ⟨hf, hj⟩ => hj ▸ accept_ok hf (hj ▸ hw)⟩
  by_cases hj : (fixed && j.wf e) = true
  · rw [accept, if_pos hj] at h
    exact ⟨(Bool.and_eq_true_iff.1 hj).1, Except.ok.inj h⟩
  · rw [accept, if_neg hj] at h
    cases h

/-- As `accept_eq_ok`, for a row with a field that must name a stream. -/
theorem acceptQ_eq_ok {n lo : Nat} {f : Fin 16 → Instr} :
    acceptQ e n lo fixed (some f) = .ok i ↔ fixed = true ∧ ∃ q, opndAt n lo = .q q ∧ f q = i := by
  rw [acceptQ]
  split
  · next q hq => simp [accept_eq_ok hw, hq]
  · next hq =>
    refine ⟨fun h => ?_, fun ⟨_, q, h, _⟩ => (hq q h).elim⟩
    cases fixed <;> cases h

end

/-! ## Codes within their fields -/

theorem BitVec.toNat_lt_of_le {w n : Nat} (k : BitVec w) (h : 2 ^ w ≤ n) : k.toNat < n := k.isLt.trans_le h

@[simp] theorem Opnd.code_q (q : Fin 16) : (Opnd.q q).code = 32 + q.val := rfl
@[simp] theorem Opnd.code_bound (x : Opnd) : x.code < 64 := x.code_lt
@[simp] theorem Opnd.q_bound (q : Fin 16) : 32 + q.val < 64 := by omega
@[simp] theorem Tm.enc_bound (t : Tm) : t.enc < 16 := t.enc_lt
@[simp] theorem ElemT.code_bound (x : ElemT) : x.code < 16 := x.code_le.trans_lt (by decide)
@[simp] theorem Cond.code_bound (x : Cond) : x.code < 16 := x.code_le.trans_lt (by decide)
@[simp] theorem PLogOp.code_bound (x : PLogOp) : x.code < 16 := x.code_le.trans_lt (by decide)
@[simp] theorem VCond.code_bound (x : VCond) : x.code < 64 := x.code_le.trans_lt (by decide)
@[simp] theorem RedOp.code_bound (x : RedOp) : x.code < 64 := x.code_le.trans_lt (by decide)
@[simp] theorem CvtRnd.code_bound (x : CvtRnd) : x.code < 4 := x.code_le.trans_lt (by decide)
@[simp] theorem FlagAns.code_bound (x : FlagAns) : x.code < 4 ∧ x.code < 1024 := by have := x.code_le; omega
@[simp] theorem Bool.toNat_bound (x : Bool) : x.toNat < 512 ∧ x.toNat < 1024 := by have := x.toNat_le; omega

/-- Bits [25:23] of a word hold the condition of PCMPI, the size or the operation of an access, and bit 22 is 0 (R60, R61). -/
@[simp] theorem Cond.double_bound (x : Cond) : x.code * 2 < 16 := by have := x.code_le; omega
@[simp] theorem Size.double_bound (x : Size) : x.code * 2 < 16 := by have := x.code_le; omega
@[simp] theorem AtomOp.double_bound (x : AtomOp) : x.code * 2 < 16 := by have := x.code_le; omega

/-- SLATE: the scope above the identifier (R58). -/
@[simp] theorem slate_fields (g : Bool) (k : BitVec 9) : g.toNat * 512 + k.toNat < 1024 ∧
    (g.toNat * 512 + k.toNat) / 512 = g.toNat := by
  have := g.toNat_le; omega

/-- RDV: the mask above the identifier (R58). -/
@[simp] theorem rdv_fields (m : BitVec 4) (k : BitVec 6) : m.toNat * 64 + k.toNat < 1024 ∧
    (m.toNat * 64 + k.toNat) / 64 = m.toNat := by omega

/-- LOOPR: the register in field B (R54). -/
@[simp] theorem loopr_bound (r : Opnd) : r.code * 16 < 1024 := by have := r.code_lt; omega

/-- SHRI: the selector 1 above the count (R58). -/
@[simp] theorem shri_fields (k : BitVec 6) : k.toNat + 256 < 1024 ∧ (k.toNat + 256) % 64 = k.toNat ∧
    (k.toNat + 256) / 64 = 4 ∧ (k.toNat + 256) / 256 = 1 := by omega

/-- SRAI: the selector 2 above the count (R58). -/
@[simp] theorem srai_fields (k : BitVec 6) : k.toNat + 512 < 1024 ∧ (k.toNat + 512) % 64 = k.toNat ∧
    (k.toNat + 512) / 64 = 8 ∧ (k.toNat + 512) / 256 = 2 := by omega

/-- An atomic: the scope, the order and W (R61, R62). -/
@[simp] theorem atomic_fields (s : Scope) (r : Order) (w : Bool) :
    s.code * 8 + r.code * 2 + w.toNat < 64 ∧ (s.code * 8 + r.code * 2 + w.toNat) / 8 = s.code ∧
    (s.code * 8 + r.code * 2 + w.toNat) / 2 % 4 = r.code ∧ (s.code * 8 + r.code * 2 + w.toNat) % 2 = w.toNat := by
  have := s.code_le; have := r.code_le; have := w.toNat_le; omega

/-- A fence: the scope above the kind (R61, R62). -/
@[simp] theorem fence_fields (s : Scope) {k : Nat} (hk : k < 8) :
    s.code * 8 + k < 64 ∧ (s.code * 8 + k) / 8 = s.code := by
  have := s.code_le; omega

/-- FENCE_ACQ has the kind 0. -/
@[simp] theorem fenceAcq_bound (s : Scope) : s.code * 8 < 64 := by have := s.code_le; omega

/-- PREF: bit 23 (R61). -/
@[simp] theorem pref_fields (h : Bool) : h.toNat * 2 < 16 ∧ h.toNat * 2 / 4 = 0 := by
  have := h.toNat_le; omega

/-- VCVT: the source type and the rounding (R64). -/
@[simp] theorem cvt_fields (x : ElemT) (r : CvtRnd) : x.code * 4 + r.code < 64 ∧ (x.code * 4 + r.code) / 4 = x.code := by
  have := x.code_le; have := r.code_le; omega

/-- TMMAS: the third walk above N (R65). -/
@[simp] theorem tmmas_fields (m : Fin 8) (n : Bool) : m.val * 64 + n.toNat < 512 ∧ (m.val * 64 + n.toNat) / 64 = m.val ∧
    (m.val * 64 + n.toNat) % 2 = n.toNat ∧ (m.val * 64 + n.toNat) / 2 % 32 = 0 := by
  have := n.toNat_le; omega

/-! ## Words -/

/-- Two numbers that agree in every field. A row is rewritten over a number of which this alone is known, so that no comparison
of terms unfolds the encoder's products. -/
def SameBits (n m : Nat) : Prop := ∀ lo w, bitsAt n lo w = bitsAt m lo w

/-- Engine `e` reads the instruction `i` from the word of `n`. -/
def DecodesTo (e : Eng) (n : Nat) (i : Instr) : Prop := decode e (BitVec.ofNat 32 n) = .ok i

section
variable {op t d a b f k l c : Nat}

@[simp] theorem encR_word (hf : f < 16) (hb : b < 64) (ha : a < 64) (hd : d < 64) (ht : t < 16) (hop : op < 64) :
    encR op t d a b f < 4294967296 ∧ bitsAt (encR op t d a b f) 26 6 = op :=
  ⟨encR_lt _ _ _ _ _ _ hf hb ha hd ht hop, encR_at_26_6 _ _ _ _ _ _ hf hb ha hd ht hop⟩

@[simp] theorem encI_word (hk : k < 1024) (ha : a < 64) (hd : d < 64) (ht : t < 16) (hop : op < 64) :
    encI op t d a k < 4294967296 ∧ bitsAt (encI op t d a k) 26 6 = op :=
  ⟨encI_lt _ _ _ _ _ hk ha hd ht hop, encI_at_26_6 _ _ _ _ _ hk ha hd ht hop⟩

@[simp] theorem encL_word (hk : k < 65536) (hd : d < 64) (ht : t < 16) (hop : op < 64) :
    encL op t d k < 4294967296 ∧ bitsAt (encL op t d k) 26 6 = op :=
  ⟨encL_lt _ _ _ _ hk hd ht hop, encL_at_26_6 _ _ _ _ hk hd ht hop⟩

@[simp] theorem encJ_word (hk : k < 8388608) (hop : op < 64) : encJ op k < 4294967296 ∧ bitsAt (encJ op k) 26 6 = op :=
  ⟨encJ_lt _ _ hk hop, encJ_at_26_6 _ _ hk hop⟩

@[simp] theorem encT_word {wa wb mod : Nat} (hf : f < 16) (hmod : mod < 512) (hwb : wb < 8) (hwa : wa < 8) (hc : c < 8)
    (ht : t < 16) (hop : op < 64) : encT op t c wa wb mod f < 4294967296 ∧ bitsAt (encT op t c wa wb mod f) 26 6 = op :=
  ⟨encT_lt _ _ _ _ _ _ _ hf hmod hwb hwa hc ht hop, encT_at_26_6 _ _ _ _ _ _ _ hf hmod hwb hwa hc ht hop⟩

@[simp] theorem encLoop_word (hc : c < 1024) (hb : b < 1024) (hl : l < 4) (ht : t < 16) (hop : op < 64) :
    encLoop op t l b c < 4294967296 ∧ bitsAt (encLoop op t l b c) 26 6 = op :=
  ⟨encLoop_lt _ _ _ _ _ hc hb hl ht hop, encLoop_at_26_6 _ _ _ _ _ hc hb hl ht hop⟩

end

/-! A number of the encoder is a word, and the tactic defaults read its opcode, so that a use of these lemmas is left with the
row. -/

section
variable {N : Nat} {i : Instr} (hlt : N < 4294967296 := by simp [Fin.val_lt_of_le, BitVec.toNat_lt_of_le])
  (hop : ¬ bitsAt N 26 6 < 32 := by simp [Fin.val_lt_of_le, BitVec.toNat_lt_of_le])
include hlt hop

theorem decodesTo_c (h : ∀ n, SameBits n N → decodeC .c n (bitsAt n 26 6) = .ok i) : DecodesTo .c N i :=
  (decode_c hlt hop).trans (h N fun _ _ => rfl)

theorem decodesTo_a (h : ∀ n, SameBits n N → decodeA .a n (bitsAt n 26 6) = .ok i) : DecodesTo .a N i :=
  (decode_a hlt hop).trans (h N fun _ _ => rfl)

theorem decodesTo_v (h : ∀ n, SameBits n N → decodeV .v n (bitsAt n 26 6) = .ok i) : DecodesTo .v N i :=
  (decode_v hlt hop).trans (h N fun _ _ => rfl)

theorem decodesTo_m (h : ∀ n, SameBits n N → decodeM .m n (bitsAt n 26 6) = .ok i) : DecodesTo .m N i :=
  (decode_m hlt hop).trans (h N fun _ _ => rfl)

end

/-- The elastic instructions are read in C and A only, and AT in V and M only (R58). -/
theorem decodesTo_common {e : Eng} {N : Nat} {i : Instr}
    (h : ∀ n, SameBits n N → decodeWord e n (bitsAt n 26 6) = .ok i)
    (hlt : N < 4294967296 := by simp [Fin.val_lt_of_le, BitVec.toNat_lt_of_le])
    (hop : bitsAt N 26 6 < 32 := by simp [Fin.val_lt_of_le, BitVec.toNat_lt_of_le])
    (hat : bitsAt N 26 6 = 2 → e.elastic = false := by simp [Fin.val_lt_of_le, BitVec.toNat_lt_of_le])
    (hel : 7 ≤ bitsAt N 26 6 → bitsAt N 26 6 ≤ 11 → e.elastic = true := by
      simp [Fin.val_lt_of_le, BitVec.toNat_lt_of_le]) :
    DecodesTo e N i :=
  (decode_common hlt hop hat hel).trans (h N fun _ _ => rfl)

/-! ## Every instruction -/

/-- The instructions of the common subset (R58, R59). -/
def Instr.isCommon : Instr → Bool
  | .nop _ | .idle _ _ | .atTake _ _ _ | .slate _ _ _ | .rdv _ _ _ | .loop _ _ _ _ | .loopr _ _ _ _ | .br _ | .bz _ _
  | .bnz _ _ | .call _ | .callr _ | .ret | .lbrk | .add _ _ _ _ | .sub _ _ _ _ | .mul _ _ _ _ | .mulh _ _ _ _
  | .mulhn _ _ _ _ | .and _ _ _ _ | .or _ _ _ _ | .xor _ _ _ _ | .shl _ _ _ _ | .shr _ _ _ _ | .sra _ _ _ _
  | .min _ _ _ _ | .max _ _ _ _ | .minn _ _ _ _ | .maxn _ _ _ _ | .mad _ _ _ _ | .slt _ _ _ _ | .sltn _ _ _ _
  | .seq _ _ _ _ | .sel _ _ _ _ | .clz _ _ _ | .popc _ _ _ | .mov _ _ _ | .addi _ _ _ _ | .andi _ _ _ _ | .ori _ _ _ _
  | .xori _ _ _ _ | .shli _ _ _ _ | .shri _ _ _ _ | .srai _ _ _ _ | .movi _ _ _ | .movhi _ _ _ | .mfs _ _ _
  | .mts _ _ _ => true
  | _ => false

/-- Every well-formed instruction of the common subset reads back. -/
theorem decodesTo_of_common {e : Eng} {i : Instr} {n : Nat} (hc : i.isCommon = true) (hw : i.wf e = true)
    (hn : encodeNat i = some n) : DecodesTo e n i := by
  cases i
  case nop | add | sub | mul | mulh | mulhn | and | or | xor | shl | shr | sra | min | max | minn | maxn | mad | slt |
      sltn | seq | sel | clz | popc | mov =>
    obtain rfl := Option.some.inj hn
    exact decodesTo_common (h := fun n hbits => by
      simp [decodeWord, hbits _ _, accept_eq_ok hw, encR_at_0_4, encR_at_0_10, encR_at_0_22, encR_at_4_6,
        encR_at_10_6, encR_at_16_6, encR_at_22_1, encR_at_23_3])
  case slate | rdv | addi | andi | ori | xori | shli | shri | srai | mfs | mts =>
    obtain rfl := Option.some.inj hn
    exact decodesTo_common (h := fun n hbits => by
      simp [decodeWord, hbits _ _, accept_eq_ok hw, BitVec.toNat_lt_of_le, Nat.mod_eq_of_lt, Nat.div_eq_of_lt,
        encI_at_0_6, encI_at_0_9, encI_at_0_10, encI_at_6_4, encI_at_8_2, encI_at_9_1, encI_at_10_6, encI_at_10_12,
        encI_at_16_6, encI_at_22_1, encI_at_23_3])
  case idle | movi | movhi =>
    obtain rfl := Option.some.inj hn
    exact decodesTo_common (h := fun n hbits => by
      simp [decodeWord, hbits _ _, accept_eq_ok hw, BitVec.toNat_lt_of_le, encL_at_0_16, encL_at_16_6, encL_at_22_1,
        encL_at_23_3])
  case atTake =>
    obtain rfl := Option.some.inj hn
    exact decodesTo_common (hat := fun _ => (Bool.not_eq_true' _).mp hw) (h := fun n hbits => by
      simp [decodeWord, hbits _ _, accept_eq_ok hw, BitVec.toNat_lt_of_le, encL_at_0_16, encL_at_16_6, encL_at_22_1,
        encL_at_23_3])
  case loop | loopr =>
    obtain rfl := Option.some.inj hn
    exact decodesTo_common (h := fun n hbits => by
      simp [decodeWord, hbits _ _, accept_eq_ok hw, BitVec.toNat_lt_of_le, encLoop_at_0_4, encLoop_at_0_10,
        encLoop_at_4_6, encLoop_at_10_10, encLoop_at_20_2, encLoop_at_22_1, encLoop_at_23_3])
  case br | call =>
    obtain rfl := Option.some.inj hn
    exact decodesTo_common (hel := fun _ _ => hw) (h := fun n hbits => by
      simp [decodeWord, hbits _ _, accept_eq_ok hw, BitVec.toNat_lt_of_le, encJ_at_0_23, encJ_at_23_3])
  case bz | bnz =>
    obtain rfl := Option.some.inj hn
    exact decodesTo_common (hel := fun _ _ => hw) (h := fun n hbits => by
      simp [decodeWord, hbits _ _, accept_eq_ok hw, BitVec.toNat_lt_of_le, encL_at_0_16, encL_at_16_6, encL_at_22_4])
  case callr | ret | lbrk =>
    obtain rfl := Option.some.inj hn
    exact decodesTo_common (hel := fun _ _ => hw) (h := fun n hbits => by
      simp [decodeWord, hbits _ _, accept_eq_ok hw, encR_at_0_4, encR_at_0_10, encR_at_0_26, encR_at_10_6,
        encR_at_16_10])
  all_goals exact nomatch hc

/-- Every well-formed instruction of C's own opcodes reads back. -/
theorem decodesTo_c_of_own {i : Instr} {n : Nat} (hc : i.isCommon = false) (hw : i.wf .c = true)
    (hn : encodeNat i = some n) : DecodesTo .c n i := by
  cases i
  case pcmp | selp | preempt | qsusp | qres | drainm | semmap | rseed | eret | plog | pmovToPred | pmovFromPred =>
    obtain rfl := Option.some.inj hn
    exact decodesTo_c (h := fun n hbits => by
      simp [decodeC, hbits _ _, accept_eq_ok hw, Fin.val_lt_of_le, Nat.mod_eq_of_lt, Nat.div_eq_of_lt, encR_at_0_3,
        encR_at_0_4, encR_at_0_10, encR_at_0_26, encR_at_3_1, encR_at_4_3, encR_at_4_6, encR_at_7_3, encR_at_10_3,
        encR_at_10_6, encR_at_13_3, encR_at_16_3, encR_at_16_6, encR_at_16_10, encR_at_19_7, encR_at_22_4])
  case pcmpi | sig | bqry | joule | thrack | eclass | phase | varreg =>
    obtain rfl := Option.some.inj hn
    exact decodesTo_c (h := fun n hbits => by
      simp [decodeC, hbits _ _, accept_eq_ok hw, acceptQ_eq_ok hw, Fin.val_lt_of_le, BitVec.toNat_lt_of_le,
        Nat.mod_eq_of_lt, Nat.div_eq_of_lt, Bool.toNat_le, encI_at_0_1, encI_at_0_2, encI_at_0_3, encI_at_0_4,
        encI_at_0_6, encI_at_0_10, encI_at_1_9, encI_at_2_8, encI_at_2_24, encI_at_3_7, encI_at_4_12, encI_at_6_4,
        encI_at_10_6, encI_at_10_16, encI_at_16_3, encI_at_16_6, encI_at_16_10, encI_at_19_4, encI_at_22_4,
        encI_at_23_3])
  case bp | bnp | endJob | trap | yield =>
    obtain rfl := Option.some.inj hn
    exact decodesTo_c (h := fun n hbits => by
      simp [decodeC, hbits _ _, accept_eq_ok hw, Fin.val_lt_of_le, BitVec.toNat_lt_of_le, Nat.mod_eq_of_lt,
        Nat.div_eq_of_lt, encL_at_0_16, encL_at_0_26, encL_at_16_3, encL_at_16_10, encL_at_19_7])
  case vcmp t d a u ty | vred t d a u ty | vscan t d a u ty =>
    cases u <;> exact nomatch hw
  all_goals exact nomatch hc, hw

/-- Every well-formed instruction of A's own opcodes reads back. -/
theorem decodesTo_a_of_own {i : Instr} {n : Nat} (hc : i.isCommon = false) (hw : i.wf .a = true)
    (hn : encodeNat i = some n) : DecodesTo .a n i := by
  cases i
  case afill | adrain | gld | gst | ggath | gscat | aamo | acas | aswp | samo | tlbp | tlbinvPage | tlbinvCtx |
      tlbinvAll | l1opLine | l1opAll | pref =>
    obtain rfl := Option.some.inj hn
    exact decodesTo_a (h := fun n hbits => by
      simp [decodeA, hbits _ _, accept_eq_ok hw, acceptQ_eq_ok hw, Fin.val_lt_of_le, Nat.mod_eq_of_lt,
        Nat.div_eq_of_lt, Bool.toNat_le, encR_at_0_4, encR_at_0_10, encR_at_4_1, encR_at_4_3, encR_at_4_6,
        encR_at_5_2, encR_at_7_3, encR_at_10_6, encR_at_16_6, encR_at_16_7, encR_at_16_10, encR_at_22_1, encR_at_22_4,
        encR_at_23_1, encR_at_23_3, encR_at_24_2])
  case ald | ast | ard | awr | wset | wadv | rst | rld | binit | barr | bwait | btest =>
    obtain rfl := Option.some.inj hn
    exact decodesTo_a (h := fun n hbits => by
      simp [decodeA, hbits _ _, accept_eq_ok hw, acceptQ_eq_ok hw, Fin.val_lt_of_le, BitVec.toNat_lt_of_le,
        Nat.mod_eq_of_lt, Nat.div_eq_of_lt, encI_at_0_10, encI_at_10_6, encI_at_16_3, encI_at_16_6, encI_at_16_10,
        encI_at_19_7, encI_at_22_1, encI_at_22_4, encI_at_23_3])
  case fenceAcq | fenceRel | fenceFull | fenceAsync =>
    obtain rfl := Option.some.inj hn
    exact decodesTo_a (h := fun n hbits => by
      simp [decodeA, hbits _ _, accept_eq_ok hw, BitVec.toNat_lt_of_le, Nat.mod_eq_of_lt, encL_at_0_16, encL_at_16_3,
        encL_at_19_3, encL_at_22_4])
  case vcmp t d a u ty | vred t d a u ty | vscan t d a u ty =>
    cases u <;> exact nomatch hw
  all_goals exact nomatch hc, hw

/-- Every well-formed instruction of V's own opcodes reads back. -/
theorem decodesTo_v_of_own {i : Instr} {n : Nat} (hc : i.isCommon = false) (hw : i.wf .v = true)
    (hn : encodeNat i = some n) : DecodesTo .v n i := by
  cases i
  case vadd | vsub | vmul | vmadd | vmin | vmax | vadds | vand | vor | vxor | vshl | vshr | vabs | vneg | vrcp | vrsq
      | vexp | vpopc | vnot | vfma | vcmp | vsel | vcvt | vqmx | vdqmx | vscl | vred | vscan | vperm | vrotm | vbcst |
      vmpush | vminv | vmpop | vidxw | vidxr | vbitt | vbits | vpopm | vmatch | vlane | vins | vmov =>
    obtain rfl := Option.some.inj hn
    exact decodesTo_v (h := fun n hbits => by
      simp [decodeV, hbits _ _, accept_eq_ok hw, withT, Fin.val_lt_of_le, Nat.mod_eq_of_lt, Nat.div_eq_of_lt,
        encR_at_0_4, encR_at_0_10, encR_at_0_22, encR_at_4_2, encR_at_4_6, encR_at_6_4, encR_at_10_3, encR_at_10_6,
        encR_at_13_3, encR_at_16_6, encR_at_22_1, encR_at_23_3])
  case vskip =>
    obtain rfl := Option.some.inj hn
    exact decodesTo_v (h := fun n hbits => by
      simp [decodeV, hbits _ _, accept_eq_ok hw, BitVec.toNat_lt_of_le, encL_at_0_16, encL_at_16_6, encL_at_22_1,
        encL_at_23_3])
  all_goals exact nomatch hc, hw

/-- Every well-formed instruction of M's own opcodes reads back. -/
theorem decodesTo_m_of_own {i : Instr} {n : Nat} (hc : i.isCommon = false) (hw : i.wf .m = true)
    (hn : encodeNat i = some n) : DecodesTo .m n i := by
  cases i
  case tshape | tcfg | tstat | tchk =>
    obtain rfl := Option.some.inj hn
    exact decodesTo_m (h := fun n hbits => by
      simp [decodeM, hbits _ _, accept_eq_ok hw, Fin.val_lt_of_le, Nat.mod_eq_of_lt, Nat.div_eq_of_lt, encR_at_0_2,
        encR_at_0_3, encR_at_0_4, encR_at_2_2, encR_at_3_1, encR_at_4_6, encR_at_4_12, encR_at_10_6, encR_at_16_6,
        encR_at_22_1, encR_at_23_3])
  case tzero | tmma | tmmax | tmmat | tmmas | tret | tretq | tspill | tfill | tacc =>
    obtain rfl := Option.some.inj hn
    exact decodesTo_m (h := fun n hbits => by
      simp [decodeM, hbits _ _, accept_eq_ok hw, Nat.mod_eq_of_lt, Nat.div_eq_of_lt, Bool.toNat_le, encT_at_0_4,
        encT_at_0_16, encT_at_0_19, encT_at_4_1, encT_at_5_5, encT_at_5_8, encT_at_5_11, encT_at_10_3, encT_at_13_3,
        encT_at_16_3, encT_at_19_3, encT_at_22_1, encT_at_23_3])
  case vcmp t d a u ty | vred t d a u ty | vscan t d a u ty =>
    cases u <;> exact nomatch hw
  all_goals exact nomatch hc, hw

end Sys2Proof
end

section

open Sys2Proof

/-- Settles O53: the word of an instruction has the instruction's opcode, and the row of that opcode reads every field back. -/
theorem encodeDecode : Obligations.EncodeDecode := by
  intro e i w hw hi
  obtain ⟨n, hn, rfl⟩ := Option.map_eq_some_iff.1 hi
  cases hc : i.isCommon
  · cases e
    exacts [decodesTo_c_of_own hc hw hn, decodesTo_a_of_own hc hw hn, decodesTo_v_of_own hc hw hn,
      decodesTo_m_of_own hc hw hn]
  · exact decodesTo_of_common hc hw hn
end

section
/-! SUPPORT. Instructions that nothing keeps from issuing in an elastic engine (R66, R77, R78, R293). -/

namespace Sys2Proof.Machine

/-- No check at issue can fail for the instruction, no operand of it can be unready, the continuity core does not compare it,
and it forms no address. -/
structure Unhindered (i : Instr) : Prop where
  legal : ∀ j e, decodeFault j e i = none
  ready : ∀ s c j, unready s c j i = none
  uncompared : ∀ j, compared i (fieldsOf j i) = false
  noAddress : addsAddress i = false

/-- An elastic engine makes the decode checks alone. -/
theorem preciseFault_of_elastic {e : Eng} (he : e.elastic = true) (s : State) (c : CoreId) (j : Job) (i : Instr) :
    preciseFault s c j e i = decodeFault j e i := by
  have honly : preciseFault s c j e i = firstOf [decodeFault j e i, none] := by
    cases e with
    | c | a => rfl
    | v | m => cases he
  rw [honly]
  cases hd : decodeFault j e i <;> rfl

theorem Unhindered.issues {s c e j i} (h : Unhindered i) (ht : InTurn s c e j) (he : e.elastic = true) : Issues s c e j i where
  toInTurn := ht
  go := by
    simp [gate, preciseFault_of_elastic he, h.legal, he, Job.waits, h.uncompared, h.ready]
  adder := by simp [State.adderTrap, h.noAddress]

end Sys2Proof.Machine
end

section

open Sys2Proof Sys2Proof.Machine

/-- Settles O4: an instruction whose operands are registers, and that neither forms an address nor pushes a stream, has nothing
to wait for in an elastic engine. -/
theorem registerFormsIssue : Obligations.RegisterFormsIssue := by
  intro s c e j d a b k h m ht he
  simp only [List.forall_mem_cons]
  iterate 40 refine ⟨Unhindered.issues ⟨fun _ _ => rfl, fun _ _ _ => rfl, fun _ => rfl, rfl⟩ ht he, ?_⟩
  exact List.forall_mem_nil _

/-- Settles O54: the decoder evaluates each word. -/
theorem decodeWords : Obligations.DecodeWords :=
  ⟨rfl, rfl, rfl, rfl, rfl, rfl, rfl, rfl, rfl, rfl, rfl, rfl, rfl, rfl, rfl, rfl, rfl, rfl⟩
end

section
/-! SUPPORT. The compares, counts and immediates of the scalar instructions (R92-R95) on integers. -/

namespace Sys2Proof.Machine

section
variable {w : Nat} (x y : BitVec w)

theorem boolVal_slt : boolVal w (x.slt y) = if x.toInt < y.toInt then BitVec.ofNat w 1 else BitVec.ofNat w 0 := by
  simp [boolVal, BitVec.slt_eq_decide]

theorem boolVal_ult : boolVal w (x.ult y) = if x.toNat < y.toNat then BitVec.ofNat w 1 else BitVec.ofNat w 0 := by
  simp [boolVal, BitVec.ult_eq_decide]

theorem boolVal_beq : boolVal w (x == y) = if x.toNat = y.toNat then BitVec.ofNat w 1 else BitVec.ofNat w 0 := by
  simp [boolVal, BitVec.toNat_inj]

theorem add_ofInt (k : Int) : x + BitVec.ofInt w k = BitVec.ofInt w (x.toNat + k) := by
  rw [BitVec.ofInt_add, BitVec.ofInt_natCast, BitVec.ofNat_toNat, BitVec.setWidth_eq]

end

/-- The zeros above the highest one bit, counted down from bit `w - 1`. -/
theorem length_takeWhile_zero_bits {w x : Nat} (h : x < 2 ^ w) :
    ((List.range w).reverse.takeWhile fun n => !x.testBit n).length = if x = 0 then w else w - 1 - Nat.log2 x := by
  induction w with
  | zero => simp
  | succ w ih =>
    rw [List.range_succ, List.reverse_append, List.reverse_singleton, List.singleton_append]
    by_cases hx : x < 2 ^ w
    · rw [List.takeWhile_cons_of_pos (by simp [Nat.testBit_lt_two_pow hx]), List.length_cons, ih hx]
      split
      · rfl
      · next h0 =>
        have : Nat.log2 x < w := (Nat.log2_lt h0).2 hx
        omega
    · have hbit : x.testBit w = true := Nat.testBit_of_two_pow_le_and_two_pow_add_one_gt (not_lt.1 hx) h
      have hpos : x ≠ 0 := by rintro rfl; simp at hbit
      have hlog : Nat.log2 x = w := (Nat.log2_eq_iff hpos).2 ⟨not_lt.1 hx, h⟩
      simp [hbit, hpos, hlog]

theorem leadZeros_eq_ofNat {w : Nat} (x : BitVec w) : leadZeros w x =
    BitVec.ofNat w ((List.range w).reverse.takeWhile fun n => !x.getLsbD n).length := by
  rw [leadZeros, show (fun n => !x.getLsbD n) = fun n => !x.toNat.testBit n from rfl, length_takeWhile_zero_bits x.isLt]
  simp [BitVec.toNat_eq]

theorem onesIn_eq_length (n x : Nat) : onesIn n x = ((List.range n).filter fun k => x.testBit k).length := by
  induction n generalizing x with
  | zero => rfl
  | succ n ih =>
    rw [onesIn, ih, List.range_succ_eq_map, List.filter_cons, List.filter_map, Function.comp_def]
    simp only [Nat.testBit_zero, Nat.succ_eq_add_one, Nat.testBit_succ]
    rcases Nat.mod_two_eq_zero_or_one x with h | h <;> simp [h, Nat.add_comm]

theorem popCount_eq_ofNat {w : Nat} (x : BitVec w) : popCount w x =
    BitVec.ofNat w ((List.range w).filter fun n => x.getLsbD n).length := by
  rw [popCount, onesIn_eq_length]; rfl

end Sys2Proof.Machine
end

section

open Sys2Proof Sys2Proof.Machine

/-- Settles O2: each operation of `aluFn` is its function on integers. -/
theorem scalarResults : Obligations.ScalarResults := by
  intro s c e j t d a b k h m
  refine ⟨?_, ?_, ?_, ?_, ?_, ?_, ?_, ?_, ?_, ?_, ?_, ?_, ?_, ?_, ?_, ?_⟩ <;> rintro i rfl hi
  · exact alu_eq hi rfl fun w x => boolVal_slt _ _
  · exact alu_eq hi rfl fun w x => boolVal_ult _ _
  · exact alu_eq hi rfl fun w x => boolVal_beq _ _
  · exact alu_eq hi rfl fun w x => by simp [BitVec.toNat_eq]
  · exact alu_eq hi rfl fun w x => leadZeros_eq_ofNat _
  · exact alu_eq hi rfl fun w x => popCount_eq_ofNat _
  · exact alu_eq hi rfl fun w x => rfl
  · exact alu_eq hi rfl fun w x => add_ofInt _ _
  · exact alu_eq hi rfl fun w x => rfl
  · exact alu_eq hi rfl fun w x => rfl
  · exact alu_eq hi rfl fun w x => rfl
  · exact alu_eq hi rfl fun w x => shl_eq_ofNat _ _
  · exact alu_eq hi rfl fun w x => shr_eq_ofNat _ _
  · exact alu_eq hi rfl fun w x => sshiftRight_eq_ofInt _ _
  · exact alu_eq hi rfl fun w x => rfl
  · exact alu_eq hi rfl fun w x => by rw [BitVec.ofNat_toNat]
end

section
/-! SUPPORT. Waiting, and the levels that loops open and close (R79, R80, R86-R88). -/

namespace Sys2Proof.Machine

/-! ## What an instruction that issues has passed -/

theorem eq_none_of_firstOf {α : Type} : ∀ {l : List (Option α)}, firstOf l = none → ∀ x ∈ l, x = none
  | [], _, _, hx => absurd hx List.not_mem_nil
  | some _ :: _, h, _, _ => nomatch h
  | none :: _, h, _, hx => (List.mem_cons.1 hx).elim id (eq_none_of_firstOf (by simpa only [firstOf] using h) _)

theorem preciseFault_of_go {s c j e i} (h : gate s c j e i = .go) : preciseFault s c j e i = none := by
  unfold gate at h
  split at h
  · cases h
  · assumption

theorem decodeFault_of_go {s c j e i} (h : gate s c j e i = .go) : decodeFault j e i = none := by
  have hp := preciseFault_of_go h
  unfold preciseFault at hp
  split at hp
  · exact hp
  · exact eq_none_of_firstOf hp _ (by simp)

theorem operandFault_of_go {s c j e i} (h : gate s c j e i = .go) : operandFault j e i (wordOf i) = none :=
  eq_none_of_firstOf (decodeFault_of_go h) _ (by simp)

/-- An LBRK issues only within a level (R88). -/
theorem loops_ne_nil_of_lbrk {s c j e} (h : gate s c j e .lbrk = .go) : j.loops e ≠ [] := by
  intro hl
  have := operandFault_of_go h
  simp [operandFault, whenTrap, hl] at this

/-! ## Waiting -/

theorem atOcc_eq {take x d : W32} (h : d = x - take) : atOcc take x = if d = 0 then 1 else d.toNat := by
  subst h
  unfold atOcc
  split
  · next h => rw [h]; rfl
  · next h =>
    have : (x - take).toNat ≠ 0 := fun e => h (BitVec.eq_of_toNat_eq e)
    exact Nat.max_eq_left (by omega)

section
variable {s : State} {c : CoreId} {e : Eng} {j : Job} {t : Tm}

theorem exec_idle_go {n : BitVec 16} (h : Issues s c e j (.idle t n)) : exec (.idle t n) s = .next (s.setJob c
    (Job.done (if e.elastic then (j.issuing e (.idle t n)).setWait e (.idle (idleTime n)) else j.issuing e (.idle t n)) e
      (idleTime n))) := by
  obtain rfl := h.eng
  rw [exec_idle, execIdle, issueJob_go h]
  rfl

theorem exec_atTake_go {d : Opnd} {n : BitVec 16} (h : Issues s c e j (.atTake t d n)) : exec (.atTake t d n) s = .next
    (s.setJob c ((j.issuing e (.atTake t d n)).done e (atOcc j.take (atTarget (j.issuing e (.atTake t d n)) e d n)))) := by
  rw [exec_atTake, execAtTake, h.eng, issue_go h, h.eng, issuing_take]

/-! ## Loops -/

/-- The flow of a count that is natural in one reading and a word in another. -/
theorem loopFlow_toNat {w : Nat} (x : BitVec w) (b : BitVec 10) (p : VAddr) (ls : List LoopLvl) : loopFlow x.toNat b p ls =
    if x = 0 then backEdge (p + BitVec.ofNat 48 (4 * b.toNat)) (p + BitVec.ofNat 48 (4 * b.toNat) + 4) ls
    else (p + 4, { first := p + 4, last := p + BitVec.ofNat 48 (4 * b.toNat), left := x.toNat } :: ls) := by
  simp [loopFlow, BitVec.toNat_eq]

theorem exec_loop_go {l : Fin 4} {b n : BitVec 10} (h : Issues s c e j (.loop t l b n)) : exec (.loop t l b n) s = .next
    (s.setJob c (((j.issuing e (.loop t l b n)).flow e (loopFlow n.toNat b)).issued e 1)) := by
  rw [exec_loop, execLoop, h.eng, issue_go h, h.eng]

theorem exec_loopr_go {l : Fin 4} {b : BitVec 10} {r : Fin 32} (h : Issues s c e j (.loopr t l b (.reg r))) :
    exec (.loopr t l b (.reg r)) s = .next (s.setJob c
      (((j.issuing e (.loopr t l b (.reg r))).flowBy e fun get => loopFlow (get r).toNat b).issued e 1)) := by
  rw [exec_loopr, execLoopr, h.eng, issue_go h, h.eng]

theorem exec_lbrk_go (h : Issues s c e j .lbrk) :
    exec .lbrk s = .next (s.setJob c (((j.issuing e .lbrk).flow e lbrkFlow).issued e 1)) := by
  rw [exec_lbrk, execLbrk, h.eng, issue_go h, h.eng]

end

end Sys2Proof.Machine
end

section

open Sys2Proof Sys2Proof.Machine

/-- Settles O5: NOP and IDLE by the engine, and the occupancy of AT by the distance to its target. -/
theorem nopIdleAt : Obligations.NopIdleAt := by
  intro s c e j t n r
  refine ⟨?_, ?_, ?_, ?_⟩ <;> rintro _ rfl h
  · rw [exec_nop, execNop, h.eng, issueJob_go h]
    rfl
  · intro he
    rw [exec_idle_go h, if_pos he]
    rfl
  · intro he
    rw [exec_idle_go h, if_neg (by simp [he])]
    rfl
  · intro x d hx hd
    have htarget : atTarget (j.issuing e (.atTake t (.reg r) n)) e (.reg r) n = x := by
      rw [hx, atTarget, issuing_reg]
    rw [exec_atTake_go h, htarget, atOcc_eq hd]

/-- Settles O7: a LOOP and a LOOPR open their level by `loopFlow`, and an LBRK, which needs a level to issue, closes one. -/
theorem loopsOpenAndClose : Obligations.LoopsOpenAndClose := by
  intro s c e j t l b n r
  refine ⟨?_, ?_, ?_⟩ <;> rintro _ rfl h
  · rw [exec_loop_go h]
    simp only [← loopFlow_toNat]
  · rw [exec_loopr_go h]
    simp only [← loopFlow_toNat]
  · refine ⟨loops_ne_nil_of_lbrk h.go, ?_⟩
    rw [exec_lbrk_go h]
    rfl
end

section
/-! SUPPORT. What the special registers hold, and what a write of one does (R11, R50, R68, R69, R96-R98, R128, R129, R145,
R177). -/

namespace Sys2Proof.Machine

/-! ## Words with bits cleared -/

theorem getLsbD_and_not_two (x : W32) (i : Nat) :
    (x &&& ~~~(2 : W32)).getLsbD i = (x.toNat.testBit i && decide (i ≠ 1)) := by
  rw [BitVec.getLsbD_and, BitVec.getLsbD_not, show (2 : W32) = BitVec.twoPow 32 1 from rfl, BitVec.getLsbD_twoPow]
  by_cases hi : i < 32
  · simp [hi, BitVec.testBit_toNat, eq_comm]
  · simp [hi, BitVec.testBit_toNat, BitVec.getLsbD_of_ge x i (by omega)]

/-- TRAPVEC has no bit 1 (R128). -/
theorem and_not_two_eq_ofNat (x : W32) : x &&& ~~~(2 : W32) = BitVec.ofNat 32 (x.toNat / 4 * 4 + x.toNat % 2) := by
  apply BitVec.eq_of_getLsbD_eq
  intro i hi
  have hlow : x.toNat % 2 < 2 ^ 2 := by omega
  rw [getLsbD_and_not_two, BitVec.getLsbD_ofNat, show x.toNat / 4 * 4 = 2 ^ 2 * (x.toNat / 2 ^ 2) by omega,
    Nat.testBit_two_pow_mul_add _ hlow]
  obtain rfl | rfl | hge : i = 0 ∨ i = 1 ∨ 2 ≤ i := by omega
  · simp
  · simp [Nat.testBit_succ]
  · rw [if_neg (by omega), Nat.testBit_div_two_pow, Nat.sub_add_cancel hge]
    simp [hi, show i ≠ 1 by omega]

theorem setWidth_eq_ofNat_mod {k w : Nat} (x : BitVec k) : x.setWidth w = BitVec.ofNat w (x.toNat % 2 ^ w) := by
  apply BitVec.eq_of_toNat_eq
  simp

/-! ## Reads -/

/-- The format registers FMT0 to FMT31 (R145). -/
theorem srRead_fmt (s : State) (c : CoreId) (j : Job) (e : Eng) (n : Fin 32) :
    srRead s c j e (0x20 + n.val) = (j.fmt[n.val]).setWidth 64 := by
  have hn : 0x20 + n.val ≤ 0x3F := by omega
  unfold srRead
  split
  case h_25 => simp [hn]
  all_goals omega

theorem toNat_mul_eq_ite (b : Bool) (n : Nat) : b.toNat * n = if b then n else 0 := by cases b <;> simp

theorem Ras.depth_setWidth (r : Ras) :
    r.depth.setWidth 64 = BitVec.ofNat 64 ((r.spilled * 65536 + r.held) % 2 ^ 32) := by
  rw [Ras.depth]
  apply BitVec.eq_of_toNat_eq
  simp

/-- TRAPCAUSE is a sum of its bits, which lies within the register (R129). -/
theorem causeWord_setWidth (k : CEng) : k.causeWord.setWidth 64 = BitVec.ofNat 64 ((if k.pwrap then 1024 else 0)
    + (if k.ppre then 512 else 0) + (if k.pflag then 256 else 0) + (if k.arch.inh then 128 else 0) + k.code.toNat) := by
  have hcode : k.code.toNat < 32 := k.code.isLt
  rw [CEng.causeWord]
  simp only [toNat_mul_eq_ite]
  refine BitVec.setWidth_ofNat_of_le_of_lt (by decide) ?_
  repeat' split
  all_goals omega

theorem shadow_none_setWidth (s : State) :
    (timeHigh s).setWidth 64 = BitVec.ofNat 64 (s.time / 2 ^ 32 % 2 ^ 32) := by
  rw [timeHigh]
  apply BitVec.eq_of_toNat_eq
  simp

theorem shadow_setShadow (j : Job) (e : Eng) (x : W32) : (j.setShadow e x).shadow e = some x := by cases e <;> rfl

/-! ## Writes -/

theorem fpmodeWrite_legal (old : W32) {x : W32} (h : x.toNat % 8 < 6) : fpmodeWrite old x = x &&& 0x17 := by
  have hrm : ¬ 6 ≤ bitsAt x.toNat 0 3 := by rw [bitsAt_eq]; omega
  rw [fpmodeWrite, if_neg hrm]

theorem Ras.setDepth_eq (r : Ras) (x : W32) : r.setDepth x =
    { r with spilled := x.toNat / 65536, held := if x.toNat % 32 ≤ 16 then x.toNat % 32 else r.held } := by
  have hx : x.toNat < 2 ^ 32 := x.isLt
  have hspilled : bitsAt x.toNat 16 16 = x.toNat / 65536 := by rw [bitsAt_eq]; omega
  have hheld : bitsAt x.toNat 0 5 = x.toNat % 32 := by rw [bitsAt_eq]; omega
  rw [Ras.setDepth, hspilled, hheld]

theorem updRas_reg (j : Job) (e : Eng) (f : Ras → Ras) (x : Eng) : (j.updRas e f).reg x = j.reg x := by
  cases e <;> cases x <;> rfl

theorem updRas_pc (j : Job) (e : Eng) (f : Ras → Ras) (x : Eng) : (j.updRas e f).pc x = j.pc x := by
  cases e <;> cases x <;> rfl

/-- A write of a special register changes no scalar register and no program counter. -/
theorem srWrite_reg_pc (j : Job) (e : Eng) (n : Nat) (x : W32) (y : Eng) :
    (j.srWrite e n x).reg y = j.reg y ∧ (j.srWrite e n x).pc y = j.pc y := by
  unfold Job.srWrite
  split
  case h_4 | h_5 => exact ⟨updRas_reg .., updRas_pc ..⟩
  case h_2 | h_3 | h_10 => split <;> cases y <;> exact ⟨rfl, rfl⟩
  all_goals cases y <;> exact ⟨rfl, rfl⟩

/-! ## MFS and MTS -/

section
variable {s : State} {c : CoreId} {e : Eng} {j : Job} {t : Tm}

theorem exec_mfs_go {d : Opnd} {n : BitVec 10} (h : Issues s c e j (.mfs t d n)) : exec (.mfs t d n) s = .next (s.setJob c
    ((((if n = 0x016 then (j.issuing e (.mfs t d n)).setShadow e (timeHigh s) else j.issuing e (.mfs t d n)).log e
      (srRead s c (j.issuing e (.mfs t d n)) e n.toNat)).result e d
        fun _ => srRead s c (j.issuing e (.mfs t d n)) e n.toNat).done e 1)) := by
  rw [exec_mfs, execMfs, h.eng, issue_go h, h.eng]

theorem exec_mts_go {a : Opnd} {n : BitVec 10} (h : Issues s c e j (.mts t a n)) : exec (.mts t a n) s = .next (s.setJob c
    (((j.sourced e (.mts t a n)).srWrite e n.toNat
      ((argAt (sourcesOf j e (.mts t a n)) 0).scalar 32 ((j.sourced e (.mts t a n)).reg e))).done e 1)) := by
  rw [exec_mts, execMts, h.eng, issueJob_go h]

end

end Sys2Proof.Machine
end

section

open Sys2Proof Sys2Proof.Machine

/-- Settles O9: MFS and MTS by the table of the special registers, register by register. -/
theorem specialRegisters : Obligations.SpecialRegisters := by
  refine ⟨fun s c e j t d a n => ⟨?_, ?_, ?_⟩, fun s c j e => ?_, fun j x => ?_⟩
  · rintro _ rfl h hn x rfl
    rw [exec_mfs_go h, if_neg hn]
  · rintro _ rfl h
    rw [exec_mfs_go h, if_pos rfl]
    rfl
  · rintro _ rfl h
    exact exec_mts_go h
  · refine ⟨rfl, rfl, rfl, rfl, rfl, rfl, rfl, rfl, rfl, rfl, rfl, rfl, Ras.depth_setWidth _, Ras.depth_setWidth _, rfl, rfl,
      causeWord_setWidth _, rfl, rfl, rfl, fun x hx => ?_, fun hx => ?_, rfl, srRead_fmt s c j e, shadow_setShadow j e⟩
    · simp only [srRead, hx, Option.getD_some]
    · simp only [srRead, hx, Option.getD_none, shadow_none_setWidth]
  · refine ⟨and_not_two_eq_ofNat x, setWidth_eq_ofNat_mod x, rfl, rfl, setWidth_eq_ofNat_mod x, setWidth_eq_ofNat_mod x,
      fpmodeWrite_legal _, fun h => ?_, fun h => ?_, rfl, rfl, rfl, fun e n m => ?_, fun e n => ?_⟩
    · exact (Ras.setDepth_eq _ x).trans (by rw [if_pos h])
    · exact (Ras.setDepth_eq _ x).trans (by rw [if_neg (by omega)])
    · rw [(srWrite_reg_pc j e n x e).1]
    · exact (srWrite_reg_pc j e n x e).2
end

section
/-! SUPPORT. The predicates (R45, R46, R99-R103): what a write of one leaves, conditions on integers, and the fields of the
words. -/

namespace Sys2Proof.Machine

/-! ## Predicates -/

theorem pred_zero (a : CArch) : a.pred 0 = true := rfl

theorem pred_setPred_self (a : CArch) {p : Fin 8} (h : p ≠ 0) (b : Bool) : (a.setPred p b).pred p = b := by
  simp [CArch.pred, CArch.setPred, h]

theorem pred_setPred_ne (a : CArch) {p n : Fin 8} (h : n ≠ p) (b : Bool) : (a.setPred p b).pred n = a.pred n := by
  rw [CArch.setPred]
  split
  · rfl
  · rw [CArch.pred, CArch.pred, Vector.getElem_set_ne _ _ fun e => h (Fin.ext e.symm)]

theorem setPred_s (a : CArch) (p : Fin 8) (b : Bool) : (a.setPred p b).s = a.s := by
  rw [CArch.setPred]; split <;> rfl

theorem sourced_arch (j : Job) (e : Eng) (i : Instr) : (j.sourced e i).c.arch = j.c.arch := by
  rw [sourced_eq]; exact issuing_arch ..

theorem issuing_m (j : Job) {e : Eng} (he : e ≠ .m) (i : Instr) : (j.issuing e i).m = j.m := by
  unfold Job.issuing Job.begun
  cases e
  case m => exact absurd rfl he
  all_goals split <;> rfl

/-! ## Instructions that set a predicate -/

section
variable {s : State} {c : CoreId} {j : Job} {i : Instr} {p : Fin 8} {f : CArch → List Val → Bool}

/-- The job after the sources are read and predicate `p` is set. -/
def Job.predSet (j : Job) (i : Instr) (p : Fin 8) (f : CArch → List Val → Bool) : Job :=
  { j.sourced .c i with c := (j.sourced .c i).c.upd fun a => a.setPred p (f a (sourcesOf j .c i)) }

theorem predSet_arch : (j.predSet i p f).c.arch = j.c.arch.setPred p (f j.c.arch (sourcesOf j .c i)) := by
  simp only [Job.predSet, upd_arch, sourced_arch]

theorem predSet_reg (x : Eng) : (j.predSet i p f).reg x = j.reg x := by
  rw [← sourced_reg j .c x i]
  funext n
  cases x
  case c => simp only [Job.reg, predSet_arch, sourced_arch, setPred_s]
  all_goals rfl

theorem setPredBy_go (h : Issues s c .c j i) :
    setPredBy i p f s = .next (s.setJob c ((j.predSet i p f).done .c 1)) := by
  rw [setPredBy, issueJob_go h]
  rfl

/-- An instruction that sets a predicate gives it the truth of its condition, and keeps the other predicates, the registers and
the other engines (R45, R46, R99-R101). -/
theorem setPredBy_sets (h : Issues s c .c j i) {v : Prop} (hv : f j.c.arch (sourcesOf j .c i) = true ↔ v) :
    ∃ j2, setPredBy i p f s = .next (s.setJob c (Job.done j2 .c 1)) ∧
      (p ≠ 0 → (j2.c.arch.pred p = true ↔ v)) ∧ j2.c.arch.pred 0 = true ∧
      (∀ n, n ≠ p → j2.c.arch.pred n = j.c.arch.pred n) ∧ (∀ x n, j2.reg x n = j.reg x n) ∧
      j2.streams = (j.sourced .c i).streams ∧ j2.a = j.a ∧ j2.v = j.v ∧ j2.m = j.m := by
  refine ⟨j.predSet i p f, setPredBy_go h, fun hp => ?_, rfl, fun n hn => ?_, fun x n => by rw [predSet_reg], rfl,
    sourced_a .., sourced_v ..,
    (sourced_m j .c i).trans (issuing_m j (by decide) i)⟩
  · rw [predSet_arch, pred_setPred_self _ hp, hv]
  · rw [predSet_arch, pred_setPred_ne _ hn]

theorem cArg_eq_srcC (n : Nat) : cArg j.c.arch (sourcesOf j .c i) n = srcC j i n := rfl

end

/-! ## Words -/

theorem toNat_of_encode {i : Instr} {n : Nat} {w : W32} (hi : encodeNat i = some n) (hn : n < 4294967296)
    (hw : encode i = some w) : w.toNat = n := by
  rw [encode, hi, Option.map_some, Option.some_inj] at hw
  rw [← hw, BitVec.toNat_ofNat, Nat.mod_eq_of_lt hn]

section
variable {i : Instr} {w : W32} {op t d a b f k : Nat}

theorem encR_fields (hw : encode i = some w) (hi : encodeNat i = some (encR op t d a b f))
    (hop : op < 64 := by decide) (ht : t < 16 := by decide)
    (hd : d < 64 := by simp [Fin.val_lt_of_le]) (ha : a < 64 := by simp [Fin.val_lt_of_le])
    (hb : b < 64 := by simp [Fin.val_lt_of_le]) (hf : f < 16 := by simp [Fin.val_lt_of_le]) :
    w.toNat / 2 ^ 26 = op ∧ w.toNat % 16 = f := by
  rw [toNat_of_encode hi (encR_lt _ _ _ _ _ _ hf hb ha hd ht hop) hw, encR]
  omega

theorem encI_fields (hw : encode i = some w) (hi : encodeNat i = some (encI op t d a k))
    (hop : op < 64 := by decide) (ht : t < 16 := by simp)
    (hd : d < 64 := by simp [Fin.val_lt_of_le]) (ha : a < 64 := by simp) (hk : k < 1024 := by simp [BitVec.toNat_lt_of_le]) :
    w.toNat / 2 ^ 26 = op ∧ w.toNat / 2 ^ 23 % 8 = t / 2 ∧ w.toNat % 2 ^ 10 = k := by
  rw [toNat_of_encode hi (encI_lt _ _ _ _ _ hk ha hd ht hop) hw, encI]
  omega

end

end Sys2Proof.Machine
end

section

open Sys2Proof Sys2Proof.Machine

/-- Settles O10: each instruction of predicates sets its predicate by `setPredBy`, whose condition is the one on integers, and
its word is of format R or I. -/
theorem predicateResults : Obligations.PredicateResults := by
  intro s c j p q r a b d k cond f holds condCode sets
  have hholds (x y : W32) : condHolds cond x y = true ↔ holds x y := by
    cases cond <;> simp [holds, condHolds, BitVec.toNat_inj]
  have hcode : condCode = cond.code := by cases cond <;> rfl
  refine ⟨?_, ?_, ?_, ?_, ?_, ?_, fun w hw => ?_, fun w hw => ?_, fun w hw => ?_, fun w hw => ?_, fun w hw => ?_,
    fun w hw => ?_⟩
  · rintro _ rfl h
    simp only [sets, exec_pcmp, execPcmp]
    exact setPredBy_sets h (hholds _ _)
  · rintro _ rfl h
    simp only [sets, exec_pcmpi, execPcmpi]
    exact setPredBy_sets h (hholds _ _)
  · rintro _ rfl h
    simp only [sets, exec_plog, execPlog]
    refine setPredBy_sets h ?_
    cases f <;> simp [plogOf]
  · rintro _ rfl h
    simp only [sets, exec_pmovToPred, execPmovToPred]
    refine setPredBy_sets h ?_
    simp [cArg_eq_srcC, BitVec.toNat_eq]
  · rintro _ rfl h
    rw [exec_pmovFromPred, execPmovFromPred, issueJob_go h]
    rfl
  · rintro _ rfl h
    rw [exec_selp, execSelp, issueJob_go h]
  · rw [hcode]
    exact encR_fields hw rfl
  · obtain ⟨hop, hcond, himm⟩ := encI_fields hw rfl
    exact ⟨hop, by rw [hcode, hcond, Nat.mul_div_cancel _ (by decide)], himm⟩
  · exact (encR_fields hw rfl).1
  · exact encR_fields hw rfl
  · exact encR_fields hw rfl
  · obtain ⟨hop, hp⟩ := encR_fields hw rfl
    exact ⟨hop, by omega⟩
end

section
/-! SUPPORT. The configuration of the matrix engine (R75, R260-R262, R268): the sources of TSHAPE before and at issue, the
fields of the configuration words, and an emptied accumulator. -/

namespace Sys2Proof.Machine

/-! ## Sources -/

/-- What is read depends on the streams alone. -/
theorem readFields_snd_congr : ∀ (fs : List Field) {j k : Job}, j.streams = k.streams →
    (readFields j fs).2 = (readFields k fs).2
  | [], _, _, _ => rfl
  | f :: fs, j, k, h => by
    have hstream (q : Fin 16) : j.stream q = k.stream q := by simp only [Job.stream, h]
    have hval : (readField j f).2 = (readField k f).2 := by
      unfold readField; split <;> simp only [hstream]
    have hjob : (readField j f).1.streams = (readField k f).1.streams := by
      unfold readField
      split
      · exact h
      · simp only [pop_streams, Job.setStream, hstream, h]
      · exact h
    simp only [readFields]
    cases f.role
    case dst => exact readFields_snd_congr fs h
    all_goals simp only [hval, readFields_snd_congr fs hjob]

theorem sourcesOf_tshape (j : Job) (tm : Tm) (d a b : Opnd) :
    (readFields j (fieldsOf j (.tshape tm d a b))).2 = sourcesOf j .m (.tshape tm d a b) :=
  readFields_snd_congr _ (issuing_streams j .m (.tshape tm d a b)).symm

/-! ## What issuing an M instruction leaves -/

theorem sourced_tcfg (j : Job) (e : Eng) (i : Instr) : (j.sourced e i).m.tcfg = j.m.tcfg := by
  rw [sourced_m, issuing_eq]

theorem sourced_rsvw (j : Job) (e : Eng) (i : Instr) : (j.sourced e i).m.rsvw = j.m.rsvw := by
  rw [sourced_m, issuing_eq]

/-! ## TSHAPE -/

/-- The value of source `n` of an M instruction. -/
def srcM (j : Job) (i : Instr) (n : Nat) : Nat := ((argAt (sourcesOf j .m i) n).scalar 32 (j.reg .m)).toNat

section
variable {s : State} {c : CoreId} {j : Job} {tm : Tm} {d a b : Opnd}

theorem exec_tshape_go (h : Issues s c .m j (.tshape tm d a b)) : exec (.tshape tm d a b) s = .next (s.setJob c
    (Job.done { j.sourced .m (.tshape tm d a b) with m := { (j.sourced .m (.tshape tm d a b)).m with
      shapeN := srcM j (.tshape tm d a b) 0, shapeK := srcM j (.tshape tm d a b) 1
      shapeM := srcM j (.tshape tm d a b) 2 } } .m 1)) := by
  rw [exec_tshape, execTshape, issueJob_go h]
  simp only [sourced_reg]
  rfl

/-- A value out of range is found at issue, whether or not the job is held (R260). -/
theorem valueFault_tshape (h : ∃ n ∈ [0, 1, 2], srcM j (.tshape tm d a b) n = 0 ∨ 64 < srcM j (.tshape tm d a b) n) :
    valueFault j (.tshape tm d a b) = some (.illegalOperand, 0x101) := by
  simp only [valueFault, sourcesOf_tshape, whenTrap]
  refine if_pos (List.any_eq_true.2 ?_)
  obtain ⟨n, hn, hbad⟩ := h
  exact ⟨_, List.mem_map_of_mem (f := fun n => (argAt (sourcesOf j .m (.tshape tm d a b)) n).scalar 32 (j.reg .m)) hn,
    decide_eq_true hbad⟩

/-- An M instruction that is due and ready, whose values are out of range, raises their fault. -/
theorem issue_valueFault {i : Instr} {cause : Cause} {val : W32} (ht : InTurn s c .m j)
    (hp : preciseFault s c j .m i = none) (hr : timedReady s c j i = .ok) (hv : valueFault j i = some (cause, val)) (occ : Nat)
    (eff : State → CoreId → Job → State) : issue s .m i occ eff = .next (s.setJob c (j.raise .m cause val)) := by
  have hgate : gate s c j .m i = .trap cause val := by
    simp [gate, hp, hr, hv, Eng.elastic, Job.skipping]
  rw [issue, withJob_of ht, issueState, hgate]

end

/-! ## TCFG -/

section
variable {s : State} {c : CoreId} {j : Job} {tm : Tm} {a : Opnd} {f : Fin 4}

theorem exec_tcfg_go (h : Issues s c .m j (.tcfg tm a f)) : exec (.tcfg tm a f) s = .next (s.setJob c
    (Job.done { j.sourced .m (.tcfg tm a f) with twinWait := false, m := { (j.sourced .m (.tcfg tm a f)).m with
      tcfg := j.m.tcfg.set f.val (BitVec.ofNat 32
        (cfgWrite (j.m.tcfg[f.val]).toNat (srcM j (.tcfg tm a f) 0) (cfgFields f)).1)
      rsvw := j.m.rsvw || (cfgWrite (j.m.tcfg[f.val]).toNat (srcM j (.tcfg tm a f) 0) (cfgFields f)).2 } } .m 1)) := by
  rw [exec_tcfg, execTcfg, issueJob_go h]
  simp only [sourced_reg, sourced_tcfg, sourced_rsvw]
  rfl

/-- TCFG0: the type fields of bytes 3 and 0, and a KIND of 1 or 2 (R262). -/
theorem cfgWrite_zero (old new : W32) : cfgWrite old.toNat new.toNat (cfgFields 0) =
    ((if new.toNat / 2 ^ 24 = 0 then old.toNat / 2 ^ 24 else new.toNat / 2 ^ 24) * 2 ^ 24 + new.toNat / 16 % 4 * 16
      + (if new.toNat / 4 % 4 = 1 ∨ new.toNat / 4 % 4 = 2 then new.toNat / 4 % 4 else old.toNat / 4 % 4) * 4
      + new.toNat % 4,
      decide (new.toNat / 2 ^ 24 = 0 ∨ ¬ (new.toNat / 4 % 4 = 1 ∨ new.toNat / 4 % 4 = 2))) := by
  have hn : new.toNat / 2 ^ 24 % 2 ^ 8 = new.toNat / 2 ^ 24 := Nat.mod_eq_of_lt (by have := new.isLt; omega)
  have ho : old.toNat / 2 ^ 24 % 2 ^ 8 = old.toNat / 2 ^ 24 := Nat.mod_eq_of_lt (by have := old.isLt; omega)
  simp only [cfgWrite, cfgFields, bitsAt_eq, hn, ho, decide_eq_true_eq, if_true]
  refine Prod.ext ?_ ?_
  · split_ifs <;> omega
  · grind

/-- TCFG1: a rounding of 0 or 1 and a type of 0 to 10 (R262). -/
theorem cfgWrite_one (old new : W32) : cfgWrite old.toNat new.toNat (cfgFields 1) =
    ((if new.toNat / 2 ^ 12 % 4 ≤ 1 then new.toNat / 2 ^ 12 % 4 else old.toNat / 2 ^ 12 % 4) * 2 ^ 12
      + new.toNat / 2 ^ 9 % 8 * 2 ^ 9 + (if new.toNat % 16 ≤ 10 then new.toNat % 16 else old.toNat % 16),
      decide (1 < new.toNat / 2 ^ 12 % 4 ∨ 10 < new.toNat % 16)) := by
  simp only [cfgWrite, cfgFields, bitsAt_eq, decide_eq_true_eq, if_true]
  refine Prod.ext ?_ ?_
  · split_ifs <;> omega
  · grind

/-- TCFG2 and TCFG3 have no reserved value (R262). -/
theorem cfgWrite_whole (old new : W32) {f : Fin 4} (h : f = 2 ∨ f = 3) :
    cfgWrite old.toNat new.toNat (cfgFields f) = (new.toNat, false) := by
  have hn : new.toNat % 2 ^ 32 = new.toNat := Nat.mod_eq_of_lt new.isLt
  rcases h with rfl | rfl <;> simp [cfgWrite, cfgFields, bitsAt_eq] <;> omega

end

/-! ## TZERO -/

theorem unchk_mark_false (m : MEng) (n q : Fin 8) :
    (m.mark n false).unchk.getLsbD q.val = (m.unchk.getLsbD q.val && decide (q ≠ n)) := by
  have hn : (BitVec.ofNat 8 (2 ^ n.val)).getLsbD q.val = decide (q = n) := by
    rw [BitVec.getLsbD_ofNat, Nat.testBit_two_pow]
    simp [q.isLt, Fin.ext_iff, eq_comm]
  have hmark : (m.mark n false).unchk = m.unchk &&& ~~~BitVec.ofNat 8 (2 ^ n.val) := rfl
  rw [hmark, BitVec.getLsbD_and, BitVec.getLsbD_not, hn, decide_eq_true q.isLt, Bool.true_and, decide_not]

theorem Acc.zero_el (k : AccKind) (p : Nat) : (Acc.zero k).el p = 0 := by
  simp [Acc.zero, Acc.el, Array.getD, Array.getElem_replicate]

theorem exec_tzero_go {s : State} {c : CoreId} {j : Job} {tm : Tm} {n : Fin 8} (h : Issues s c .m j (.tzero tm n)) :
    exec (.tzero tm n) s = .next (s.setJob c (Job.done { j.issuing .m (.tzero tm n) with
      m := ((j.issuing .m (.tzero tm n)).m.setAcc n (Acc.zero .none)).mark n false } .m 1)) := by
  rw [exec_tzero, execTzero, issueJob_go h]
  rfl

end Sys2Proof.Machine
end

section

open Sys2Proof Sys2Proof.Machine

/-- Settles O27: TSHAPE within and out of range, the fields of each configuration word, and the accumulator that TZERO
empties. -/
theorem matrixConfiguration : Obligations.MatrixConfiguration := by
  intro s c j tm d a b n src set configures
  have hconf (f : Fin 4) {x : Nat} {r : Bool} {bad : Prop} (hi : Issues s c .m j (.tcfg tm a f))
      (hw : cfgWrite (j.m.tcfg[f.val]).toNat (srcM j (.tcfg tm a f) 0) (cfgFields f) = (x, r)) (hr : r = true ↔ bad) :
      configures (.tcfg tm a f) f x bad := by
    refine ⟨_, ?_, by rw [exec_tcfg_go hi, hw]⟩
    rw [Bool.or_eq_true, hr]
  refine ⟨?_, ?_, ?_, ?_, ?_, ?_⟩
  · rintro _ rfl h _
    exact exec_tshape_go h
  · rintro _ rfl ht hp hr hbad
    rw [exec_tshape, execTshape, issueJob, issue_valueFault ht hp hr (valueFault_tshape hbad)]
  · rintro _ rfl h x old kind
    exact hconf 0 h (cfgWrite_zero _ _) (decide_eq_true_iff ..)
  · rintro _ rfl h x old
    exact hconf 1 h (cfgWrite_one _ _) (decide_eq_true_iff ..)
  · rintro _ f rfl hf h
    exact hconf f h (cfgWrite_whole _ _ hf) (by simp)
  · rintro _ rfl h
    refine ⟨_, exec_tzero_go h, fun p _ => ?_, ?_, ?_, fun q hq => ⟨?_, ?_⟩, ?_, ?_, ?_⟩
    · rw [accAt_mark, accAt_setAcc, Acc.zero_el]
    · rw [accAt_mark, accAt_setAcc]; rfl
    · rw [unchk_mark_false]; simp
    · rw [accAt_mark, accAt_setAcc_ne _ _ _ _ hq, issuing_eq]; rfl
    · rw [unchk_mark_false, issuing_eq]; simp [hq, MEng.setAcc]
    all_goals rw [issuing_eq]; rfl
end

section
/-! SUPPORT. What issuing an instruction and reading its sources leave of a job's identity and of its energy interface. -/

namespace Sys2Proof.Machine

section
variable (j : Job) (e : Eng) (i : Instr)

@[simp] theorem issuing_part : (j.issuing e i).part = j.part := by rw [issuing_eq]
@[simp] theorem issuing_ctx : (j.issuing e i).ctx = j.ctx := by rw [issuing_eq]
@[simp] theorem issuing_steward : (j.issuing e i).steward = j.steward := by rw [issuing_eq]
@[simp] theorem issuing_jobid : (j.issuing e i).jobid = j.jobid := by rw [issuing_eq]
@[simp] theorem issuing_cluster : (j.issuing e i).cluster = j.cluster := by rw [issuing_eq]
@[simp] theorem issuing_slot : (j.issuing e i).slot = j.slot := by rw [issuing_eq]
@[simp] theorem issuing_hasA : (j.issuing e i).hasA = j.hasA := by rw [issuing_eq]
@[simp] theorem issuing_save : (j.issuing e i).save = j.save := by rw [issuing_eq]
@[simp] theorem issuing_flag : (j.issuing e i).flag = j.flag := by rw [issuing_eq]
@[simp] theorem issuing_var : (j.issuing e i).var = j.var := by rw [issuing_eq]
@[simp] theorem issuing_slots : (j.issuing e i).slots = j.slots := by rw [issuing_eq]
@[simp] theorem issuing_jshadow : (j.issuing e i).jshadow = j.jshadow := by rw [issuing_eq]
@[simp] theorem issuing_raised : (j.issuing e i).raised = j.raised := by rw [issuing_eq]
@[simp] theorem issuing_vec : (j.issuing e i).c.vec = j.c.vec := by rw [issuing_eq]
@[simp] theorem issuing_tpc : (j.issuing e i).c.tpc = j.c.tpc := by rw [issuing_eq]

@[simp] theorem sourced_part : (j.sourced e i).part = j.part := by rw [sourced_eq]; exact issuing_part ..
@[simp] theorem sourced_ctx : (j.sourced e i).ctx = j.ctx := by rw [sourced_eq]; exact issuing_ctx ..
@[simp] theorem sourced_steward : (j.sourced e i).steward = j.steward := by rw [sourced_eq]; exact issuing_steward ..
@[simp] theorem sourced_jobid : (j.sourced e i).jobid = j.jobid := by rw [sourced_eq]; exact issuing_jobid ..

/-- The sources of an instruction that issues, read. -/
theorem readFields_issuing :
    readFields (j.issuing e i) (fieldsOf (j.issuing e i) i) = (j.sourced e i, sourcesOf j e i) := rfl

theorem cArg_issuing (n : Nat) : cArg (j.issuing .c i).c.arch (sourcesOf j .c i) n = srcC j i n := by
  rw [issuing_arch]; rfl

end

end Sys2Proof.Machine
end

section
/-! SUPPORT. Signals, the end of a job, and the entry of and the return from the handler (R104-R108, R130, R131, R422). -/

namespace Sys2Proof.Machine

/-! ## SIG -/

section
variable {s : State} {c : CoreId} {j : Job} {a : Opnd} {b : Fin 64}

/-- The effect of a SIG whose number is in range, by the mapping of its semaphore. -/
theorem exec_sig_go (h : Issues s c .c j (.sig a b)) : exec (.sig a b) s = .next
    (if (srcC j (.sig a b) 0).toNat / 1024 ≠ 0 then
      s.setJob c ((j.issuing .c (.sig a b)).raise .c .protection (srcC j (.sig a b) 0))
    else match s.semMapped j.ctx (srcC j (.sig a b) 0).toNat with
      | none => s.setJob c ((j.issuing .c (.sig a b)).raise .c .protection (srcC j (.sig a b) 0))
      | some n =>
        if s.semOwnerOf n = ctxNum j.ctx then
          (s.stageSig j (srcC j (.sig a b) 0).toNat b).setJob c ((j.sourced .c (.sig a b)).done .c 1)
        else if j.hasA && decide (0 < j.a.beforeMeet) || !s.live j.ctx then s
        else match s.escape c (j.issuing .c (.sig a b)) with
          | .fail cause pa => s.setJob c ((j.issuing .c (.sig a b)).raise .c cause (BitVec.ofNat 32 pa))
          | .stall s1 => s1
          | .go s1 => (s1.semOr n ((1 : W64) <<< b.val)).setJob c ((j.sourced .c (.sig a b)).done .c 1)) := by
  rw [exec_sig, execSig, issue_go h]
  simp only [readFields_issuing, cArg_issuing, issuing_ctx, issuing_hasA, issuing_a, State.ownSem, State.stageSig,
    issuing_cluster, issuing_slot, decide_eq_true_eq] <;> rfl

end

/-! ## The handler -/

/-- A class T trap of a program enters the handler where it may, and escalates to class C elsewhere (R107, R131). -/
theorem exec_trap_go {s : State} {c : CoreId} {j : Job} {k : BitVec 16} (h : Issues s c .c j (.trap k)) :
    exec (.trap k) s = .next (s.setJob c (if j.c.vec.getLsbD 0 && !j.c.arch.inh then
        (j.issuing .c (.trap k)).enter .trapSw (BitVec.ofNat 32 k.toNat) (j.c.arch.pc + 4)
      else { j.issuing .c (.trap k) with raised := j.raised ++ [{ eng := .c, cause := .trapSw, val := BitVec.ofNat 32 k.toNat
                                                                  pc := j.c.arch.pc + 4, classC := true, addr := 0 }] })) := by
  rw [exec_trap, execTrap, issue_go h]
  simp only [CEng.en, issuing_arch, issuing_vec, issuing_raised, BitVec.ofNat_toNat]
  split <;> rfl

theorem handler_toNat (x : CEng) (pc : VAddr) :
    (x.handler pc).toNat = pc.toNat / 2 ^ 32 * 2 ^ 32 + x.vec.toNat / 4 * 4 := by
  have hpc : pc.toNat < 2 ^ 48 := pc.isLt
  have hvec : x.vec.toNat < 2 ^ 32 := x.vec.isLt
  rw [handler_eq, BitVec.toNat_ofNat, Nat.mod_eq_of_lt (by omega)]

theorem exec_eret_go {s : State} {c : CoreId} {j : Job} (h : Issues s c .c j .eret) :
    exec .eret s = .next (if j.c.tpc.toNat % 4 ≠ 0 then s.setJob c ((j.issuing .c .eret).raise .c .align j.c.tpc)
      else s.setJob c (j.issuing .c .eret).leaveHandler) := by
  rw [exec_eret, execEret, issue_go h]
  simp only [issuing_tpc]

/-- Where a return of C at `pc` goes on: at TRAPPC within the region of `pc` (R108, R130). -/
def CEng.resumeAt (x : CEng) (pc : VAddr) : VAddr := (pc.toNat / 2 ^ 32 * 2 ^ 32 + x.tpc.toNat : Nat)

theorem resumeAt_toNat (x : CEng) (pc : VAddr) : (x.resumeAt pc).toNat = pc.toNat / 2 ^ 32 * 2 ^ 32 + x.tpc.toNat := by
  have hpc : pc.toNat < 2 ^ 48 := pc.isLt
  have htpc : x.tpc.toNat < 2 ^ 32 := x.tpc.isLt
  rw [CEng.resumeAt, BitVec.natCast_eq_ofNat, BitVec.toNat_ofNat, Nat.mod_eq_of_lt (by omega)]

/-- A step of C that counts changes only what the checker needs. -/
theorem traced_spec (j : Job) (pc : VAddr) (act : CAct) :
    ∃ g, j.traced pc act = { j with c := g } ∧ g.tpc = j.c.tpc ∧ g.arch = j.c.arch := by
  unfold Job.traced; split
  · exact ⟨_, rfl, rfl, rfl⟩
  · exact ⟨j.c, rfl, rfl, rfl⟩

/-- C `x` back from the handler at `h`, at a take boundary. -/
def CEng.resumed (x : CEng) (h : VAddr) : CEng :=
  let arch := { x.arch with pc := h, inh := false }
  { x with arch, ckpt := arch, span := [], spanIn := [], acted := true }

/-- The job whose C leaves the handler for `h`, once its trace is written. -/
def Job.resumed (j1 : Job) (h : VAddr) : Job :=
  Job.boundary { j1 with c := { j1.c.upd fun a => { a with pc := h, inh := false } with acted := true } }

theorem leaveHandler_eq (j : Job) : j.leaveHandler =
    (j.traced j.c.arch.pc (.jump (j.c.resumeAt j.c.arch.pc) false)).resumed (j.c.resumeAt j.c.arch.pc) := by
  unfold Job.leaveHandler Job.resumed CEng.resumeAt
  rfl

theorem resumed_eq (j : Job) (k : CEng) (h : VAddr) : Job.resumed { j with c := k } h = { j with c := k.resumed h } := by
  simp only [Job.resumed, Job.boundary, CEng.resumed, CEng.upd]

/-- The return goes on at TRAPPC and ends handler state (R108, R130). -/
theorem leaveHandler_spec (j : Job) : ∃ g, j.leaveHandler = { j with c := g } ∧ g.tpc = j.c.tpc ∧
    g.arch = { j.c.arch with pc := j.c.resumeAt j.c.arch.pc, inh := false } := by
  obtain ⟨k, hk, htpc, harch⟩ := traced_spec j j.c.arch.pc (.jump (j.c.resumeAt j.c.arch.pc) false)
  refine ⟨k.resumed (j.c.resumeAt j.c.arch.pc), ?_, ?_, ?_⟩
  · rw [leaveHandler_eq, hk, resumed_eq]
  all_goals simp only [CEng.resumed, harch, htpc]

end Sys2Proof.Machine
end

section

open Sys2Proof Sys2Proof.Machine

/-- Settles O11: a SIG by the mapping of its semaphore, TRAP by the entry of the handler, and ERET by the return from it. -/
theorem signalsEndAndTraps : Obligations.SignalsEndAndTraps := by
  refine ⟨fun s c j a b st => ⟨?_, ?_, ?_, ?_⟩, fun s c j k => ⟨?_, ?_, ?_, ?_⟩⟩
  · rintro _ rfl h hx n hn hown x hcard
    rw [exec_sig_go h, if_neg (by omega)]
    simp only [hn, if_pos hown, State.stageSig, hcard]
  · rintro _ rfl h hx n hn hother hmeet hlive s1 hesc
    have hready : (j.hasA && decide (0 < j.a.beforeMeet) || !s.live j.ctx) = false := by
      cases hA : j.hasA
      · simp [hlive]
      · simp [hlive, hmeet hA]
    rw [exec_sig_go h, if_neg (by omega)]
    simp only [hn, if_neg hother, hready, Bool.false_eq_true, if_false, hesc]
  · rintro _ rfl h hbad
    rw [exec_sig_go h]
    by_cases hx : (srcC j (.sig a b) 0).toNat / 1024 ≠ 0
    · rw [if_pos hx]
    · rw [if_neg hx, hbad.resolve_left (by omega)]
  · rintro _ rfl h
    rw [exec_endJob, execEndJob, issue_go h]
  · rintro _ rfl h hen hinh
    obtain ⟨g, hg, he⟩ := enter_spec (j.issuing .c (.trap k)) .trapSw (BitVec.ofNat 32 k.toNat) (j.c.arch.pc + 4)
    have harch := he.arch
    rw [issuing_arch] at harch
    refine ⟨_, { j.issuing .c (.trap k) with c := g }, ?_, rfl, ?_, he.tval, he.code, ?_, ?_, ?_, ?_, ?_, ?_,
      issuing_a .., issuing_v .., issuing_m j (by decide) _, issuing_streams ..⟩
    · rw [exec_trap_go h, hen, hinh, ← hg]
      rfl
    · exact he.tpc.trans (by rw [BitVec.ofNat_toNat])
    · exact (congrArg CArch.inh harch :)
    · have hpc := congrArg CArch.pc harch
      exact (congrArg BitVec.toNat hpc).trans (by rw [handler_toNat, issuing_vec])
    · exact (congrArg CArch.s harch :)
    · exact (congrArg CArch.p harch :)
    · exact (congrArg CArch.loops harch :)
    · exact (congrArg CArch.ras harch :)
  · rintro _ rfl h hno
    have hcond : (j.c.vec.getLsbD 0 && !j.c.arch.inh) = false := by 
      rcases hno with h0 | h0 <;> simp only [h0, Bool.false_and, Bool.not_true, Bool.and_false]
    rw [exec_trap_go h, hcond]
    rfl
  · rintro _ rfl h hal
    obtain ⟨g, hg, htpc, harch⟩ := leaveHandler_spec (j.issuing .c .eret)
    rw [issuing_arch] at harch
    refine ⟨{ j.issuing .c .eret with c := g }, ?_, (congrArg CArch.inh harch :), ?_, (congrArg CArch.s harch :),
      (congrArg CArch.p harch :), htpc.trans (issuing_tpc ..), issuing_a .., issuing_v .., issuing_m j (by decide) _⟩
    · rw [exec_eret_go h, if_neg (not_not.2 hal), hg]
    · have hpc := congrArg CArch.pc harch
      exact (congrArg BitVec.toNat hpc).trans (by rw [resumeAt_toNat, issuing_tpc])
  · rintro _ rfl h hal
    rw [exec_eret_go h, if_pos hal]
end

section
/-! SUPPORT. The energy interface and the variants of a job (R109-R117, R358, R440). -/

namespace Sys2Proof.Machine

/-! ## BQRY, JOULE, ECLASS -/

theorem sat32_eq (n : Nat) : sat32 n = if n ≤ 0xFFFFFFFF then BitVec.ofNat 32 n else (0xFFFFFFFF : W32) := by
  rw [sat32, satTo]
  split <;> rfl

/-- The next governor boundary is 1 to 20,000 time-base cycles away (R109). -/
theorem toBoundary_bounds (time : Nat) : 1 ≤ toBoundary time ∧ toBoundary time ≤ 20000 ∧
    (time + toBoundary time) % 20000 = 0 := by
  unfold toBoundary
  omega

theorem sat32_toBoundary (time : Nat) : sat32 (toBoundary time) = BitVec.ofNat 32 (toBoundary time) := by
  have := toBoundary_bounds time
  rw [sat32_eq, if_pos (by omega)]

section
variable {s : State} {c : CoreId} {j : Job}

theorem outsideC_go {i : Instr} (h : Issues s c .c j i) (d : Opnd) (f : State → CoreId → Job → Job × W32) :
    outsideC i d f s = .next (s.setJob c (((((f s c (j.issuing .c i)).1).log .c ((f s c (j.issuing .c i)).2.setWidth 64)).result
      .c d fun _ => (f s c (j.issuing .c i)).2.setWidth 64).done .c 1)) := by
  rw [outsideC, issue_go h]

/-! ## VARREG, THRACK, PHASE, YIELD -/

theorem exec_varreg_some {q : Fin 16} {k : Fin 8} (h : Issues s c .c j (.varreg q k)) {v : Variant}
    (hv : variantOf ((j.stream q).head.toNat % 2 ^ 256) = some v) : exec (.varreg q k) s = .next (s.setJob c
      (({ (j.issuing .c (.varreg q k)).pop q with slots := j.slots.set k.val (some v) k.isLt } : Job).done .c 1)) := by
  rw [exec_varreg, execVarreg, issue_go h]
  simp only [issuing_stream, hv, issuing_slots]

theorem exec_varreg_none {q : Fin 16} {k : Fin 8} (h : Issues s c .c j (.varreg q k))
    (hv : variantOf ((j.stream q).head.toNat % 2 ^ 256) = none) : exec (.varreg q k) s = .next (s.setJob c
      ((j.issuing .c (.varreg q k)).raise .c .illegalOperand
        (BitVec.ofNat 32 ((variantFault ((j.stream q).head.toNat % 2 ^ 256)).getD 0)))) := by
  rw [exec_varreg, execVarreg, issue_go h]
  simp only [issuing_stream, hv]

theorem exec_thrack_go {f : FlagAns} (h : Issues s c .c j (.thrack f)) : exec (.thrack f) s = .next (s.setJob c
    (({ j.issuing .c (.thrack f) with flag := j.flag.answer f (j.save != 0) } : Job).done .c 1)) := by
  rw [exec_thrack, execThrack, issueJob_go h, ← issuing_flag j .c (.thrack f), ← issuing_save j .c (.thrack f)]
  rfl

/-- The answers to a flag (R116, R358): without a flag pending none counts, and a yield that cannot be saved is an accept
(R440). -/
theorem answer_eq (x : FlagStat) (f : FlagAns) (save : W64) : x.answer f (save != 0) =
    if x.pend = false then x
    else if f = .downgrade then { x with pend := false, ans := 1, dgreq := true }
    else if f = .yield ∧ save ≠ 0 then { x with pend := false, ans := 2, yreq := true }
    else { x with pend := false, ans := 0 } := by
  obtain ⟨b, hb⟩ : ∃ b, (save != 0) = b := ⟨_, rfl⟩
  have hsave : save ≠ 0 ↔ b = true := by rw [← hb, bne_iff_ne]
  simp only [FlagStat.answer, hb, hsave]
  cases x.pend
  · rfl
  · cases f <;> cases b <;> rfl

theorem slotList_of_none {l : Vector (Option Variant) 8} (h : ∀ x ∈ l.toList, x = none) : slotList l = [] := by
  rw [slotList, List.filterMap_eq_nil_iff]
  intro k _
  rw [h l[k.val] (by simp), Option.map_none]

/-- A PHASE of a job without a registered slot only writes its identifier (R115). -/
theorem phaseTry_noSlot (h : ∀ x ∈ j.slots.toList, x = none) (k : BitVec 10) (since : Nat) :
    phaseTry s c j k since = s.setJob c (j.phaseDone k s.time j.var) := by
  have hsel : selectPhase s c j (s.chargeNow j) = .noSlot := by
    simp only [selectPhase, slotList_of_none h, List.isEmpty_nil, if_true]
  rw [phaseTry, hsel]

end

end Sys2Proof.Machine
end

section

open Sys2Proof Sys2Proof.Machine

/-- Settles O12: what each query writes, and the effect of VARREG, THRACK, PHASE and YIELD on the job's variants and flags. -/
theorem energyAndVariants : Obligations.EnergyAndVariants := by
  refine ⟨fun s c j d n => ?_, fun s c j q k f n => ⟨?_, ?_, ?_, ?_, ?_, ?_⟩⟩
  · intro sat isl writes
    have hsat (n : Nat) : sat32 n = sat n := sat32_eq n
    refine ⟨?_, ?_, ?_, ?_, ?_, ?_, ?_⟩ <;> rintro _ rfl h
    · simp only [writes, exec_bqry, execBqry]
      exact outsideC_go h ..
    · simp only [writes, exec_bqry, execBqry, ← hsat]
      exact outsideC_go h ..
    · simp only [writes, exec_bqry, execBqry, ← hsat, ← issuing_var j .c (.bqry d 2)]
      exact outsideC_go h ..
    · obtain ⟨hlow, hhigh, hmod⟩ := toBoundary_bounds s.time
      refine ⟨toBoundary s.time, hlow, hhigh, hmod, ?_⟩
      simp only [writes, exec_bqry, execBqry, ← sat32_toBoundary]
      exact outsideC_go h ..
    · simp only [writes, exec_joule, execJoule]
      exact outsideC_go h ..
    · simp only [writes, exec_joule, execJoule, ← issuing_jshadow j .c (.joule d true)]
      exact outsideC_go h ..
    · simp only [writes, exec_eclass, execEclass, ← hsat]
      exact outsideC_go h ..
  · rintro _ rfl h v hv
    exact exec_varreg_some h hv
  · rintro _ rfl h hv
    exact ⟨_, exec_varreg_none h hv⟩
  · rintro _ rfl h
    rw [exec_thrack_go h, answer_eq]
  · rintro _ rfl h hy hslots
    rw [exec_phase, execPhase, issue_go h]
    rw [← issuing_slots j .c (.phase n)] at hslots
    simp only [issuing_flag, hy, Bool.false_eq_true, if_false, phaseTry_noSlot hslots, Job.phaseDone, issuing_var]
  · rintro _ rfl h hs
    rw [exec_yield, execYield, issue_go h]
    simp only [issuing_save, hs, if_true]
  · rintro _ rfl h hs
    rw [exec_yield, execYield, issue_go h]
    simp only [issuing_save, if_neg hs]
end

section
/-! SUPPORT. The steward operations (R118-R124) at their issue: what each does with the value of its handle. -/

namespace Sys2Proof.Machine

/-! ## The frame -/

section
variable {s : State} {c : CoreId} {j : Job} {d a b : Opnd} {i : Instr}

/-- A steward operation with a handle in A, of which C does not yet wait for the end, starts with the handle's value. -/
theorem stewardOp_go (h : Issues s c .c j i) (hw : j.c.wait = .run)
    (hf : fieldsOf (j.issuing .c i) i = [fA a, fD d]) (start poll : State → CoreId → Job → List W64 → State) :
    stewardOp i start poll s = .next (start s c (j.sourced .c i) [(srcC j i 0).setWidth 64]) := by
  have hsrc : (sourcesOf j .c i).map (fun v => (v.scalar 32 ((j.issuing .c i).reg .c)).setWidth 64) =
      [(srcC j i 0).setWidth 64] := by
    simp only [srcC, sourcesOf, hf, issuing_reg]
    rfl
  rw [stewardOp, withJob_of h.toInTurn]
  simp only [hw, issueState, h.go, h.adder, Bool.false_eq_true, if_false]
  exact congrArg (fun x => Host.Outcome.next (start s c (j.sourced .c i) x)) hsrc

@[simp] theorem argN_word (x : W32) : argN [x.setWidth 64] 0 = x.toNat := by
  rw [argN, List.getD_cons_zero, BitVec.toNat_setWidth_of_le (by decide)]

@[simp] theorem argW_head (x : W64) : argW [x] 0 = x := rfl

/-! ## PREEMPT -/

theorem exec_preempt_none (h : Issues s c .c j (.preempt d a)) (hw : j.c.wait = .run)
    (hx : s.ctxHandle j.part (srcC j (.preempt d a) 0).toNat = none) :
    exec (.preempt d a) s = .next (s.setJob c ((j.sourced .c (.preempt d a)).opDone d .badHandle)) := by
  rw [exec_preempt, execPreempt, stewardOp_go h hw rfl]
  simp only [argN_word, sourced_part, hx]

theorem exec_preempt_some (h : Issues s c .c j (.preempt d a)) (hw : j.c.wait = .run) {x : CtxId}
    (hx : s.ctxHandle j.part (srcC j (.preempt d a) 0).toNat = some x) : exec (.preempt d a) s = .next
    (if x = j.ctx ∨ (s.vacating x = true ∧ (s.part j.part).wrapPhase = .vacating) then
      s.setJob c ((j.sourced .c (.preempt d a)).opDone d .refused)
    else if s.preemptBusy x then s.setJob c ((j.sourced .c (.preempt d a)).opDone d .busy)
    else if s.runningOf x = [] ∧ (s.suspendAll x).fetchersStopped x = true then
      (s.suspendAll x).setJob c ((j.sourced .c (.preempt d a)).opDone d .none)
    else (s.preempt x c j.jobid).setJob c ((j.sourced .c (.preempt d a)).goesOn
      [(srcC j (.preempt d a) 0).setWidth 64, if s.runningOf x = [] then 1 else 0])) := by
  rw [exec_preempt, execPreempt, stewardOp_go h hw rfl]
  simp only [argN_word, argW_head, sourced_part, sourced_ctx, sourced_jobid, hx, Bool.or_eq_true, Bool.and_eq_true,
    decide_eq_true_eq, List.isEmpty_iff]

/-! ## QSUSP, QRES -/

theorem midPacket_iff (u : Queue) : u.midPacket = true ↔ u.state = .fetching ∧ 0 < u.opsLeft := by
  rw [Queue.midPacket, Bool.and_eq_true, decide_eq_true_eq, decide_eq_true_eq]

/-- A suspension at a packet boundary (R121). -/
theorem suspendQueue_boundary {x : CtxId} {q : Nat} (h : (s.queue x q).midPacket = false) : s.suspendQueue x q =
    if (s.queue x q).state = .waiting then (s.setQueue x q (s.queue x q).suspend).note (.suspend x q)
    else s.setQueue x q (s.queue x q).suspend := by
  simp only [State.suspendQueue, Queue.stop, h, Bool.false_eq_true, if_false]

/-- A suspension within a packet waits for its end (R121, R390). -/
theorem suspendQueue_midPacket {x : CtxId} {q : Nat} (h : (s.queue x q).midPacket = true) :
    s.suspendQueue x q = s.setQueue x q { s.queue x q with stopping := true } := by
  have hst : (s.queue x q).state ≠ .waiting := by
    rw [((midPacket_iff _).1 h).1]
    decide
  simp only [State.suspendQueue, Queue.stop, h, if_true, if_neg hst]

theorem exec_qsusp_none (h : Issues s c .c j (.qsusp d a)) (hw : j.c.wait = .run)
    (hx : s.queueHandle j.part (srcC j (.qsusp d a) 0).toNat = none) :
    exec (.qsusp d a) s = .next (s.setJob c ((j.sourced .c (.qsusp d a)).opDone d .badHandle)) := by
  rw [exec_qsusp, execQsusp, stewardOp_go h hw rfl]
  simp only [argN_word, sourced_part, hx]

theorem exec_qsusp_some (h : Issues s c .c j (.qsusp d a)) (hw : j.c.wait = .run) {x : CtxId} {q : Nat}
    (hx : s.queueHandle j.part (srcC j (.qsusp d a) 0).toNat = some (x, q)) : exec (.qsusp d a) s = .next
    (if (s.queue x q).barred then s.setJob c ((j.sourced .c (.qsusp d a)).opDone d .none)
    else if (s.queue x q).midPacket then
      (s.suspendQueue x q).setJob c ((j.sourced .c (.qsusp d a)).goesOn [(srcC j (.qsusp d a) 0).setWidth 64])
    else (s.suspendQueue x q).setJob c ((j.sourced .c (.qsusp d a)).opDone d .done)) := by
  rw [exec_qsusp, execQsusp, stewardOp_go h hw rfl]
  simp only [argN_word, sourced_part, hx]

theorem exec_qres_none (h : Issues s c .c j (.qres d a)) (hw : j.c.wait = .run)
    (hx : s.queueHandle j.part (srcC j (.qres d a) 0).toNat = none) :
    exec (.qres d a) s = .next (s.setJob c ((j.sourced .c (.qres d a)).opDone d .badHandle)) := by
  rw [exec_qres, execQres, stewardOp_go h hw rfl]
  simp only [argN_word, sourced_part, hx]

/-- What QRES does with a queue in each of its states (R121, R390). -/
theorem exec_qres_some (h : Issues s c .c j (.qres d a)) (hw : j.c.wait = .run) {x : CtxId} {q : Nat}
    (hx : s.queueHandle j.part (srcC j (.qres d a) 0).toNat = some (x, q)) : exec (.qres d a) s = .next
    (if (s.queue x q).state = .parked ∨ (s.queue x q).state = .halted then
      s.setJob c ((j.sourced .c (.qres d a)).opDone d .refused)
    else if (s.queue x q).state = .suspended then
      (s.setQueue x q (s.queue x q).resume).setJob c ((j.sourced .c (.qres d a)).opDone d .done)
    else s.setJob c ((j.sourced .c (.qres d a)).opDone d .none)) := by
  rw [exec_qres, execQres, stewardOp_go h hw rfl]
  simp only [argN_word, sourced_part, hx]
  cases (s.queue x q).state <;> rfl

/-! ## SEMMAP -/

/-- The effect of a SEMMAP whose handle names context `x` or none, and whose target is `p` or none (R122). -/
theorem exec_semmap_go (h : Issues s c .c j (.semmap a b)) : exec (.semmap a b) s = .next
    (match (if (srcC j (.semmap a b) 0).toNat / 1024 % 64 = 0 then
        s.ctxHandle j.part ((srcC j (.semmap a b) 0).toNat / 65536) else none),
      s.semTarget j.part (srcC j (.semmap a b) 1).toNat with
    | none, _ => s.setJob c ((j.issuing .c (.semmap a b)).raise .c .protection (srcC j (.semmap a b) 0))
    | some _, none => s.setJob c ((j.issuing .c (.semmap a b)).raise .c .protection (srcC j (.semmap a b) 1))
    | some n, some p => (s.setCtx n { s.ctx n with
        semmap := SMap.set 0 (s.ctx n).semmap ((srcC j (.semmap a b) 0).toNat % 1024) p }).setJob c
          ((j.sourced .c (.semmap a b)).done .c 1)) := by
  rw [exec_semmap, execSemmap, issue_go h]
  simp only [readFields_issuing, cArg_issuing, issuing_part, bitsAt_eq]
  rfl

theorem semTarget_remove (p : PartId) : s.semTarget p 0xFFFFFFFF = some 0 := rfl

theorem semTarget_own {p : PartId} {n : Nat} (hn : n < 8192) (hp : s.cluPart (semClu n) = some p) :
    s.semTarget p n = some (n + 1) := by
  rw [State.semTarget, if_neg (by omega), if_pos ⟨hn, hp⟩]

theorem semTarget_bad {p : PartId} {n : Nat} (hn : n ≠ 0xFFFFFFFF) (hp : 8192 ≤ n ∨ s.cluPart (semClu n) ≠ some p) :
    s.semTarget p n = none := by
  rw [State.semTarget, if_neg hn, if_neg]
  rintro ⟨hlt, hpart⟩
  exact hp.elim (by omega) fun hne => hne hpart

/-! ## DRAINM -/

theorem drained_iff (k : CoreId) : s.drained k = true ↔
    ∀ x, s.job k = some x → x.m.flights = [] ∧ x.m.pend = [] ∧ x.m.flagFlights = [] := by
  unfold State.drained
  cases s.job k <;> simp [and_assoc]

/-- DRAINM of a core: it is done at once where the core is drained, and waits elsewhere (R123). -/
def drainOf (s : State) (c : CoreId) (j : Job) (d : Opnd) (args : List W64) (k : CoreId) : State :=
  if s.drained k then s.setJob c (j.opDone d .done) else s.setJob c (j.goesOn args)

theorem exec_drainm_steward (h : Issues s c .c j (.drainm d a)) (hw : j.c.wait = .run) (hs : j.steward = true) :
    exec (.drainm d a) s = .next (match s.coreHandle j.part (srcC j (.drainm d a) 0).toNat with
      | none => s.setJob c ((j.sourced .c (.drainm d a)).opDone d .badHandle)
      | some k => drainOf s c (j.sourced .c (.drainm d a)) d [(srcC j (.drainm d a) 0).setWidth 64] k) := by
  rw [exec_drainm, execDrainm, stewardOp_go h hw rfl]
  simp only [argN_word, sourced_steward, sourced_part, hs, if_true]
  rfl

theorem exec_drainm_task (h : Issues s c .c j (.drainm d a)) (hw : j.c.wait = .run) (hs : j.steward = false) :
    exec (.drainm d a) s = .next (if (srcC j (.drainm d a) 0).toNat = c.val then
        drainOf s c (j.sourced .c (.drainm d a)) d [(srcC j (.drainm d a) 0).setWidth 64] c
      else s.setJob c (j.raise .c .protection (srcC j (.drainm d a) 0))) := by
  rw [exec_drainm, execDrainm, stewardOp_go h hw rfl]
  simp only [argN_word, sourced_steward, hs, Bool.false_eq_true, if_false, h.job, BitVec.ofNat_toNat, BitVec.setWidth_eq]
  rfl

/-! ## RSEED -/

/-- An RSEED that names the job's own identifier, another's as a steward, or another's in task mode (R124). -/
theorem exec_rseed_go (h : Issues s c .c j (.rseed a b)) : exec (.rseed a b) s = .next
    (if srcC j (.rseed a b) 0 = j.jobid then
      s.setJob c ({ j.sourced .c (.rseed a b) with nseed := some (srcC j (.rseed a b) 1) }.done .c 1)
    else if j.steward = false then
      s.setJob c ((j.issuing .c (.rseed a b)).raise .c .protection (srcC j (.rseed a b) 0))
    else match s.jobNamed j.part (srcC j (.rseed a b) 0) with
      | some (k, o) =>
        (s.setJob k { o with nseed := some (srcC j (.rseed a b) 1) }).setJob c ((j.sourced .c (.rseed a b)).done .c 1)
      | none =>
        match s.stoppedNamed j.part (srcC j (.rseed a b) 0) with
        | some y =>
          match s.seedStopped y ((srcC j (.rseed a b) 0).toNat / 2 ^ 28) (srcC j (.rseed a b) 1) with
          | some s1 => s1.setJob c ((j.sourced .c (.rseed a b)).done .c 1)
          | none => s.seedWait y ((srcC j (.rseed a b) 0).toNat / 2 ^ 28)
        | none => s.setJob c ((j.issuing .c (.rseed a b)).raise .c .protection (srcC j (.rseed a b) 0))) := by
  rw [exec_rseed, execRseed, issue_go h]
  simp only [readFields_issuing, cArg_issuing, issuing_part, issuing_steward, issuing_jobid]
  by_cases hid : srcC j (.rseed a b) 0 = j.jobid
  · cases j.steward <;> simp only [hid, if_true] <;> rfl
  · cases j.steward <;> simp only [hid, if_false] <;> rfl

end

end Sys2Proof.Machine
end

section

open Sys2Proof Sys2Proof.Machine

/-- Settles O13: each steward operation by what its handle names. -/
theorem stewardOperations : Obligations.StewardOperations := by
  refine ⟨fun s c j d a b hw => ?_, fun s c j d a b hw => ?_⟩
  · intro reports waits vacated stopped
    refine ⟨?_, ?_, ?_, ?_, ?_, ?_, ?_, ?_, ?_, ?_, ?_, ?_, ?_, ?_⟩ <;> rintro _ rfl h
    · exact fun hx => exec_preempt_none h hw hx
    · intro x hx hr
      exact (exec_preempt_some h hw hx).trans (by rw [if_pos hr]; rfl)
    · intro x hx hne hv hb hrun
      have hr : ¬ (x = j.ctx ∨ vacated x) := not_or.2 ⟨hne, hv⟩
      refine ⟨fun hf => (exec_preempt_some h hw hx).trans ?_, fun hf => (exec_preempt_some h hw hx).trans ?_⟩
      · rw [if_neg hr, hb, if_neg Bool.false_ne_true, if_pos ⟨hrun, hf⟩]
        rfl
      · rw [if_neg hr, hb, if_neg Bool.false_ne_true, if_neg (by simp [hf]), if_pos hrun]
        rfl
    · intro x hx hne hv hb
      exact (exec_preempt_some h hw hx).trans (by rw [if_neg (not_or.2 ⟨hne, hv⟩), if_pos hb]; rfl)
    · intro x hx hne hv hb hrun
      refine (exec_preempt_some h hw hx).trans ?_
      rw [if_neg (not_or.2 ⟨hne, hv⟩), hb, if_neg Bool.false_ne_true, if_neg (by simp [hrun]), if_neg hrun]
      rfl
    · exact fun hx => exec_qsusp_none h hw hx
    · intro x q hx hb
      refine ⟨fun hm => (exec_qsusp_some h hw hx).trans ?_, fun hm => (exec_qsusp_some h hw hx).trans ?_⟩
      · have hmid : (s.queue x q).midPacket = false := by rwa [← Bool.not_eq_true, midPacket_iff]
        rw [hb, hmid, if_neg Bool.false_ne_true, if_neg Bool.false_ne_true, suspendQueue_boundary hmid]
        rfl
      · have hmid := (midPacket_iff _).2 hm
        rw [hb, if_neg Bool.false_ne_true, if_pos hmid, suspendQueue_midPacket hmid]
        rfl
    · intro x q hx hb
      exact (exec_qsusp_some h hw hx).trans (by rw [if_pos hb]; rfl)
    · exact fun hx => exec_qres_none h hw hx
    · intro x q hx hst
      refine (exec_qres_some h hw hx).trans ?_
      obtain ⟨hstuck, hsusp⟩ : ¬ ((s.queue x q).state = .parked ∨ (s.queue x q).state = .halted) ∧
          (s.queue x q).state ≠ .suspended := by
        revert hst
        cases (s.queue x q).state <;> decide
      rw [if_neg hstuck, if_neg hsusp]
      rfl
    · intro x q hx hst
      exact (exec_qres_some h hw hx).trans (by rw [if_neg (by simp [hst]), if_pos hst]; rfl)
    · intro x q hx hst
      exact (exec_qres_some h hw hx).trans (by rw [if_pos hst]; rfl)
    · intro hbad
      rw [exec_semmap_go h]
      rcases hbad with hz | hn
      · rw [if_neg hz]
      · simp only [hn, ite_self]
    · intro hz x hx
      refine ⟨fun hy => ?_, fun hy hp => ?_, fun hy hp => ?_⟩
      · rw [exec_semmap_go h, if_pos hz, hx, hy, semTarget_remove]
      · rw [exec_semmap_go h, if_pos hz, hx, semTarget_own hy hp]
      · rw [exec_semmap_go h, if_pos hz, hx, semTarget_bad hy hp]
  · intro drained empty done waits
    refine ⟨?_, ?_, ?_, ?_, ?_, ?_⟩ <;> rintro _ rfl h
    · intro hs hx
      have hown : s.drained c = true ↔ drained j := by
        rw [drained_iff, h.job]
        exact ⟨fun g => g j rfl, fun g x hx => Option.some.inj hx ▸ g⟩
      refine ⟨fun hd => (exec_drainm_task h hw hs).trans ?_, fun hd => (exec_drainm_task h hw hs).trans ?_⟩
      · rw [if_pos hx, drainOf, if_pos (hown.2 hd)]
        rfl
      · rw [if_pos hx, drainOf, if_neg (mt hown.1 hd)]
        rfl
    · intro hs
      refine ⟨fun hn => (exec_drainm_steward h hw hs).trans (by rw [hn]; rfl), fun k hk => ⟨fun he => ?_, fun he => ?_⟩⟩
      · refine (exec_drainm_steward h hw hs).trans ?_
        simp only [hk, drainOf, if_pos ((drained_iff k).2 he)]
        rfl
      · refine (exec_drainm_steward h hw hs).trans ?_
        simp only [hk, drainOf, if_neg (mt (drained_iff k).1 he)]
        rfl
    · intro hs hx
      rw [exec_drainm_task h hw hs, if_neg hx]
    · intro hs hx k o ho
      rw [exec_rseed_go h, if_neg hx, hs, if_neg (by decide), ho]
    · intro hx
      rw [exec_rseed_go h, if_pos hx]
    · intro hs hx
      rw [exec_rseed_go h, if_neg hx, if_pos hs]
end

section
/-! SUPPORT. The stop of a job (R133, R278, R438), the ends of a card's waits (R359, R360, R380, R381) and of its save (R441): one
equation per outcome. -/

namespace Sys2Proof.Machine

/-! ## The halt line -/

section
variable {s : State} {c : CoreId} {j : Job}

/-- The lines that are under way reach a core: it is waited for no more, and lines that no core is left for end. -/
def State.passHalt (s : State) (c : CoreId) : State :=
  State.haltSettle { s with halts := s.halts.map fun h => (h.1, h.2.filter fun k => decide (k ≠ c)) }

theorem haltArrive_of_halted (hj : s.job c = some j)
    (hh : (s.halts.any fun h => decide (h.1 = j.ctx) && h.2.contains c) = true) :
    s.haltArrive c =
      (((s.stopRecords c j (firstRaised (j.raised.map fun r => (c, r))) true).dropJob c).vfIrq j.ctx 2).passHalt c := by
  simp only [State.haltArrive, hj, hh, if_true]
  rfl

theorem haltArrive_of_other (hj : s.job c = some j)
    (hh : (s.halts.any fun h => decide (h.1 = j.ctx) && h.2.contains c) = false) : s.haltArrive c = s.passHalt c := by
  simp only [State.haltArrive, hj, hh, Bool.false_eq_true, if_false]
  rfl

theorem haltArrive_of_noJob (hj : s.job c = none) : s.haltArrive c = s.passHalt c := by
  simp only [State.haltArrive, hj]
  rfl

/-! ## The stop take -/

theorem Job.still.raised_eq_nil (h : j.still = true) : j.raised = [] := by
  simp only [Job.still, Bool.and_eq_true, List.isEmpty_iff] at h
  tauto

/-- With nothing of M in flight, the stop turns on the check of the accumulators alone. -/
theorem execJobStop_eq (hj : s.job c = some j) (hstill : j.still = true) (hlive : s.live j.ctx = true) (hm : j.m.flights = []) :
    execJobStop c s = .next (if j.hasM && j.stopFails then (s.setJob c (j.raise .m .residue (j.m.pc.setWidth 32))).resolveTraps c
      else (s.setJob c { j with stopped := true }).toSave j.cluster j.slot) := by
  have hrest : j.m.rest = 0 := by rw [MEng.rest, hm, List.foldl_nil]
  simp only [execJobStop, hj, hstill, hlive, hrest, List.range_zero, List.foldl_nil, Job.still.raised_eq_nil hstill,
    List.isEmpty_nil, Bool.not_true, Bool.or_self, Bool.false_eq_true, if_false]
  split <;> rfl

/-! ## The wait of a PHASE for capacity -/

theorem execPhaseCapwaitTimeout_eq {since : Nat} {id : BitVec 10} (hj : s.job c = some j) (hw : j.c.wait = .phase since id) :
    execPhaseCapwaitTimeout c s =
      if s.time < since + 1000 * j.capwait ∨ j.trapped .c then .next s else .next (s.capShort c j) := by
  simp only [execPhaseCapwaitTimeout, hj, hw]

end

section
variable {s : State} {k : CluId} {n : SlotId} {x : Card} (hx : s.card k n = some x)
include hx

/-! ## The wait of a card for capacity -/

theorem execCapacityWaitTimeout_early {since : Nat} (hc : x.capSince = some since) (ht : s.time < since + 1000 * x.capWait) :
    execCapacityWaitTimeout k n s = .next s := by
  simp only [execCapacityWaitTimeout, hx, hc, ht, true_or, if_true]

/-- The last try of a card that nothing holds back. -/
theorem execCapacityWaitTimeout_due {since : Nat} (hc : x.capSince = some since) (ht : since + 1000 * x.capWait ≤ s.time)
    (hu : s.unlaunched k n = true) (hready : s.cardReady x = true) (hbar : s.flagBar (cluIsl k) = false)
    (hprom : s.promotedOrder k = []) : execCapacityWaitTimeout k n s = .next
      (let t := (s.tryCard k n).noteLaunch s k n
       if t.unlaunched k n then t.dropCard k n 0xFF01 0x1A else t) := by
  have hnow : ¬ (s.time < since + 1000 * x.capWait ∨ (!s.unlaunched k n) = true) := by simp [hu, ht]
  simp only [execCapacityWaitTimeout, hx, hc, if_neg hnow, hready, hbar, hprom]
  rfl

/-! ## The launch record -/

section
variable {since : Nat} (hrec : x.launchRec ≠ 0) (hsince : x.readySince = some since) (hdone : x.recordDone = false)
  (hents : x.recEnts = none)
include hrec hsince hdone hents

theorem execLaunchRecordWalk_of_entries {l : List RecEnt} (hread : s.readRecord x = .entries l) :
    execLaunchRecordWalk k n s =
      .next ((s.devDrawn x.ctx x.launchRec ((16 + 16 * l.length + 63) / 64)).recSet k n l) := by
  simp [execLaunchRecordWalk, hx, hrec, hsince, hdone, hents, hread]

theorem execLaunchRecordWalk_of_bad (hread : s.readRecord x = .bad) : execLaunchRecordWalk k n s =
    .next (State.recSet (s.setCluster k { s.cluster k with errlog := (s.cluster k).errlog + 1 }) k n []) := by
  simp [execLaunchRecordWalk, hx, hrec, hsince, hdone, hents, hread]

end

theorem execLaunchRecordWalk_of_entry {since : Nat} {p : PartId} {w : RecEnt} {l : List RecEnt} (hrec : x.launchRec ≠ 0)
    (hsince : x.readySince = some since) (hp : s.cluPart k = some p) (hents : x.recEnts = some (w :: l)) :
    execLaunchRecordWalk k n s = .next (s.recWalk p k n x.ctx w l) := by
  simp [execLaunchRecordWalk, hx, hrec, hsince, hents, hp]

theorem card_recSet (l : List RecEnt) : (s.recSet k n l).card k n =
    some { x with recEnts := some l, recordDone := l.all fun e => decide (e.action = 1) } := by
  simp only [State.recSet, hx]
  exact card_setCard s k n _

theorem execLaunchRecordTimeout_due {since : Nat} (hsince : x.readySince = some since) (ht : since + 100000 ≤ s.time) :
    execLaunchRecordTimeout k n s = .next (s.setCard k n { x with migrations := [] }) := by
  simp only [execLaunchRecordTimeout, hx, hsince, if_neg (Nat.not_lt.2 ht)]

/-! ## The save -/

section
variable (hphase : x.phase = .saving) (hlive : s.live x.ctx = true)
include hphase hlive

theorem execSaveComplete_of_ok {s1 : State} {l : List Job} (hs : s.saveAll x x.cores = .ok (s1, l)) :
    execSaveComplete k n s = .next (x.cores.foldl State.dropJob
      ((s1.settle k n x.isl).requeue k n fun y => { y with phase := .stopped, images := l })) := by
  simp [execSaveComplete, hx, hphase, hlive, hs]

theorem execSaveComplete_of_fail {d : CoreId} {cause : Cause} {va : Nat}
    (hs : s.saveAll x x.cores = .error (d, .fail cause va)) : execSaveComplete k n s = .next (s.nodeFails d cause va) := by
  simp [execSaveComplete, hx, hphase, hlive, hs]

theorem execSaveComplete_of_wait {d : CoreId} {g : WGate} (hs : s.saveAll x x.cores = .error (d, .wait g)) :
    execSaveComplete k n s = .next (s.forGate x.ctx (some d) g) := by
  simp [execSaveComplete, hx, hphase, hlive, hs]

end

end

/-! ## One page of a launch record -/

theorem walks_not_all_isSome {v : Vector (Option WalkFlight) 16} (h : ∃ o ∈ v.toList, o = none) :
    ¬ v.toList.all Option.isSome = true := by
  obtain ⟨o, ho, rfl⟩ := h
  exact fun hall => Bool.false_ne_true (List.all_eq_true.1 hall none ho)

section
variable {s : State} {k : CluId} {n : SlotId} {p : PartId} {ctx : CtxId} {w : RecEnt} {l : List RecEnt}

section
variable (hfree : ∃ v ∈ (s.cluster k).walks.toList, v = none) (hb : w.base < 2 ^ 48)
include hfree hb

/-- A page whose walk stops is passed. -/
theorem recWalk_of_stop {z} (hz : s.walkTables ctx w.base = .stop z) :
    s.recWalk p k n ctx w l = (s.walkUsed ctx w.base).recSet k n (recAdvance 1 w l) := by
  have hall := walks_not_all_isSome hfree
  simp only [State.recWalk, if_neg hall, if_neg (Nat.not_le.2 hb), hz]

/-- A page whose leaf can be worked on is passed, with the pages that the leaf covers where the entry takes whole leaves. -/
theorem recWalk_of_leaf {t : TlbEnt} {u : State} (ht : s.walkTables ctx w.base = .leaf t)
    (hu : (s.walkUsed ctx w.base).recLeaf p k n ctx w t = some u) :
    s.recWalk p k n ctx w l = u.recSet k n (recAdvance (recPassed w t) w l) := by
  have hall := walks_not_all_isSome hfree
  simp only [State.recWalk, if_neg hall, if_neg (Nat.not_le.2 hb), ht, hu]

end

/-- ACTION 0 installs the translation in the second-level TLB, and does no more (R380). -/
theorem recLeaf_install (hw : w.action = 0) (t : TlbEnt) : s.recLeaf p k n ctx w t = some
    { s.setCluster k { s.cluster k with tlb2 := tlbInsert 4096 s.fresh (s.cluster k).tlb2 t } with fresh := s.fresh + 1 } := by
  simp [State.recLeaf, hw]

end

end Sys2Proof.Machine
end

section

open Sys2Proof Sys2Proof.Machine

/-- Settles O34: each stop and each end of a wait by the branch of its event that the premises select. -/
theorem stopsAndWaits : Obligations.StopsAndWaits := by
  refine ⟨fun s c j hj => ⟨fun hh => ?_, fun hh => ?_, fun d hd => ?_, fun hstill hlive hm hck => ?_,
    fun hstill hlive hm hhas hfail => ?_⟩,
    fun s k n x c j since hx hj => ⟨fun hc ht hu hready hbar hprom => ?_, fun hc ht => ?_, fun id hw hno ht => ?_,
      fun id hw ht => ?_, fun hrec hsince hdone hents => ⟨fun l hread => ?_, fun hread => ?_⟩,
      fun p w l hrec hsince hdone hp hents hfree hb => ⟨fun z hz => ?_, fun t u ht hu => ?_, fun hw t => ?_⟩,
      card_recSet hx, fun hsince ht => ?_, fun s1 l hphase hlive hs => ?_, fun d cause va hphase hlive hs => ?_,
      fun d g hphase hlive hs => ?_⟩⟩
  · exact congrArg Host.Outcome.next (haltArrive_of_halted hj hh)
  · exact congrArg Host.Outcome.next (haltArrive_of_other hj hh)
  · exact congrArg Host.Outcome.next (haltArrive_of_noJob hd)
  · have hpass : ¬ (j.hasM && j.stopFails) = true := by simpa using hck
    rw [exec_jobStop, execJobStop_eq hj hstill hlive hm, if_neg hpass]
  · rw [exec_jobStop, execJobStop_eq hj hstill hlive hm, hhas, hfail]
    rfl
  · exact execCapacityWaitTimeout_due hx hc ht hu hready hbar hprom
  · exact execCapacityWaitTimeout_early hx hc ht
  · have hnow : ¬ (s.time < since + 1000 * j.capwait ∨ j.trapped .c = true) := by simp [hno, ht]
    rw [exec_phaseCapwaitTimeout, execPhaseCapwaitTimeout_eq hj hw, if_neg hnow]
  · rw [exec_phaseCapwaitTimeout, execPhaseCapwaitTimeout_eq hj hw, if_pos (.inl ht)]
  · exact execLaunchRecordWalk_of_entries hx hrec hsince hdone hents hread
  · exact execLaunchRecordWalk_of_bad hx hrec hsince hdone hents hread
  · rw [exec_launchRecordWalk, execLaunchRecordWalk_of_entry hx hrec hsince hp hents, recWalk_of_stop hfree hb hz]
  · rw [exec_launchRecordWalk, execLaunchRecordWalk_of_entry hx hrec hsince hp hents, recWalk_of_leaf hfree hb ht hu]
  · exact ⟨_, recLeaf_install hw t, congrArg Cluster.tlb2 (cluster_setCluster s k _), rfl, rfl⟩
  · exact execLaunchRecordTimeout_due hx hsince ht
  · exact execSaveComplete_of_ok hx hphase hlive hs
  · exact execSaveComplete_of_fail hx hphase hlive hs
  · exact execSaveComplete_of_wait hx hphase hlive hs
end

section
namespace Sys2Proof.Machine

/-! ## Instructions of the access engine that issue -/

/-- The address of a base and an immediate, as the access engine adds them (R188). -/
theorem addr10_eq (x : W64) (k : BitVec 10) : addr10 x k = ((x.toNat + k.toInt) % 2 ^ 64).toNat := by
  have h : x + k.signExtend 64 = BitVec.ofInt 64 (x.toNat + k.toInt) := by
    rw [BitVec.ofInt_add, BitVec.ofInt_natCast, BitVec.ofNat_toNat, BitVec.setWidth_eq]
    rfl
  rw [addr10, h, BitVec.toNat_ofInt]
  rfl

section
variable {s : State} {c : CoreId} {j : Job} {i : Instr}

/-- An A instruction that issues has its effect on the job with its sources read. -/
theorem accessOp_go (h : Issues s c .a j i) (eff : State → CoreId → Job → Job → List Val → State) :
    accessOp i eff s = .next (eff s c j (j.sourced .a i) (sourcesOf j .a i)) := by
  have hj : j.issuing .a i = j := issuing_plain j .a i (by decide) (by decide)
  simp only [accessOp, issue_go h, Job.sourced, sourcesOf, hj]

theorem addr10_argX (j : Job) (i : Instr) (k : BitVec 10) : addr10 (j.argX (sourcesOf j .a i) 0) k = immAddr j i k :=
  addr10_eq _ k

variable (addr : Nat) (win : Nat → State) (go : CoreId → Nat → State)

@[simp] theorem localDo_trap (cause : Cause) :
    s.localDo c j addr (.trap cause) win go = s.setJob c (j.raiseAt cause addr) := rfl

@[simp] theorem localDo_at (x : CoreId) (b : Nat) : s.localDo c j addr (.at_ x b) win go = go x b := rfl

end

/-! ## The gate of a local access -/

section
variable {s : State} {c : CoreId} {j : Job} {addr n align b : Nat} {win clu load : Bool} {d : CoreId}

theorem localAt_own (h : addr < 0x200000) : localAt c addr = some (c, addr) := if_pos h

theorem localAt_cluster {k : CoreIx} (hb : b < 0x200000) :
    localAt c (0x1000000 + k.val * 0x200000 + b) = some (corePeer c k, b) := by
  have hk : (0x1000000 + k.val * 0x200000 + b) / 0x200000 % 4 = k.val := by omega
  have hm : (0x1000000 + k.val * 0x200000 + b) % 0x200000 = b := by omega
  unfold localAt
  rw [if_neg (by omega), if_pos (by omega)]
  simp only [hk, hm]

theorem localAt_between (h1 : 0x200000 ≤ addr) (h2 : addr < 0x1000000) : localAt c addr = none := by
  unfold localAt
  rw [if_neg (by omega), if_neg (by omega)]

theorem localAt_beyond (h : 0x1800000 ≤ addr) : localAt c addr = none := by
  unfold localAt
  rw [if_neg (by omega), if_neg (by omega)]

/-- Outside the command windows, or where the instruction reaches none, the scratchpads are asked (R189). -/
theorem windowed_eq_false (hwin : win = true → ¬ (0x800000 ≤ addr ∧ addr < 0x800080)) :
    (win && decide (0x800000 ≤ addr ∧ addr < 0x800080)) = false := by
  cases win
  · rfl
  · simpa using hwin rfl

/-- An address that names no scratchpad, and no window, is out of range (R189). -/
theorem localGate_nowhere (hwin : win = true → ¬ (0x800000 ≤ addr ∧ addr < 0x800080)) (h : localAt c addr = none) :
    s.localGate c j addr n align win clu load = .trap .protection := by
  simp only [State.localGate, windowed_eq_false hwin, h, Bool.false_eq_true, if_false]

/-- An address beyond the own range, with an instruction or a core that does not let it through (R189, R190). -/
theorem localGate_barred (hwin : win = true → ¬ (0x800000 ≤ addr ∧ addr < 0x800080)) (h : 0x200000 ≤ addr)
    (hl : localAt c addr = some (d, b)) (hbar : clu = false ∨ s.sharesCtx d j.ctx = false) :
    s.localGate c j addr n align win clu load = .trap .protection := by
  simp only [State.localGate, windowed_eq_false hwin, hl, Bool.false_eq_true, if_false]
  rcases hbar with hb | hb <;> simp [h, hb]

/-- An address in reach passes the checks of its alignment and its row, and then waits for what comes before it (R139, R149,
R192). -/
theorem localGate_reached (hwin : win = true → ¬ (0x800000 ≤ addr ∧ addr < 0x800080)) (hl : localAt c addr = some (d, b))
    (hreach : addr < 0x200000 ∨ (clu = true ∧ s.sharesCtx d j.ctx = true)) :
    s.localGate c j addr n align win clu load =
      if addr % align ≠ 0 then .trap .align
      else if !s.rowUsable d b then .trap .rowRange
      else if j.mustWait j.a.acls load false b n then .stay
      else if s.yieldsAt d b then .stay
      else .at_ d b := by
  have hr : ((decide (0x200000 ≤ addr) && !clu) || (decide (0x200000 ≤ addr) && !s.sharesCtx d j.ctx)) = false := by
    rcases hreach with h | ⟨h1, h2⟩
    · simp [h]
    · simp [h1, h2]
  simp only [State.localGate, windowed_eq_false hwin, hl, hr, Bool.false_eq_true, if_false]

/-- The three ends of the checks of an address in reach. -/
theorem localGate_checked (hwin : win = true → ¬ (0x800000 ≤ addr ∧ addr < 0x800080)) (hl : localAt c addr = some (d, b))
    (hreach : addr < 0x200000 ∨ (clu = true ∧ s.sharesCtx d j.ctx = true)) :
    (addr % align ≠ 0 → s.localGate c j addr n align win clu load = .trap .align) ∧
    (addr % align = 0 → b / 128 % 512 ≥ usable (s.core d) (b / 65536 % 32) (s.level d) →
      s.localGate c j addr n align win clu load = .trap .rowRange) ∧
    (addr % align = 0 → b / 128 % 512 < usable (s.core d) (b / 65536 % 32) (s.level d) →
      j.mustWait j.a.acls load false b n = false → s.yieldsAt d b = false →
      s.localGate c j addr n align win clu load = .at_ d b) := by
  rw [localGate_reached hwin hl hreach]
  refine ⟨fun ha => if_pos ha, fun ha hu => ?_, fun ha hu hm hy => ?_⟩
  · have hrow : s.rowUsable d b = false := by simpa [State.rowUsable, rowUsable] using hu
    simp [ha, hrow]
  · have hrow : s.rowUsable d b = true := by simpa [State.rowUsable, rowUsable] using hu
    simp [ha, hrow, hm, hy]

end

end Sys2Proof.Machine

open Sys2Proof Sys2Proof.Machine

/-- Settles O14: the range of an address selects its scratchpad, or none, and each instruction of local accesses ends in its
gate's trap. -/
theorem localAccessChecks : Obligations.LocalAccessChecks := by
  refine ⟨fun s c j addr n align win clu load b k _ hwin =>
      ⟨fun h => ?_, ?_, fun h1 h2 hclu => ?_, fun h1 h2 => ?_, fun h => ?_⟩,
    fun s c j z d a q k cause => ⟨?_, ?_, ?_, ?_, ?_, ?_⟩⟩
  · exact localGate_checked hwin (localAt_own h) (.inl h)
  · rintro rfl hb hclu
    have hl := localAt_cluster (c := c) (k := k) hb
    exact ⟨fun hs => localGate_checked hwin hl (.inr ⟨hclu, hs⟩), fun hs => localGate_barred hwin (by omega) hl (.inr hs)⟩
  · have hl : localAt c addr = some (corePeer c ⟨addr / 0x200000 % 4, Nat.mod_lt _ (by decide)⟩, addr % 0x200000) := by
      unfold localAt
      rw [if_neg (by omega), if_pos ⟨h1, h2⟩]
    exact localGate_barred hwin (by omega) hl (.inl hclu)
  · exact localGate_nowhere hwin (localAt_between h1 h2)
  · exact localGate_nowhere hwin (localAt_beyond h)
  · rintro i rfl h hg
    simp only [exec_ald, execAld, accessOp_go h, addr10_argX, hg, localDo_trap]
  · rintro i rfl h hg
    simp only [exec_ast, execAst, accessOp_go h, addr10_argX, hg, localDo_trap]
  · rintro i rfl h hg
    simp only [exec_rld, execRld, accessOp_go h, addr10_argX, hg, localDo_trap]
  · rintro i rfl h hg
    simp only [exec_rst, execRst, accessOp_go h, addr10_argX, hg]
  · rintro i rfl h hg
    simp only [exec_ard, execArd, accessOp_go h, addr10_argX, hg, localDo_trap]
  · rintro i rfl h hg
    simp only [exec_awr, execAwr, accessOp_go h, addr10_argX, hg, localDo_trap]
end

section
namespace Sys2Proof.Machine

/-! ## What a load of a size gives -/

theorem readBytes_length (m : Memory) : ∀ a n, (m.readBytes a n).length = n
  | _, 0 => rfl
  | a, n + 1 => congrArg (· + 1) (readBytes_length m (a + 1) n)

theorem natOfBytes_lt : ∀ bs : List Byte, natOfBytes bs < 256 ^ bs.length
  | [] => by decide
  | b :: bs => by
    have hb : b.toNat < 256 := b.isLt
    have ih := natOfBytes_lt bs
    rw [natOfBytes, List.length_cons, pow_succ]
    omega

/-- The bytes of a load, extended by their sign. -/
theorem signExtend_natOfBytes {bs : List Byte} {n : Nat} (h : 2 ^ n = 256 ^ bs.length) :
    (BitVec.ofNat n (natOfBytes bs)).signExtend 64 = BitVec.ofInt 64 (signedBytes bs) := by
  have hlt : natOfBytes bs < 2 ^ n := h ▸ natOfBytes_lt bs
  have hi : (BitVec.ofNat n (natOfBytes bs)).toInt = signedBytes bs := by
    have hz : ((256 : Int) ^ bs.length) = ((2 ^ n : Nat) : Int) := by rw [h]; push_cast; rfl
    rw [BitVec.toInt_eq_toNat_cond, BitVec.toNat_ofNat, Nat.mod_eq_of_lt hlt, signedBytes, ← h, hz]
  rw [← hi]
  rfl

/-- What a load writes, for the bytes of its size (R191). -/
theorem extendBytes_eq (z : Size) (bs : List Byte) (h : bs.length = sizeBytes z) : extendBytes z bs = loaded64 z bs := by
  cases z <;> try rfl
  · exact signExtend_natOfBytes (by rw [h]; rfl)
  · exact signExtend_natOfBytes (by rw [h]; rfl)

theorem extendBytes_scrRead (z : Size) (s : State) (x : CoreId) (b : Nat) :
    extendBytes z (s.scrRead x b (sizeBytes z)) = loaded64 z (s.scrRead x b (sizeBytes z)) :=
  extendBytes_eq z _ (readBytes_length _ _ _)

/-! ## What a write of a scratchpad leaves -/

/-- Noting a row changes the notes only. -/
theorem keepOld_eq (x : Core) (a : Nat) : x.keepOld a = { x with olds := (x.keepOld a).olds } := by
  unfold Core.keepOld; split <;> rfl

theorem keepOlds_foldl_eq (a : Nat) : ∀ (l : List Nat) (x : Core),
    l.foldl (fun y k => Core.keepOld y (a + 128 * k)) x =
      { x with olds := (l.foldl (fun y k => Core.keepOld y (a + 128 * k)) x).olds }
  | [], _ => rfl
  | k :: l, x => by
    rw [List.foldl_cons, keepOld_eq]
    exact keepOlds_foldl_eq a l _

theorem keepOlds_eq (x : Core) (a n : Nat) : x.keepOlds a n = { x with olds := (x.keepOlds a n).olds } :=
  keepOlds_foldl_eq a _ x

section
variable (s : State) (k : CoreId) (a : Nat) (bs : List Byte)

/-- A write of a scratchpad changes its bytes, and the rows noted for the timed accesses of the cycle (R284). -/
theorem core_scrWrite_self : (s.scrWrite k a bs).core k =
    { s.core k with scr := (s.core k).scr.writeBytes a bs, olds := ((s.core k).keepOlds a bs.length).olds } := by
  rw [State.scrWrite, core_setCore, keepOlds_eq]

theorem core_scrWrite_ne {c : CoreId} (h : c ≠ k) : (s.scrWrite k a bs).core c = s.core c := core_setCore_ne s h _

@[simp] theorem scrRead_one (b : Nat) : s.scrRead k b 1 = [(s.core k).scr.read b] := rfl

theorem scrWrite_job : (s.scrWrite k a bs).job = s.job := by
  funext c
  by_cases h : c = k
  · subst h; simp only [State.job, core_scrWrite_self]
  · simp only [State.job, core_scrWrite_ne s k a bs h]

end

end Sys2Proof.Machine

open Sys2Proof Sys2Proof.Machine

/-- Settles O15: the effect of each instruction where its gate gives the place, and a write by the laws of byte memory. -/
theorem localLoadsAndStores : Obligations.LocalLoadsAndStores := by
  refine ⟨fun s c j z d a q k x b => ⟨?_, ?_, ?_, ?_, ?_, ?_⟩, fun s k a bs hwf =>
    ⟨fun n h => ?_, fun b hb => ?_, fun c hc => core_scrWrite_ne s k a bs hc, scrWrite_job s k a bs, rfl, rfl, rfl, rfl, rfl, rfl,
      rfl⟩⟩
  · rintro i rfl h hg
    simp only [exec_ald, execAld, accessOp_go h, addr10_argX, hg, localDo_at, extendBytes_scrRead]
    rfl
  · rintro i rfl h hg
    simp only [exec_rld, execRld, accessOp_go h, addr10_argX, hg, localDo_at, extendBytes_scrRead]
    rfl
  · rintro i rfl h hg
    simp only [exec_ast, execAst, accessOp_go h, addr10_argX, hg, localDo_at]
    rfl
  · rintro i rfl h hl hg
    simp only [exec_rst, execRst, accessOp_go h, addr10_argX, hl]
    rfl
  · rintro i rfl h hg
    simp only [exec_ard, execArd, accessOp_go h, addr10_argX, hg, localDo_at]
    rfl
  · rintro i rfl h hg
    simp only [exec_awr, execAwr, accessOp_go h, addr10_argX, hg, localDo_at]
    rfl
  · rw [scrRead_one, core_scrWrite_self, Memory.read_writeBytes_in hwf h]
  · rw [scrRead_one, core_scrWrite_self, Memory.read_writeBytes_out hwf hb, scrRead_one]
end

section
namespace Sys2Proof.Machine

/-! ## The instructions of walks -/

section
variable {s : State} {c : CoreId} {j : Job} {i : Instr}

theorem sourced_walk (w : Fin 8) : (j.sourced .a i).walk w = j.walk w := by
  rw [Job.walk, (sourced_beside j .a i).shared.1, Job.walk]

section
variable {a : Opnd} {w : Fin 8} {dir : Bool} {row : State → CoreId → Job → WalkRec → Nat → State} {r : WalkRec} {addr : Nat}
  (h : Issues s c .a j i) (hr : (j.walk w).record = some r)
include h hr

/-- A walk of the other direction (R203). -/
theorem fillOp_dir (hd : r.dir ≠ dir) : fillOp i a w dir row s = .next (s.setJob c (j.raise .a .walkFault walkDir)) := by
  have hj : j.issuing .a i = j := issuing_plain j .a i (by decide) (by decide)
  simp only [fillOp, issue_go h, hj, hr, hd, ne_eq, not_false_eq_true, if_true]

/-- A count of 0 ends the instruction (R203). -/
theorem fillOp_zero (hd : r.dir = dir) (h0 : j.reg .a (countReg a) = 0) :
    fillOp i a w dir row s = .next (s.doneA c j) := by
  have hj : j.issuing .a i = j := issuing_plain j .a i (by decide) (by decide)
  simp only [fillOp, issue_go h, hj, hr, hd, ne_eq, not_true_eq_false, if_false, h0, if_true]

/-- A row that passes its checks, before which nothing comes, is moved (R149, R152, R203). -/
theorem fillOp_row (hd : r.dir = dir) (h0 : j.reg .a (countReg a) ≠ 0) (hrow : walkRow s c r (j.walk w).fstep = .ok addr)
    (hw : j.mustWait j.a.acls dir false addr 128 = false) (hy : s.yields c j addr = false) :
    fillOp i a w dir row s = .next (row s c j r addr) := by
  have hj : j.issuing .a i = j := issuing_plain j .a i (by decide) (by decide)
  simp only [fillOp, issue_go h, hj, hr, hd, ne_eq, not_true_eq_false, if_false, h0, hrow, hw, hy, Bool.or_self,
    Bool.false_eq_true]

end

/-- An addition that CREDIT takes, or that does not count (R203). -/
theorem creditFits_of {w : Walk} {track : Bool} {n : Nat} (h : track = false ∨ w.credit + w.creditIn + n ≤ 65535) :
    w.creditFits track n = true := by
  rcases h with h | h <;> simp [Walk.creditFits, Walk.creditAll, h]

/-- A moved row, counted, with FSTEP advanced (R203). -/
theorem rowMoved_fits {w : Fin 8} {r : WalkRec} {n : Fin 32} {move : State → Job → State × Job}
    (h : r.track = false ∨ (j.walk w).credit + (j.walk w).creditIn + 1 ≤ 65535) :
    s.rowMoved c j w r n move = (move s j).1.rowDone c ((move s j).2.fillWalk w r 1) n := by
  simp only [State.rowMoved, creditFits_of h, Bool.not_true, Bool.false_eq_true, if_false]

/-- WADV within its walk and its credit advances the walk (R203, R205). -/
theorem execWadv_go {w : Fin 8} {n : BitVec 10} {r : WalkRec} (h : Issues s c .a j (.wadv w n)) (hr : (j.walk w).record = some r)
    (hc : r.cyclic = true ∨ (j.walk w).fstep + n.toNat ≤ r.period)
    (hfit : r.track = false ∨ (j.walk w).credit + (j.walk w).creditIn + n.toNat ≤ 65535) :
    execWadv w n s = .next (s.doneA c (j.fillWalk w r n.toNat)) := by
  have hj : j.sourced .a (.wadv w n) = j :=
    issuing_plain j .a (.wadv w n) (by decide) (by decide)
  have hin : (!r.cyclic && decide (r.period < (j.walk w).fstep + n.toNat)) = false := by
    rcases hc with hc | hc <;> simp [hc]
  simp only [execWadv, accessOp_go h, hj, hr, hin, creditFits_of hfit, Bool.not_true, Bool.false_eq_true, if_false]

end

/-! ## The record of a walk -/

/-- A field of a walk record, by powers of 2. -/
theorem recFld_eq (x o n : Nat) : recFld x o n = x / 2 ^ (8 * o) % 2 ^ (8 * n) := bitsAt_eq x _ _

end Sys2Proof.Machine

open Sys2Proof Sys2Proof.Machine

/-- Settles O16: each instruction by the checks of its walk that the premises pass. -/
theorem walkInstructions : Obligations.WalkInstructions := by
  intro s c j q a r w k m x b addr rec
  refine ⟨?_, ?_, ?_, ?_, ?_, ?_⟩
  · rintro i rfl h hg herr hpend
    simp only [exec_wset, execWset, accessOp_go h, addr10_argX, hg, localDo_at, herr, hpend, ne_eq, not_true_eq_false, if_false,
      sourced_walk, walkOf, recFld_eq, bitsAt_eq]
    rfl
  · rintro i rfl h hr hc hfit
    rw [exec_wadv, execWadv_go h hr hc hfit]
    rfl
  · rintro i rfl h hr hd
    refine ⟨fun h0 => ?_, fun h0 hrow hfit hw hy hq => ?_⟩
    · rw [exec_afill, execAfill, fillOp_zero (a := .reg r) h hr hd h0]
      rfl
    · have hpop : (j.stream q).canPop 1 = true := by
        simpa [Stream.canPop, Nat.one_le_iff_ne_zero] using hq
      rw [exec_afill, execAfill, fillOp_row (a := .reg r) h hr hd h0 hrow hw hy]
      simp only [hpop, Bool.not_true, Bool.false_eq_true, if_false, rowMoved_fits hfit]
      rfl
  · rintro i rfl h hr hd
    refine ⟨fun h0 => ?_, fun h0 hrow hfit hw hy hq => ?_⟩
    · rw [exec_adrain, execAdrain, fillOp_zero (a := .reg r) h hr hd h0]
      rfl
    · have hroom : (rec.track && decide (rec.window ≤ (j.walk w).creditAll)) = false := by
        rcases hfit with hf | ⟨-, hf⟩
        · simp [hf]
        · simp [Walk.creditAll, Nat.not_le.2 hf]
      rw [exec_adrain, execAdrain, fillOp_row (a := .reg r) h hr hd h0 hrow hw hy]
      simp only [hroom, hq, Bool.not_true, Bool.false_eq_true, if_false, rowMoved_fits (hfit.imp_right And.left)]
      rfl
  · rintro i rfl h hr hd
    rw [exec_afill, execAfill, fillOp_dir h hr (by simp [hd])]
    rfl
  · rintro i rfl h hr hd
    rw [exec_adrain, execAdrain, fillOp_dir h hr (by simp [hd])]
    rfl
end

section
namespace Sys2Proof.Machine

/-! ## An addition at a barrier (R161) -/

/-- The number of a barrier object, by its fields. -/
def barPack (target acc gen flags top : Nat) : Nat :=
  target + acc * 2 ^ 64 + gen * 2 ^ 128 + flags * 2 ^ 160 + top * 2 ^ 176

section
variable {target acc gen flags top : Nat} (ht : target < 2 ^ 64) (ha : acc < 2 ^ 64) (hg : gen < 2 ^ 32) (hf : flags < 2 ^ 16)
include ht ha hg hf

/-- The fields of the object are those of its number. -/
theorem barPack_fields : bitsAt (barPack target acc gen flags top) 0 64 = target ∧
    bitsAt (barPack target acc gen flags top) 64 64 = acc ∧ bitsAt (barPack target acc gen flags top) 128 32 = gen ∧
    bitsAt (barPack target acc gen flags top) 160 16 = flags ∧ barPack target acc gen flags top / 2 ^ 176 = top := by
  simp only [bitsAt_eq, barPack]
  omega

/-- The addition by its three cases. -/
theorem barAdd_barPack (n : Nat) (hn : acc + n < 2 ^ 64) : barAdd (barPack target acc gen flags top) n =
    if target = 0 then barPack target acc gen (flags ||| 1) top
    else if target ≤ acc + n then
      barPack target (acc + n - target) ((gen + 1) % 2 ^ 32) (if target < acc + n then flags ||| 1 else flags) top
    else barPack target (acc + n) gen flags top := by
  obtain ⟨h1, h2, h3, h4, h5⟩ := barPack_fields (top := top) ht ha hg hf
  simp only [barAdd, h1, h2, h3, h4, h5, Nat.mod_eq_of_lt hn, Nat.mod_eq_of_lt hg]
  rfl

end

/-! ## The instructions of barriers -/

section
variable {s : State} {c : CoreId} {j : Job} {i : Instr} {k : BitVec 10} {load : Bool} {x : CoreId} {b : Nat}

/-- A barrier instruction whose access is made (R214). -/
theorem barOp_at (h : Issues s c .a j i) (hg : s.localGate c j (immAddr j i k) 32 32 false true load = .at_ x b)
    (eff : State → CoreId → Job → Job → List Val → CoreId → Nat → State) :
    barOp i k load eff s = .next (eff s c j (j.sourced .a i) (sourcesOf j .a i) x b) := by
  simp only [barOp, accessOp_go h, addr10_argX, hg, localDo_at]

theorem barGen_eq (v : Nat) : barGen v = v / 2 ^ 128 % 2 ^ 32 := bitsAt_eq v 128 32

/-- The bit of BTEST that says whether TARGET is 0. -/
theorem targetZero_bit (v : Nat) :
    (decide (bitsAt v 0 64 = 0)).toNat * 2 ^ 33 = if v % 2 ^ 64 = 0 then 2 ^ 33 else 0 := by
  rw [bitsAt_eq, Nat.pow_zero, Nat.div_one]
  by_cases h : v % 2 ^ 64 = 0
  · rw [decide_eq_true h, if_pos h]; rfl
  · rw [decide_eq_false h, if_neg h]; rfl

end

end Sys2Proof.Machine

open Sys2Proof Sys2Proof.Machine

/-- Settles O17: each instruction at the barrier that its access reaches, and the addition by its cases. -/
theorem countBarriers : Obligations.CountBarriers := by
  refine ⟨fun s c j d a k x b => ⟨?_, ?_, ?_, ?_, ?_⟩, fun target acc gen flags top n ht hn hg hf _ => ?_⟩
  · rintro i rfl h hg
    rw [exec_binit, execBinit, barOp_at h hg, barGen_eq]
    rfl
  · rintro i rfl h hg hp
    rw [exec_barr, execBarr, barOp_at h hg, if_neg (not_not.2 hp)]
    rfl
  · rintro i rfl h hg hne
    rw [exec_bwait, execBwait, barOp_at h hg, barGen_eq]
    exact congrArg Host.Outcome.next (if_neg hne)
  · rintro i rfl h hg heq
    rw [exec_bwait, execBwait, barOp_at h hg, barGen_eq]
    exact congrArg Host.Outcome.next (if_pos heq)
  · rintro i rfl h hg
    rw [exec_btest, execBtest, barOp_at h hg]
    simp only [barGen_eq, targetZero_bit, bitsAt_eq _ 160 1]
    rfl
  · have hadd := barAdd_barPack (top := top) ht (Nat.lt_of_le_of_lt (Nat.le_add_right acc n) hn) hg hf n hn
    refine ⟨fun h0 => hadd.trans ?_, fun hlt => hadd.trans ?_, fun h0 heq => hadd.trans ?_, fun h0 hlt => hadd.trans ?_⟩
    · rw [if_pos h0, barPack, h0, Nat.zero_add]
    · rw [if_neg (by omega), if_neg (by omega), barPack]
    · rw [if_neg (by omega), if_pos (by omega), if_neg (by omega), barPack, heq, Nat.sub_self, Nat.zero_mul, Nat.add_zero]
    · rw [if_neg (by omega), if_pos (by omega), if_pos hlt, barPack]
end

section
namespace Sys2Proof.Machine

/-! ## Islands put back -/

@[simp] theorem island_setIsland (s : State) (i : IslId) (x : Island) : (s.setIsland i x).island i = x := by
  simp [State.island, State.setIsland]

theorem island_setIsland_ne (s : State) {i k : IslId} (h : k ≠ i) (x : Island) : (s.setIsland i x).island k = s.island k :=
  Vector.getElem_set_ne i.isLt k.isLt fun e => h (Fin.ext e.symm)

/-- What every round of a fold keeps, the fold keeps. -/
theorem foldl_kept {α β γ : Type} {f : β → α → β} {g : β → γ} (hf : ∀ b a, g (f b a) = g b) :
    ∀ (l : List α) (b : β), g (l.foldl f b) = g b
  | [], _ => rfl
  | a :: l, b => (foldl_kept hf l (f b a)).trans (hf b a)

/-! ## The boundary of an account (R352) -/

section
variable {i : Island} {pool sum : Nat} {x : IslSense}

theorem boundary_inc (h : sum ≠ 0) :
    (i.boundary pool sum x).inc = pool * i.weight * Min.min (2 * (i.tlim - x.temp)) 16 / (16 * sum) := if_neg h

/-- The reserve is refilled from the increment, up to its target. -/
theorem boundary_res : (i.boundary pool sum x).res =
    i.res + Min.min (64 * i.rsvtgt - i.res) (64 * (i.boundary pool sum x).inc) := rfl

/-- The balance takes what the refill leaves, less the overdraft, up to four increments. -/
theorem boundary_bal : (i.boundary pool sum x).bal =
    Min.min (i.bal + 64 * (i.boundary pool sum x).inc - (Min.min (64 * i.rsvtgt - i.res) (64 * (i.boundary pool sum x).inc) : Nat)
      - 64 * x.ovh) (256 * ((i.boundary pool sum x).inc : Int)) := rfl

/-- What calls for stretching: a balance below 0, or the temperature limit. -/
theorem boundary_stretch : (i.boundary pool sum x).stretch =
    if decide ((i.boundary pool sum x).bal < 0) || decide (i.tlim ≤ x.temp + 1) then
      (if i.flagged then Min.min (i.stretch + 4) 12 else i.stretch)
    else i.stretch - 4 := rfl

theorem boundary_stretch_less (hb : 0 ≤ (i.boundary pool sum x).bal) (ht : x.temp + 1 < i.tlim) :
    (i.boundary pool sum x).stretch = i.stretch - 4 := by
  have hno : (decide ((i.boundary pool sum x).bal < 0) || decide (i.tlim ≤ x.temp + 1)) = false := by
    simp [Int.not_lt.2 hb, Nat.not_le.2 ht]
  rw [boundary_stretch, hno, if_neg Bool.false_ne_true]

theorem boundary_stretch_more (h : (i.boundary pool sum x).bal < 0 ∨ i.tlim ≤ x.temp + 1) :
    (i.boundary pool sum x).stretch = if i.flagged then Min.min (i.stretch + 4) 12 else i.stretch := by
  have hyes : (decide ((i.boundary pool sum x).bal < 0) || decide (i.tlim ≤ x.temp + 1)) = true := by
    simpa using h
  rw [boundary_stretch, if_pos hyes]

/-- At the longest stretch no flag is raised. -/
theorem boundary_unflagged (h : (i.boundary pool sum x).stretch = 12) : (i.boundary pool sum x).flagged = false := by
  have hf : (i.boundary pool sum x).flagged =
      ((decide ((i.boundary pool sum x).bal < 0) || decide (i.tlim ≤ x.temp + 1)
        || (decide ((i.boundary pool sum x).bal < 0)
          || decide ((i.boundary pool sum x).bal + 64 * (i.boundary pool sum x).inc - 64 * x.meas < 0))
        || decide (i.tlim ≤ x.temp + 2)) && decide ((i.boundary pool sum x).stretch < 12)) := rfl
  rw [hf, h]
  exact Bool.and_false _

end

/-! ## A step that an island chooses -/

/-- `y` differs from `x` at most in the step that it takes. -/
def Island.StepsTo (x y : Island) : Prop :=
  ∃ step pend since, y = { x with step := step, pendingDown := pend, evacSince := since }

theorem Island.StepsTo.trans {x y z : Island} (h : x.StepsTo y) (g : y.StepsTo z) : x.StepsTo z := by
  obtain ⟨_, _, _, rfl⟩ := h
  obtain ⟨a, b, c, rfl⟩ := g
  exact ⟨a, b, c, rfl⟩

/-- `t` differs from `s` in the step that island `i` takes and in what a step moves or samples: the jobs, the accounts and levels,
the contexts and the host's share stay. -/
structure State.StepOnly (i : IslId) (s t : State) : Prop where
  jobs : t.job = s.job
  others : ∀ k, k ≠ i → t.island k = s.island k
  own : (s.island i).StepsTo (t.island i)
  ctxs : t.ctxs = s.ctxs
  hallow : t.hallow = s.hallow

section
variable {i : IslId} {r s t : State}

/-- An update that reaches neither the jobs nor the islands, the contexts or the host's share. -/
theorem State.StepOnly.of_same (hj : t.job = s.job) (hi : t.islands = s.islands) (hc : t.ctxs = s.ctxs) (hh : t.hallow = s.hallow) :
    State.StepOnly i s t := by
  have hk : ∀ k, t.island k = s.island k := fun k => by simp only [State.island, hi]
  exact ⟨hj, fun k _ => hk k, ⟨_, _, _, hk i⟩, hc, hh⟩

theorem State.StepOnly.refl (s : State) : State.StepOnly i s s := .of_same rfl rfl rfl rfl

theorem State.StepOnly.trans (h : State.StepOnly i r s) (g : State.StepOnly i s t) : State.StepOnly i r t where
  jobs := g.jobs.trans h.jobs
  others k hk := (g.others k hk).trans (h.others k hk)
  own := h.own.trans g.own
  ctxs := g.ctxs.trans h.ctxs
  hallow := g.hallow.trans h.hallow

theorem State.StepOnly.foldl {α : Type} {f : State → α → State} (hf : ∀ t a, State.StepOnly i t (f t a)) :
    ∀ (l : List α) (s : State), State.StepOnly i s (l.foldl f s)
  | [], s => .refl s
  | a :: l, s => (hf s a).trans (State.StepOnly.foldl hf l (f s a))

theorem State.StepOnly.setIsland (s : State) (step : Option LevelStep) (pend : Bool) (since : Option Nat) :
    State.StepOnly i s (s.setIsland i { s.island i with step := step, pendingDown := pend, evacSince := since }) :=
  ⟨rfl, fun _ hk => island_setIsland_ne s hk _, ⟨_, _, _, island_setIsland s i _⟩, rfl, rfl⟩

theorem job_setCore_of_job (s : State) (c : CoreId) (x : Core) (h : x.job = s.job c) : (s.setCore c x).job = s.job := by
  funext d
  by_cases hd : d = c
  · subst hd; rw [State.job, core_setCore, h]
  · rw [State.job, core_setCore_ne s hd, State.job]

/-- A move of a row keeps the job of its core. -/
theorem moveRow_job (x : Core) (b u u2 l2 r : Nat) : (x.moveRow b u u2 l2 r).job = x.job := by
  unfold Core.moveRow
  dsimp only
  repeat' split
  all_goals rfl

theorem evacuate_stepOnly (s : State) (k : IslId) (l2 : Nat) : State.StepOnly i s (s.evacuate k l2) := by
  refine .foldl (fun t c => .foldl (fun u b => ?_) _ t) _ s
  split
  · exact .refl u
  · exact .of_same (job_setCore_of_job u c _ (foldl_kept (g := Core.job) (fun y r => moveRow_job y b _ _ l2 r) _ _)) rfl rfl rfl

theorem tryDown_stepOnly (s : State) : State.StepOnly i s (s.tryDown i) := by
  unfold State.tryDown
  dsimp only
  split
  · exact .refl s
  · split
    · exact .setIsland s _ _ _
    · have hev := evacuate_stepOnly (i := i) s i (s.nextLevel i false)
      refine ⟨hev.jobs, fun k hk => (island_setIsland_ne _ hk _).trans (hev.others k hk), ⟨_, _, _, island_setIsland _ i _⟩,
        hev.ctxs, hev.hallow⟩

theorem chooseStep_stepOnly (s : State) (was12 : Bool) (temp : Nat) : State.StepOnly i s (s.chooseStep i was12 temp) := by
  unfold State.chooseStep
  dsimp only
  split
  · exact .refl s
  · split
    · exact tryDown_stepOnly s
    · exact .setIsland s _ _ _
    · split
      · exact tryDown_stepOnly s
      · exact .refl s

theorem leaveTwin_stepOnly (s : State) : State.StepOnly i s (s.leaveTwin i) := by
  unfold State.leaveTwin
  dsimp only
  split
  · exact .setIsland s _ _ _
  · exact .refl s

theorem twinGuard_stepOnly (s : State) : State.StepOnly i s (s.twinGuard i) := by
  unfold State.twinGuard
  split
  · exact leaveTwin_stepOnly s
  · exact .refl s

theorem sample_stepOnly (s : State) (k : Fin 5) (m : Option IslId) (x : Int) : State.StepOnly i s (s.sample k m x) := by
  unfold State.sample
  dsimp only
  repeat' split
  all_goals exact .of_same rfl rfl rfl rfl

end

/-! ## A boundary where no core runs a job -/

/-- Where no core runs a job, a flag reaches none (R357). -/
theorem flagIsland_idle {s : State} (hidle : ∀ c, s.job c = none) (i : IslId) : s.flagIsland i = s := by
  unfold State.flagIsland
  dsimp only
  split
  · exact foldl_eq_self fun c _ => by simp only [State.mapJob, hidle c]
  · rfl

/-- Where no core runs a job, none stalls at a PHASE (R360). -/
theorem retryPhases_idle {s : State} (hidle : ∀ c, s.job c = none) (i : IslId) : s.retryPhases i = s :=
  foldl_eq_self fun c _ => by
    split
    · simp only [hidle c]
    · rfl

section
variable {s : State} (hidle : ∀ c, s.job c = none) (pool sum : Nat)
include hidle

/-- An island's boundary writes its account and then chooses its step. -/
theorem islandBoundary_stepOnly (i : IslId) (x : IslSense) :
    State.StepOnly i (s.setIsland i ((s.island i).boundary pool sum x)) (s.islandBoundary pool sum i x) := by
  unfold State.islandBoundary
  dsimp only
  rw [flagIsland_idle (s := s.setIsland i _) hidle]
  exact ((chooseStep_stepOnly _ _ _).trans (twinGuard_stepOnly _)).trans (sample_stepOnly _ _ _ _)

/-- The boundaries of some islands, in turn: each writes the account of its own island, and no other. -/
theorem foldl_islandBoundary (sense : Vector IslSense 8) {l : List IslId} (hl : l.Nodup) :
    let t := l.foldl (fun st i => st.islandBoundary pool sum i (sense[i.val]'i.isLt)) s
    t.job = s.job ∧ t.ctxs = s.ctxs ∧ t.hallow = s.hallow ∧ (∀ k, k ∉ l → t.island k = s.island k) ∧
      ∀ k ∈ l, ((s.island k).boundary pool sum (sense[k.val]'k.isLt)).StepsTo (t.island k) := by
  induction l generalizing s with
  | nil => exact ⟨rfl, rfl, rfl, fun _ _ => rfl, fun _ hk => absurd hk List.not_mem_nil⟩
  | cons i l ih =>
    obtain ⟨hi, hl⟩ := List.nodup_cons.1 hl
    have hone := islandBoundary_stepOnly hidle pool sum i (sense[i.val]'i.isLt)
    rw [List.foldl_cons]
    generalize s.islandBoundary pool sum i (sense[i.val]'i.isLt) = u at hone
    have hujob : u.job = s.job := hone.jobs
    have hown : ((s.island i).boundary pool sum (sense[i.val]'i.isLt)).StepsTo (u.island i) := by
      have := hone.own
      rwa [island_setIsland] at this
    have hne : ∀ k, k ≠ i → u.island k = s.island k := fun k hk => (hone.others k hk).trans (island_setIsland_ne s hk _)
    obtain ⟨hjob, hctx, hallow, hout, hin⟩ := ih (s := u) (fun c => by rw [hujob, hidle c]) hl
    refine ⟨hjob.trans hujob, hctx.trans hone.ctxs, hallow.trans hone.hallow, fun k hk => ?_, fun k hk => ?_⟩
    · obtain ⟨hki, hkl⟩ := not_or.1 (mt List.mem_cons.2 hk)
      rw [hout k hkl, hne k hki]
    · rcases List.mem_cons.1 hk with rfl | hkl
      · rwa [hout k hi]
      · have hki : k ≠ i := fun e => hi (e ▸ hkl)
        have := hin k hkl
        rwa [hne k hki] at this

end

/-- The eight boundaries of a governor interval. -/
def State.boundaries (s : State) (sense : Vector IslSense 8) : State :=
  (List.finRange 8).foldl (fun st i => st.islandBoundary s.pool s.sumWeight i (sense[i.val]'i.isLt)) s

/-- The host allowance and the budgets of a new interval (R356, R397). -/
def State.newInterval (s : State) : State :=
  { s with hostAllow := 64 * s.hallow, ctxs := s.ctxs.map fun c => { c with rem := 64 * c.budget } }

@[simp] theorem newInterval_job (s : State) : s.newInterval.job = s.job := rfl
@[simp] theorem newInterval_island (s : State) : s.newInterval.island = s.island := rfl
@[simp] theorem newInterval_hostAllow (s : State) : s.newInterval.hostAllow = 64 * s.hallow := rfl

@[simp] theorem newInterval_rem (s : State) (c : CtxId) : (s.newInterval.ctx c).rem = 64 * (s.ctx c).budget := by
  simp only [State.newInterval, State.ctx, Vector.getElem_map]

theorem execGovernorInterval_eq (s : State) (sense : Vector IslSense 8) :
    execGovernorInterval sense s = .next ((List.finRange 8).foldl State.retryPhases (s.boundaries sense).newInterval) := rfl

/-- A governor interval: the host allowance, the budgets, and every island's account (R352, R356, R397). -/
theorem execGovernorInterval_idle {s : State} (hidle : ∀ c, s.job c = none) (sense : Vector IslSense 8) :
    ∃ t, execGovernorInterval sense s = .next t ∧ t.hostAllow = 64 * s.hallow ∧ (∀ c, (t.ctx c).rem = 64 * (s.ctx c).budget) ∧
      ∀ k : IslId, ((s.island k).boundary s.pool s.sumWeight (sense[k.val]'k.isLt)).StepsTo (t.island k) := by
  obtain ⟨hjob, hctx, hallow, -, hin⟩ : (s.boundaries sense).job = s.job ∧ (s.boundaries sense).ctxs = s.ctxs ∧
      (s.boundaries sense).hallow = s.hallow ∧ _ := foldl_islandBoundary hidle s.pool s.sumWeight sense (List.nodup_finRange 8)
  have hidle' : ∀ c, (s.boundaries sense).newInterval.job c = none := fun c => by rw [newInterval_job, hjob, hidle c]
  refine ⟨(s.boundaries sense).newInterval, ?_, ?_, fun c => ?_, fun k => ?_⟩
  · rw [execGovernorInterval_eq, foldl_eq_self fun i _ => retryPhases_idle hidle' i]
  · rw [newInterval_hostAllow, hallow]
  · rw [newInterval_rem, State.ctx, State.ctx, hctx]
  · rw [newInterval_island]
    exact hin k (List.mem_finRange k)

/-! ## Changes of level -/

theorem twin_permitted {s : State} {i : IslId} {l : Nat} (hok : isTwin l = false ∨ s.twinOk i = true) :
    (isTwin l && !s.twinOk i) = false := by
  rcases hok with hok | hok <;> simp [hok]

section
variable {s : State} {i : IslId} {x : LevelStep} (h : (s.island i).step = some x)
include h

/-- A step to a twin that is not permitted any more is given up (R344). -/
theorem execLevelChange_twin (ht : isTwin x.target = true) (hok : s.twinOk i = false) :
    execLevelChange i s = .next (s.abandonStep i false) := by
  simp only [execLevelChange, h, ht, hok, Bool.not_false, Bool.and_self, if_true]

variable (hok : isTwin x.target = false ∨ s.twinOk i = true)
include hok

/-- A step up takes effect (R347). -/
theorem execLevelChange_up (hup : (s.island i).level ≤ x.target) :
    execLevelChange i s = .next ((s.relevel i x.target).retryPhases i) := by
  simp only [execLevelChange, h, twin_permitted hok, hup, Bool.false_eq_true, if_false, if_true]

/-- What forbids a step down leaves it pending (R142, R362). -/
theorem execLevelChange_barred (hdown : x.target < (s.island i).level)
    (hbar : s.refuses i x.target = true ∨ x.target < s.floorLevel i ∨ s.pendingDemotion i = true) :
    execLevelChange i s = .next (s.abandonStep i true) := by
  have hb : (s.refuses i x.target || decide (x.target < s.floorLevel i) || s.pendingDemotion i) = true := by
    simpa [or_assoc] using hbar
  simp only [execLevelChange, h, twin_permitted hok, Nat.not_le.2 hdown, hb, Bool.false_eq_true, if_false, if_true]

/-- A step down first moves rows, and takes effect once none is left to move (R149, R362). -/
theorem execLevelChange_down (hdown : x.target < (s.island i).level) (href : s.refuses i x.target = false)
    (hfloor : s.floorLevel i ≤ x.target) (hpend : s.pendingDemotion i = false) :
    execLevelChange i s = .next (if (s.evacuate i x.target).evacWaits i x.target = true then s.evacuate i x.target
      else ((s.evacuate i x.target).relevel i x.target).retryPhases i) := by
  have hb : (s.refuses i x.target || decide (x.target < s.floorLevel i) || s.pendingDemotion i) = false := by
    simp [href, hpend, Nat.not_lt.2 hfloor]
  simp only [execLevelChange, h, twin_permitted hok, Nat.not_le.2 hdown, hb, Bool.false_eq_true, if_false]

end

/-- The island after a change of level. -/
theorem relevel_island (s : State) (i : IslId) (l : Nat) :
    (s.relevel i l).island i = { s.island i with level := l, step := none, evacSince := none } := by
  have hk : ∀ t : State, t.islands = s.islands → t.island i = s.island i := fun t ht => by simp only [State.island, ht]
  unfold State.relevel
  dsimp only
  rw [island_setIsland]
  refine congrArg (fun y : Island => { y with level := l, step := none, evacSince := none }) (hk _ ?_)
  refine foldl_kept (g := State.islands) (fun _ _ => ?_) _ s
  rfl

/-! ## Droops and monitors -/

/-- A sample of an island that the monitor selects reaches the monitor. -/
theorem sample_mine (s : State) (k : Fin 5) (i : IslId) (x : Int)
    (h : (s.monitors[k.val]).sel = 15 ∨ (s.monitors[k.val]).sel = i.val) :
    (s.sample k (some i) x).monitors[k.val] = (s.monitors[k.val]).take x := by
  have hm : (decide ((s.monitors[k.val]).sel = 15) || decide ((s.monitors[k.val]).sel = i.val)) = true := by simpa using h
  simp only [State.sample, hm, if_true]
  exact Vector.getElem_set_self _

theorem sample_island (s : State) (k : Fin 5) (m : Option IslId) (x : Int) (i : IslId) :
    (s.sample k m x).island i = s.island i := by
  simp only [State.island, (sample_kept s k m x).1]

/-- A sample leaves what a monitor selects, and its edges. -/
theorem take_kept (m : Monitor) (x : Int) : (m.take x).sel = m.sel ∧ (m.take x).edge = m.edge := by
  unfold Monitor.take; split <;> exact ⟨rfl, rfl⟩

/-- A clear leaves what the monitor selects, and its edges (R461). -/
theorem clearMonitor_kept (s : State) (m : Fin 5) : ((s.clearMonitor m).monitors[m.val]).sel = (s.monitors[m.val]).sel ∧
    ((s.clearMonitor m).monitors[m.val]).edge = (s.monitors[m.val]).edge := by
  simp only [State.clearMonitor, State.setMonitor, Vector.getElem_set_self]
  refine ⟨(foldl_kept (g := Monitor.sel) (fun x e => ?_) _ _).trans rfl,
    (foldl_kept (g := Monitor.edge) (fun x e => ?_) _ _).trans rfl⟩
  · split
    · split
      · exact (take_kept x _).1
      · rfl
    · rfl
  · split
    · split
      · exact (take_kept x _).2
      · rfl
    · rfl

/-- With no sample of this instant, every bin is 0 after a clear. -/
theorem clearMonitor_bin {s : State} (m : Fin 5) (h : s.now = []) :
    ((s.clearMonitor m).monitors[m.val]).bin = Vector.replicate 16 0 := by
  simp only [State.clearMonitor, State.setMonitor, Vector.getElem_set_self, h]
  rfl

theorem execMonitorClr_ready {s : State} (m : Fin 5) (h : s.stage = .ready) : execMonitorClr m s = .next (s.clearMonitor m) :=
  if_neg (not_not.2 h)

theorem execFastsetCountClear_ready {s : State} (h : s.stage = .ready) :
    execFastsetCountClear s = .next { s with fastOut := s.nowFast } :=
  if_neg (not_not.2 h)

/-- The end of a droop (R348). -/
theorem execDroopRecover_droop {s : State} {i : IslId} (d : Nat) (h : (s.island i).droop = true) :
    execDroopRecover i d s = .next ((s.setIsland i { s.island i with droop := false }).sample 1 (some i) (d : Int)) := by
  simp only [execDroopRecover, h, Bool.not_true, Bool.false_eq_true, if_false]

theorem execDroopRecover_none {s : State} {i : IslId} (d : Nat) (h : (s.island i).droop = false) :
    execDroopRecover i d s = .next s := by
  simp only [execDroopRecover, h, Bool.not_false, if_true]

/-- A twin level that is not permitted is left for the level of the same clock (R344). -/
theorem twinGuard_leaves {s : State} {i : IslId} (ht : isTwin (s.island i).level = true) (hok : s.twinOk i = false)
    (hstep : (s.island i).step = none) :
    s.twinGuard i = s.setIsland i { s.island i with step := some { target := (s.island i).level + 1, since := s.time } } := by
  simp only [State.twinGuard, State.leaveTwin, ht, hok, hstep, Bool.not_false, Bool.and_self, Option.isNone_none, if_true]

end Sys2Proof.Machine

open Sys2Proof Sys2Proof.Machine

/-- Settles O41: the boundary by its account, and each event of the governor by the branch that the premises select. -/
theorem governor : Obligations.Governor := by
  refine ⟨fun i pool sum x hsum => ⟨boundary_inc hsum, ?_, ?_, boundary_stretch_less, fun h hf => ?_, fun h hf => ?_,
      boundary_unflagged, rfl, rfl, rfl⟩,
    fun s i m => ⟨fun sense hidle => ?_, fun n hn ht => ?_, fun n hn ht => ?_, ?_, fun x => ⟨rfl, ?_, rfl⟩, fun d hd => ?_,
      fun d hd => ?_, fun hr => ?_, fun hr => ⟨?_, fun hnow => ?_⟩, fun ht hok hstep => ?_⟩,
    fun s i x hx => ⟨fun hok hup => ?_, fun hok hdown href hfloor hpend => ?_, fun hok hdown hbar => ?_, fun ht hok => ?_,
      relevel_island s i⟩⟩
  · rw [← boundary_inc hsum]
    exact boundary_res
  · rw [← boundary_inc hsum]
    exact boundary_bal
  · rw [boundary_stretch_more h, hf, if_pos rfl]
  · rw [boundary_stretch_more h, hf, if_neg Bool.false_ne_true]
  · obtain ⟨t, hexec, hallow, hrem, hisl⟩ := execGovernorInterval_idle hidle sense
    refine ⟨t, hexec, hallow, hrem, fun k => ?_⟩
    obtain ⟨step, pend, since, hk⟩ := hisl k
    rw [hk]
    exact ⟨rfl, rfl, rfl, rfl, rfl⟩
  · refine ⟨s.abandonStep i true, ?_, ?_⟩
    · simp only [exec_evacuationTimeout, execEvacuationTimeout, hn, if_neg (Nat.not_lt.2 ht)]
    · simp only [State.abandonStep, island_setIsland, Bool.or_true, setIsland_cores, and_self]
  · simp only [exec_evacuationTimeout, execEvacuationTimeout, hn, if_pos ht]
  · refine ⟨_, rfl, ?_⟩
    simp only [island_setIsland, Island.lengthened, Bool.true_or, setIsland_cores, true_and]
    intro hd
    rw [hd, if_neg Bool.false_ne_true]
  · cases hd : x.droop <;> simp [Island.tick, hd]
  · refine ⟨_, execDroopRecover_droop d hd, ?_, ?_, ?_, (sample_kept _ _ _ _).2.2, fun hsel => ?_⟩
    · rw [sample_island, island_setIsland]
    · rw [sample_island, island_setIsland]
    · rw [sample_island, island_setIsland]
    · exact sample_mine (s.setIsland i _) 1 i d hsel
  · exact execDroopRecover_none d hd
  · exact ⟨_, execMonitorClr_ready m hr, clearMonitor_bin m, clearMonitor_kept s m⟩
  · exact execFastsetCountClear_ready hr
  · rw [State.nowFast, hnow]
    rfl
  · rw [twinGuard_leaves ht hok hstep, island_setIsland]
  · exact execLevelChange_up hx hok hup
  · exact execLevelChange_down hx hok hdown href hfloor hpend
  · refine ⟨_, execLevelChange_barred hx hok hdown hbar, ?_⟩
    simp only [State.abandonStep, island_setIsland, Bool.or_true, setIsland_cores, and_self]
  · refine ⟨_, execLevelChange_twin hx ht hok, ?_⟩
    simp only [State.abandonStep, island_setIsland, setIsland_cores, and_self]
end

section
namespace Sys2Proof.Machine

/-! ## Demotions (R142) -/

/-- A grade that takes effect touches no pending one. -/
theorem applyGrade_pendDem (x : Core) (n lvl b p g : Nat) : (x.applyGrade n lvl b p g).pendDem = x.pendDem := by
  unfold Core.applyGrade
  dsimp only
  repeat' split
  all_goals rfl

/-- With no demotion pending, one that need not wait takes effect by two grades (R142). -/
theorem demote_now {s : State} {c : CoreId} {b p : Nat} (hpend : (s.core c).pendDem = [])
    (hnow : (s.core c).mustDefer (s.level c) b p (Min.min ((s.core c).grade b p + 2) 15) = false) :
    s.demote c b p = { s.setCore c ((s.core c).applyGrade s.fresh (s.level c) b p (Min.min ((s.core c).grade b p + 2) 15)) with
      fresh := s.fresh + 1 } := by
  have hreg : s.demote c b p = s.regrade c b p (Min.min ((s.core c).grade b p + 2) 15) := by
    simp only [State.demote, hpend, List.find?_nil]
  rw [hreg, State.regrade]
  simp only [hnow, Bool.false_eq_true, if_false, State.gradeNow, applyGrade_pendDem, hpend, List.filter_nil]
  rw [← hpend, ← applyGrade_pendDem (s.core c) s.fresh (s.level c) b p (Min.min ((s.core c).grade b p + 2) 15)]

theorem applyGrade_job (x : Core) (n lvl b p g : Nat) : (x.applyGrade n lvl b p g).job = x.job := by
  unfold Core.applyGrade
  dsimp only
  repeat' split
  all_goals rfl

/-- A grade, given now or noted for later, reaches its core, whose job stays. -/
theorem regrade_eq (s : State) (c : CoreId) (b p g : Nat) :
    ∃ x n, s.regrade c b p g = { s.setCore c x with fresh := n } ∧ x.job = s.job c := by
  unfold State.regrade
  dsimp only
  split
  · exact ⟨_, s.fresh, rfl, rfl⟩
  · exact ⟨_, s.fresh + 1, rfl, applyGrade_job (s.core c) s.fresh (s.level c) b p g⟩

theorem nodeFails_idle {s : State} {c : CoreId} (h : s.job c = none) (cause : Cause) (val : Nat) : s.nodeFails c cause val = s := by
  simp only [State.nodeFails, h]

/-- Without a job to stop, a core is mapped out by its grades alone (R140, R290). -/
theorem mapOut_idle {s : State} {c : CoreId} (h : s.job c = none) : s.mapOut c = s := by
  rw [State.mapOut, nodeFails_idle h, ite_self]

/-- The correction of a row of a core without a job leaves device memory and the system cache alone (R142). -/
theorem scrubRow_corrected_idle {s : State} {c : CoreId} (b p : Nat) (h : s.job c = none) :
    (s.scrubRow c b p .corrected).mem = s.mem ∧ (s.scrubRow c b p .corrected).lines = s.lines := by
  obtain ⟨x, n, hx, hjob⟩ : ∃ x n, s.demote c b p = { s.setCore c x with fresh := n } ∧ x.job = s.job c := regrade_eq ..
  have hidle : (s.demote c b p).job c = none := by
    rw [hx]
    exact (congrArg Core.job (core_setCore s c x)).trans (hjob.trans h)
  rw [State.scrubRow, mapOut_idle hidle, hx]
  exact ⟨rfl, rfl⟩

/-! ## The fast sets (R433) -/

theorem fastLine_mem (s : State) (n : Nat) : n ∈ (s.fastLine n).fastLines := by
  unfold State.fastLine
  dsimp only
  split
  · assumption
  · split <;> exact List.mem_append_right _ (List.mem_singleton_self n)

/-- A line that enters the fast set leaves memory, the cache and the cores alone. -/
theorem fastLine_kept (s : State) (n : Nat) :
    (s.fastLine n).lines = s.lines ∧ (s.fastLine n).mem = s.mem ∧ (s.fastLine n).cores = s.cores := by
  unfold State.fastLine
  dsimp only
  repeat' split
  all_goals exact ⟨rfl, rfl, rfl⟩

theorem fastFrame_mem (s : State) (n : Nat) : n ∈ (s.fastFrame n).fastFrames := by
  unfold State.fastFrame
  split
  · assumption
  · split <;> exact List.mem_append_right _ (List.mem_singleton_self n)

/-- As `fastLine_kept`, for a frame; the frames' counts stay too. -/
theorem fastFrame_kept (s : State) (n : Nat) : (s.fastFrame n).lines = s.lines ∧ (s.fastFrame n).mem = s.mem ∧
    (s.fastFrame n).cores = s.cores ∧ (s.fastFrame n).frameErrs = s.frameErrs := by
  unfold State.fastFrame
  repeat' split
  all_goals exact ⟨rfl, rfl, rfl, rfl⟩

/-- A correction counts against its frame (R404). -/
theorem frameCorrected_count (s : State) (n : Nat) :
    SMap.get 0 (s.frameCorrected n).frameErrs n = SMap.get 0 s.frameErrs n + 1 := by
  rw [State.frameCorrected, (fastFrame_kept _ n).2.2.2]
  have hset : SMap.set 0 s.frameErrs n (SMap.get 0 s.frameErrs n + 1) = s.frameErrs.insert n (SMap.get 0 s.frameErrs n + 1) :=
    if_neg (Nat.succ_ne_zero _)
  exact (congrArg (SMap.get 0 · n) hset).trans (SMap.get_insert_self 0 n _ s.frameErrs)

theorem frameCorrected_kept (s : State) (n : Nat) : (s.frameCorrected n).lines = s.lines ∧ (s.frameCorrected n).mem = s.mem ∧
    (s.frameCorrected n).cores = s.cores := by
  obtain ⟨hlines, hmem, hcores, -⟩ := fastFrame_kept
    { s with frameErrs := SMap.set 0 s.frameErrs n (SMap.get 0 s.frameErrs n + 1) } n
  exact ⟨hlines, hmem, hcores⟩

/-! ## Scrubs -/

/-- A scrub of a frame that the host allowance does not cover waits (R356). -/
theorem scrubFrame_waits {s : State} (n : Nat) (found : EccRead) (h : s.hostAllow < 8) : s.scrubFrame n found = s := by
  have hc : s.hostCovers = false := by simpa [State.hostCovers] using h
  simp only [State.scrubFrame, hc, Bool.not_false, if_true]

/-- A scrub of a frame that the host allowance covers draws on it, and then does what it finds (R356, R404, R434). -/
theorem scrubFrame_covered {s : State} (n : Nat) (h : 8 ≤ s.hostAllow) :
    s.scrubFrame n .clean = s.meterBlock none ∧ s.scrubFrame n .corrected = (s.meterBlock none).frameCorrected n ∧
      s.scrubFrame n .uncorrectable = { s.meterBlock none with
        badFrames := if n ∈ s.badFrames then s.badFrames else s.badFrames ++ [n] } := by
  have hc : s.hostCovers = true := by simpa [State.hostCovers] using h
  simp only [State.scrubFrame, hc, Bool.not_true, Bool.false_eq_true, if_false, true_and]
  rfl

/-- A scrub of a frame that finds nothing changes the account of its read alone (R356). -/
theorem scrubFrame_clean (s : State) (n : Nat) :
    s.scrubFrame n .clean = if 8 ≤ s.hostAllow then s.meterBlock none else s := by
  split
  · exact (scrubFrame_covered n ‹_›).1
  · exact scrubFrame_waits n .clean (Nat.lt_of_not_le ‹_›)

/-- A scrub of a row yields to the timed accesses of its bank group (R149). -/
theorem execScrubRead_row (s : State) (c : CoreId) (b : Fin 32) (p : Nat) (found : EccRead) :
    execScrubRead (.row c b p) found s =
      .next (if s.yieldsAt c (b.val * 65536) = true then s else s.scrubRow c b.val p found) := rfl

/-- A row that is lost with no job to stop for it is counted (R434). -/
theorem rowLost_counted {s : State} {c : CoreId} {b r : Nat} (h : s.protector c b r = none) :
    (s.rowLost c b r).rowsLost = s.rowsLost + 1 ∧ (s.rowLost c b r).mem = s.mem := by
  simp only [State.rowLost, h, setCore_mem, and_self]

/-! ## Faults in C and resets -/

theorem mapJob_of {s : State} {c : CoreId} {j : Job} (h : s.job c = some j) (f : Job → Job) :
    s.mapJob c f = s.setJob c (f j) := by
  simp only [State.mapJob, h]

/-- A fault of the checker's copy strikes that copy alone, and only where FULL keeps it (R431, R432). -/
theorem flipC_checker (j : Job) (f : CArch → CArch) : (j.flipC f 1).c.arch = j.c.arch ∧ (j.flipC f 1).c.third = j.c.third ∧
    (j.flipC f 1).c.chk = if j.prof = 0 then f j.c.chk else j.c.chk := by
  by_cases h : j.prof = 0 <;> simp [Job.flipC, h]

theorem loseAll_job (x : Core) (n : Nat) : (x.loseAll n).job = x.job := by rw [Core.loseAll]

theorem loseAll_grades (x : Core) (n : Nat) : (x.loseAll n).grades = x.grades := by rw [Core.loseAll]

theorem loseAll_quarantined (x : Core) (n : Nat) : (x.loseAll n).quarantined = x.quarantined := by rw [Core.loseAll]

/-- A core as its reset leaves it, beside its scratchpad (R455). -/
def Core.resetting (x : Core) : Core := { x with tlb := [], side := [], latent := [], olds := [], selfTest := true }

theorem resetting_fields (x : Core) : x.resetting.tlb = [] ∧ x.resetting.side = [] ∧ x.resetting.selfTest = true ∧
    x.resetting.job = x.job ∧ x.resetting.grades = x.grades ∧ x.resetting.quarantined = x.quarantined :=
  ⟨rfl, rfl, rfl, rfl, rfl, rfl⟩

section
variable {s : State} {c : CoreId} (h : s.job c = none)
include h

/-- A reset of a core without a job (R455). -/
theorem coreReset_idle : s.coreReset c =
    { s.setCore c ((s.core c).loseAll s.fresh).resetting with fresh := s.fresh + 1 } := by
  rw [State.coreReset, nodeFails_idle h, Core.resetting]

theorem coreReset_core : (s.coreReset c).core c = ((s.core c).loseAll s.fresh).resetting := by
  rw [coreReset_idle h]
  exact core_setCore s c _

theorem coreReset_others {d : CoreId} (hd : d ≠ c) : (s.coreReset c).core d = s.core d := by
  rw [coreReset_idle h]
  exact core_setCore_ne s hd _

end

/-- The end of a self-test in progress (R455). -/
theorem execCoreSelfTestEnd_of {s : State} {c : CoreId} (h : (s.core c).selfTest = true) (passed : BitVec 4) :
    execCoreSelfTestEnd c passed s = .next (s.setCore c { s.core c with
      selfTest := false, quarantined := (s.core c).quarantined && !(decide (passed = 15))
      faultTimes := if decide (passed = 15) then [] else (s.core c).faultTimes }) := by
  simp only [execCoreSelfTestEnd, h, Bool.not_true, Bool.false_eq_true, if_false]

end Sys2Proof.Machine

open Sys2Proof Sys2Proof.Machine

/-- Settles O40: each scrub by what it finds, each fault by what it strikes, and the resets of a core without a job. -/
theorem faultsAndCoreResets : Obligations.FaultsAndCoreResets := by
  refine ⟨fun s c b n r x a j => ⟨fun u => ?_, fun hy hfloor => ?_, fun e hy => ?_, fun e h => ?_, demote_now, rfl,
      fastLine_mem s n, fun h => ?_, fun p q => rowLost_counted, fun h => ?_, fun hj => ⟨?_, ?_, ?_⟩, fun e k m => ⟨rfl, rfl⟩,
      fun f hf => ?_, fun k hj => ?_, fun hj => ?_, ?_, ?_⟩,
    fun s c => ⟨fun hj => ?_, fun passed ht => ?_, fun passed ht => ?_⟩⟩
  · cases u with
    | row d k p => rw [exec_scrubRead, execScrubRead_row, State.scrubRow, ite_self]
    | line k => rfl
    | frame k => exact congrArg Host.Outcome.next (scrubFrame_clean s k)
  · have hin : (s.demote c b.val n).mapOut c = s.demote c b.val n := by rw [State.mapOut, hfloor, if_neg Bool.false_ne_true]
    rw [exec_scrubRead, execScrubRead_row, hy, if_neg Bool.false_ne_true]
    exact congrArg Host.Outcome.next hin
  · rw [exec_scrubRead, execScrubRead_row, if_pos hy]
  · exact congrArg Host.Outcome.next (scrubFrame_waits n e h)
  · refine ⟨_, congrArg Host.Outcome.next (scrubFrame_covered n h).2.1, fastFrame_mem _ n, frameCorrected_count _ n,
      (frameCorrected_kept _ n).2.1⟩
  · refine ⟨_, congrArg Host.Outcome.next (scrubFrame_covered n h).2.2, ?_, rfl, rfl⟩
    dsimp only
    split
    · assumption
    · exact List.mem_append_right _ (List.mem_singleton_self n)
  · exact ⟨_, congrArg Host.Outcome.next (mapJob_of hj _), flipC_checker j _⟩
  · exact ⟨_, congrArg Host.Outcome.next (mapJob_of hj _), rfl, rfl, rfl⟩
  · exact ⟨_, congrArg Host.Outcome.next (mapJob_of hj _), rfl, rfl, rfl⟩
  · simp only [List.mem_cons, List.not_mem_nil, or_false] at hf
    rcases hf with rfl | rfl | rfl <;> rfl
  · exact ⟨_, congrArg Host.Outcome.next (mapJob_of hj _), rfl, rfl, rfl⟩
  · exact ⟨_, rfl, scrubRow_corrected_idle _ _ hj⟩
  · exact ⟨_, rfl, fastLine_kept s n⟩
  · exact ⟨_, rfl, frameCorrected_kept s n⟩
  · obtain ⟨htlb, hside, htest, hjob, hgrades, hquar⟩ := resetting_fields ((s.core c).loseAll s.fresh)
    refine ⟨s.coreReset c, by rw [exec_corerst, execCorerst], ?_⟩
    rw [State.job, coreReset_core hj]
    refine ⟨htlb, hside, (hjob.trans (loseAll_job _ _)).trans hj, htest, hgrades.trans (loseAll_grades _ _),
      hquar.trans (loseAll_quarantined _ _), fun d hd => coreReset_others hj hd, ?_, ?_⟩
    · rw [coreReset_idle hj, setCore_mem]
    · rw [coreReset_idle hj, setCore_lines]
  · refine ⟨_, execCoreSelfTestEnd_of ht passed, ?_⟩
    rw [core_setCore]
    exact ⟨rfl, rfl, fun d hd => core_setCore_ne s hd _, rfl⟩
  · simp only [exec_coreSelfTestEnd, execCoreSelfTestEnd, ht, Bool.not_false, if_true]
end

section
/-! SUPPORT. The element-wise instructions of V (R231, R232): each frame delivers its operation of the lanes, and an operation
is the integer one or the floating-point one by its type. -/

namespace Sys2Proof.Machine

/-! ## Frames -/

theorem lane_lt (w : Nat) (r : Row) (k : Nat) : lane w r k < 2 ^ w := Nat.mod_lt _ (Nat.two_pow_pos w)

section
variable {s : State} {c : CoreId} {j : Job} {i : Instr} (h : Issues s c .v j i)
include h

/-- A vector instruction that issues delivers `g` where its own function is `g` under the mask and the rows of the job. -/
theorem vrun_eq {occ lat : Nat} {d : Opnd} {f : Job → List Row → VOut} {g : Mask → (Nat → Row) → VOut}
    (hf : ∀ l, f (j.sourced .v i) l = g (j.sourced .v i).v.mask (rowAt l)) :
    vrun i occ lat d f s = .next (vecDone s c j i occ lat d (g j.v.mask (srcRow j i))) := by
  rw [vrun_go h, hf, ← sourced_v j .v i]
  rfl

theorem vbin_eq {lat : Nat} {t : ElemT} {d : Opnd} {op : VRnd → Nat → Nat → Nat → Nat × Flags} {f : Nat → Nat × Flags}
    (hf : ∀ k, op (j.sourced .v i).vrnd k (lane t.width (srcRow j i 0) k) (lane t.width (srcRow j i 1) k) = f k) :
    vbin i lat t d op s = .next (vecDone s c j i 1 lat d (lanewise t j.v.mask f)) := by
  rw [← funext hf]
  exact vrun_eq h (g := fun cm x => lanewise t cm fun k => op _ k (lane t.width (x 0) k) (lane t.width (x 1) k)) fun _ => rfl

theorem vtern_eq {lat : Nat} {t : ElemT} {d : Opnd} {op : VRnd → Nat → Nat → Nat → Nat → Nat × Flags} {f : Nat → Nat × Flags}
    (hf : ∀ k, op (j.sourced .v i).vrnd k (lane t.width (srcRow j i 2) k) (lane t.width (srcRow j i 0) k)
      (lane t.width (srcRow j i 1) k) = f k) :
    vtern i lat t d op s = .next (vecDone s c j i 1 lat d (lanewise t j.v.mask f)) := by
  rw [← funext hf]
  exact vrun_eq h (g := fun cm x => lanewise t cm fun k =>
    op _ k (lane t.width (x 2) k) (lane t.width (x 0) k) (lane t.width (x 1) k)) fun _ => rfl

theorem vun_eq {occ lat : Nat} {t : ElemT} {d : Opnd} {op : Nat → Nat × Flags} {f : Nat → Nat × Flags}
    (hf : ∀ k, op (lane t.width (srcRow j i 0) k) = f k) :
    vun i occ lat t d op s = .next (vecDone s c j i occ lat d (lanewise t j.v.mask f)) := by
  rw [← funext hf]
  exact vrun_eq h (g := fun cm x => lanewise t cm fun k => op (lane t.width (x 0) k)) fun _ => rfl

end

/-! ## Operations of one lane -/

section
variable {t : ElemT} {r : VRnd} {k a b : Nat}

section
variable (ht : t.isFlt = false)
include ht

theorem latBy_int (m n : Nat) : latBy t m n = m := by rw [latBy, ht, if_neg Bool.false_ne_true]

theorem laneAdd_int : laneAdd t r k a b = ((a + b) % 2 ^ t.width, 0) := by
  rw [laneAdd, ht, if_neg Bool.false_ne_true, plain]

theorem laneSub_int (hb : b < 2 ^ t.width) : laneSub t r k a b = ((2 ^ t.width + a - b) % 2 ^ t.width, 0) := by
  rw [laneSub, ht, if_neg Bool.false_ne_true, plain, show a + (2 ^ t.width - b) = 2 ^ t.width + a - b by omega]

theorem laneMul_int : laneMul t r k a b = (a * b % 2 ^ t.width, 0) := by
  rw [laneMul, ht, if_neg Bool.false_ne_true, plain]

theorem laneMin_int : laneMinMax t false a b = (if t.intOf a < t.intOf b then a else b, 0) := by
  rw [laneMinMax, ht, if_neg Bool.false_ne_true, plain]
  by_cases h : t.intOf a < t.intOf b <;> simp [h]

theorem laneMax_int : laneMinMax t true a b = (if t.intOf a < t.intOf b then b else a, 0) := by
  rw [laneMinMax, ht, if_neg Bool.false_ne_true, plain]
  by_cases h : t.intOf a < t.intOf b <;> simp [h]

theorem laneAbs_int : laneAbs t a =
    ((t.clamp ((t.intOf a).natAbs : Int)).1, if (t.clamp ((t.intOf a).natAbs : Int)).2 then fSAT else 0) := by
  rw [laneAbs, ht, if_neg Bool.false_ne_true]
  rfl

theorem laneNeg_int : laneNeg t a = ((t.clamp (-(t.intOf a))).1, if (t.clamp (-(t.intOf a))).2 then fSAT else 0) := by
  rw [laneNeg, ht, if_neg Bool.false_ne_true]
  rfl

end

section
variable (ht : t.isFlt = true)
include ht

theorem latBy_flt (m n : Nat) : latBy t m n = n := by rw [latBy, if_pos ht]

theorem laneAdd_flt : laneAdd t r k a b = rndTo t r k (Fp.add r.mode (t.fmt.value a) (t.fmt.value b)) := if_pos ht

theorem laneSub_flt : laneSub t r k a b = rndTo t r k (Fp.add r.mode (t.fmt.value a) (t.fmt.value b).neg) := if_pos ht

theorem laneMul_flt : laneMul t r k a b = rndTo t r k (Fp.mul (t.fmt.value a) (t.fmt.value b)) := if_pos ht

theorem laneMinMax_flt (greater : Bool) : laneMinMax t greater a b = t.fmt.minmax greater a b := if_pos ht

theorem laneAbs_flt : laneAbs t a = if (t.fmt.value a).isNan then (t.fmt.nanBits, nanFlags (t.fmt.value a))
    else (a % 2 ^ (t.width - 1), 0) := if_pos ht

theorem laneNeg_flt : laneNeg t a = if (t.fmt.value a).isNan then (t.fmt.nanBits, nanFlags (t.fmt.value a))
    else (a ^^^ 2 ^ (t.width - 1), 0) := if_pos ht

end

end

end Sys2Proof.Machine

open Sys2Proof Sys2Proof.Machine

/-- Settles O22: each instruction by its frame, and its lanes by the integer or the floating-point half of its operation. -/
theorem vectorArithmetic : Obligations.VectorArithmetic := by
  intro s c j tm d a b t
  refine ⟨?vadd_int, ?vadd_flt, ?vsub_int, ?vsub_flt, ?vmul_int, ?vmul_flt, ?vmadd, ?vfma, ?vmin_int, ?vmax_int, ?vmin_flt,
    ?vmax_flt, ?vadds, ?vabs_int, ?vneg_int, ?vabs_flt, ?vneg_flt⟩
  case vadd_int =>
    rintro i rfl h ht
    rw [exec_vadd, execVadd, latBy_int ht]
    exact vbin_eq h fun _ => laneAdd_int ht
  case vadd_flt =>
    rintro i rfl h ht
    rw [exec_vadd, execVadd, latBy_flt ht]
    exact vbin_eq h fun _ => laneAdd_flt ht
  case vsub_int =>
    rintro i rfl h ht
    rw [exec_vsub, execVsub, latBy_int ht]
    exact vbin_eq h fun _ => laneSub_int ht (lane_lt _ _ _)
  case vsub_flt =>
    rintro i rfl h ht
    rw [exec_vsub, execVsub, latBy_flt ht]
    exact vbin_eq h fun _ => laneSub_flt ht
  case vmul_int =>
    rintro i rfl h ht
    rw [exec_vmul, execVmul]
    exact vbin_eq h fun _ => laneMul_int ht
  case vmul_flt =>
    rintro i rfl h ht
    rw [exec_vmul, execVmul]
    exact vbin_eq h fun _ => laneMul_flt ht
  case vmadd =>
    rintro i rfl h
    rw [exec_vmadd, execVmadd]
    exact vtern_eq h fun _ => rfl
  case vfma =>
    rintro i rfl h
    rw [exec_vfma, execVfma]
    exact vtern_eq h fun _ => rfl
  case vmin_int =>
    rintro i rfl h ht
    rw [exec_vmin, execVmin]
    exact vbin_eq h fun _ => laneMin_int ht
  case vmax_int =>
    rintro i rfl h ht
    rw [exec_vmax, execVmax]
    exact vbin_eq h fun _ => laneMax_int ht
  case vmin_flt =>
    rintro i rfl h ht
    rw [exec_vmin, execVmin]
    exact vbin_eq h fun _ => laneMinMax_flt ht false
  case vmax_flt =>
    rintro i rfl h ht
    rw [exec_vmax, execVmax]
    exact vbin_eq h fun _ => laneMinMax_flt ht true
  case vadds =>
    rintro i rfl h
    rw [exec_vadds, execVadds]
    exact vbin_eq h fun _ => rfl
  case vabs_int =>
    rintro i rfl h ht
    rw [exec_vabs, execVabs]
    exact vun_eq h fun _ => laneAbs_int ht
  case vneg_int =>
    rintro i rfl h ht
    rw [exec_vneg, execVneg]
    exact vun_eq h fun _ => laneNeg_int ht
  case vabs_flt =>
    rintro i rfl h ht
    rw [exec_vabs, execVabs]
    exact vun_eq h fun _ => laneAbs_flt ht
  case vneg_flt =>
    rintro i rfl h ht
    rw [exec_vneg, execVneg]
    exact vun_eq h fun _ => laneNeg_flt ht
end

section
/-! SUPPORT. What a reduction makes of its accumulator (R265): the tile by the dot product of R181, and one step of the
floating-point dot product of R179. -/

namespace Sys2Proof.Machine

/-! ## The tile -/

theorem el_of_lt (a : Acc) {p : Nat} (hp : p < 4096) : a.el p = a.e[p] := by
  simp [Acc.el, Array.getD, hp]

theorem summed_kind (a : Acc) (f : Nat → W32) : (a.summed f).kind = a.kind := by
  rw [Acc.summed, Acc.fill]

theorem summed_e (a : Acc) (f : Nat → W32) : (a.summed f).e = Vector.ofFn fun n => f n.val := by
  rw [Acc.summed, Acc.fill]

theorem el_summed (a : Acc) (f : Nat → W32) {p : Nat} (hp : p < 4096) : (a.summed f).el p = f p := by
  simp only [el_of_lt _ hp, summed_e, Vector.getElem_ofFn]

/-- Element `p` of an accumulator whose elements are the sums over an `m` x `n` tile (R265). -/
theorem el_tileSums (a : Acc) (m n : Nat) (old : Nat → W32) (sum : Nat → Nat → W32 → W32 × Flags) {p : Nat} (hp : p < 4096) :
    (a.summed fun q => ((tileSums m n old sum).toArray.getD q (0, 0)).1).el p =
      if p / 64 < m ∧ p % 64 < n then (sum (p / 64) (p % 64) (old p)).1 else old p := by
  rw [el_summed _ _ hp]
  by_cases h : p / 64 < m ∧ p % 64 < n <;> simp [tileSums, hp, h]

/-! ## The dot product of integers (R181) -/

/-- The steps of R181 add the sum of the products, modulo 2^32. -/
theorem dotI_value : ∀ (as bs : List Int) (c : W32) (g : Flags),
    (dotI as bs (c, g)).1 = BitVec.ofInt 32 (c.toInt + (as.zipWith (· * ·) bs).sum)
  | a :: as, b :: bs, c, g => by
    rw [dotI, accumI, dotI_value as bs, BitVec.ofInt_add, BitVec.ofInt_toInt, ← BitVec.ofInt_add,
      List.zipWith_cons_cons, List.sum_cons, Int.add_assoc]
  | [], _, c, g => by simp [dotI]
  | _ :: _, [], c, g => by simp [dotI]

/-! ## The step of a floating-point reduction (R179, R182) -/

theorem and_not_of_or_and {w : Nat} (g x m : BitVec w) : (g ||| x &&& m) &&& ~~~m = g &&& ~~~m := by
  ext n hn
  simp only [BitVec.getElem_and, BitVec.getElem_or, BitVec.getElem_not]
  cases m[n] <;> simp

/-- No flag but NV and OF is recorded (R182). -/
theorem accumF_flags (c : Nat × Flags) (p : Fp × Flags) :
    (accumF c p).2 &&& ~~~(fNV ||| fOF) = c.2 &&& ~~~(fNV ||| fOF) := and_not_of_or_and ..

/-- Without truncation the product of two positive numbers is their exact product (R179, R183). -/
theorem prodOf_exact (t : ElemT) {m n : Nat} (hm : 0 < m) (hn : 0 < n) (e k : Int) :
    (prodOf t 0 (.num false m e) (.num false n k)).1 = .num false
      (m * n * 2 ^ (2 * (prodWidth t - 1 - t.fmt.fw))) (e + k - (2 * (prodWidth t - 1 - t.fmt.fw) : Nat)) := by
  generalize hsh : prodWidth t - 1 - t.fmt.fw = sh
  have hp : m * 2 ^ sh * (n * 2 ^ sh) - lowPart (m * 2 ^ sh) (n * 2 ^ sh) 0 0 = m * n * 2 ^ (2 * sh) := by
    rw [lowPart, Nat.sub_zero, Nat.two_mul, Nat.pow_add, Nat.mul_mul_mul_comm]
  have hpos : m * n * 2 ^ (2 * sh) ≠ 0 := (Nat.mul_pos (Nat.mul_pos hm hn) (Nat.two_pow_pos _)).ne'
  simp only [prodOf, hsh, hp, if_neg hpos]
  rfl

theorem scale_zero (x : Fp) : x.scale 0 = x := by cases x <;> simp [Fp.scale]

/-- Scales of 127 leave the product as it is (R180). -/
theorem stepProd_unscaled (t : ElemT) (k : Nat) {a b : Elem} (ha : a.scale = 127) (hb : b.scale = 127) :
    stepProd t k a b = prodOf t k a.val b.val := by
  simp [stepProd, ha, hb, scale_zero]

/-! ## Reductions of integers (R265) -/

section
variable {f : MFlight} {tm : Tm} {n a b : Fin 8} {new : Bool}
  (hi : f.instr = .tmma tm n a b new ∨ f.instr = .tmmat tm n a b new)
  (hflt : (f.typeOf (f.rows (some a))).isFlt = false) (hfp8 : (f.typeOf (f.rows (some a))).isFp8 = false)
include hi hflt hfp8

theorem reduce_int (acc : Acc) : (f.reduce acc).1 = acc.summed fun p => ((tileSums f.shape.1 f.shape.2.1 acc.el (sumsI
      ((List.range f.shape.1).map fun q => lineI (f.rows (some a)) (f.typeOf (f.rows (some a))) q f.shape.2.2)
      ((List.range f.shape.2.1).map fun q => lineI (f.rows (some b)) (f.typeOf (f.rows (some b))) q f.shape.2.2))).toArray.getD
        p (0, 0)).1 := by
  rcases hi with hi | hi <;> simp only [MFlight.reduce, hi, hflt, hfp8, Bool.or_self, Bool.false_eq_true, if_false]

theorem reduce_int_kind (acc : Acc) : (f.reduce acc).1.kind = acc.kind := by
  rw [reduce_int hi hflt hfp8, summed_kind]

/-- An element of the tile gains the sum of the products of its lines, and no other element changes. -/
theorem reduce_int_el (acc : Acc) {p : Nat} (hp : p < 4096) : (f.reduce acc).1.el p =
    if p / 64 < f.shape.1 ∧ p % 64 < f.shape.2.1 then BitVec.ofInt 32 ((acc.el p).toInt +
      ((lineI (f.rows (some a)) (f.typeOf (f.rows (some a))) (p / 64) f.shape.2.2).zipWith (· * ·)
        (lineI (f.rows (some b)) (f.typeOf (f.rows (some b))) (p % 64) f.shape.2.2)).sum)
    else acc.el p := by
  rw [reduce_int hi hflt hfp8, el_tileSums _ _ _ _ _ hp]
  refine ite_congr rfl (fun ⟨hrow, hcol⟩ => ?_) fun _ => rfl
  simp [sumsI, hrow, hcol, dotI_value]

end

end Sys2Proof.Machine

open Sys2Proof Sys2Proof.Machine

/-- Settles O29: a reduction of integers by the sums of its tile, and one of floats by its step. -/
theorem reductionSums : Obligations.ReductionSums := by
  refine ⟨fun f acc tm n a b new p hi hp hflt hfp8 => ⟨fun hin => ?_, fun hout => ?_, reduce_int_kind hi hflt hfp8 acc⟩,
    fun t a b as bs x g => ⟨rfl, fun _ _ => rfl, fun p q => accumF_flags _ _, fun ha hb m n e k hm hn h0m h0n => ?_⟩⟩
  · exact (reduce_int_el hi hflt hfp8 acc hp).trans (if_pos hin)
  · exact (reduce_int_el hi hflt hfp8 acc hp).trans (if_neg hout)
  · rw [stepProd_unscaled t 0 ha hb, hm, hn]
    exact ⟨_, prodOf_exact t h0m h0n e k⟩
end

section
namespace Sys2Proof.Machine

/-! ## Bytes of numbers and of rows -/

theorem bytesOfNat_length : ∀ n x, (bytesOfNat n x).length = n
  | 0, _ => rfl
  | n + 1, x => congrArg (· + 1) (bytesOfNat_length n (x / 256))

theorem natOfBytes_bytesOfNat : ∀ n x, natOfBytes (bytesOfNat n x) = x % 256 ^ n
  | 0, x => by rw [pow_zero, Nat.mod_one]; rfl
  | n + 1, x => by
    rw [bytesOfNat, natOfBytes, natOfBytes_bytesOfNat n, BitVec.toNat_ofNat, pow_succ' 256 n]
    exact Nat.mod_mul.symm

theorem bytesOfNat_natOfBytes : ∀ bs : List Byte, bytesOfNat bs.length (natOfBytes bs) = bs
  | [] => rfl
  | b :: bs => by
    have hb : b.toNat < 256 := b.isLt
    have hlow : BitVec.ofNat 8 (b.toNat + 256 * natOfBytes bs) = b :=
      BitVec.eq_of_toNat_eq (by rw [BitVec.toNat_ofNat]; omega)
    have hhigh : (b.toNat + 256 * natOfBytes bs) / 256 = natOfBytes bs := by omega
    rw [List.length_cons, natOfBytes, bytesOfNat, hlow, hhigh, bytesOfNat_natOfBytes bs]

theorem bytesOfNat_getElem : ∀ n x k (h : k < (bytesOfNat n x).length), (bytesOfNat n x)[k] = BitVec.ofNat 8 (x / 256 ^ k)
  | 0, _, _, h => absurd h (Nat.not_lt_zero _)
  | _ + 1, x, 0, _ => by rw [pow_zero, Nat.div_one]; rfl
  | n + 1, x, k + 1, h => by
    have ih := bytesOfNat_getElem n (x / 256) k (Nat.lt_of_succ_lt_succ h)
    rw [Nat.div_div_eq_div_mul, ← pow_succ'] at ih
    exact ih

/-- The row of a row's bytes is the row. -/
theorem rowOfBytes_bytesOfRow (r : Row) : rowOfBytes (bytesOfRow r) = r := by
  rw [rowOfBytes, bytesOfRow, natOfBytes_bytesOfNat, Nat.mod_eq_of_lt (by have := r.isLt; omega), BitVec.ofNat_toNat,
    BitVec.setWidth_eq]

/-- The bytes of the row of 128 bytes are those bytes. -/
theorem bytesOfRow_rowOfBytes {bs : List Byte} (h : bs.length = 128) : bytesOfRow (rowOfBytes bs) = bs := by
  have hlt := natOfBytes_lt bs
  rw [h] at hlt
  have hrow : (rowOfBytes bs).toNat = natOfBytes bs := by
    rw [rowOfBytes, BitVec.toNat_ofNat]; exact Nat.mod_eq_of_lt (by omega)
  have := bytesOfNat_natOfBytes bs
  rwa [h, ← hrow] at this

/-! ## Bytes of a line -/

theorem lineBytes_eq (r : Row) (o n : Nat) : lineBytes r o n = bytesOfNat n (r.toNat / 2 ^ (8 * o)) := by
  rw [lineBytes, Nat.shiftRight_eq_div_pow]

theorem rowOfBytes_lineBytes (r : Row) : rowOfBytes (lineBytes r 0 128) = r := rowOfBytes_bytesOfRow r

theorem bytesOfRow_length (r : Row) : (bytesOfRow r).length = 128 := bytesOfNat_length _ _

theorem lineBytes_one (r : Row) {n : Nat} (h : n < 128) :
    lineBytes r n 1 = [(bytesOfRow r)[n]'(h.trans_eq (bytesOfRow_length r).symm)] := by
  rw [lineBytes_eq, bytesOfNat, bytesOfNat, List.cons.injEq]
  refine ⟨?_, rfl⟩
  rw [pow_mul]
  exact (bytesOfNat_getElem 128 r.toNat n _).symm

/-- The bytes of a row of which some are replaced. -/
theorem bytesOfRow_patchRow (r : Row) {o : Nat} {bs : List Byte} (h : o + bs.length ≤ 128) :
    bytesOfRow (patchRow r o bs) = (bytesOfRow r).take o ++ bs ++ (bytesOfRow r).drop (o + bs.length) := by
  refine bytesOfRow_rowOfBytes ?_
  simp only [List.length_append, List.length_take, List.length_drop, bytesOfRow_length]
  omega

/-- A byte within the replaced range is the new one. -/
theorem lineBytes_patchRow_in (r : Row) {o n : Nat} {bs : List Byte} (h : o + bs.length ≤ 128) (hn : n < bs.length) :
    lineBytes (patchRow r o bs) (o + n) 1 = [bs[n]] := by
  rw [lineBytes_one _ (by omega)]
  simp only [bytesOfRow_patchRow r h]
  have ht : ((bytesOfRow r).take o).length = o := by rw [List.length_take, bytesOfRow_length]; omega
  rw [List.getElem_append_left (by rw [List.length_append, ht]; omega), List.getElem_append_right (by omega)]
  simp only [ht, Nat.add_sub_cancel_left]

/-- A byte outside the replaced range is as it was. -/
theorem lineBytes_patchRow_out (r : Row) {o n : Nat} {bs : List Byte} (h : o + bs.length ≤ 128) (hn : n < 128)
    (hout : n < o ∨ o + bs.length ≤ n) : lineBytes (patchRow r o bs) n 1 = lineBytes r n 1 := by
  rw [lineBytes_one _ hn, lineBytes_one _ hn]
  simp only [bytesOfRow_patchRow r h]
  have ht : ((bytesOfRow r).take o).length = o := by rw [List.length_take, bytesOfRow_length]; omega
  rcases hout with hlow | hhigh
  · rw [List.getElem_append_left (by rw [List.length_append, ht]; omega), List.getElem_append_left (by omega),
      List.getElem_take]
  · rw [List.getElem_append_right (by rw [List.length_append, ht]; omega), List.getElem_drop]
    simp only [List.length_append, ht]
    congr 2
    omega

end Sys2Proof.Machine
end

section
namespace Sys2Proof.Machine

/-! ## Fences -/

/-- The scopes that reach beyond the cluster (R217). -/
theorem scopeWide_iff {sc : Scope} : scopeWide sc = true ↔ sc = .die ∨ sc = .device ∨ sc = .system := by
  cases sc <;> simp [scopeWide]

section
variable (s : State) (c : CoreId) (j : Job) {sc : Scope}

/-- An acquire at DIE scope or wider invalidates the side cache (R217). -/
theorem acquire_wide (h : sc = .die ∨ sc = .device ∨ sc = .system) : s.acquire c j true sc = s.sideFlushAll c j := by
  rw [State.acquire, scopeWide_iff.2 h]; rfl

theorem acquire_narrow (h : ¬ (sc = .die ∨ sc = .device ∨ sc = .system)) : s.acquire c j true sc = s := by
  rw [State.acquire, Bool.eq_false_iff.2 fun hw => h (scopeWide_iff.1 hw)]; rfl

theorem postedIn_iff {m : BitVec 16} : j.postedIn m = true ↔ ∃ p ∈ j.a.posted, p.inMask m = true := List.any_eq_true

theorem postedIn_eq_false_iff {m : BitVec 16} : j.postedIn m = false ↔ ∀ p ∈ j.a.posted, p.inMask m = false := by
  simp [Job.postedIn]

end

section
variable {s : State} {c : CoreId} {j : Job} {i : Instr}

/-- An instruction of A without operand fields reads nothing. -/
theorem sourced_of_no_fields (h : fieldsOf j i = []) : j.sourced .a i = j := by
  have hj : j.issuing .a i = j := issuing_plain j .a i (by decide) (by decide)
  simp only [Job.sourced, hj, h, readFields]

/-! ## Translation maintenance -/

variable {covers : State → Job → List Val → Except TlbBad Covers}

/-- A TLBINV that issues raises its operand's trap, or starts its invalidation and waits for it (R219, R376). -/
theorem tlbinvOp_go (h : Issues s c .a j i) (hw : j.a.wait = .run) : tlbinvOp i covers s = .next
    (match covers s j (sourcesOf j .a i) with
    | .error v => s.setJob c (j.raiseTlb v)
    | .ok x => (s.shootStart j.part x c).setJob c
        (((j.sourced .a i).setWait .a (.op [BitVec.ofNat 64 ((s.shootStart j.part x c).part j.part).seq])).act .a)) := by
  have hj : j.issuing .a i = j := issuing_plain j .a i (by decide) (by decide)
  have hissue := issue_go h 1 fun s c j =>
    let (j1, vs) := readFields j (fieldsOf j i)
    match covers s j vs with
    | .error v => s.setJob c (j.raiseTlb v)
    | .ok x =>
      let s1 := s.shootStart j.part x c
      s1.setJob c ((j1.setWait .a (.op [BitVec.ofNat 64 (s1.part j.part).seq])).act .a)
  rw [issue, withJob_of h.toInTurn, hj] at hissue
  rw [tlbinvOp, withJob_of h.toInTurn]
  dsimp only
  rw [hw, Job.sourced, sourcesOf, hj]
  exact hissue

theorem tlbinvOp_starts (h : Issues s c .a j i) (hw : j.a.wait = .run) {x : Covers}
    (hx : covers s j (sourcesOf j .a i) = .ok x) : tlbinvOp i covers s = .next ((s.shootStart j.part x c).setJob c
      (((j.sourced .a i).setWait .a (.op [BitVec.ofNat 64 ((s.shootStart j.part x c).part j.part).seq])).act .a)) := by
  rw [tlbinvOp_go h hw, hx]

theorem tlbinvOp_traps (h : Issues s c .a j i) (hw : j.a.wait = .run) {x : TlbBad}
    (hx : covers s j (sourcesOf j .a i) = .error x) : tlbinvOp i covers s = .next (s.setJob c (j.raiseTlb x)) := by
  rw [tlbinvOp_go h hw, hx]

/-! ## What an instruction that posts no page request finds -/

section
variable {va : Nat}

theorem probe_of_leaf {e : TlbEnt} (h : s.tlbFind c j.ctx va = some e) : s.probe c j va = .leaf e := by
  rw [State.probe, h]

theorem probe_of_no_leaf (h : s.tlbFind c j.ctx va = none) (hn : 2 ^ 48 ≤ va ∨ j.a.probed = some (va / 4096)) :
    s.probe c j va = .none := by
  simp only [State.probe, h, if_pos hn]

theorem probe_of_unwalked (h : s.tlbFind c j.ctx va = none) (hva : va < 2 ^ 48) (hn : j.a.probed ≠ some (va / 4096)) :
    s.probe c j va = .walk := by
  simp only [State.probe, h, if_neg (not_or.2 ⟨Nat.not_le.2 hva, hn⟩)]

end

section
variable {sc : Bool} {a b : Opnd} {cls : Fin 16} {va : Nat} (h : Issues s c .a j (.pref sc a b cls))
  (hm : j.mustWait cls true true 0 0 = false) (hva : va = (srcA j (.pref sc a b cls) 0 + srcA j (.pref sc a b cls) 1).toNat)
include h hm hva

/-- A leaf that a prefetch may read through serves it (R221). -/
theorem exec_pref_leaf {e : TlbEnt} (hf : s.tlbFind c j.ctx va = some e) (hlt : va < 2 ^ 48) (hrd : e.rd = true)
    (hk : e.kind ≠ 2) (hw : s.hostWaits j.ctx e.kind (e.pa va) = false) : exec (.pref sc a b cls) s =
      .next ((s.prefetch c j sc (e.pa va) e.kind).setJob c ((j.sourced .a (.pref sc a b cls)).unprobe.done .a 1)) := by
  have hok : ¬ (2 ^ 48 ≤ va ∨ (!e.rd) = true ∨ e.kind = 2) :=
    not_or.2 ⟨Nat.not_le.2 hlt, not_or.2 ⟨by simp [hrd], hk⟩⟩
  subst hva
  simp only [exec_pref, execPref, accessOp_go h, hm, Bool.false_eq_true, if_false]
  rw [show j.argX _ 0 + j.argX _ 1 = srcA j (.pref sc a b cls) 0 + srcA j (.pref sc a b cls) 1 from rfl, probe_of_leaf hf]
  simp only [if_neg hok, hw, Bool.false_eq_true, if_false]
  rfl

/-- A prefetch of an address beyond the 48 bits is dropped (R221). -/
theorem exec_pref_beyond (hge : 2 ^ 48 ≤ va) : exec (.pref sc a b cls) s =
    .next (s.setJob c ((j.sourced .a (.pref sc a b cls)).unprobe.done .a 1)) := by
  subst hva
  simp only [exec_pref, execPref, accessOp_go h, hm, Bool.false_eq_true, if_false]
  rw [show j.argX _ 0 + j.argX _ 1 = srcA j (.pref sc a b cls) 0 + srcA j (.pref sc a b cls) 1 from rfl]
  cases hf : s.tlbFind c j.ctx (srcA j (.pref sc a b cls) 0 + srcA j (.pref sc a b cls) 1).toNat with
  | none => rw [probe_of_no_leaf hf (.inl hge)]; rfl
  | some e => rw [probe_of_leaf hf]; simp only [if_pos (Or.inl hge)]; rfl

end

end

/-! ## Fences that issue -/

section
variable {s : State} {c : CoreId} {j : Job} {sc : Scope} {m : BitVec 16}

theorem exec_fenceRel_go (h : Issues s c .a j (.fenceRel sc m)) :
    exec (.fenceRel sc m) s = .next (s.doneA c (if j.postedIn m then j.post (.fence m sc) else j)) := by
  rw [exec_fenceRel, execFenceRel, accessOp_go h, sourced_of_no_fields rfl]

theorem exec_fenceFull_go (h : Issues s c .a j (.fenceFull sc m)) :
    exec (.fenceFull sc m) s = .next (if j.postedIn m then s else (s.acquire c j true sc).doneA c j) := by
  rw [exec_fenceFull, execFenceFull, accessOp_go h, sourced_of_no_fields rfl]

theorem exec_fenceAsync_go (h : Issues s c .a j (.fenceAsync sc m)) :
    exec (.fenceAsync sc m) s = .next (if [(0 : CopyId), 1].any (fun e =>
      (j.copiesOf e).any fun x => m.getLsbD (copyFields x.cmd).cls.val) then s else s.doneA c j) := by
  rw [exec_fenceAsync, execFenceAsync, accessOp_go h, sourced_of_no_fields rfl]

end

end Sys2Proof.Machine

open Sys2Proof Sys2Proof.Machine

/-- Settles O18: each fence by the posted accesses of its classes, and each translation instruction by what its operands name. -/
theorem fencesAndTranslation : Obligations.FencesAndTranslation := by
  refine ⟨fun s c j sc m => ⟨?_, ?_, ?_, ?_⟩, fun s c j d a b sc cls x =>
    ⟨?_, ?_, ?_, ?_, ?_, ?_, ?_, ?_, ?_, ?_, ?_, ?_⟩⟩
  · rintro i rfl h
    have hexec : exec (.fenceAcq sc m) s = .next ((s.acquire c j true sc).doneA c j) := by
      rw [exec_fenceAcq, execFenceAcq, accessOp_go h, sourced_of_no_fields rfl]
    exact ⟨fun hw => by rw [hexec, acquire_wide s c j hw]; rfl, fun hw => by rw [hexec, acquire_narrow s c j hw]; rfl⟩
  · rintro i rfl h
    have hexec := exec_fenceRel_go h
    exact ⟨fun hp => by rw [hexec, (postedIn_eq_false_iff j).2 hp]; rfl, fun hp => by rw [hexec, (postedIn_iff j).2 hp]; rfl⟩
  · rintro i rfl h
    have hexec := exec_fenceFull_go h
    refine ⟨fun hp => ?_, fun hp hw => ?_, fun hp hw => ?_⟩
    · rw [hexec, (postedIn_iff j).2 hp]; rfl
    · rw [hexec, (postedIn_eq_false_iff j).2 hp, acquire_wide s c j hw]; rfl
    · rw [hexec, (postedIn_eq_false_iff j).2 hp, acquire_narrow s c j hw]; rfl
  · rintro i rfl h
    have hexec := exec_fenceAsync_go h
    refine ⟨fun hc => ?_, fun ⟨e, x, hx, hm⟩ => ?_⟩
    · rw [hexec, if_neg]
      · rfl
      · simp only [List.any_eq_true, not_exists, not_and]
        exact fun e _ x hx hm => Bool.false_ne_true ((hc e x hx).symm.trans hm)
    · rw [hexec, if_pos]
      have he : e ∈ [(0 : CopyId), 1] := by fin_cases e <;> decide
      exact List.any_eq_true.2 ⟨e, he, List.any_eq_true.2 ⟨x, hx, hm⟩⟩
  · rintro i rfl h
    rw [exec_tlbp, execTlbp, accessOp_go h]
    rfl
  · rintro i rfl h hw hva hx
    rw [exec_tlbinvPage, execTlbinvPage]
    refine tlbinvOp_starts h hw ((if_neg (Nat.not_le.2 hva)).trans ?_)
    rw [show s.tlbCtx j.part (j.argX _ 1) = _ from hx]
    rfl
  · rintro i rfl h hw hva
    rw [exec_tlbinvPage, execTlbinvPage]
    exact tlbinvOp_traps (x := .addr (srcA j (.tlbinvPage a b) 0).toNat) h hw (if_pos hva)
  · rintro i rfl h hw hva hx
    rw [exec_tlbinvPage, execTlbinvPage]
    refine tlbinvOp_traps (x := .ctx ((srcA j (.tlbinvPage a b) 1).setWidth 32)) h hw
      ((if_neg (Nat.not_le.2 hva)).trans ?_)
    rw [show s.tlbCtx j.part (j.argX _ 1) = _ from hx]
    rfl
  · rintro i rfl h hw hx
    rw [exec_tlbinvCtx, execTlbinvCtx]
    refine tlbinvOp_starts h hw ?_
    rw [show s.tlbCtx j.part (j.argX _ 0) = _ from hx]
  · rintro i rfl h hw hx
    rw [exec_tlbinvCtx, execTlbinvCtx]
    refine tlbinvOp_traps (x := .ctx ((srcA j (.tlbinvCtx a b) 0).setWidth 32)) h hw ?_
    rw [show s.tlbCtx j.part (j.argX _ 0) = _ from hx]
    rfl
  · rintro i rfl h hw
    rw [exec_tlbinvAll, execTlbinvAll]
    exact tlbinvOp_starts h hw rfl
  · rintro i rfl h
    rw [exec_l1opAll, execL1opAll, accessOp_go h]
    rfl
  · rintro i rfl h hva e hf
    rw [exec_l1opLine, execL1opLine, accessOp_go h]
    simp only [show j.argX _ 0 = srcA j (.l1opLine a) 0 from rfl, probe_of_leaf hf]
    rfl
  · rintro i rfl h hva hf
    refine ⟨fun hp => ?_, fun hp => ?_⟩
    · rw [exec_l1opLine, execL1opLine, accessOp_go h]
      simp only [show j.argX _ 0 = srcA j (.l1opLine a) 0 from rfl, probe_of_no_leaf hf (.inr hp)]
      rfl
    · rw [exec_l1opLine, execL1opLine, accessOp_go h]
      simp only [show j.argX _ 0 = srcA j (.l1opLine a) 0 from rfl, probe_of_unwalked hf hva hp]
      rfl
  · rintro i rfl h hm e va hva hf hlt hrd hk hw
    exact exec_pref_leaf h hm hva hf hlt hrd hk hw
  · rintro i rfl h hm hge
    exact exec_pref_beyond h hm rfl hge
end

section
namespace Sys2Proof.Machine

/-! ## Lines at hand -/

/-- The system cache holds the line of a piece of device memory for the job, sound, and the node has staged nothing. -/
structure State.Serves (s : State) (j : Job) (p : Piece) (l : Line) : Prop where
  kind : p.kind = 0
  staged : s.stagedOf j = []
  line : SMap.find s.lines (p.pa / 128) = some l
  ctx : l.ctx = j.ctx
  sound : l.poison = none

section
variable {s : State} {c : CoreId} {j : Job} {p : Piece} {l : Line}

/-- Device memory draws nothing on the host allowance (R354). -/
theorem hostWaits_device (ctx : CtxId) (pa : Nat) : s.hostWaits ctx 0 pa = false := rfl

theorem hostDraw_device (ctx : CtxId) (pa : Nat) : s.hostDraw ctx 0 pa = s := rfl

theorem hostBlocks_device (ctx : CtxId) (pa : Nat) : s.hostBlocks ctx [(0, pa)] = 0 := rfl

theorem nodeRead_serves (h : s.Serves j p l) :
    s.nodeRead j (p.pa / 128 * 128) 128 p.kind = .data (lineBytes l.data 0 128) := by
  have hl : s.lineOf j.ctx (p.pa / 128 * 128) = some l := by
    rw [State.lineOf, Nat.mul_div_cancel _ (by decide), h.line]; exact if_pos h.ctx
  simp only [State.nodeRead, h.staged, true_or, if_true, h.kind, State.physRead, hl, h.sound, Nat.mul_mod_left]

/-- The line of a piece as the system cache gives it. -/
theorem lineGet_serves (h : s.Serves j p l) : s.lineGet c j p = .ok (s.touch p.pa) [l.data] := by
  have hk : p.kind ≠ 1 := by rw [h.kind]; decide
  rw [State.lineGet, nodeRead_serves h]
  simp only [if_neg hk, rowOfBytes_lineBytes]

theorem lineRead_serves (h : s.Serves j p l) : s.lineRead c j p = .ok (s.touch p.pa) [l.data] := by
  rw [State.lineRead, h.kind, hostWaits_device, hostDraw_device, lineGet_serves h]; rfl

/-! ## The side cache -/

/-- A hit gives the line as it was filled. -/
theorem sideRead_hit {r : Row} (h : s.sideHit c j p = some r) : s.sideRead c j [p] = .ok s [r] := by
  have hnone : [p].filter (fun p => (s.sideHit c j p).isNone) = [] := by simp [h]
  simp only [State.sideRead, hnone]
  show State.sideRows s c j [p] = _
  simp only [State.sideRows, h, List.append_nil]

/-- A miss brings the system cache's line into the side cache. -/
theorem sideRead_miss (hm : s.sideHit c j p = none) (h : s.Serves j p l) :
    s.sideRead c j [p] = .ok ((s.touch p.pa).sideFill c j p.pa l.data) [l.data] := by
  have hall : [p].filter (fun p => (s.sideHit c j p).isNone) = [p] := by simp [hm]
  have hwant : s.sideWant j [p] = none := by simp only [State.sideWant, List.findSome?, nodeRead_serves h]
  have hblocks : s.hostBlocks j.ctx ([p].map fun p => (p.kind, p.pa)) = 0 := by
    rw [List.map_singleton, h.kind, hostBlocks_device]
  simp only [State.sideRead, hall, hwant, hblocks]
  show State.sideRows s c j [p] = _
  simp only [State.sideRows, hm, lineGet_serves h, List.append_nil]

/-! ## Loads -/

section
variable {cls : Fin 16} {n : Nat} {vas : List Nat} {k : State → List (List Byte) → State}

theorem loadAt_go {ps : List Piece} {t : State} {vals : List (List Byte)} (hp : s.pieces c j .read n vas = .ok ps)
    (hw : ∀ p ∈ ps, j.mustWait cls true true p.pa n = false) (hl : s.loadElems c j n ps = .ok t vals) :
    s.loadAt c j cls n vas k = k t vals := by
  have hgo : (ps.any fun p => j.mustWait cls true true p.pa n) = false :=
    List.any_eq_false.2 fun p hm => by rw [hw p hm]; exact Bool.false_ne_true
  simp only [State.loadAt, hp, hgo, hl, Bool.false_eq_true, if_false]

/-- One element of device memory is cut out of the row that the side cache gives. -/
theorem loadElems_one {t : State} {r : Row} (hk : p.kind = 0) (hr : s.sideRead c j [p] = .ok t [r]) :
    s.loadElems c j n [p] = .ok t [lineBytes r (p.pa % 128) n] := by
  have hpeer : [p].filter (fun p => decide (p.kind = 2)) = [] := by simp [hk]
  have hrest : [p].filter (fun p => decide (p.kind ≠ 2)) = [p] := by simp [hk]
  have hk2 : p.kind ≠ 2 := by rw [hk]; decide
  simp only [State.loadElems, hpeer, hrest, hr, elemVals, if_neg hk2]

end

/-- The scaled address, as the statements write it (R188). -/
theorem scaledAddr_eq (z : Size) (a b : W64) : scaledAddr z a b = (a + b * BitVec.ofNat 64 (2 ^ sizeShift z)).toNat := by
  have h : b <<< sizeShift z = b * BitVec.ofNat 64 (2 ^ sizeShift z) := by
    rw [shl_eq_ofNat, BitVec.ofNat_mul, BitVec.ofNat_toNat, BitVec.setWidth_eq]
  rw [scaledAddr, h]

/-- A GLD gives the element of the row that the side cache gives (R191, R208). -/
theorem exec_gld_go {z : Size} {d a b : Opnd} {cls : Fin 16} {t : State} {r : Row} (h : Issues s c .a j (.gld z d a b cls))
    (hp : s.pieces c j .read (sizeBytes z) [(srcA j (.gld z d a b cls) 0 + srcA j (.gld z d a b cls) 1 *
      BitVec.ofNat 64 (2 ^ sizeShift z)).toNat] = .ok [p])
    (hk : p.kind = 0) (hw : j.mustWait cls true true p.pa (sizeBytes z) = false) (hr : s.sideRead c j [p] = .ok t [r]) :
    exec (.gld z d a b cls) s = .next (gives t c (j.sourced .a (.gld z d a b cls)).loaded d
      (loaded64 z (bytesOfNat (sizeBytes z) (r.toNat / 2 ^ (8 * (p.pa % 128)))))) := by
  rw [← scaledAddr_eq] at hp
  rw [exec_gld, execGld, accessOp_go h]
  refine congrArg Host.Outcome.next ((loadAt_go hp (by simpa using hw) (loadElems_one hk hr)).trans ?_)
  rw [List.headD_cons, lineBytes_eq, extendBytes_eq z _ (bytesOfNat_length _ _)]
  rfl

/-! ## Stores -/

/-- A node that has escaped stages nothing (R421). -/
theorem stageable_of_escaped (h : s.nodeEscaped j = true) (p : Piece) : s.stageable j p = false := by
  unfold State.nodeEscaped at h
  unfold State.stageable
  cases hx : s.card j.cluster j.slot with
  | none => rfl
  | some x => simp only [hx] at h; simp [h]

theorem stageMost_escaped (h : s.nodeEscaped j = true) : ∀ ws, s.stageMost c j ws = (s, ws)
  | [] => rfl
  | (p, bs) :: ws => by
    rw [State.stageMost, stageable_of_escaped h p, stageMost_escaped h ws]; rfl

end

theorem stageMost_cons_staged {s : State} {c : CoreId} {j : Job} {p : Piece} (h : s.stageable j p = true) (bs : List Byte)
    (ws : List (Piece × List Byte)) : s.stageMost c j ((p, bs) :: ws) = (s.stageWrite c j p bs).stageMost c j ws := by
  rw [State.stageMost, if_pos h]

theorem stageMost_cons_left {s : State} {c : CoreId} {j : Job} {p : Piece} (h : s.stageable j p = false) (bs : List Byte)
    (ws : List (Piece × List Byte)) :
    s.stageMost c j ((p, bs) :: ws) = ((s.stageMost c j ws).1, (p, bs) :: (s.stageMost c j ws).2) := by
  rw [State.stageMost, if_neg (by rw [h]; exact Bool.false_ne_true)]

/-- Writes that can all be staged leave none. -/
theorem stageMost_of_stageAll {c : CoreId} {j : Job} : ∀ (ws : List (Piece × List Byte)) {s t : State},
    s.stageAll c j ws = some t → s.stageMost c j ws = (t, [])
  | [], s, t, h => by rw [State.stageMost, Option.some.inj h]
  | (p, bs) :: ws, s, t, h => by
    rw [State.stageAll] at h
    by_cases hp : s.stageable j p = true
    · rw [if_pos hp] at h
      rw [stageMost_cons_staged hp, stageMost_of_stageAll ws h]
    · rw [if_neg hp] at h; exact absurd h (by simp)

section
variable {s t : State} {c : CoreId} {j j1 : Job} {cls : Fin 16} {n : Nat} {l : List (Nat × List Byte)} {ps : List Piece}
  {rest : List (Piece × List Byte)}

/-- The job after the stores of a list of units have been posted, in order. -/
def Job.postStores (j : Job) (cls : Fin 16) (pc : VAddr) (l : List (Fin 3 × List StorePart)) : Job :=
  l.foldl (fun x w => x.post (.store w.1 w.2 cls pc)) j

/-- A store that nothing refuses, and that waits for nothing, stages what it can and posts the rest (R194, R333, R421). -/
theorem storeAt_go (hp : s.pieces c j .write n (l.map Prod.fst) = .ok ps)
    (hok : ∀ p ∈ ps, p.kind = 0 → s.writeRefused j.ctx p.pa = false) (hfree : j.a.posted = [] ∨ s.nodeEscaped j = true)
    (hm : s.stageMost c j (ps.zip (l.map Prod.snd)) = (t, rest)) : s.storeAt c j j1 cls n l =
      t.setJob c (((j1.clearPage .a).postStores cls j.a.pc (unitStores j.unit rest)).done .a 1) := by
  have hfind : (ps.find? fun p => decide (p.kind = 0) && s.writeRefused j.ctx p.pa) = none := by
    refine List.find?_eq_none.2 fun p hmem => ?_
    by_cases hk : p.kind = 0
    · simp [hk, hok p hmem hk]
    · simp [hk]
  have hfree : ∀ f : Posted → Bool, (!s.nodeEscaped j && j.a.posted.any f) = false := fun f => by
    rcases hfree with h | h <;> simp [h]
  simp only [State.storeAt, hp, hfind, hfree, hm, Bool.false_eq_true, if_false]
  rfl

end

/-! ## The units of posted stores (R195) -/

/-- A piece that lies within one unit makes one store. -/
theorem unitStores_whole {u : Nat} {p : Piece} {bs : List Byte} (h : bs.length ≤ u - p.pa % u) :
    unitStores u [(p, bs)] = [(p.kind, [⟨p.pa, p.va, bs⟩])] := by
  simp only [unitStores, List.flatMap_singleton, cutUnit, if_pos h, List.foldl_cons, List.foldl_nil, addPart]

/-- A piece that reaches into the next unit makes two. -/
theorem unitStores_cut {u : Nat} {p : Piece} {bs : List Byte} (hu : 0 < u) (h : u - p.pa % u < bs.length) :
    unitStores u [(p, bs)] = [(p.kind, [⟨p.pa, p.va, bs.take (u - p.pa % u)⟩]),
      (p.kind, [⟨p.pa + (u - p.pa % u), p.va + (u - p.pa % u), bs.drop (u - p.pa % u)⟩])] := by
  have hnext : (p.pa + (u - p.pa % u)) / u = p.pa / u + 1 := by
    have hlt := Nat.mod_lt p.pa hu
    have hdiv := Nat.div_add_mod p.pa u
    have : p.pa + (u - p.pa % u) = u * (p.pa / u + 1) := by rw [Nat.mul_add, Nat.mul_one]; omega
    rw [this, Nat.mul_div_cancel_left _ hu]
  simp only [unitStores, List.flatMap_singleton, cutUnit, if_neg (Nat.not_le.2 h), List.foldl_cons, List.foldl_nil, addPart,
    List.headD_cons, hnext]
  rw [if_neg (by omega)]

/-- The unit of a group of parts: its KIND and the unit of its first part. -/
def unitKey (u : Nat) (g : Fin 3 × List StorePart) : Fin 3 × Nat := (g.1, (g.2.headD ⟨0, 0, []⟩).pa / u)

/-- A group has a part, and all its parts lie in its unit. -/
def InUnit (u : Nat) (g : Fin 3 × List StorePart) : Prop := g.2 ≠ [] ∧ ∀ y ∈ g.2, y.pa / u = (unitKey u g).2

section
variable {u : Nat} {x : Fin 3 × StorePart}

theorem unitKey_append {k : Fin 3} {l : List StorePart} (h : l ≠ []) (y : StorePart) :
    unitKey u (k, l ++ [y]) = unitKey u (k, l) := by
  cases l with
  | nil => exact absurd rfl h
  | cons z l => rfl

/-- A part that joins a group, or opens one, lies in its unit. -/
theorem addPart_inUnit : ∀ {gs : List (Fin 3 × List StorePart)}, (∀ g ∈ gs, InUnit u g) → ∀ g ∈ addPart u x gs, InUnit u g
  | [], _, g, hg => by
    obtain rfl : g = (x.1, [x.2]) := by simpa [addPart] using hg
    exact ⟨by simp, by simp [unitKey]⟩
  | (k, l) :: gs, h, g, hg => by
    obtain ⟨hne, hin⟩ := h (k, l) (by simp)
    have htail : ∀ g ∈ gs, InUnit u g := fun g hm => h g (by simp [hm])
    rw [addPart] at hg
    split at hg
    case isTrue hsame =>
      rcases List.mem_cons.1 hg with rfl | hg
      · refine ⟨by simp, fun y hy => ?_⟩
        rw [unitKey_append hne]
        rcases List.mem_append.1 hy with hy | hy
        · exact hin y hy
        · obtain rfl : y = x.2 := by simpa using hy
          cases l with
          | nil => exact absurd rfl hne
          | cons z l => exact hsame.2.symm
      · exact htail g hg
    case isFalse =>
      rcases List.mem_cons.1 hg with rfl | hg
      · exact ⟨hne, hin⟩
      · exact addPart_inUnit htail g hg

/-- Adding a part keeps the units in their order; a new one comes last. -/
theorem addPart_keys : ∀ {gs : List (Fin 3 × List StorePart)}, (∀ g ∈ gs, InUnit u g) →
    (addPart u x gs).map (unitKey u) = if (x.1, x.2.pa / u) ∈ gs.map (unitKey u) then gs.map (unitKey u)
      else gs.map (unitKey u) ++ [(x.1, x.2.pa / u)]
  | [], _ => rfl
  | (k, l) :: gs, h => by
    obtain ⟨hne, -⟩ := h (k, l) (by simp)
    have htail : ∀ g ∈ gs, InUnit u g := fun g hm => h g (by simp [hm])
    have hkey : (k = x.1 ∧ (l.headD x.2).pa / u = x.2.pa / u) ↔ (x.1, x.2.pa / u) = unitKey u (k, l) := by
      cases l with
      | nil => exact absurd rfl hne
      | cons z l => simp [unitKey, eq_comm]
    rw [addPart]
    by_cases hsame : k = x.1 ∧ (l.headD x.2).pa / u = x.2.pa / u
    · rw [if_pos hsame, if_pos (by simp [hkey.1 hsame]), List.map_cons, unitKey_append hne, List.map_cons]
    · have hno : (x.1, x.2.pa / u) ≠ unitKey u (k, l) := fun e => hsame (hkey.2 e)
      rw [if_neg hsame, List.map_cons, addPart_keys htail, List.map_cons]
      by_cases hin : (x.1, x.2.pa / u) ∈ gs.map (unitKey u)
      · rw [if_pos hin, if_pos (List.mem_cons_of_mem _ hin)]
      · rw [if_neg hin, if_neg (by simp only [List.mem_cons, not_or]; exact ⟨hno, hin⟩), List.cons_append]

end

/-- Every store that a list of parts makes lies in one unit, and no two in the same. -/
theorem foldl_addPart_units {u : Nat} (f : Piece × List Byte → Fin 3 × StorePart) :
    ∀ (ws : List (Piece × List Byte)) {gs : List (Fin 3 × List StorePart)}, (∀ g ∈ gs, InUnit u g) →
      (gs.map (unitKey u)).Nodup → (∀ g ∈ ws.foldl (fun acc w => addPart u (f w) acc) gs, InUnit u g) ∧
        ((ws.foldl (fun acc w => addPart u (f w) acc) gs).map (unitKey u)).Nodup
  | [], _, h, hd => ⟨h, hd⟩
  | w :: ws, gs, h, hd => by
    refine foldl_addPart_units f ws (addPart_inUnit h) ?_
    rw [addPart_keys h]
    split
    · exact hd
    · next hno => exact List.concat_eq_append ▸ hd.concat hno

end Sys2Proof.Machine

open Sys2Proof Sys2Proof.Machine

/-- Settles O19: a load by what the side cache gives, a store by what can be staged, and the units of what is posted. -/
theorem globalAccesses : Obligations.GlobalAccesses := by
  refine ⟨fun s c j z d a b q cls p r l => ⟨?_, ?_, ?_⟩, fun s c j z d a b q cls p => ⟨?_, ?_, ?_, ?_, ?_, ?_⟩,
    fun u ws hu _ => ⟨fun x hx => ?_, ?_⟩⟩
  · rintro i rfl h ⟨hp, hk, hw⟩ hhit
    exact exec_gld_go h hp hk hw (sideRead_hit hhit)
  · rintro i rfl h ⟨hp, hk, hw⟩ hmiss hstaged hline hctx hsound
    exact exec_gld_go h hp hk hw (sideRead_miss hmiss ⟨hk, hstaged, hline, hctx, hsound⟩)
  · rintro i rfl h g ps s1 vals hp hw hl
    have hj : j.issuing .a (.ggath z q a b cls) = j := issuing_plain j .a _ (by decide) (by decide)
    rw [exec_ggath, execGgath, issue_go h, hj]
    exact congrArg Host.Outcome.next (loadAt_go hp hw hl)
  · rintro i rfl h ⟨hp, hk, hok⟩ hposted hs
    rw [exec_gst, execGst, accessOp_go h]
    refine congrArg Host.Outcome.next (storeAt_go (ps := [p]) (rest := []) ?_ ?_ (.inl hposted) ?_)
    · exact (congrArg (fun a => s.pieces c j .write (sizeBytes z) [a]) (scaledAddr_eq z _ _)).trans hp
    · simpa using fun _ => hok
    · exact stageMost_cons_staged hs _ []
  · rintro i rfl h ⟨hp, hk, hok⟩ hesc bs k
    have hgo : exec (.gst z d a b cls) s = .next (s.setJob c ((((j.sourced .a (.gst z d a b cls)).clearPage .a).postStores cls
        j.a.pc (unitStores j.unit [(p, bs)])).done .a 1)) := by
      rw [exec_gst, execGst, accessOp_go h]
      refine congrArg Host.Outcome.next (storeAt_go (ps := [p]) ?_ ?_ (.inr hesc) (stageMost_escaped hesc _))
      · exact (congrArg (fun a => s.pieces c j .write (sizeBytes z) [a]) (scaledAddr_eq z _ _)).trans hp
      · simpa using fun _ => hok
    have hlen : bs.length = sizeBytes z := bytesOfNat_length _ _
    have hu : 0 < j.unit := by unfold Job.unit; split <;> decide
    refine ⟨fun hle => ?_, fun hlt => ?_⟩
    · rw [hgo, unitStores_whole (u := j.unit) (hlen.trans_le hle)]; rfl
    · rw [hgo, unitStores_cut (u := j.unit) hu (hlt.trans_eq hlen.symm)]; rfl
  · rintro i rfl h g bytes l ps s1 hp hok hposted hall
    have hj : j.issuing .a (.gscat z q a b cls) = j := issuing_plain j .a _ (by decide) (by decide)
    rw [exec_gscat, execGscat, issue_go h, hj]
    exact congrArg Host.Outcome.next (storeAt_go hp hok (.inl hposted) (stageMost_of_stageAll _ hall))
  · rintro i rfl h g bytes l ps s1 rest hp hok hposted hmost
    have hj : j.issuing .a (.gscat z q a b cls) = j := issuing_plain j .a _ (by decide) (by decide)
    rw [exec_gscat, execGscat, issue_go h, hj]
    exact congrArg Host.Outcome.next (storeAt_go hp hok (.inl hposted) hmost)
  · exact fun bs l => ⟨fun hs => stageMost_cons_staged hs bs l, fun hs => stageMost_cons_left hs bs l⟩
  · rintro i rfl h hesc g bytes l ps hp hok
    have hj : j.issuing .a (.gscat z q a b cls) = j := issuing_plain j .a _ (by decide) (by decide)
    rw [exec_gscat, execGscat, issue_go h, hj]
    exact congrArg Host.Outcome.next (storeAt_go hp hok (.inr hesc) (stageMost_escaped hesc _))
  · have hin := (foldl_addPart_units (u := u) _ (ws.flatMap (cutUnit u)) (gs := []) (by simp) (by simp)).1 x hx
    exact ⟨hin.1, fun y hy z hz => (hin.2 y hy).trans (hin.2 z hz).symm⟩
  · exact (foldl_addPart_units (u := u) _ (ws.flatMap (cutUnit u)) (gs := []) (by simp) (by simp)).2
end

section
namespace Sys2Proof.Machine

/-! ## Atomics -/

theorem order_acq_eq (r : Order) : Machine.Order.acq r = decide (r = .acq ∨ r = .acqrel) := by cases r <;> rfl

/-- The acquire half invalidates the side cache at DIE scope or wider, and nothing else (R217). -/
theorem acquire_order (s : State) (c : CoreId) (j : Job) (r : Order) (sc : Scope) :
    s.acquire c j (Machine.Order.acq r) sc =
      if (r = .acq ∨ r = .acqrel) ∧ (sc = .die ∨ sc = .device ∨ sc = .system) then s.sideFlushAll c j else s := by
  rw [State.acquire, order_acq_eq]
  simp only [Bool.and_eq_true, decide_eq_true_eq, scopeWide_iff]

section
variable {s s1 : State} {c : CoreId} {j : Job} {p : Piece} {l : Line} {n va : Nat}

/-- An atomic on device memory has what it needs before it performs: its translation, no earlier access before it, a live
context, its line, and its node's escape (R198, R212, R423). -/
structure State.AtomicReady (s : State) (c : CoreId) (j : Job) (cls : Fin 16) (n va : Nat) (p : Piece) (l : Line) (s1 : State) :
    Prop extends s.Serves j p l where
  pieces : s.pieces c j .atomic n [va] = .ok [p]
  first : j.mustWait cls false true p.pa n = false
  live : s.live j.ctx = true
  escape : (s.touch p.pa).escape c j = .go s1

/-- The old value of an atomic, in its line. -/
def atomicOld (l : Line) (pa n : Nat) : Nat := natOfBytes (bytesOfNat n (l.data.toNat / 2 ^ (8 * (pa % 128))))

variable {cls : Fin 16} {j1 : Job} {d : Opnd} {f : AtomFn} {op : PeerOp} {acq : Bool} {sc : Scope}
  (h : s.AtomicReady c j cls n va p l s1)
include h

/-- An atomic that writes, once its line is ready before and after the escape, puts its result at the old value's place and
gives the old value. -/
theorem atomicAt_writes {new : Nat} (hf : f (atomicOld l p.pa n) = some new)
    (hg : (s.touch p.pa).writeGate j.ctx p.pa = .ready) (hg1 : s1.writeGate j.ctx p.pa = .ready) :
    s.atomicAt c j j1 cls d n va f op acq sc =
      (((s1.commit j.ctx (some c) p.pa (bytesOfNat n new)).sideDrop c j p.pa).acquire c j acq sc).giveA c (j1.clearPage .a) d
        (BitVec.ofNat 64 (atomicOld l p.pa n)) := by
  have hk : (0 : Fin 3) ≠ 2 := by decide
  rw [atomicOld] at hf
  simp only [State.atomicAt, h.pieces, h.first, h.live, Bool.not_true, Bool.or_self, Bool.false_eq_true, if_false, if_neg hk,
    lineRead_serves h.toServes, List.headD_cons, lineBytes_eq, hf, hg, h.escape, hg1, h.kind, hostDraw_device, atomicOld]

/-- An atomic that writes nothing gives the old value. -/
theorem atomicAt_keeps (hf : f (atomicOld l p.pa n) = none) : s.atomicAt c j j1 cls d n va f op acq sc =
    ((s1.sideDrop c j p.pa).acquire c j acq sc).giveA c (j1.clearPage .a) d (BitVec.ofNat 64 (atomicOld l p.pa n)) := by
  have hk : p.kind ≠ 2 := by rw [h.kind]; decide
  rw [atomicOld] at hf
  simp only [State.atomicAt, h.pieces, h.first, h.live, Bool.not_true, Bool.or_self, Bool.false_eq_true, if_false, if_neg hk,
    lineRead_serves h.toServes, List.headD_cons, lineBytes_eq, hf, h.escape, atomicOld]

end

/-! ## What the operations give (R211) -/

section
variable {w : Nat} (x y : BitVec w)

theorem ofNat_toNat_self : BitVec.ofNat w x.toNat = x := by rw [BitVec.ofNat_toNat, BitVec.setWidth_eq]

theorem atomOp_min_toInt : (BitVec.ofNat w (atomOp .min w x.toNat y.toNat)).toInt = min x.toInt y.toInt := by
  simp only [atomOp, ofNat_toNat_self, BitVec.slt_iff_toInt_lt]
  split
  · next h => exact (min_eq_left h.le).symm
  · next h => exact (min_eq_right (not_lt.1 h)).symm

theorem atomOp_max_toInt : (BitVec.ofNat w (atomOp .max w x.toNat y.toNat)).toInt = max x.toInt y.toInt := by
  simp only [atomOp, ofNat_toNat_self, BitVec.slt_iff_toInt_lt]
  split
  · next h => exact (max_eq_right h.le).symm
  · next h => exact (max_eq_left (not_lt.1 h)).symm

theorem atomOp_minn_toNat : atomOp .minn w x.toNat y.toNat = min x.toNat y.toNat := by
  simp only [atomOp, ofNat_toNat_self, BitVec.ult_iff_lt, BitVec.lt_def]
  split
  · next h => exact (min_eq_left h.le).symm
  · next h => exact (min_eq_right (not_lt.1 h)).symm

theorem atomOp_maxn_toNat : atomOp .maxn w x.toNat y.toNat = max x.toNat y.toNat := by
  simp only [atomOp, ofNat_toNat_self, BitVec.ult_iff_lt, BitVec.lt_def]
  split
  · next h => exact (max_eq_right h.le).symm
  · next h => exact (max_eq_left (not_lt.1 h)).symm

end

end Sys2Proof.Machine

open Sys2Proof Sys2Proof.Machine

/-- Settles O20: each atomic by its function of the old value, and each operation by its value on integers. -/
theorem atomics : Obligations.Atomics := by
  refine ⟨fun s s1 c j o d a r sc ord w cls p l x b => ⟨?_, ?_, ?_, ?_, ?_⟩, fun w x y _ =>
    ⟨?_, ?_, ?_, ?_, atomOp_min_toInt x y, atomOp_max_toInt x y, atomOp_minn_toNat x y, atomOp_maxn_toNat x y⟩⟩
  · rintro i rfl h ⟨hp, hk, hw, hl, hs, hline, hctx, hsound, he⟩ ⟨hg, hg1⟩
    have hready : s.AtomicReady c j cls (atomBytes w) _ p l s1 := ⟨⟨hk, hs, hline, hctx, hsound⟩, hp, hw, hl, he⟩
    rw [exec_aamo, execAamo, accessOp_go h, ← order_acq_eq]
    exact congrArg Host.Outcome.next (atomicAt_writes hready (by exact rfl) hg hg1)
  · rintro i rfl h ⟨hp, hk, hw, hl, hs, hline, hctx, hsound, he⟩ ⟨hg, hg1⟩
    have hready : s.AtomicReady c j cls (atomBytes w) _ p l s1 := ⟨⟨hk, hs, hline, hctx, hsound⟩, hp, hw, hl, he⟩
    rw [exec_aswp, execAswp, accessOp_go h, ← order_acq_eq]
    exact congrArg Host.Outcome.next (atomicAt_writes hready (by exact rfl) hg hg1)
  · rintro i rfl h ⟨hp, hk, hw, hl, hs, hline, hctx, hsound, he⟩ ⟨hg, hg1⟩ hold
    have hready : s.AtomicReady c j cls (atomBytes w) _ p l s1 := ⟨⟨hk, hs, hline, hctx, hsound⟩, hp, hw, hl, he⟩
    rw [exec_acas, execAcas, accessOp_go h, ← order_acq_eq]
    exact congrArg Host.Outcome.next (atomicAt_writes hready (by exact if_pos hold) hg hg1)
  · rintro i rfl h ⟨hp, hk, hw, hl, hs, hline, hctx, hsound, he⟩ hold
    have hready : s.AtomicReady c j cls (atomBytes w) _ p l s1 := ⟨⟨hk, hs, hline, hctx, hsound⟩, hp, hw, hl, he⟩
    rw [exec_acas, execAcas, accessOp_go h, ← order_acq_eq]
    exact congrArg Host.Outcome.next (atomicAt_keeps hready (by exact if_neg hold))
  · rintro i rfl h hg
    rw [exec_samo, execSamo, accessOp_go h]
    refine congrArg Host.Outcome.next ?_
    dsimp only
    rw [show s.localGate c j (j.argX _ 0).toNat _ _ false true false = _ from hg, localDo_at, acquire_order]
    rfl
  · simp only [atomOp, ofNat_toNat_self, BitVec.toNat_add]
  · simp only [atomOp, ofNat_toNat_self]
  · simp only [atomOp, ofNat_toNat_self]
  · simp only [atomOp, ofNat_toNat_self]
end

section
namespace Sys2Proof.Machine

/-! ## Messages to peers -/

section
variable (s : State)

/-- A flit that leaves, or waits, adds to what the device sends and changes no memory and no core. -/
theorem sendFlit_kept (p : Fin 4) (f : BitVec 2048) : (∃ l, (s.sendFlit p f).outbox = s.outbox ++ l) ∧
    (s.sendFlit p f).mem = s.mem ∧ (s.sendFlit p f).lines = s.lines ∧ (s.sendFlit p f).cores = s.cores := by
  have hhold : (∃ l, (s.holdFlit p f).outbox = s.outbox ++ l) ∧
      (s.holdFlit p f).mem = s.mem ∧ (s.holdFlit p f).lines = s.lines ∧ (s.holdFlit p f).cores = s.cores := by
    unfold State.holdFlit
    dsimp only
    split <;> exact ⟨⟨[], (List.append_nil _).symm⟩, rfl, rfl, rfl⟩
  unfold State.sendFlit
  dsimp only
  split
  · split
    · exact ⟨⟨_, rfl⟩, rfl, rfl, rfl⟩
    · exact hhold
  · exact hhold

variable {d : Fin 32} (tag : Nat) (bs : List Byte) (poison : Bool)

/-- No answer goes to a port that is down (R463). -/
theorem sendReply_down (h : (s.port (s.peerPort d)).state = 0) : s.sendReply d tag bs poison = s := if_pos h

theorem sendReply_up (h : (s.port (s.peerPort d)).state ≠ 0) :
    (∃ l, (s.sendReply d tag bs poison).outbox = s.outbox ++ Out.peer d tag bs poison :: l) ∧
      (s.sendReply d tag bs poison).mem = s.mem ∧ (s.sendReply d tag bs poison).lines = s.lines ∧
      (s.sendReply d tag bs poison).cores = s.cores := by
  obtain ⟨⟨l, hl⟩, hkept⟩ := sendFlit_kept (s.send (.peer d tag bs poison)) (s.peerPort d)
    (plainFlit 1 d (Config.payload (tag :: poison.toNat :: bs.map BitVec.toNat)))
  rw [State.sendReply, State.message, if_neg h]
  refine ⟨⟨l, hl.trans ?_⟩, hkept⟩
  rw [State.send, List.append_assoc]
  rfl

theorem sendReply_mem (d : Fin 32) : (s.sendReply d tag bs poison).mem = s.mem := by
  by_cases h : (s.port (s.peerPort d)).state = 0
  · rw [sendReply_down s tag bs poison h]
  · exact (sendReply_up s tag bs poison h).2.1

end

/-! ## Requests of peers -/

section
variable {s : State} {r : PeerReq} {c : CtxId}

theorem exec_peerRequest_refused (h : s.peerAdmit r = none) : exec (.peerRequest r) s = .next (s.peerRefuse r) := by
  rw [exec_peerRequest, execPeerRequest, h]

theorem exec_peerRequest_admitted (h : s.peerAdmit r = some c) : exec (.peerRequest r) s = .next (s.peerServe c r) := by
  rw [exec_peerRequest, execPeerRequest, h]

/-- Whom the map admits is of its entry's context, writes only where the entry lets it, and holds a key of that context (R468). -/
theorem peerAdmit_entry {e : W64} (he : s.peerEntry r = some e) (ha : s.peerAdmit r = some c) :
    ctxOfNum (bitsAt e.toNat 26 16) = some c ∧ (peerWrites r.op = true → e.getLsbD 0 = true) ∧
      ((s.ctx c).key.cur.map kidOf = some r.kid ∨ (s.ctx c).key.prev.map kidOf = some r.kid) := by
  simp only [State.peerAdmit, he] at ha
  split at ha
  · exact absurd ha (by simp)
  · next k hk =>
    split at ha
    · next hok => obtain ⟨hkey, hwr, -, -⟩ := hok; rw [← Option.some.inj ha]; exact ⟨hk, hwr, hkey⟩
    · exact absurd ha (by simp)

theorem peerAdmit_unmapped (h : s.peerEntry r = none) : s.peerAdmit r = none := by rw [State.peerAdmit, h]

/-- A read of lines that are all present, and sound, is answered with their bytes (R469). -/
theorem peerServe_read {n : Nat} {bs : List Byte} (hop : r.op = .read n)
    (hr : s.peerRead c (peerLines r.addr (List.replicate n 0)) = .data bs false) : s.peerServe c r =
      ((peerLines r.addr (List.replicate n 0)).foldl (fun u p => u.touch p.1) s).sendReply r.srcDev r.tag bs false := by
  simp only [State.peerServe, hop, peerSpan, peerLen, hr, peerApply, Bool.false_eq_true, if_false]

theorem touch_mem (s : State) (pa : Nat) : (s.touch pa).mem = s.mem := by
  obtain ⟨l, u, a, h⟩ := touch_drawOnly s pa; rw [h]

theorem foldl_touch_mem (l : List (Nat × List Byte)) (s : State) : (l.foldl (fun u p => u.touch p.1) s).mem = s.mem :=
  foldl_kept (g := State.mem) (fun u p => touch_mem u p.1) l s

end

/-! ## Responses -/

section
variable {s : State} {tag : Nat} {q : PeerOut} (h : (s.peerReqs.find? fun x => decide (x.tag = tag)) = some q)
include h

theorem exec_peerResponse_of (b : Bool) (bs : List Byte) : exec (.peerResponse tag b bs) s = .next (s.peerEnd q b bs) := by
  rw [exec_peerResponse, execPeerResponse, h]

theorem exec_peerRequestTimeout_of : exec (.peerRequestTimeout tag) s =
    .next (if s.time < q.sentAt + 1000 * s.fto then s else s.peerEnd q true []) := by
  rw [exec_peerRequestTimeout, execPeerRequestTimeout, h]

end

/-! ## Posted accesses -/

@[simp] theorem unpost_reg (j : Job) (n : Nat) (e : Eng) (m : Fin 32) : (j.unpost n).reg e m = j.reg e m := by cases e <;> rfl

section
variable {s : State} {c : CoreId} {j : Job} {rest : List Posted}

theorem unpost_first_posted {x : Posted} (h : j.a.posted = x :: rest) : (j.unpost 0).a.posted = rest := by
  simp only [Job.unpost, h, List.eraseIdx_cons_zero]

/-- One that an earlier access keeps back stays (R190, R194). -/
theorem exec_accessPerforms_held {x y : Posted} {n : Nat} (hj : s.job c = some j) (hp : j.a.posted = y :: rest)
    (hx : (y :: rest)[n + 1]? = some x) (hh : y.holds x = true) : exec (.accessPerformsAtHome c (n + 1)) s = .next s := by
  have hany : ((y :: rest).take (n + 1)).any (fun p => p.holds x) = true := by simp [hh]
  simp only [exec_accessPerformsAtHome, execAccessPerformsAtHome, hj, hp, hx, hany, if_true]

section
variable {k : CoreId} {b : Nat} {bs : List Byte} {cls : Fin 16} {tgt : W32} {pc : VAddr} (hj : s.job c = some j)
  (hp : j.a.posted = .scratch k b bs cls tgt pc :: rest)
include hj hp

/-- The oldest posted access of A, a write to a scratchpad, as its target stands (R190). -/
theorem exec_accessPerforms_scratch : exec (.accessPerformsAtHome c 0) s =
    if k ≠ c ∧ !(s.sharesCtx k j.ctx && decide (s.jobidAt k = tgt)) then .next (s.setJob c (j.unpost 0))
    else if !s.rowUsable k b then
      .next (s.postFails c j 0 .rowRange (if k = c then b else 0x1000000 + k.val % 4 * 0x200000 + b))
    else if s.yieldsAt k b then .next s
    else .next ((s.scrWrite k b bs).setJob c (j.unpost 0)) := by
  simp only [exec_accessPerformsAtHome, execAccessPerformsAtHome, hj, hp, List.getElem?_cons_zero, List.take_zero, List.any_nil,
    Bool.false_eq_true, if_false]

theorem exec_accessPerforms_discards (hk : k ≠ c) (hgone : s.sharesCtx k j.ctx = false ∨ s.jobidAt k ≠ tgt) :
    exec (.accessPerformsAtHome c 0) s = .next (s.setJob c (j.unpost 0)) := by
  rw [exec_accessPerforms_scratch hj hp, if_pos ⟨hk, by rcases hgone with h | h <;> simp [h]⟩]

theorem exec_accessPerforms_writes (hk : k = c ∨ (s.sharesCtx k j.ctx = true ∧ s.jobidAt k = tgt))
    (hrow : s.rowUsable k b = true) (hy : s.yieldsAt k b = false) :
    exec (.accessPerformsAtHome c 0) s = .next ((s.scrWrite k b bs).setJob c (j.unpost 0)) := by
  have hruns : ¬ (k ≠ c ∧ (!(s.sharesCtx k j.ctx && decide (s.jobidAt k = tgt))) = true) := by
    rcases hk with h | ⟨h1, h2⟩
    · exact fun hne => hne.1 h
    · simp [h1, h2]
  rw [exec_accessPerforms_scratch hj hp, if_neg hruns, hrow, hy]
  rfl

end

/-- The parts of a store to device memory are written in one step, once its line is ready before and after the node's escape
(R195, R198). -/
theorem exec_accessPerforms_store {x : StorePart} {l : List StorePart} {cls : Fin 16} {pc : VAddr} {s1 : State}
    (hj : s.job c = some j) (hp : j.a.posted = .store 0 (x :: l) cls pc :: rest) (hl : s.live j.ctx = true)
    (hg : s.writeGate j.ctx x.pa = .ready) (he : s.escape c j = .go s1) (hg1 : s1.writeGate j.ctx x.pa = .ready) :
    exec (.accessPerformsAtHome c 0) s = .next (((x :: l).foldl (fun t y =>
      (t.commit j.ctx (some c) y.pa y.bytes).sideUpdate c j y.pa y.bytes) s1).setJob c (j.unpost 0)) := by
  have hdev : (0 : Fin 3) ≠ 2 := by decide
  simp only [exec_accessPerformsAtHome, execAccessPerformsAtHome, hj, hp, List.getElem?_cons_zero, List.take_zero, List.any_nil,
    Bool.false_eq_true, if_false, State.performStore, hl, Bool.not_true, List.headD_cons, if_neg hdev, hg, he, hg1,
    hostDraw_device]

end

end Sys2Proof.Machine

open Sys2Proof Sys2Proof.Machine

/-- Settles O52: a peer's request by its admission, a response by its request, and the oldest posted access by its target. -/
theorem peersAndPostedAccesses : Obligations.PeersAndPostedAccesses := by
  refine ⟨fun s r tag => ⟨fun ha n hop => ?_, fun d bs b hup => ?_, fun d bs b => sendReply_down s tag bs b, fun ha hop => ?_,
      fun c => exec_peerRequest_admitted, fun c n bs hop hr => ?_, fun c e he ha => ?_, peerAdmit_unmapped,
      fun q b bs hq => exec_peerResponse_of hq b bs, fun q hq hlate => ?_, fun q hq hsoon => ?_⟩,
    fun s c j k b bs cls tgt pc rest hj hp => ⟨?_, fun hk hgone => ?_, fun hk hctx hid hrow hy => ?_, fun x n hx hh => ?_⟩,
    fun s c j x l cls pc rest s1 hj hp hl hg he hg1 => ?_⟩
  · rw [exec_peerRequest_refused ha, State.peerRefuse, hop]
    rfl
  · obtain ⟨⟨l, hout⟩, hmem, hlines, hcores⟩ := sendReply_up s tag bs b hup
    exact ⟨_, l, rfl, hout, hmem, hlines, hcores⟩
  · rw [exec_peerRequest_refused ha, State.peerRefuse]
    rcases hop with ⟨bs, hop⟩ | ⟨l, hop⟩ <;> rw [hop]
  · rw [peerServe_read hop hr, sendReply_mem, foldl_touch_mem]
    exact ⟨rfl, rfl⟩
  · rw [← bitsAt_eq]
    exact peerAdmit_entry he ha
  · rw [exec_peerRequestTimeout_of hq, if_neg (Nat.not_lt.2 hlate)]
  · rw [exec_peerRequestTimeout_of hq, if_pos hsoon]
  · rintro rfl hrow hy
    refine ⟨_, j.unpost 0, exec_accessPerforms_writes hj hp (.inl rfl) hrow hy, job_setJob _ _ _, unpost_first_posted hp,
      fun e n => unpost_reg j 0 e n, ?_, rfl, fun d hd => ?_⟩
    · rw [core_setJob, core_scrWrite_self]
    · rw [core_setJob_ne _ _ _ _ hd, core_scrWrite_ne _ _ _ _ hd]
  · exact ⟨_, exec_accessPerforms_discards hj hp hk hgone, unpost_first_posted hp, fun e n => unpost_reg j 0 e n⟩
  · refine ⟨_, exec_accessPerforms_writes hj hp (.inr ⟨hctx, hid⟩) hrow hy, ?_, rfl⟩
    rw [core_setJob_ne _ _ _ _ hk, core_scrWrite_self]
  · exact exec_accessPerforms_held hj hp hx hh
  · exact ⟨_, unpost_first_posted hp, fun e n => unpost_reg j 0 e n, exec_accessPerforms_store hj hp hl hg he hg1⟩
end

section
namespace Sys2Proof.Machine

/-! ## A copy command starts -/

/-- The lines of a command, numbered by integers. -/
theorem flatMap_lines {α : Type} (n : Nat) (g : Int → List α) :
    (do let k ← List.range n; pure (k : Int)).flatMap g = (List.range n).flatMap fun k : Nat => g (k : Int) := by
  simp only [List.bind_eq_flatMap, List.pure_def, List.flatMap_assoc, List.flatMap_singleton]

section
variable {s : State} {c : CoreId} {e : CopyId} {j : Job} {x : CopyCmd}

/-- The head command of a queue whose head is replaced. -/
theorem headCopy_setHead (j : Job) (e : CopyId) (x : CopyCmd) : (j.setHead e x).headCopy e = some x := by
  rw [Job.headCopy, Job.setHead, Job.copiesOf_setCopies]; rfl

/-- What becomes of a command that may start, as far as its translations come (R304). -/
def State.copyStarts (s : State) (c : CoreId) (e : CopyId) (j : Job) (x : CopyCmd) : XlStep → State
  | .fault cause va => s.setJob c (j.copyFails e cause va)
  | .miss a va l => s.missCopy c (j.setHead e { x with xl := l }) e va a
  | .ok l =>
    let j1 := j.setHead e { x with xl := l, started := true, begun := true }
    s.setJob c { j1 with pages := j1.pages.filter fun p => decide (p.user ≠ .copy e) }

variable (hj : s.job c = some j) (hx : j.headCopy e = some x)
include hj hx

/-- The first guard of a start keeps a command where it is. -/
theorem exec_copyCommandStart_stays (h : x.started = true ∨ s.copyLive j = false ∨ j.atStop = true) :
    exec (.copyCommandStart c e) s = .next s := by
  have hg : (x.started || !s.copyLive j || j.atStop) = true := by rcases h with h | h | h <;> simp [h]
  simp only [exec_copyCommandStart, execCopyCommandStart, hj, hx, hg, if_true]

section
variable (hs : x.started = false) (hl : s.copyLive j = true) (ha : j.atStop = false)
include hs hl ha

/-- A command whose page was denied gives A its fault (R378). -/
theorem exec_copyCommandStart_denied {k : Cause} {va : Nat} (hd : j.copyDenied e = some (k, va)) :
    exec (.copyCommandStart c e) s = .next (s.setJob c (j.copyFails e k va)) := by
  have hg : (x.started || !s.copyLive j || j.atStop) = false := by simp [hs, hl, ha]
  simp only [exec_copyCommandStart, execCopyCommandStart, hj, hx, hg, hd, Bool.false_eq_true, if_false]

theorem exec_copyCommandStart_starts (hd : j.copyDenied e = none)
    (hh : x.behind = true → x.begun = false → s.copyHeld c j = false) : exec (.copyCommandStart c e) s =
      .next (s.copyStarts c e j x (s.xlAll c j e (copyPlaces (copyFields x.cmd)) x.xl)) := by
  have hfree : (x.behind && !x.begun && s.copyHeld c j) = false := by
    cases hb : x.behind with
    | false => rfl
    | true =>
      cases hg : x.begun with
      | false => simp [hh hb hg]
      | true => rfl
  have hg : (x.started || !s.copyLive j || j.atStop) = false := by simp [hs, hl, ha]
  simp only [exec_copyCommandStart, execCopyCommandStart, hj, hx, hg, hd, hfree, Bool.false_eq_true, if_false]
  cases s.xlAll c j e (copyPlaces (copyFields x.cmd)) x.xl <;> rfl

end

/-- One that was queued behind another waits while its job is held (R305). -/
theorem exec_copyCommandStart_held (hb : x.behind = true) (hg : x.begun = false) (hd : j.copyDenied e = none)
    (hh : s.copyHeld c j = true) : exec (.copyCommandStart c e) s = .next s := by
  by_cases h : x.started = true ∨ s.copyLive j = false ∨ j.atStop = true
  · exact exec_copyCommandStart_stays hj hx h
  · obtain ⟨hs, hl, ha⟩ : x.started = false ∧ s.copyLive j = true ∧ j.atStop = false := by simpa using h
    simp only [exec_copyCommandStart, execCopyCommandStart, hj, hx, hs, hl, ha, hd, hb, hg, hh, Bool.not_true, Bool.not_false,
      Bool.and_self, Bool.or_self, Bool.false_eq_true, if_false, if_true]

/-! ## A burst in its turn -/

/-- The state in which the engine serves a core. -/
def State.serves (s : State) (c : CoreId) (e : CopyId) : State :=
  let cl := s.cluster (coreClu c)
  s.setCluster (coreClu c) { cl with serving := cl.serving.set e.val (some ⟨c.val % 4, Nat.mod_lt _ (by decide)⟩) e.isLt }

omit hj hx in
theorem serves_card (k : SlotId) : (s.serves c e).card (coreClu c) k = s.card (coreClu c) k := by
  rw [State.card, State.serves, cluster_setCluster]; rfl

theorem exec_copyBurstComplete_turn (ht : s.copyTurn (coreClu c) e = some c) :
    exec (.copyBurstComplete c e) s = .next ((s.serves c e).burst c j e x) := by
  simp only [exec_copyBurstComplete, execCopyBurstComplete, ht, ne_eq, not_true_eq_false, if_false, hj, hx]
  rfl

end

theorem exec_copyBurstComplete_waits {s : State} {c : CoreId} {e : CopyId} (ht : s.copyTurn (coreClu c) e ≠ some c) :
    exec (.copyBurstComplete c e) s = .next s := if_pos ht

/-! ## A burst of one line between scratchpads -/

theorem segments_within {len cur n : Nat} (hn : 0 < n) (h : cur + n ≤ len) : segments len n cur n = [(0, cur, n)] := by
  obtain ⟨m, rfl⟩ : ∃ m, n = m + 1 := ⟨n - 1, by omega⟩
  have hlt : cur < len := by omega
  have hend : segments len m (cur + (m + 1)) 0 = [] := by cases m <;> rfl
  have hk : Nat.min (len - cur) (m + 1) = m + 1 := Nat.min_eq_right (by omega)
  rw [segments, if_neg (by omega)]
  simp only [Nat.mod_eq_of_lt hlt, hk, Nat.sub_self, hend, Nat.div_eq_of_lt hlt]

theorem lineAddr_zero (a : Nat) (t : Int) (k : Nat) : (lineAddr a t 0 + (k : Nat)).toNat = a + k := by
  simp only [lineAddr]
  omega

section
variable {s : State} {c : CoreId} {e : CopyId} {j : Job} {x : CopyCmd}

/-- The own scratchpad is the command's whatever job runs on the others (R159). -/
theorem copyAt_own {a : Nat} (h : a < 0x200000) : s.copyAt c j x a = some (c, a) := by
  simp only [State.copyAt, localAt_own h, true_or, if_true]

theorem copyYields_own {l : List (Nat × Nat)} (hl : ∀ y ∈ l, y.1 < 0x200000) (hy : ∀ b, s.yieldsAt c b = false) :
    s.copyYields c j x l = false := by
  refine List.any_eq_false.2 fun y hm => ?_
  simp [copyAt_own (hl y hm), hy]

theorem burstRead_local (sp : Span) (reply : List Byte) (h : sp.loc = true) :
    s.burstRead c j x [sp] reply = .ok (s.localBytes c j x sp.addr sp.n) := by
  simp only [State.burstRead, h, if_true, List.append_nil]

theorem localBytes_own {a : Nat} (h : a < 0x200000) (n : Nat) : s.localBytes c j x a n = s.scrRead c a n := by
  rw [State.localBytes, copyAt_own h]

variable {f : CopyFields}

/-- Bytes that are not converted are written as they were read, in one piece of a scratchpad (R148). -/
theorem writes_local {off n : Nat} {bs : List Byte} (hd : f.dstl = true) (hf : x.srcFmt = x.dstFmt) (hn : bs.length = n) :
    x.writes j f [(0, off, n)] bs = [(⟨true, f.dst + off, n⟩, bs)] := by
  have hc : converts f x.srcFmt x.dstFmt = false := by simp [converts, hf]
  have hout : x.convert j f 0 off bs = bs := by simp only [CopyCmd.convert, hc, Bool.not_false, if_true]
  have hlen : dstLen f x.srcFmt x.dstFmt off = off := by rw [dstLen, hc]; rfl
  simp only [CopyCmd.writes, List.take_of_length_le hn.le, hout, hlen, lineAddr_zero, hd, if_true, hn, List.append_nil]

theorem hostBlocks_nil (ctx : CtxId) : s.hostBlocks ctx [] = 0 := rfl

/-- Without global writes nothing stands in a burst's way. -/
theorem copyGlobal_nil : s.copyGlobal c j [] = .ok s := rfl

theorem copyLocal_own {a n : Nat} {bs : List Byte} (h : a < 0x200000) :
    s.copyLocal c j x [(⟨true, a, n⟩, bs)] = s.scrWrite c a bs := by
  simp only [State.copyLocal, List.foldl_cons, List.foldl_nil, Bool.not_true, Bool.false_eq_true, if_false, copyAt_own h]

/-- A burst of a line between two places of the own scratchpad moves its bytes (R304). -/
theorem burst_line (hf : copyFields x.cmd = f) (hs : f.srcl = true) (hd : f.dstl = true) (hl : f.lines = 1) (hcur : x.cur < f.len)
    (hsrc : f.src + f.len ≤ 0x200000) (hdst : f.dst + f.len ≤ 0x200000) (hfmt : x.srcFmt = x.dstFmt) (hp : x.peer = none)
    (hy : ∀ b, s.yieldsAt c b = false) : s.burst c j e x =
      (s.scrWrite c (f.dst + x.cur) (s.scrRead c (f.src + x.cur) (min 4096 (f.len - x.cur)))).burstDone c j e x f
        (min 4096 (f.len - x.cur)) := by
  have hbar : f.bar < 0x200000 := by rw [← hf, copyFields_bar]; exact Nat.mod_lt _ (by decide)
  obtain ⟨n, hn⟩ : ∃ n, n = min 4096 (f.len - x.cur) := ⟨_, rfl⟩
  have hmin : Nat.min 4096 (f.len * f.lines - x.cur) = n := by rw [hl, Nat.mul_one, hn]
  have hpos : 0 < n := by omega
  have hfit : x.cur + n ≤ f.len := by omega
  have hspan : endSpans true (lineAddr f.src f.sstride 0 + (x.cur : Nat)).toNat n = [⟨true, f.src + x.cur, n⟩] := by
    rw [lineAddr_zero]; rfl
  have hread : s.burstRead c j x [⟨true, f.src + x.cur, n⟩] [] = .ok (s.scrRead c (f.src + x.cur) n) := by
    rw [burstRead_local _ _ rfl, localBytes_own (by dsimp only; omega)]
  have hlen : (s.scrRead c (f.src + x.cur) n).length = n := readBytes_length _ _ _
  have hwrites := writes_local (j := j) (off := x.cur) hd hfmt hlen
  have hyread : s.copyYields c j x ([(f.src + x.cur, n)] ++ if x.cur + n < f.len * f.lines then [] else [(f.bar, 32)]) = false := by
    refine copyYields_own (fun y hm => ?_) hy
    rcases List.mem_append.1 hm with hm | hm
    · obtain rfl := List.mem_singleton.1 hm; dsimp only; omega
    · split at hm
      · exact absurd hm List.not_mem_nil
      · obtain rfl := List.mem_singleton.1 hm; exact hbar
  have hywrite : s.copyYields c j x [(f.dst + x.cur, n)] = false :=
    copyYields_own (fun y hm => by obtain rfl := List.mem_singleton.1 hm; dsimp only; omega) hy
  rw [← hn]
  simp only [State.burst, hf, hmin, hp, segments_within hpos hfit, List.flatMap_singleton, hs, hspan, List.filter_cons,
    List.filter_nil, Bool.not_true, Bool.false_eq_true, if_false, if_true, List.map_cons, List.map_nil, List.filterMap_nil, hyread,
    hread, hwrites, hlen, hywrite, hostBlocks_nil, copyGlobal_nil, Nat.add_zero, Nat.mul_zero, Nat.not_lt_zero, decide_false,
    Bool.or_self, List.foldl_nil, Nat.sub_zero]
  rw [show s.copyLocal c j x _ = _ from copyLocal_own (by omega)]

end

/-! ## What a burst leaves -/

section
variable (s : State) (c : CoreId)

theorem spend_mem (n : Nat) : (s.spend c n).mem = s.mem := by
  unfold State.spend
  repeat' split
  all_goals rfl

theorem spendKind_mem (kind : Nat) : (s.spendKind c kind).mem = s.mem := spend_mem s c _

theorem spendKind_core (kind : Nat) (d : CoreId) : (s.spendKind c kind).core d = s.core d := by
  rw [State.core, (State.Quiet.refl s).spendKind.cores]; rfl

variable (e : CopyId)

/-- At a burst boundary the engine has served the core, and serves none (R303). -/
theorem turnOver_turn : (((s.turnOver c e).cluster (coreClu c)).served[e.val]).val = c.val % 4 ∧
    ((s.turnOver c e).cluster (coreClu c)).serving[e.val] = none := by
  simp only [State.turnOver, cluster_setCluster, Vector.getElem_set_self, and_self]

variable {s c e} {j : Job} {x : CopyCmd} {f : CopyFields} {n : Nat}

/-- The state after a burst, up to its job and its barrier. -/
def State.burstOver (s : State) (c : CoreId) (e : CopyId) : State := (s.spendKind c 2).turnOver c e

theorem burstOver_kept : (s.burstOver c e).mem = s.mem ∧ ∀ d, ((s.burstOver c e).core d).scr = (s.core d).scr :=
  ⟨spendKind_mem s c 2, fun d => congrArg Core.scr (spendKind_core s c 2 d)⟩

theorem burstDone_last (h : f.len * f.lines ≤ x.cur + n) : s.burstDone c j e x f n =
    ((s.burstOver c e).barApply c f.bar (f.len * f.lines)).setJob c (j.setCopies e (j.copiesOf e).tail) :=
  if_neg (Nat.not_lt.2 h)

theorem burstDone_more (h : x.cur + n < f.len * f.lines) : s.burstDone c j e x f n =
    (s.burstOver c e).setJob c (j.setHead e { x with cur := x.cur + n, peer := none }) := if_pos h

end

/-- A takes a copy command's fault at its boundary (R472). -/
theorem exec_copyFaultTrap_due {s : State} {c : CoreId} {j : Job} {g : CopyFault} (hj : s.job c = some j)
    (hg : j.a.copyFault = some g) (hd : j.copyDue = true) :
    exec (.copyFaultTrap c) s = .next (s.setJob c (j.raiseAt g.cause g.addr)) := by
  simp only [exec_copyFaultTrap, execCopyFaultTrap, hj, hg, hd, if_true]

end Sys2Proof.Machine

open Sys2Proof Sys2Proof.Machine

/-- Settles O38: a command's start by its translations, and a burst by its turn and by what it leaves to move. -/
theorem copyEngines : Obligations.CopyEngines := by
  intro s c e j x hj hx f places fails
  refine ⟨fun hs hl ha hd hh => ?_, fun hs hl ha k va hd => exec_copyCommandStart_denied hj hx hs hl ha hd,
    exec_copyCommandStart_held hj hx, exec_copyCommandStart_stays hj hx, fun ht => ?_, exec_copyBurstComplete_waits,
    fun n hn => ?_, fun n hn => ?_, fun g hg hd => ?_⟩
  · have hplaces : copyPlaces (copyFields x.cmd) = places := by
      simp only [places, flatMap_lines]
      rfl
    have hstart := exec_copyCommandStart_starts hj hx hs hl ha hd hh
    rw [hplaces] at hstart
    refine ⟨fun l hxl => ?_, fun k va hxl => ?_, fun a va l hxl hpage => ?_⟩
    · rw [hxl] at hstart
      exact ⟨_, hstart, headCopy_setHead j e _, rfl, rfl, rfl, rfl⟩
    · rw [hxl] at hstart
      exact hstart
    · rw [hxl] at hstart
      have hnone : (j.setHead e { x with xl := l }).copyPage e va = none := hpage
      rw [hstart, State.copyStarts, State.missCopy, hnone]
      rfl
  · exact ⟨s.serves c e, rfl, rfl, rfl, serves_card, exec_copyBurstComplete_turn hj hx ht,
      fun hs hd hl hcur hsrc hdst hfmt hp hy => burst_line rfl hs hd hl hcur hsrc hdst hfmt hp hy⟩
  · obtain ⟨hserved, hserving⟩ := turnOver_turn (s.spendKind c 2) c e
    exact ⟨_, _, burstDone_last hn, Job.copiesOf_setCopies _ _ _, burstOver_kept.1, burstOver_kept.2, hserved, hserving⟩
  · obtain ⟨hserved, hserving⟩ := turnOver_turn (s.spendKind c 2) c e
    exact ⟨_, _, burstDone_more hn, headCopy_setHead _ _ _, burstOver_kept.1, burstOver_kept.2, hserved, hserving⟩
  · exact ⟨_, exec_copyFaultTrap_due hj hg hd, fun y m => by cases y <;> rfl, rfl⟩
end

section
/-! SUPPORT. The vector instructions that deliver one result: their destination, their operands, and what they leave alone. -/

namespace Sys2Proof.Machine

/-- A job in which V has delivered a row or a scalar to `d`, and nothing else. -/
inductive Job.Delivered (j : Job) (d : Opnd) : Job → Prop
  | row (lat : Nat) (o : VOut) : j.Delivered d (j.vout d lat o)
  | scalar (lat : Nat) (x : W32) : j.Delivered d (j.sout d lat x)

theorem Job.Delivered.beside {j k : Job} {d : Opnd} (h : j.Delivered d k) : j.Beside .v k := by
  cases h with
  | row lat o => exact vout_beside _ _ _ _ _
  | scalar lat x => exact sout_beside _ _ _ _ _

theorem Job.Delivered.reg {j k : Job} {d : Opnd} (h : j.Delivered d k) (x : Eng) : k.reg x = j.reg x := by
  cases h with
  | row lat o => exact vout_reg _ _ _ _ _
  | scalar lat y => exact sout_reg _ _ _ _ _

theorem Job.Delivered.stream {j k : Job} {d : Opnd} (h : j.Delivered d k) {q : Fin 16} (hd : d ≠ .q q) :
    k.stream q = j.stream q := by
  cases h with
  | row lat o => exact vout_stream _ _ _ _ _ hd
  | scalar lat x => exact sout_stream _ _ _ _ _ hd

/-- A vector instruction with these operand fields, whose one effect in the job is a result delivered to `d`. -/
structure VectorForm (i : Instr) (j : Job) (d : Opnd) (os : List Opnd) : Prop where
  exec : ∃ occ f, (∀ s, exec i s = issueJob s .v i occ f) ∧ ∀ (k : Job) vs, k.Delivered d (f k vs)
  opnds : (fieldsOf j i).map Field.opnd = os

section
variable {i : Instr} {j : Job} {d : Opnd} {os : List Opnd} {occ lat : Nat} {t : ElemT}

theorem VectorForm.row {f : Job → List Val → VOut}
    (hexec : ∀ s, Machine.exec i s = issueJob s .v i occ fun k vs => k.vout d lat (f k vs))
    (ho : (fieldsOf j i).map Field.opnd = os) : VectorForm i j d os :=
  ⟨⟨_, _, hexec, fun _ _ => .row _ _⟩, ho⟩

theorem VectorForm.run {f : Job → List Row → VOut} (hexec : ∀ s, Machine.exec i s = vrun i occ lat d f s)
    (ho : (fieldsOf j i).map Field.opnd = os) : VectorForm i j d os :=
  ⟨⟨_, _, hexec, fun _ _ => .row _ _⟩, ho⟩

theorem VectorForm.bin {op : VRnd → Nat → Nat → Nat → Nat × Flags} (hexec : ∀ s, Machine.exec i s = vbin i lat t d op s)
    (ho : (fieldsOf j i).map Field.opnd = os) : VectorForm i j d os :=
  .run hexec ho

theorem VectorForm.tern {op : VRnd → Nat → Nat → Nat → Nat → Nat × Flags}
    (hexec : ∀ s, Machine.exec i s = vtern i lat t d op s) (ho : (fieldsOf j i).map Field.opnd = os) : VectorForm i j d os :=
  .run hexec ho

theorem VectorForm.un {op : Nat → Nat × Flags} (hexec : ∀ s, Machine.exec i s = vun i occ lat t d op s)
    (ho : (fieldsOf j i).map Field.opnd = os) : VectorForm i j d os :=
  .run hexec ho

theorem VectorForm.fromScalar {f : W32 → Nat → Nat × Flags} (hexec : ∀ s, Machine.exec i s = vfromScalar i t d f s)
    (ho : (fieldsOf j i).map Field.opnd = os) : VectorForm i j d os :=
  .row hexec ho

theorem VectorForm.toScalar {f : Job → Row → W32 → W32} (hexec : ∀ s, Machine.exec i s = vtoScalar i lat d f s)
    (ho : (fieldsOf j i).map Field.opnd = os) : VectorForm i j d os :=
  ⟨⟨_, _, hexec, fun _ _ => .scalar _ _⟩, ho⟩
end

/-- The vector forms read two sources or one, and D. -/
theorem vectorForms_shape (j : Job) (tm : Tm) (d a b : Opnd) (ty src : ElemT) (u : VCond) (r : CvtRnd) (o : RedOp) :
    ∀ i ∈ vectorForms tm d a b ty src u r o, VectorForm i j d [a, b, d] ∨ VectorForm i j d [a, d] := by
  simp only [vectorForms, List.forall_mem_cons]
  exact ⟨.inl (.bin (exec_vadd tm d a b ty) rfl),
    .inl (.bin (exec_vsub tm d a b ty) rfl),
    .inl (.bin (exec_vmul tm d a b ty) rfl),
    .inl (.tern (exec_vmadd tm d a b ty) rfl),
    .inl (.bin (exec_vmin tm d a b ty) rfl),
    .inl (.bin (exec_vmax tm d a b ty) rfl),
    .inl (.bin (exec_vadds tm d a b ty) rfl),
    .inl (.bin (exec_vand tm d a b ty) rfl),
    .inl (.bin (exec_vor tm d a b ty) rfl),
    .inl (.bin (exec_vxor tm d a b ty) rfl),
    .inl (.bin (exec_vshl tm d a b ty) rfl),
    .inl (.bin (exec_vshr tm d a b ty) rfl),
    .inr (.un (exec_vabs tm d a ty) rfl),
    .inr (.un (exec_vneg tm d a ty) rfl),
    .inr (.un (exec_vrcp tm d a ty) rfl),
    .inr (.un (exec_vrsq tm d a ty) rfl),
    .inr (.un (exec_vexp tm d a ty) rfl),
    .inr (.un (exec_vpopc tm d a ty) rfl),
    .inr (.un (exec_vnot tm d a ty) rfl),
    .inl (.tern (exec_vfma tm d a b ty) rfl),
    .inr (.run (exec_vcmp tm d a u ty) rfl),
    .inl (.tern (exec_vsel tm d a b ty) rfl),
    .inr (.run (exec_vcvt tm d a src r ty) rfl),
    .inl (.run (exec_vqmx tm d a b ty) rfl),
    .inl (.row (exec_vdqmx tm d a b ty) rfl),
    .inl (.bin (exec_vscl tm d a b ty) rfl),
    .inr (.run (exec_vred tm d a o ty) rfl),
    .inr (.run (exec_vscan tm d a o ty) rfl),
    .inl (.run (exec_vperm tm d a b ty) rfl),
    .inl (.run (exec_vrotm tm d a b ty) rfl),
    .inr (.fromScalar (exec_vbcst tm d a ty) rfl),
    .inr (.fromScalar (exec_vidxw tm d a ty) rfl),
    .inr (.toScalar (exec_vidxr tm d a ty) rfl),
    .inr (.run (exec_vbitt tm d a ty) rfl),
    .inr (.run (exec_vbits tm d a ty) rfl),
    .inr (.toScalar (exec_vpopm tm d a) rfl),
    .inr (.toScalar (exec_vlane tm d a ty) rfl),
    .inr (.row (exec_vins tm d a ty) rfl),
    by simp⟩

theorem stream_done (j : Job) (e : Eng) (n : Nat) (q : Fin 16) : (j.done e n).stream q = j.stream q := by
  simp only [Job.stream, done_streams]

/-- The frame of a vector form: it reads its sources, delivers one result and goes on. -/
theorem vectorForms_frame {s t : State} {c : CoreId} {j : Job} {tm : Tm} {d a b : Opnd} {ty src : ElemT} {u : VCond}
    {r : CvtRnd} {o : RedOp} {i : Instr} (hi : i ∈ vectorForms tm d a b ty src u r o) (hiss : Issues s c .v j i)
    (hexec : exec i s = .next t) :
    JobOnly c s t ∧ ∃ j2, t.job c = some j2 ∧ j.Beside .v j2 ∧ (∀ x n, j2.reg x n = j.reg x n) ∧
      ∀ q, a ≠ .q q → b ≠ .q q → d ≠ .q q → j2.stream q = j.stream q := by
  obtain ⟨os, hform, hos⟩ : ∃ os, VectorForm i (j.issuing .v i) d os ∧ os ⊆ [a, b, d] := by
    rcases vectorForms_shape (j.issuing .v i) tm d a b ty src u r o i hi with hf | hf
    all_goals exact ⟨_, hf, by simp⟩
  obtain ⟨occ, f, hf, hdel⟩ := hform.exec
  obtain rfl : _ = t := Host.Outcome.next.inj (((hf s).trans (issueJob_go hiss occ f)).symm.trans hexec)
  have hdel := hdel (j.sourced .v i) (sourcesOf j .v i)
  refine ⟨jobOnly_setJob _ _ _, _, job_setJob _ _ _, ((sourced_beside j .v i).trans hdel.beside).trans (done_beside _ .v occ),
    fun x n => by rw [done_reg, hdel.reg, sourced_reg], fun q ha hb hd => ?_⟩
  rw [stream_done, hdel.stream hd, sourced_stream fun o ho => ?_]
  rw [hform.opnds] at ho
  rcases List.mem_cons.1 (hos ho) with rfl | ho
  · exact ha
  · rcases List.mem_cons.1 ho with rfl | ho
    · exact hb
    · rwa [List.mem_singleton.1 ho]

end Sys2Proof.Machine
end

section
/-! SUPPORT. The frame of the matrix instructions: what the engine and the job keep when one accumulator, its UNCHK and the
named walks change. -/

namespace Sys2Proof.Machine

theorem unchk_mark (m : MEng) (n q : Fin 8) (on : Bool) :
    (m.mark n on).unchk.getLsbD q.val = if q = n then on else m.unchk.getLsbD q.val := by
  cases on with
  | false => rw [unchk_mark_false]; by_cases h : q = n <;> simp [h]
  | true =>
    have hn : (BitVec.ofNat 8 (2 ^ n.val)).getLsbD q.val = decide (q = n) := by
      rw [BitVec.getLsbD_ofNat, Nat.testBit_two_pow]
      simp [q.isLt, Fin.ext_iff, eq_comm]
    have hmark : (m.mark n true).unchk = m.unchk ||| BitVec.ofNat 8 (2 ^ n.val) := rfl
    rw [hmark, BitVec.getLsbD_or, hn]
    by_cases h : q = n <;> simp [h]

/-- An update of M that keeps its registers, its configuration, and every accumulator and UNCHK bit but those of `n`. -/
structure MEng.KeepsBut (n : Fin 8) (m k : MEng) : Prop where
  s : k.s = m.s
  tcfg : k.tcfg = m.tcfg
  shape : (k.shapeM, k.shapeN, k.shapeK) = (m.shapeM, m.shapeN, m.shapeK)
  fpmode : k.fpmode = m.fpmode
  fpflags : k.fpflags = m.fpflags
  acc : ∀ r, r ≠ n → k.accAt r = m.accAt r
  unchk : ∀ r : Fin 8, r ≠ n → k.unchk.getLsbD r.val = m.unchk.getLsbD r.val

theorem MEng.KeepsBut.trans {n : Fin 8} {m k l : MEng} (h : m.KeepsBut n k) (g : k.KeepsBut n l) : m.KeepsBut n l where
  s := g.s.trans h.s
  tcfg := g.tcfg.trans h.tcfg
  shape := g.shape.trans h.shape
  fpmode := g.fpmode.trans h.fpmode
  fpflags := g.fpflags.trans h.fpflags
  acc r hr := (g.acc r hr).trans (h.acc r hr)
  unchk r hr := (g.unchk r hr).trans (h.unchk r hr)

theorem keepsBut_setAcc (m : MEng) (n : Fin 8) (a : Acc) : m.KeepsBut n (m.setAcc n a) :=
  ⟨rfl, rfl, rfl, rfl, rfl, fun r hr => accAt_setAcc_ne m n r a hr, fun _ _ => rfl⟩

theorem keepsBut_mark (m : MEng) (n : Fin 8) (on : Bool) : m.KeepsBut n (m.mark n on) :=
  ⟨rfl, rfl, rfl, rfl, rfl, fun _ _ => rfl, fun r hr => by rw [unchk_mark, if_neg hr]⟩

theorem keepsBut_retired (m : MEng) (n : Fin 8) (keep : Bool) : m.KeepsBut n (m.retired n keep) := by
  have hcount : m.KeepsBut n { m with retcnt := m.retcnt + 1 } :=
    ⟨rfl, rfl, rfl, rfl, rfl, fun _ _ => rfl, fun _ _ => rfl⟩
  unfold MEng.retired
  split
  · exact hcount
  · exact hcount.trans (keepsBut_setAcc _ n _)

/-- A job after an M instruction that works on accumulator `n`, leaves its UNCHK as `on`, and steps only walks in `ws`. -/
structure Job.MatrixDone (n : Fin 8) (on : Bool) (ws : List (Fin 8)) (j k : Job) : Prop where
  m : j.m.KeepsBut n k.m
  mark : k.m.unchk.getLsbD n.val = on
  v : k.v = j.v
  a : k.a = j.a
  c : k.c = j.c
  streams : k.streams = j.streams
  fmt : k.fmt = j.fmt
  take : k.take = j.take
  walk : ∀ x, x ∉ ws → k.walk x = j.walk x

theorem Job.MatrixDone.reg {n on ws} {j k : Job} (h : j.MatrixDone n on ws k) (x : Eng) : k.reg x = j.reg x := by
  funext r
  cases x <;> simp only [Job.reg, h.c, h.a, h.v, h.m.s]

/-- The job `j` with M as `m`, but for the flights of M, the claims, and the walks in `ws`. -/
structure Job.Launched (j : Job) (m : MEng) (ws : List (Fin 8)) (k : Job) : Prop where
  eq : ∃ claims walks flights, k = { j with claims, walks, m := { m with flights } }
  walk : ∀ x, x ∉ ws → k.walk x = j.walk x

theorem launched_launchM {s : State} {c : CoreId} {j0 j : Job} {i : Instr} (m : MEng) (rows : List Row) (fl : Flags)
    (bad : Option Cause) :
    j.Launched m ((mWalks i).map Prod.fst) ({ j with m := m }.launchM i (mWindow s c j0 i) rows fl bad) where
  eq := ⟨_, _, _, launchM_eq _ _ _ _ _ _⟩
  walk x hx := launchM_walk _ _ _ _ _ _ x fun _ hn hxn => hx (hxn ▸ needs_named s c j0 i _ hn)

theorem Job.Launched.spendMany {j k : Job} {m ws} (h : j.Launched m ws k) {w : Fin 8} (hw : w ∈ ws) (n : Nat) :
    j.Launched m ws (k.spendMany w n) where
  eq := by
    obtain ⟨claims, walks, flights, rfl⟩ := h.eq
    exact ⟨_, _, _, spendMany_eq _ _ _⟩
  walk x hx := (spendMany_walk w x (fun e => hx (e ▸ hw)) n k).trans (h.walk x hx)

theorem Job.Launched.withM {j k : Job} {m ws} (h : j.Launched m ws k) (m' : MEng) : j.Launched m' ws { k with m := m' } where
  eq := by
    obtain ⟨claims, walks, flights, rfl⟩ := h.eq
    exact ⟨claims, walks, m'.flights, rfl⟩
  walk x hx := h.walk x hx

theorem Job.Launched.keepsBut {j k : Job} {m ws} (h : j.Launched m ws k) (n : Fin 8) : m.KeepsBut n k.m := by
  obtain ⟨claims, walks, flights, rfl⟩ := h.eq
  exact ⟨rfl, rfl, rfl, rfl, rfl, fun _ _ => rfl, fun _ _ => rfl⟩

theorem keepsBut_issuing (j : Job) (i : Instr) (n : Fin 8) : j.m.KeepsBut n (j.issuing .m i).m :=
  ⟨rfl, rfl, rfl, rfl, rfl, fun _ _ => rfl, fun _ _ => rfl⟩

/-- An M instruction that issues, launches with its accumulator marked, and goes on. -/
theorem matrixDone_of_launched {j k : Job} {i : Instr} {n : Fin 8} {on : Bool} {m : MEng} {ws : List (Fin 8)}
    (hm : (j.issuing .m i).m.KeepsBut n m) (hk : (j.issuing .m i).Launched (m.mark n on) ws k) (occ : Nat) :
    j.MatrixDone n on ws (k.done .m occ) := by
  have hmark := ((keepsBut_issuing j i n).trans hm).trans (keepsBut_mark m n on)
  have hwalk (x) (hx : x ∉ ws) : k.walk x = j.walk x := hk.walk x hx
  obtain ⟨claims, walks, flights, rfl⟩ := hk.eq
  exact {
    m := hmark.trans ⟨rfl, rfl, rfl, rfl, rfl, fun _ _ => rfl, fun _ _ => rfl⟩
    mark := by
      have := unchk_mark m n n on
      rw [if_pos rfl] at this
      exact this
    v := rfl, a := rfl, c := rfl, streams := rfl, fmt := rfl, take := rfl
    walk := hwalk }

section
variable {s : State} {c : CoreId} {j : Job} {i : Instr} {n : Fin 8}

theorem reduceIssue_frame (h : Issues s c .m j i) (new : Bool) :
    ∃ k, reduceIssue i n new s = .next (s.setJob c k) ∧ j.MatrixDone n true ((mWalks i).map Prod.fst) k := by
  refine ⟨_, issue_go h 1 _, ?_⟩
  split
  · exact matrixDone_of_launched (keepsBut_setAcc _ n _) ((launched_launchM _ _ _ _).spendMany (by simp [mWalks]) _) _
  · exact matrixDone_of_launched (keepsBut_setAcc _ n _) (launched_launchM _ _ _ _) _

theorem retireIssue_frame (h : Issues s c .m j i) (hfault : (s.core c).faulty inEpilogue = false)
    {out : Job → List Row × Flags} {after : MEng → MEng} (hafter : ∀ m : MEng, m.KeepsBut n (after m)) :
    ∃ k, retireIssue i n out after s = .next (s.setJob c k) ∧ j.MatrixDone n false ((mWalks i).map Prod.fst) k := by
  have hrows := launched_launchM (s := s) (c := c) (j0 := j.issuing .m i) (j := j.issuing .m i) (i := i) (j.issuing .m i).m
  rw [retireIssue, issue_go h]
  simp only [hfault, Bool.false_and, Bool.false_eq_true, if_false, Bool.or_false]
  exact ⟨_, rfl, matrixDone_of_launched (((hrows _ _ _).keepsBut n).trans (hafter _)) ((hrows _ _ _).withM _) _⟩

theorem exec_tfill_frame {tm : Tm} {w : Fin 8} (h : Issues s c .m j (.tfill tm n w)) :
    ∃ k, exec (.tfill tm n w) s = .next (s.setJob c k) ∧ j.MatrixDone n false ((mWalks (.tfill tm n w)).map Prod.fst) k :=
  ⟨_, issue_go h 1 _, matrixDone_of_launched (keepsBut_setAcc _ n _) (launched_launchM _ _ _ _) _⟩

theorem exec_tacc_frame {tm : Tm} {a : Fin 8} (h : Issues s c .m j (.tacc tm n a)) :
    ∃ k, exec (.tacc tm n a) s = .next (s.setJob c k) ∧ j.MatrixDone n true ((mWalks (.tacc tm n a)).map Prod.fst) k :=
  ⟨_, issue_go h 1 _, matrixDone_of_launched (keepsBut_setAcc _ n _) (launched_launchM _ _ _ _) _⟩

theorem exec_tzero_frame {tm : Tm} (h : Issues s c .m j (.tzero tm n)) :
    ∃ k, exec (.tzero tm n) s = .next (s.setJob c k) ∧ j.MatrixDone n false ((mWalks (.tzero tm n)).map Prod.fst) k :=
  ⟨_, exec_tzero_go h, matrixDone_of_launched (keepsBut_setAcc _ n _) ⟨⟨_, _, _, rfl⟩, fun _ _ => rfl⟩ _⟩

end

/-- The instructions that work on accumulator `n` (R258). -/
def matrixForms (tm : Tm) (n a b w : Fin 8) (new keep : Bool) : List Instr :=
  [.tmma tm n a b new, .tmmax tm n a b new, .tmmat tm n a b new, .tmmas tm n a b w new, .tret tm n w keep,
    .tretq tm n w keep, .tspill tm n w, .tfill tm n w, .tacc tm n a, .tzero tm n]

/-- The matrix instructions that join their accumulator to UNCHK (R258). -/
def joinsUnchk : Instr → Bool
  | .tmma .. | .tmmax .. | .tmmat .. | .tmmas .. | .tacc .. => true
  | _ => false

/-- They name no walk but those of their operands. -/
theorem matrixForms_mWalks {tm : Tm} {n a b w : Fin 8} {new keep : Bool} {x : Fin 8} (ha : x ≠ a) (hb : x ≠ b) (hw : x ≠ w) :
    ∀ i ∈ matrixForms tm n a b w new keep, x ∉ (mWalks i).map Prod.fst := by
  simp [matrixForms, mWalks, ha, hb, hw]

/-- Every matrix instruction that issues keeps the job but for its accumulator and the walks that it names. -/
theorem matrixForms_frame {s : State} {c : CoreId} {j : Job} {tm : Tm} {n a b w : Fin 8} {new keep : Bool} {i : Instr}
    (hi : i ∈ matrixForms tm n a b w new keep) (h : Issues s c .m j i)
    (hfault : (s.core c).faulty inEpilogue = false) :
    ∃ k, exec i s = .next (s.setJob c k) ∧ j.MatrixDone n (joinsUnchk i) ((mWalks i).map Prod.fst) k := by
  have hretired (m : MEng) := keepsBut_retired m n keep
  have hsame (m : MEng) : m.KeepsBut n (id m) := ⟨rfl, rfl, rfl, rfl, rfl, fun _ _ => rfl, fun _ _ => rfl⟩
  simp only [matrixForms, List.mem_cons, List.not_mem_nil, or_false] at hi
  obtain rfl | rfl | rfl | rfl | rfl | rfl | rfl | rfl | rfl | rfl := hi
  iterate 4 exact reduceIssue_frame h new
  · exact retireIssue_frame h hfault hretired
  · exact retireIssue_frame h hfault hretired
  · exact retireIssue_frame h hfault hsame
  · exact exec_tfill_frame h
  · exact exec_tacc_frame h
  · exact exec_tzero_frame h

end Sys2Proof.Machine
end

section
/-! SUPPORT. What a staged store and a store that performs leave alone, and what the giving of a value changes. -/

namespace Sys2Proof.Machine

/-- What a map holds at another key stays with an insertion, whatever the order of its entries. -/
theorem SMap.find_insert_ne {α : Type} (m : SMap α) {k n : Nat} (x : α) (h : n ≠ k) :
    SMap.find (SMap.insert m k x) n = SMap.find m n := by
  induction m with
  | nil => simp [SMap.insert, SMap.find, h]
  | cons e m ih =>
    obtain ⟨i, y⟩ := e
    unfold SMap.insert
    split
    · next hki => subst hki; simp [SMap.find, h]
    · split
      · next _ hlt =>
        have hi : n < k → n ≠ i ∧ n < i := by omega
        by_cases hn : n < k
        · simp [SMap.find, h, hn, hi hn]
        · rw [SMap.find, if_neg h, if_neg hn]
      · simp only [SMap.find, ih]

theorem cluster_setCluster_ne (s : State) {k l : CluId} (h : l ≠ k) (x : Cluster) : (s.setCluster k x).cluster l = s.cluster l :=
  Vector.getElem_set_ne k.isLt l.isLt fun e => h (Fin.ext e.symm)

theorem card_setCard_ne (s : State) {k l : CluId} {n m : SlotId} (h : l ≠ k ∨ m ≠ n) (x : Card) :
    (s.setCard k n x).card l m = s.card l m := by
  by_cases hl : l = k
  · subst hl
    have hm : m.val ≠ n.val := fun e => (h.resolve_left (not_not_intro rfl)) (Fin.ext e)
    simp only [State.card, State.setCard, cluster_setCluster, SMap.find_insert_ne _ _ hm]
  · simp only [State.card, State.setCard, cluster_setCluster_ne s hl]

theorem cluster_setCard (s : State) (k l : CluId) (n : SlotId) (x : Card) :
    { (s.setCard k n x).cluster l with cards := (s.cluster l).cards } = s.cluster l := by
  by_cases hl : l = k
  · subst hl; rw [State.setCard, cluster_setCluster]
  · rw [State.setCard, cluster_setCluster_ne s hl]

/-! ## The side cache -/

/-- The states `t` in which the side cache of core `o` differs from that of `s` in one line at most. -/
structure SideLine (o : CoreId) (line : Nat) (s t : State) : Prop where
  rest : { t with cores := s.cores } = s
  others : ∀ k, k ≠ o → t.core k = s.core k
  own : { t.core o with side := (s.core o).side } = s.core o
  lines : ∀ n, n ≠ line → SMap.find (t.core o).side n = SMap.find (s.core o).side n

theorem sideUpdate_line (s : State) (c : CoreId) (j : Job) (pa : Nat) (bs : List Byte) :
    SideLine (s.sideOwner c j pa) (pa / 128) s (s.sideUpdate c j pa bs) := by
  unfold State.sideUpdate
  simp only []
  split
  · exact ⟨rfl, fun _ _ => rfl, rfl, fun _ _ => rfl⟩
  · exact ⟨rfl, fun _ hk => core_setCore_ne s hk _, by rw [core_setCore],
      fun _ hn => by rw [core_setCore]; exact SMap.find_insert_ne _ _ hn⟩

/-- A card that keeps its gang fused keeps every slice's owner. -/
theorem sideOwner_setCard {s : State} {j : Job} {x y : Card} (hx : s.card j.cluster j.slot = some x) (hfuse : y.fuse = x.fuse)
    (c : CoreId) (pa : Nat) : (s.setCard j.cluster j.slot y).sideOwner c j pa = s.sideOwner c j pa := by
  simp only [State.sideOwner, State.fused, card_setCard, hx, hfuse]

/-! ## A staged store -/

/-- The card with one more store staged. -/
def Card.stages (x : Card) (p : Piece) (bs : List Byte) : Card := { x with staged := x.staged ++ [⟨p.pa, p.va, bs⟩] }

theorem stageWrite_none {s : State} {j : Job} (h : s.card j.cluster j.slot = none) (c : CoreId) (p : Piece) (bs : List Byte) :
    s.stageWrite c j p bs = s := by rw [State.stageWrite, h]

theorem stageWrite_some {s : State} {j : Job} {x : Card} (h : s.card j.cluster j.slot = some x) (c : CoreId) (p : Piece)
    (bs : List Byte) : s.stageWrite c j p bs =
      (s.setCard j.cluster j.slot (x.stages p bs)).sideUpdate c j p.pa bs := by rw [State.stageWrite, h]; rfl

/-- A staged store changes its card's list and one line of one side cache. -/
structure Stages (o : CoreId) (j : Job) (p : Piece) (bs : List Byte) (s t : State) : Prop where
  rest : { t with clusters := s.clusters, cores := s.cores } = s
  others : ∀ k, k ≠ o → t.core k = s.core k
  own : { t.core o with side := (s.core o).side } = s.core o
  lines : ∀ n, n ≠ p.pa / 128 → SMap.find (t.core o).side n = SMap.find (s.core o).side n
  clusters : ∀ k, { t.cluster k with cards := (s.cluster k).cards } = s.cluster k
  cards : ∀ k n, (k ≠ j.cluster ∨ n ≠ j.slot) → t.card k n = s.card k n
  card : ∀ x, s.card j.cluster j.slot = some x → t.card j.cluster j.slot = some (x.stages p bs)

theorem stageWrite_stages (s : State) (c : CoreId) (j : Job) (p : Piece) (bs : List Byte) :
    Stages (s.sideOwner c j p.pa) j p bs s (s.stageWrite c j p bs) := by
  cases hx : s.card j.cluster j.slot with
  | none =>
    rw [stageWrite_none hx]
    exact ⟨rfl, fun _ _ => rfl, rfl, fun _ _ => rfl, fun _ => rfl, fun _ _ _ => rfl, fun x h => nomatch hx.symm.trans h⟩
  | some x =>
    have hside := sideUpdate_line (s.setCard j.cluster j.slot (x.stages p bs)) c j p.pa bs
    rw [sideOwner_setCard (y := x.stages p bs) hx rfl] at hside
    rw [stageWrite_some hx]
    obtain ⟨hrest, hothers, hown, hlines⟩ := hside
    generalize State.sideUpdate _ c j p.pa bs = t at hrest hothers hown hlines ⊢
    have hclu : t.clusters = (s.setCard j.cluster j.slot (x.stages p bs)).clusters := by
      have := congrArg State.clusters hrest
      exact this
    have hcluster (k) : t.cluster k = (s.setCard j.cluster j.slot (x.stages p bs)).cluster k := by simp only [State.cluster, hclu]
    have hcard (k n) : t.card k n = (s.setCard j.cluster j.slot (x.stages p bs)).card k n := by simp only [State.card, hcluster]
    refine ⟨?_, hothers, hown, hlines, fun k => ?_, fun k n h => ?_, fun y hy => ?_⟩
    · exact congrArg (fun u : State => { u with clusters := s.clusters }) hrest
    · rw [hcluster]; exact cluster_setCard _ _ _ _ _
    · rw [hcard]; exact card_setCard_ne s h _
    · obtain rfl : x = y := Option.some.inj (hx.symm.trans hy)
      rw [hcard, card_setCard]

/-! ## A store that performs -/

/-- A store to a device line that is present changes exactly its own bytes of the line. -/
theorem commit_device {s : State} {pa : Nat} {bs : List Byte} {l : Line} (hdev : pa < hostBase)
    (hl : SMap.find s.lines (pa / 128) = some l) (hfit : pa % 128 + bs.length ≤ 128) (ctx : CtxId) (core : Option CoreId) :
    (s.commit ctx core pa bs).mem = s.mem ∧ (s.commit ctx core pa bs).cores = s.cores ∧
      (∀ n, n ≠ pa / 128 → SMap.find (s.commit ctx core pa bs).lines n = SMap.find s.lines n) ∧
      ∃ k, SMap.find (s.commit ctx core pa bs).lines (pa / 128) = some k ∧ k.dirty = true ∧
        (∀ n (h : n < bs.length), lineBytes k.data (pa % 128 + n) 1 = [bs[n]]) ∧
        (∀ n, n < 128 → (n < pa % 128 ∨ pa % 128 + bs.length ≤ n) → lineBytes k.data n 1 = lineBytes l.data n 1) := by
  rw [State.commit, if_neg (Nat.not_le.2 hdev), State.lineWrite, hl]
  exact ⟨rfl, rfl, fun n hn => SMap.find_insert_ne _ _ hn, _, SMap.find_insert_self _ _ _, rfl,
    fun n h => lineBytes_patchRow_in l.data hfit h, fun n hn hout => lineBytes_patchRow_out l.data hfit hn hout⟩

/-! ## A value given to D -/

theorem gives_frame (s : State) (c : CoreId) (j : Job) (d : Opnd) (x : W64) :
    JobOnly c s (gives s c j d x) ∧ ∃ j2, (gives s c j d x).job c = some j2 ∧ j.Beside .a j2 ∧
      (∀ e n, (e ≠ .a ∨ d ≠ .reg n) → j2.reg e n = j.reg e n) ∧ (∀ q, d ≠ .q q → j2.stream q = j.stream q) := by
  refine ⟨jobOnly_setJob _ _ _, _, job_setJob _ _ _, (result_beside j .a d _).trans (done_beside _ .a 1), fun e n h => ?_,
    fun q h => ?_⟩
  · rw [done_reg]; exact result_reg _ _ _ _ _ _ (h.imp_right .inl)
  · rw [stream_done]; exact result_stream _ _ _ _ _ h

end Sys2Proof.Machine
end

section

open Sys2Proof Sys2Proof.Machine

/-- Settles O60: a vector form delivers one result, a matrix form launches with one accumulator and its UNCHK bit set, and a staged
store, a store that performs and a value given to D each have a frame of their own. -/
theorem frames : Obligations.Frames := by
  refine ⟨fun s t c j tm d a b ty src u r o i hi hiss hexec => ?_, fun s t c j tm n a b w new keep i hi hiss hfault hexec => ?_,
    fun s c j d x p bs ctx core l => ⟨gives_frame s c j d x, ?_, fun hdev hl hfit => commit_device hdev hl hfit ctx core⟩⟩
  · obtain ⟨hjob, j2, hj2, hbeside, hreg, hstream⟩ := vectorForms_frame hi hiss hexec
    exact ⟨hjob, hjob.bytes.1, hjob.bytes.2, j2, hj2, hbeside, hreg, hstream, fun x n => srRead_beside hjob hbeside x n⟩
  · obtain ⟨k, hk, hdone⟩ := matrixForms_frame hi hiss hfault
    obtain rfl : _ = t := Host.Outcome.next.inj (hk.symm.trans hexec)
    have hjob := jobOnly_setJob s c k
    refine ⟨hjob, hjob.bytes.1, hjob.bytes.2, k, job_setJob _ _ _, fun x r => by rw [hdone.reg], hdone.v, hdone.a, hdone.c,
      hdone.streams, hdone.m.tcfg, hdone.m.shape, hdone.m.fpmode, hdone.m.fpflags, hdone.m.acc, fun hon => ?_, fun hoff => ?_,
      hdone.m.unchk, fun x ha hb hw => hdone.walk x (matrixForms_mWalks ha hb hw i hi), hdone.fmt, hdone.take⟩
    · rw [hdone.mark]
      simp only [List.mem_cons, List.not_mem_nil, or_false] at hon
      obtain rfl | rfl | rfl | rfl | rfl := hon
      all_goals rfl
    · rw [hdone.mark]
      simp only [List.mem_cons, List.not_mem_nil, or_false] at hoff
      obtain rfl | rfl | rfl | rfl | rfl := hoff
      all_goals rfl
  · obtain ⟨hrest, hothers, hown, hlines, hclusters, hcards, hcard⟩ := stageWrite_stages s c j p bs
    exact ⟨hrest, hothers, hown, hlines, hclusters, hcards, hcard⟩
end

section
/-! SUPPORT. The bitwise, shift, compare, select, scaling and function instructions of V (R231 to R235, R239): what each
operation gives of one lane. -/

namespace Sys2Proof.Machine

section
variable {t : ElemT} {u : VCond} {a b x y : Nat}

theorem laneShr_eq : laneShr t a b = (t.intOf a / 2 ^ (b % t.width) % 2 ^ t.width).toNat := by
  rw [laneShr, ElemT.bitsOf, Nat.cast_pow, Nat.cast_ofNat]

/-! ## VSEL (R235) -/

theorem selRead_of_ne (ht : t ≠ .t2) : selRead t x = (x, 0) := if_neg fun h => ht h.1

theorem selRead_t2 : selRead .t2 x = (if x = 2 then 0 else x, if x = 2 then fTRES else 0) := by
  by_cases hx : x = 2 <;> simp [selRead, hx]

theorem laneSel_of_ne (ht : t ≠ .t2) : laneSel t x a b = (if x ≠ 0 then a else b, 0) := by
  simp only [laneSel, selRead_of_ne ht, BitVec.or_self]

/-- A reserved code of a `.T2` lane reads as 0 and sets TRES, whichever of the three lanes holds it. -/
theorem laneSel_t2 : laneSel .t2 x a b =
    (if (if x = 2 then 0 else x) ≠ 0 then (if a = 2 then 0 else a) else (if b = 2 then 0 else b),
      if a = 2 ∨ b = 2 ∨ x = 2 then fTRES else 0) := by
  rw [laneSel, selRead_t2, selRead_t2, selRead_t2]
  refine Prod.ext rfl ?_
  by_cases hx : x = 2 <;> by_cases ha : a = 2 <;> by_cases hb : b = 2 <;> simp [hx, ha, hb]

/-! ## VSCL (R239) -/

/-- The scale of VSCL is its lane as a two's complement integer. -/
theorem rndTo_scale {r : VRnd} {k : Nat} {v : Fp} :
    rndTo t r k (v.scale (if y < 2 ^ (t.width - 1) then (y : Int) else (y : Int) - 2 ^ t.width), 0) =
      t.fmt.round r.mode (r.bits k) (v.scale (if 2 * y < 2 ^ t.width then (y : Int) else (y : Int) - 2 ^ t.width)) := by
  have hw : 2 ^ t.width = 2 * 2 ^ (t.width - 1) := by cases t <;> rfl
  have hsign : y < 2 ^ (t.width - 1) ↔ 2 * y < 2 ^ t.width := by omega
  simp only [rndTo, hsign]
  exact Prod.ext rfl (BitVec.zero_or ..)

end

/-! ## VCMP (R234) -/

/-- An integer condition compares the two values and sets no flag. -/
theorem laneCmp_int {t : ElemT} {u : VCond} {x y : Nat} (ht : t.isFlt = false) : laneCmp t u x y =
    (match u with
      | .eq => decide (t.intOf x = t.intOf y)
      | .ne => decide (t.intOf x ≠ t.intOf y)
      | .lt => decide (t.intOf x < t.intOf y)
      | .le => decide (t.intOf x ≤ t.intOf y)
      | .gt => decide (t.intOf y < t.intOf x)
      | .ge => decide (t.intOf y ≤ t.intOf x)
      | .un => false, 0) :=
  if_neg (by rw [ht]; exact Bool.false_ne_true)

section
variable {s : State} {c : CoreId} {j : Job} {tm : Tm} {d a : Opnd} {u : VCond} {t : ElemT}

/-- A comparison gives ones in each lane whose condition holds: D on the left, A on the right. -/
theorem exec_vcmp_go {i : Instr} (h : Issues s c .v j i) (hi : i = .vcmp tm d a u t) {f : Nat → Bool × Flags}
    (hf : ∀ k, laneCmp t u (lane t.width (srcRow j i 1) k) (lane t.width (srcRow j i 0) k) = f k) :
    exec i s = .next (vecDone s c j i 1 2 d (lanewise t j.v.mask fun k =>
      (if (f k).1 then 2 ^ t.width - 1 else 0, (f k).2))) := by
  obtain rfl := funext hf
  subst hi
  rw [exec_vcmp, execVcmp]
  exact vrun_eq h (g := fun cm x => lanewise t cm fun k =>
    let r := laneCmp t u (lane t.width (x 1) k) (lane t.width (x 0) k)
    (if r.1 then 2 ^ t.width - 1 else 0, r.2)) fun _ => rfl

end

end Sys2Proof.Machine

open Sys2Proof Sys2Proof.Machine

/-- Settles O23: each instruction by its frame, and its lanes by what its operation gives of one lane. -/
theorem vectorLogic : Obligations.VectorLogic := by
  intro s c j tm d a b t u
  refine ⟨?vand, ?vor, ?vxor, ?vnot, ?vpopc, ?vshl, ?vshr, ?vcmp_int, ?vcmp_flt, ?vsel, ?vsel_t2, ?vscl, ?vbitt, ?vrcp, ?vrsq,
    ?vexp⟩
  all_goals rintro i rfl h
  case vand => exact (exec_vand ..).trans (vbin_eq h fun _ => rfl)
  case vor => exact (exec_vor ..).trans (vbin_eq h fun _ => rfl)
  case vxor => exact (exec_vxor ..).trans (vbin_eq h fun _ => rfl)
  case vnot => exact (exec_vnot ..).trans (vun_eq h fun _ => rfl)
  case vpopc =>
    rw [exec_vpopc, execVpopc]
    exact vun_eq h fun _ => by rw [onesIn_eq_length, plain]
  case vshl => exact (exec_vshl ..).trans (vbin_eq h fun _ => rfl)
  case vshr => exact (exec_vshr ..).trans (vbin_eq h fun _ => congrArg plain laneShr_eq)
  case vcmp_int =>
    intro ht _
    exact (exec_vcmp_go h rfl fun _ => laneCmp_int ht).trans rfl
  case vcmp_flt =>
    intro _
    exact exec_vcmp_go h rfl fun _ => rfl
  case vsel =>
    intro ht
    exact (exec_vsel ..).trans (vtern_eq h fun _ => laneSel_of_ne ht)
  case vsel_t2 => exact (exec_vsel ..).trans (vtern_eq h fun _ => laneSel_t2)
  case vscl => exact (exec_vscl ..).trans (vbin_eq h fun _ => rndTo_scale)
  case vbitt =>
    exact (exec_vbitt ..).trans (vrun_eq h (g := fun cm x => lanewise t cm fun k =>
      plain (if (x 0).getLsbD (lane t.width (x 1) k) then 2 ^ t.width - 1 else 0)) fun _ => rfl)
  case vrcp => exact (exec_vrcp ..).trans (vun_eq h fun _ => rfl)
  case vrsq => exact (exec_vrsq ..).trans (vun_eq h fun _ => rfl)
  case vexp => exact (exec_vexp ..).trans (vun_eq h fun _ => rfl)
end

section
/-! SUPPORT. Reductions and scans of the integer types (R240): under a full mask the running value of a row is the fold of
one operation over its lanes. -/

namespace Sys2Proof.Machine

/-! ## Folds -/

/-- Sums that wrap at each step wrap to the same value as one sum that wraps at the end. -/
theorem foldl_add_mod (m : Nat) : ∀ (l : List Nat) (z : Nat),
    l.foldl (fun a b => (a + b) % m) (z % m) = l.foldl (· + ·) z % m
  | [], _ => rfl
  | x :: l, z => by
    rw [List.foldl_cons, List.foldl_cons, Nat.mod_add_mod, foldl_add_mod m l]

/-- An operation that yields one of its two operands, and never one above either, yields a least element of a list. -/
theorem foldl_least {le : Nat → Nat → Prop} {g : Nat → Nat → Nat} (hrefl : ∀ a, le a a)
    (htrans : ∀ a b c, le a b → le b c → le a c) (hl : ∀ a b, le (g a b) a) (hr : ∀ a b, le (g a b) b)
    (hg : ∀ a b, g a b = a ∨ g a b = b) : ∀ (l : List Nat) (z : Nat),
    (∀ x ∈ z :: l, le (l.foldl g z) x) ∧ l.foldl g z ∈ z :: l
  | [], z => by simp [hrefl]
  | y :: l, z => by
    obtain ⟨hle, hmem⟩ := foldl_least hrefl htrans hl hr hg l (g z y)
    have hpick : le (l.foldl g (g z y)) (g z y) := hle _ List.mem_cons_self
    rw [List.foldl_cons]
    constructor
    · intro x hx
      rcases List.mem_cons.1 hx with rfl | hx
      · exact htrans _ _ _ hpick (hl _ _)
      rcases List.mem_cons.1 hx with rfl | hx
      · exact htrans _ _ _ hpick (hr _ _)
      · exact hle x (List.mem_cons_of_mem _ hx)
    · rcases List.mem_cons.1 hmem with h | h
      · rw [h]
        rcases hg z y with e | e <;> simp [e]
      · simp [h]

/-! ## The operation of a reduction -/

/-- What a reduction of an integer type makes of its running value and a lane (R240). -/
def redStep (op : RedOp) (t : ElemT) (z x : Nat) : Nat :=
  match op with
  | .add => (z + x) % 2 ^ t.width
  | .min => if t.intOf z < t.intOf x then z else x
  | .max => if t.intOf z < t.intOf x then x else z
  | .and => z &&& x
  | .or => z ||| x
  | .xor => z ^^^ x

/-- A reduction by `min` yields a lane of the list that no lane is below. -/
theorem foldl_redStep_min (t : ElemT) (l : List Nat) (z : Nat) :
    (∀ x ∈ z :: l, t.intOf (l.foldl (redStep .min t) z) ≤ t.intOf x) ∧ l.foldl (redStep .min t) z ∈ z :: l :=
  foldl_least (le := fun a b => t.intOf a ≤ t.intOf b) (fun _ => le_rfl) (fun _ _ _ => le_trans) (by grind [redStep])
    (by grind [redStep]) (by grind [redStep]) l z

/-- A reduction by `max` yields a lane of the list that no lane is above. -/
theorem foldl_redStep_max (t : ElemT) (l : List Nat) (z : Nat) :
    (∀ x ∈ z :: l, t.intOf x ≤ t.intOf (l.foldl (redStep .max t) z)) ∧ l.foldl (redStep .max t) z ∈ z :: l :=
  foldl_least (le := fun a b => t.intOf b ≤ t.intOf a) (fun _ => le_rfl) (fun _ _ _ h g => le_trans g h)
    (by grind [redStep]) (by grind [redStep]) (by grind [redStep]) l z

section
variable {t : ElemT} (ht : t.isFlt = false)
include ht

theorem combine_int (op : RedOp) (r : VRnd) (k z x : Nat) : combine op t r k z x = (redStep op t z x, 0) := by
  cases op with
  | add => exact laneAdd_int ht
  | min => exact laneMin_int ht
  | max => exact laneMax_int ht
  | and | or | xor => rfl

/-- No integer reduction sets a flag. -/
theorem scanLanes_flags (op : RedOp) (r : VRnd) (cm : Mask) : ∀ (l : List (Nat × Nat)) (acc : Option Nat),
    (scanLanes op t r cm acc l).foldl (fun f x => f ||| x.2) 0 = 0
  | [], _ => rfl
  | (x, i) :: l, acc => by
    by_cases h : activeLane t.width cm i = true
    · cases acc <;> simpa [scanLanes, h, combine_int ht] using scanLanes_flags op r cm l _
    · simpa [scanLanes, h] using scanLanes_flags op r cm l _

/-- From a running value on, lanes that are all active are folded into it. -/
theorem scanLanes_last (op : RedOp) (r : VRnd) (cm : Mask) (e : Nat) : ∀ (l : List (Nat × Nat)) (z : Nat),
    (∀ p ∈ l, activeLane t.width cm p.2 = true) →
    ((scanLanes op t r cm (some z) l).map fun x => x.1.getD e).getLastD z = (l.map Prod.fst).foldl (redStep op t) z
  | [], _, _ => rfl
  | (x, i) :: l, z, h => by
    obtain ⟨hi, hl⟩ := List.forall_mem_cons.1 h
    rw [scanLanes, if_pos hi, List.map_cons, List.getLastD_cons]
    simp only [combine_int ht, Option.getD_some]
    exact scanLanes_last op r cm e l _ hl

end

/-! ## A row under a full mask -/

/-- Every lane of a row is active under a full mask (R228). -/
theorem activeLane_allOnes (t : ElemT) {k : Nat} (hk : k < t.count) :
    activeLane t.width (BitVec.allOnes 128) k = true := by
  have hw : t.width * k < t.width * t.count := Nat.mul_lt_mul_of_pos_left hk (by cases t <;> decide)
  rw [width_mul_count] at hw
  rw [activeLane, BitVec.getLsbD_allOnes]
  exact decide_eq_true (by omega)

/-- The reduction of a row is the fold of its operation from lane 0 on, whatever value stands for no lane at all. -/
theorem scanRow_last {t : ElemT} {j : Job} (r : Row) (ht : t.isFlt = false) (hm : j.v.mask = BitVec.allOnes 128) :
    ∃ x l, lanesOf t.width t.count r = x :: l ∧
      ∀ op, (scanRow op t j r).1.getLastD (redIdentity op t) = l.foldl (redStep op t) x := by
  obtain ⟨x, l, hl⟩ : ∃ x l, lanesOf t.width t.count r = x :: l :=
    List.exists_cons_of_ne_nil (by cases t <;> simp [lanesOf, ElemT.count, ElemT.width])
  refine ⟨x, l, hl, fun op => ?_⟩
  have hactive : ∀ p ∈ (x, 0) :: l.zipIdx 1, activeLane t.width j.v.mask p.2 = true := by
    intro p hp
    have hlt : p.2 < t.count := by
      have := List.snd_lt_of_mem_zipIdx (show p ∈ (lanesOf t.width t.count r).zipIdx by rw [hl]; exact hp)
      simpa [lanesOf] using this
    rw [hm]
    exact activeLane_allOnes t hlt
  obtain ⟨h0, hrest⟩ := List.forall_mem_cons.1 hactive
  rw [scanRow, hl, List.zipIdx_cons, scanLanes, if_pos h0]
  simp only [List.map_cons, List.getLastD_cons, Option.getD_some]
  rw [Nat.zero_add, scanLanes_last ht _ _ _ _ _ _ hrest, List.zipIdx_map_fst]

theorem latRed_eq (op : RedOp) (t : ElemT) : latRed op t = if t.isFlt = true ∧ op = .add then t.count + 2 else 4 := by
  simp only [latRed, Bool.and_eq_true, decide_eq_true_eq]

end Sys2Proof.Machine

open Sys2Proof Sys2Proof.Machine

/-- Settles O24: each instruction by its frame; an integer reduction as the fold of its operation over the lanes. -/
theorem vectorConversionsAndReductions : Obligations.VectorConversionsAndReductions := by
  refine ⟨fun s c j tm d a b t src rnd op => ⟨?vcvt, ?vqmx, ?vdqmx, ?vred, ?vscan⟩, fun t j r ht hm => ?lanes⟩
  case lanes =>
    obtain ⟨x, l, hl, hlast⟩ := scanRow_last r ht hm
    have hx : x < 2 ^ t.width := by
      obtain ⟨k, -, rfl⟩ := List.mem_map.1 (show x ∈ lanesOf t.width t.count r by rw [hl]; exact List.mem_cons_self)
      exact lane_lt _ _ _
    obtain ⟨hmin, hminMem⟩ := foldl_redStep_min t l x
    obtain ⟨hmax, hmaxMem⟩ := foldl_redStep_max t l x
    simp only [hlast, hl]
    refine ⟨?_, hmin, hminMem, hmax, hmaxMem, ?_, ?_, ?_, fun op => scanLanes_flags ht _ _ _ _ _⟩
    · rw [List.foldl_cons, Nat.zero_add, ← foldl_add_mod, Nat.mod_eq_of_lt hx]
      rfl
    · rw [List.foldl_cons, Nat.and_comm, Nat.and_two_pow_sub_one_of_lt_two_pow hx]
      rfl
    · rw [List.foldl_cons, Nat.zero_or]
      rfl
    · rw [List.foldl_cons, Nat.zero_xor]
      rfl
  all_goals rintro i rfl h
  case vcvt => exact (exec_vcvt ..).trans (vrun_go h ..)
  case vqmx =>
    refine (exec_vqmx ..).trans ((vrun_go h ..).trans ?_)
    rw [← sourced_v j .v (.vqmx tm d a b t)]
    rfl
  case vdqmx =>
    rw [exec_vdqmx, execVdqmx, issueJob_go h, sourced_reg, ← sourced_v j .v (.vdqmx tm d a b t)]
    rfl
  case vred =>
    rw [exec_vred, execVred, vrun_go h, latRed_eq]
    rfl
  case vscan =>
    rw [exec_vscan, execVscan, vrun_go h, latRed_eq]
    rfl
end

section
/-! SUPPORT. Permutes, index, bitmap and lane instructions of V (R242 to R244, R248 to R250, R254): a source row by its place,
and the bits of a row that a mask or a list of lanes names. -/

namespace Sys2Proof.Machine

/-! ## Bits of a row -/

/-- Bit `b` of lane `k` is a bit of the row. -/
theorem testBit_lane {w k b : Nat} {r : Row} (hb : b < w) : (lane w r k).testBit b = r.getLsbD (w * k + b) := by
  rw [lane, bitsAt_eq, Nat.testBit_mod_two_pow, Nat.testBit_div_two_pow, decide_eq_true hb, Bool.true_and, Nat.add_comm]
  rfl

/-- The row of a mask has ones in the bytes that the mask lets through. -/
theorem maskRow_getLsbD (m : Mask) {n : Nat} (hn : n < 1024) : (maskRow m).getLsbD n = m.getLsbD (n / 8) := by
  have hbit : n % 8 < 8 := Nat.mod_lt _ (by decide)
  have hlane : lane 8 (maskRow m) (n / 8) = if m.getLsbD (n / 8) then 255 else 0 := by
    rw [maskRow, lane_rowOfLanes (by simpa using (by omega : n / 8 < 128)) (by simp), List.getElem_map, List.getElem_range]
    split <;> rfl
  have hones : Nat.testBit 255 (n % 8) = true := by
    rw [show 255 = 2 ^ 8 - 1 from rfl, Nat.testBit_two_pow_sub_one, decide_eq_true hbit]
  rw [← Nat.div_add_mod n 8, ← testBit_lane hbit, hlane, Nat.div_add_mod]
  split
  · next h => rw [hones, h]
  · next h => rw [Nat.zero_testBit, Bool.eq_false_iff.2 h]

/-- A row into which bits were ORed, one for each entry of a list that has one, holds those bits and its own. -/
theorem foldl_or_bit (p : Nat → Bool) (f : Nat → Nat) {n : Nat} (hn : n < 1024) : ∀ (l : List Nat) (r : Row),
    (l.foldl (fun r k => if p k && decide (f k < 1024) then r ||| BitVec.ofNat 1024 (2 ^ f k) else r) r).getLsbD n = true ↔
      r.getLsbD n = true ∨ ∃ k ∈ l, p k = true ∧ f k = n
  | [], r => by simp
  | k :: l, r => by
    rw [List.foldl_cons, foldl_or_bit p f hn l]
    have hstep : (if p k && decide (f k < 1024) then r ||| BitVec.ofNat 1024 (2 ^ f k) else r).getLsbD n = true ↔
        r.getLsbD n = true ∨ p k = true ∧ f k = n := by
      split
      · next h =>
        have hp : p k = true := (Bool.and_eq_true_iff.1 h).1
        rw [BitVec.getLsbD_or, Bool.or_eq_true, BitVec.getLsbD_ofNat, Nat.testBit_two_pow, decide_eq_true hn, Bool.true_and,
          decide_eq_true_eq, and_iff_right hp]
      · next h =>
        have hoff : ¬ (p k = true ∧ f k = n) := fun ⟨hp, hk⟩ => h (by simp [hp, hk, hn])
        exact (or_iff_left hoff).symm
    simp only [hstep, List.mem_cons, exists_eq_or_imp, or_assoc]

/-- The bits of a bitmap that the active lanes of a row name (R249). -/
theorem namedBits_getLsbD (t : ElemT) (cm : Mask) (a : Row) {n : Nat} (hn : n < 1024) :
    (namedBits t cm a).getLsbD n = true ↔
      ∃ k, k < t.count ∧ activeLane t.width cm k = true ∧ lane t.width a k = n := by
  rw [namedBits, foldl_or_bit _ _ hn]
  simp

/-! ## Scalar sources and results -/

section
variable {s : State} {c : CoreId} {j : Job} {i : Instr} (h : Issues s c .v j i)
include h

theorem vfromScalar_eq {t : ElemT} {d : Opnd} {f : W32 → Nat → Nat × Flags} {g : Nat → Nat × Flags}
    (hf : ∀ k, f (srcV j i 0) k = g k) :
    vfromScalar i t d f s = .next (vecDone s c j i 1 2 d (lanewise t j.v.mask g)) := by
  rw [vfromScalar_go h, sourced_v, funext hf]

/-- A scalar result is what the function gives of the first source row, which the instruction has, and of D. -/
theorem vtoScalar_eq {lat : Nat} {d : Opnd} {f : Job → Row → W32 → W32} {x : W32}
    (hrow : (argAt (sourcesOf j .v i) 0).vec (j.sourced .v i).v = srcRow j i 0)
    (hf : f (j.sourced .v i) (srcRow j i 0) (srcV j i 1) = x) :
    vtoScalar i lat d f s = .next (s.setJob c (((j.sourced .v i).sout d lat x).done .v 1)) := by
  rw [vtoScalar_go h, hrow, hf]

end

end Sys2Proof.Machine

open Sys2Proof Sys2Proof.Machine

/-- Settles O25: each instruction by its frame; VBITS and VPOPM by the bits of their rows. That VBITS and VINS write the whole
row of the D that they read at issue is the model's choice (log 32). -/
theorem vectorPermutesAndLanes : Obligations.VectorPermutesAndLanes := by
  intro s c j tm d a b t
  refine ⟨?vperm, ?vrotm, ?vbcst, ?vidxw_int, ?vidxw_flt, ?vidxr, ?vbits, ?vpopm, ?vlane, ?vins⟩
  all_goals rintro i rfl h
  case vperm =>
    exact (exec_vperm ..).trans (vrun_eq h (g := fun cm x => lanewise t cm fun k =>
      plain (pairLane t.width t.count (x 0) (x 1) (lane t.width (x 2) k % (2 * t.count)))) fun _ => rfl)
  case vrotm =>
    exact (exec_vrotm ..).trans (vrun_eq h (g := fun cm x => lanewise .n8 cm fun k =>
      plain (pairLane 8 128 (x 0) (x 1) (lane 8 (x 2) 0 % 128 + k))) fun _ => rfl)
  case vbcst => exact (exec_vbcst ..).trans (vfromScalar_eq h fun _ => rfl)
  case vidxw_int =>
    intro ht
    exact (exec_vidxw ..).trans (vfromScalar_eq h fun _ => if_neg (by simp [ht]))
  case vidxw_flt =>
    intro ht
    exact (exec_vidxw ..).trans (vfromScalar_eq h fun _ => if_pos ht)
  case vidxr =>
    refine (exec_vidxr ..).trans (vtoScalar_eq h rfl ?_)
    rw [sourced_v]
    rfl
  case vbits =>
    refine ⟨srcRow j (.vbits tm d a t) 1 ||| namedBits t j.v.mask (srcRow j (.vbits tm d a t) 0), ?_, fun n hn => ?_⟩
    · exact (exec_vbits ..).trans (vrun_eq h (g := fun cm x => whole (x 1 ||| namedBits t cm (x 0)) 0) fun _ => rfl)
    · rw [BitVec.getLsbD_or, Bool.or_eq_true, namedBits_getLsbD t _ _ hn]
      rfl
  case vpopm =>
    refine (exec_vpopm ..).trans (vtoScalar_eq h rfl ?_)
    have hbit : ∀ n ∈ List.range 1024, (srcRow j (.vpopm tm d a) 0 &&& maskRow j.v.mask).toNat.testBit n =
        ((srcRow j (.vpopm tm d a) 0).getLsbD n && j.v.mask.getLsbD (n / 8)) := fun n hn => by
      rw [BitVec.testBit_toNat, BitVec.getLsbD_and, maskRow_getLsbD _ (List.mem_range.1 hn)]
    rw [sourced_v, onesIn_eq_length, List.filter_congr hbit]
  case vlane =>
    rintro k rfl
    exact (exec_vlane ..).trans (vtoScalar_eq h rfl rfl)
  case vins =>
    rw [exec_vins, execVins, issueJob_go h, sourced_reg]
    rfl
end

section
/-! SUPPORT. The mask stack, skipped regions, VMATCH and VMOV (R245, R246, R252, R255). -/

namespace Sys2Proof.Machine

/-! ## VMATCH (R252) -/

/-- The pattern is what precedes END, at most 31 lanes of it. -/
theorem take_patLen (e : Nat) (l : List Nat) : l.take (patLen e l) = (l.takeWhile fun x => decide (x ≠ e)).take 31 := by
  have hpre := List.prefix_iff_eq_take.1 (List.takeWhile_prefix (l := l) fun x => decide (x ≠ e))
  rw [hpre, List.take_take, Nat.min_comm]
  rfl

theorem toNat_mul_two_pow (b : Bool) (n : Nat) : b.toNat * 2 ^ n = if b then 2 ^ n else 0 := by cases b <;> simp

/-! ## VMOV (R255) -/

/-- The claim of a VMOV and the step of its walk leave V's own state as it was. -/
theorem claim_advanceWalk_v (j : Job) (l : List (Nat × Nat)) (w : Fin 8) (n : Nat) :
    ((j.claim .v l).advanceWalk w n).v = j.v := by
  rw [advanceWalk_eq]
  rfl

theorem claim_advanceWalk_stream (j : Job) (l : List (Nat × Nat)) (w : Fin 8) (n : Nat) (q : Fin 16) :
    ((j.claim .v l).advanceWalk w n).stream q = j.stream q := by
  rw [advanceWalk_eq]
  rfl

theorem pop_v (j : Job) (q : Fin 16) : (j.pop q).v = j.v := by rw [pop_eq]

section
variable {s : State} {c : CoreId} {j : Job} {tm : Tm} {d : Opnd} {w : Fin 8} {addr : Nat}
  (h : Issues s c .v j (.vmov tm d w)) (haddr : (wantAddrs (vmovWants s c j w)).map Prod.snd = [addr])
include h haddr

/-- A VMOV through a reading walk delivers the row of its address. -/
theorem exec_vmov_read (hw : j.walkWrites w = false) : exec (.vmov tm d w) s = .next (s.setJob c
    (((((j.claim .v (wantAddrs (vmovWants s c j w))).advanceWalk w 1).spendCredit (some w)).vout d 3
      (whole ((s.core c).timedRow addr) 0)).done .v 1)) := by
  rw [exec_vmov, execVmov, issue_go h, issuing_plain _ _ _ (by decide) (by decide)]
  simp only [hw, haddr, Bool.false_eq_true, if_false]
  rfl

/-- A VMOV through a writing walk reads its source from the job whose walk has advanced, and adds its store. -/
theorem exec_vmov_write (hw : j.walkWrites w = true) :
    let k := readField ((j.claim .v (wantAddrs (vmovWants s c j w))).advanceWalk w 1) ⟨0, d, .src true⟩
    exec (.vmov tm d w) s = .next (s.setJob c (Job.done { k.1 with v := { k.1.v with stores := k.1.v.stores ++
      [{ left := 1, pc := j.v.pc, walk := w, addr, mask := k.1.v.mask, row := k.2.vec k.1.v }] } } .v 1)) := by
  rw [exec_vmov, execVmov, issue_go h, issuing_plain _ _ _ (by decide) (by decide)]
  simp only [hw, haddr, if_true, fieldsOf]
  rfl

end

end Sys2Proof.Machine

open Sys2Proof Sys2Proof.Machine

/-- Settles O26: the mask instructions and VMATCH by what they make of V's own state; VMOV by the direction of its walk and, where
it writes, by what it takes its row from. -/
theorem masksMatchAndMoves : Obligations.MasksMatchAndMoves := by
  intro s c j tm d a b t n w addr
  refine ⟨?vmpush, ?vminv, ?vmpop, ?vskip, ?vmatch, ?vmov_read, ?vmov_write⟩
  case vmov_write =>
    rintro i r q (rfl | rfl) h hw haddr
    · refine ⟨_, exec_vmov_write h haddr hw, ?_⟩
      rw [if_pos rfl]
      simp only [readField, claim_advanceWalk_v]
      rfl
    · refine ⟨_, exec_vmov_write h haddr hw, ?_⟩
      rw [if_neg (by simp)]
      simp only [readField, claim_advanceWalk_stream, pop_v, claim_advanceWalk_v]
      rfl
  all_goals rintro i rfl h
  case vmpush =>
    rw [exec_vmpush, execVmpush, issueJob_go h, ← sourced_v j .v (.vmpush tm a t)]
    rfl
  case vminv =>
    intro top rest hm
    rw [exec_vminv, execVminv, issueJob_go h, sourced_v, hm]
    rfl
  case vmpop =>
    rw [exec_vmpop, execVmpop, issueJob_go h, ← sourced_v j .v (.vmpop tm)]
  case vskip =>
    rw [exec_vskip, execVskip, issueJob_go h, ← sourced_v j .v (.vskip tm n)]
    rfl
  case vmatch =>
    rw [exec_vmatch, execVmatch, issueJob_go h]
    dsimp only
    rw [take_patLen, bitsAt_eq, Nat.pow_zero, Nat.div_one, toNat_mul_two_pow, ← sourced_v j .v (.vmatch tm d a b t)]
    rfl
  case vmov_read => exact fun hw haddr => exec_vmov_read h haddr hw
end

section
/-! SUPPORT. What an M instruction that issues does to its job: reductions, retirements and fills (R265-R272), TACC, TSTAT and
TCHK (R268, R274, R275), and the words of the rows that a retirement writes (R269, R273). -/

namespace Sys2Proof.Machine

/-! ## Reductions (R265, R266) -/

section
variable {s : State} {c : CoreId} {j : Job} {i : Instr}

/-- Accumulator `n` under NEW, for a reduction that accumulates `need`. -/
def MEng.begunAcc (m : MEng) (n : Fin 8) (new : Bool) (need : AccKind) : Acc :=
  if new then Acc.zero need else { m.accAt n with kind := need }

/-- The job of a reduction that has issued, but for the rows that a TMMAS skips of WB. -/
def Job.reduces (j : Job) (s : State) (c : CoreId) (i : Instr) (n : Fin 8) (new : Bool) (need : AccKind) : Job :=
  Job.launchM { j.issuing .m i with
    m := ((j.issuing .m i).m.setAcc n (j.m.begunAcc n new need)).mark n true } i (mWindow s c (j.issuing .m i) i) [] 0 none

/-- CREDIT that a reduction spends for rows that it does not read: only a TMMAS skips rows of WB (R266). -/
def Job.spendSkipped (k : Job) (i : Instr) (spn : Nat) : Job :=
  match i with
  | .tmmas _ _ _ b _ _ => k.spendMany b (128 - spn)
  | _ => k

/-- A reduction launches its window and goes on. -/
theorem reduceIssue_go {n : Fin 8} {new : Bool} {need : AccKind} (h : Issues s c .m j i)
    (hneed : needKind (j.issuing .m i) i (mWindow s c (j.issuing .m i) i).wants = some need) :
    reduceIssue i n new s = .next (s.setJob c
      (((j.reduces s c i n new need).spendSkipped i j.m.spn).done .m (mWindow s c (j.issuing .m i) i).occ)) := by
  rw [reduceIssue, issue_go h]
  simp only [hneed, Option.getD_some]
  rfl

/-! ## Retirements (R269-R272, R432) -/

/-- The state after the check of a retirement has met a fault of the epilogue, if there is one (R432). -/
def State.epilogueSeen (s : State) (c : CoreId) : State :=
  if (s.core c).faulty inEpilogue then { s.setCore c ((s.core c).sound inEpilogue) with fresh := s.fresh + 1 } else s

/-- What a retirement of accumulator `n` raises at its end (R273, R431, R432). -/
def retireCause (s : State) (c : CoreId) (j : Job) (n : Fin 8) : Option Cause :=
  if ((j.m.accAt n).intact = false ∨ (s.core c).faulty inEpilogue = true) ∧ j.prof ≠ 2 then some .residue else none

/-- A retirement whose rows no unchecked fault replaces launches them, marks its accumulator as checked, and goes on. -/
theorem retireIssue_go {n : Fin 8} {out : Job → List Row × Flags} {after : MEng → MEng} (h : Issues s c .m j i)
    (hprof : (s.core c).faulty inEpilogue = true → j.prof ≠ 2) :
    let k := (j.issuing .m i).launchM i (mWindow s c (j.issuing .m i) i) (out (j.issuing .m i)).1 (out (j.issuing .m i)).2
      (retireCause s c j n)
    retireIssue i n out after s = .next ((s.epilogueSeen c).setJob c
      (Job.done { k with m := (after k.m).mark n false } .m (mWindow s c (j.issuing .m i) i).occ)) := by
  have hrows : ((s.core c).faulty inEpilogue && decide ((j.issuing .m i).prof = 2)) = false := by
    cases hf : (s.core c).faulty inEpilogue
    · rfl
    · exact decide_eq_false (hprof hf)
  have hbad : (if (j.issuing .m i).accFails n || ((s.core c).faulty inEpilogue && decide ((j.issuing .m i).prof ≠ 2)) then
      some Cause.residue else none) = retireCause s c j n := by
    refine if_congr ?_ rfl rfl
    show (!(j.m.accAt n).intact && decide (j.prof ≠ 2) || (s.core c).faulty inEpilogue && decide (j.prof ≠ 2)) = true ↔ _
    rw [← Bool.and_or_distrib_right, Bool.and_eq_true, Bool.or_eq_true, Bool.not_eq_true', decide_eq_true_eq]
  rw [retireIssue, issue_go h]
  simp only [hrows, hbad, Bool.false_eq_true, if_false]
  rfl

theorem fkind_eq (m : MEng) : m.fkind = if m.tcfg[0].toNat / 4 % 4 = 2 then .int else .flt := by
  simp only [MEng.fkind, bitsAt_eq, Nat.reducePow]

/-- TFILL gives its accumulator the kind of FKIND and a check state that starts afresh. -/
theorem exec_tfill_go {tm : Tm} {n w : Fin 8} (h : Issues s c .m j (.tfill tm n w)) :
    exec (.tfill tm n w) s = .next (s.setJob c
      ((Job.launchM { j.issuing .m (.tfill tm n w) with
        m := ((j.issuing .m (.tfill tm n w)).m.setAcc n
          { j.m.accAt n with kind := j.m.fkind, res := [], ck := [] }).mark n false }
        (.tfill tm n w) (mWindow s c (j.issuing .m (.tfill tm n w)) (.tfill tm n w)) [] 0 none).done .m
          (mWindow s c (j.issuing .m (.tfill tm n w)) (.tfill tm n w)).occ)) := by
  rw [exec_tfill, execTfill, issue_go h]
  rfl

end

/-! ## Rows and checksum words (R269, R273) -/

theorem spillRows_length (a : Acc) : (spillRows a).length = 128 := by
  rw [spillRows, List.length_map, List.length_range]

/-- Row `r` of a TSPILL holds elements 32r to 32r + 31. -/
theorem lane_spillRows (a : Acc) {r k : Nat} (hr : r < 128) (hk : k < 32) :
    lane 32 ((spillRows a).getD r 0) k = (a.el (32 * r + k)).toNat := by
  have hrow : (spillRows a).getD r 0 = rowOfLanes 32 ((List.range 32).map fun k => (a.el (32 * r + k)).toNat) := by
    simp [spillRows, hr]
  rw [hrow, lane_rowOfLanes (by simpa using hk) (by simp), List.getElem_map, List.getElem_range,
    Nat.mod_eq_of_lt (BitVec.isLt _)]

/-- CSW is the sum of the row's words modulo 2^32 - 1. -/
theorem cswOf_toNat (r : Row) : (cswOf r).toNat =
    ((List.range 32).map fun n => r.toNat / 2 ^ (32 * n) % 2 ^ 32).sum % (2 ^ 32 - 1) := by
  have hwords : lanesOf 32 32 r = (List.range 32).map fun n => r.toNat / 2 ^ (32 * n) % 2 ^ 32 :=
    List.map_congr_left fun n _ => bitsAt_eq ..
  have hlt (x : Nat) : x % 4294967295 < 2 ^ 32 := (Nat.mod_lt x (by decide)).trans (by decide)
  rw [cswOf, hwords, ← List.sum_eq_foldl, BitVec.toNat_ofNat, Nat.mod_eq_of_lt (hlt _),
    show 2 ^ 32 - 1 = 4294967295 from rfl]

/-! ## TACC (R268) -/

/-- The kind of the sum of two accumulators. -/
def sumKind (x y : Acc) : AccKind := if x.kind = .none then y.kind else x.kind

/-- The sum of two accumulators, element by element, with its residues and checksums. -/
def taccSum (x y : Acc) : Acc :=
  taccChecks x y { x with kind := sumKind x y, e := Vector.ofFn fun n =>
    (((List.range 4096).map fun p => taccStep (decide (sumKind x y = .int)) (x.el p) (y.el p)).toArray.getD n.val (0, 0)).1 }

theorem taccSum_kind (x y : Acc) : (taccSum x y).kind = sumKind x y := rfl

theorem taccSum_el (x y : Acc) {p : Nat} (hp : p < 4096) :
    (taccSum x y).el p = (taccStep (decide (sumKind x y = .int)) (x.el p) (y.el p)).1 := by
  rw [el_of_lt _ hp, taccSum, taccChecks, Vector.getElem_ofFn]
  simp [hp]

/-- On integers a step is the sum modulo 2^32. -/
theorem taccStep_int (x y : W32) : (taccStep true x y).1 = x + y := by
  rw [taccStep, if_pos rfl, accumI, BitVec.ofInt_add, BitVec.ofInt_toInt, BitVec.ofInt_toInt]

section
variable {s : State} {c : CoreId} {j : Job}

/-- TACC leaves the sum in its accumulator, which joins UNCHK, and keeps the others. -/
theorem exec_tacc_go {tm : Tm} {n q : Fin 8} (h : Issues s c .m j (.tacc tm n q)) :
    ∃ k : Job, exec (.tacc tm n q) s = .next (s.setJob c (k.done .m 64)) ∧
      k.m.accAt n = taccSum (j.m.accAt n) (j.m.accAt q) ∧ (∀ r, r ≠ n → k.m.accAt r = j.m.accAt r) ∧
      k.m.unchk.getLsbD n.val = true := by
  refine ⟨_, by rw [exec_tacc, execTacc, issue_go h]; rfl, ?_, fun r hr => ?_, ?_⟩
  all_goals rw [launchM_eq]
  · exact accAt_setAcc _ _ _
  · exact accAt_setAcc_ne _ _ _ _ hr
  · exact (unchk_mark _ n n true).trans (if_pos rfl)

/-! ## TSTAT (R274) -/

theorem depthBefore_of (h : s.job c = some j) : s.depthBefore c = (j.m.depth, j.m.depthMax) := by
  rw [State.depthBefore, h]

/-- TSTAT delivers its item two takes later; RSVW is as it was unless the item is 1. -/
theorem exec_tstat_go {tm : Tm} {d : Opnd} {f : Fin 4} (h : Issues s c .m j (.tstat tm d f)) :
    let k := (j.issuing .m (.tstat tm d f)).moutAt d 2 (tstatItem j.m j.m.depth f)
    exec (.tstat tm d f) s = .next (s.setJob c
      (Job.done { k with m := { k.m with rsvw := k.m.rsvw && decide (f ≠ 1) } } .m 1)) := by
  rw [exec_tstat, execTstat, issue_go h, depthBefore_of h.job]
  rfl

/-- The items other than 1 change nothing of M. -/
theorem exec_tstat_keeps {tm : Tm} {d : Opnd} {f : Fin 4} {x : W32} (hf : f ≠ 1) (hx : tstatItem j.m j.m.depth f = x)
    (h : Issues s c .m j (.tstat tm d f)) :
    exec (.tstat tm d f) s = .next (s.setJob c (((j.issuing .m (.tstat tm d f)).moutAt d 2 x).done .m 1)) := by
  rw [exec_tstat_go h, decide_eq_true hf, Bool.and_true, hx]

/-! ## TCHK (R275) -/

/-- The argument of TCHK. -/
def tchkArg (j : Job) (i : Instr) : W32 := (argAt (sourcesOf j .m i) 0).scalar 32 (j.reg .m)

/-- The occupancy of TCHK by its test. -/
def tchkOcc (f : Fin 8) : Nat := if f = 0 then 64 else if f = 1 ∨ f = 2 then 4 else 1

/-- A test sees of the job its accumulators, its configuration and its seed, which reading the argument leaves alone. -/
theorem tchkResult_sourced (j : Job) (e : Eng) (i : Instr) (deepest n : Nat) (f : Fin 8) (x : W32) :
    tchkResult (j.sourced e i) deepest n f x = tchkResult j deepest n f x := by
  rw [sourced_eq, issuing_eq]
  rfl

/-- TCHK delivers what its test finds, OCC + 2 takes later. -/
theorem exec_tchk_go {tm : Tm} {d a : Opnd} {f : Fin 8} {occ : Nat} {y : W32} (hocc : tchkOcc f = occ)
    (hy : tchkResult j j.m.depthMax s.fresh f (tchkArg j (.tchk tm d a f)) = y) (h : Issues s c .m j (.tchk tm d a f)) :
    exec (.tchk tm d a f) s = .next (State.setJob { s with fresh := s.fresh + 1 } c
      (((j.sourced .m (.tchk tm d a f)).moutAt d (occ + 2) y).done .m occ)) := by
  rw [← hy, ← hocc, ← tchkResult_sourced j .m (.tchk tm d a f), exec_tchk, execTchk, issue_go h, depthBefore_of h.job]
  simp only [readFields_issuing, issuing_reg]
  rfl

/-- The tests of the array and of its checkers answer within the results that the rule lists (log 82). -/
theorem tchkResult_free (deepest n : Nat) {f : Fin 8} (hf : f.val < 3) (x : W32) :
    ∃ y, tchkResult j deepest n f x = BitVec.ofNat 32 y ∧ (f = 0 → tchkOcc f = 64 ∧ y ≤ 4096) ∧
      (f ≠ 0 → tchkOcc f = 4 ∧ y ≤ 1) := by
  have hbit (t : Nat) : Config.checkResult t n % 2 ≤ 1 := Nat.le_of_lt_succ (Nat.mod_lt _ (by decide))
  obtain rfl | rfl | rfl : f = 0 ∨ f = 1 ∨ f = 2 := by omega
  · exact ⟨_, rfl, fun _ => ⟨rfl, Nat.le_of_lt_succ (Nat.mod_lt _ (by decide))⟩, fun h => absurd rfl h⟩
  · exact ⟨_, rfl, nofun, fun _ => ⟨rfl, hbit 1⟩⟩
  · exact ⟨_, rfl, nofun, fun _ => ⟨rfl, hbit 2⟩⟩

/-- The element that an argument names. -/
theorem bitsAt_element {x : Nat} (hx : x < 32768) : bitsAt x 12 3 % 8 = x / 4096 % 8 ∧ bitsAt x 12 3 % 8 = x / 4096 ∧
    bitsAt x 0 12 = x % 4096 := by
  simp only [bitsAt_eq]
  omega

/-- PEEK delivers the element that its argument names. -/
theorem tchkResult_peek (deepest n : Nat) {x : W32} (hx : x.toNat < 32768) : tchkResult j deepest n 3 x =
    (j.m.accAt ⟨x.toNat / 4096 % 8, Nat.mod_lt _ (by decide)⟩).el (x.toNat % 4096) := by
  obtain ⟨hacc, -, hel⟩ := bitsAt_element hx
  simp only [tchkResult, hacc, hel]

/-- SEEDBITS delivers the bits of the TRET key of its element (R175). -/
theorem tchkResult_seed (deepest n : Nat) {x : W32} (hx : x.toNat < 32768) : tchkResult j deepest n 7 x =
    BitVec.ofNat 32 (gen j.rseed j.nodeid (j.m.retcnt.setWidth 16) (BitVec.ofNat 16 (0x8000 + x.toNat / 4096))
      (x.toNat % 4096)) := by
  obtain ⟨-, hacc, hel⟩ := bitsAt_element hx
  simp only [tchkResult, tretBits, hacc, hel]

/-- PRODBF and PRODH deliver the product of the two halves of the argument, rounded (R183). -/
theorem tchkResult_prod (deepest n : Nat) {f : Fin 8} {t : ElemT} (hf : f = 4 ∧ t = .bf ∨ f = 5 ∧ t = .h) (x : W32) :
    tchkResult j deepest n f x = BitVec.ofNat 32 (fp32.round .rne 0 (prodOf t (2 * (j.m.tcfg[0].toNat % 4))
      (t.fmt.value (x.toNat / 65536)) (t.fmt.value (x.toNat % 65536))).1).1 := by
  have hk : approxK j.m.tcfg[0] = 2 * (j.m.tcfg[0].toNat % 4) := by
    simp only [approxK, bitsAt_eq, Nat.reducePow, Nat.div_one]
  have hhi : bitsAt x.toNat 16 16 = x.toNat / 65536 := by
    rw [bitsAt_eq]; exact Nat.mod_eq_of_lt (by have := x.isLt; omega)
  have hlo : bitsAt x.toNat 0 16 = x.toNat % 65536 := by
    simp only [bitsAt_eq, Nat.reducePow, Nat.div_one]
  rcases hf with ⟨rfl, rfl⟩ | ⟨rfl, rfl⟩ <;> simp only [tchkResult, hk, hhi, hlo]

theorem sourcesOf_tchk (j : Job) (tm : Tm) (d a : Opnd) (f : Fin 8) :
    (readFields j (fieldsOf j (.tchk tm d a f))).2 = sourcesOf j .m (.tchk tm d a f) :=
  readFields_snd_congr _ (issuing_streams j .m (.tchk tm d a f)).symm

/-- An argument of PEEK or SEEDBITS beyond the elements is found at issue, whether or not the job is held (R260). -/
theorem valueFault_tchk {tm : Tm} {d a : Opnd} {f : Fin 8} (hf : f = 3 ∨ f = 7)
    (hx : 32768 ≤ (tchkArg j (.tchk tm d a f)).toNat) : valueFault j (.tchk tm d a f) = some (.illegalOperand, 0x106) := by
  simp only [valueFault, sourcesOf_tchk, whenTrap]
  refine if_pos ?_
  rw [decide_eq_true hf, Bool.true_and]
  exact decide_eq_true (Nat.div_pos hx (by decide)).ne'

end

end Sys2Proof.Machine
end

section

open Sys2Proof Sys2Proof.Machine

/-- Settles O28: each reduction by their one frame, in which only TMMAS spends for rows that it skips. -/
theorem reductionsIssue : Obligations.ReductionsIssue := by
  rintro s c j tm n a b w new need win ready started
  refine ⟨?_, ?_⟩
  · rintro _ (rfl | rfl | rfl) ⟨h, hneed⟩
    · rw [exec_tmma, execTmma, reduceIssue_go h hneed]; rfl
    · rw [exec_tmmax, execTmmax, reduceIssue_go h hneed]; rfl
    · rw [exec_tmmat, execTmmat, reduceIssue_go h hneed]; rfl
  · rintro _ rfl ⟨h, hneed⟩
    rw [exec_tmmas, execTmmas, reduceIssue_go h hneed]; rfl

/-- Settles O30: the retirements by their one frame, TFILL by its own, and each row by its lanes. -/
theorem retirements : Obligations.Retirements := by
  refine ⟨?_, fun a r i k hi hk => ⟨spillRows_length a, ?_, cswOf_toNat r⟩⟩
  · intro s c j tm n w keep j0 win hit bad t out retire
    refine ⟨?_, ?_, ?_, ?_⟩
    · rintro _ rfl h hprof
      rw [exec_tret, execTret, retireIssue_go h hprof]; rfl
    · rintro _ rfl h hprof
      rw [exec_tretq, execTretq, retireIssue_go h hprof]; rfl
    · rintro _ rfl h hprof
      rw [exec_tspill, execTspill, retireIssue_go h hprof]; rfl
    · rintro _ rfl h
      rw [exec_tfill_go h, fkind_eq]
  · rw [lane_spillRows a hi hk, show 32 * i = 64 * (i / 2) + 32 * (i % 2) by omega]

/-- Settles O31: TACC by its sum, TSTAT by its item, and TCHK by what its test finds or by the fault of its argument. -/
theorem matrixMovesAndStatus : Obligations.MatrixMovesAndStatus := by
  intro s c j tm n q d a used
  refine ⟨?tacc, ?kinds, ?count, ?csw, ?shape, ?free, ?peek, ?beyond, ?prod, ?seed, ?deepest⟩
  case tacc =>
    rintro _ rfl h kind
    obtain ⟨k, hexec, hacc, hothers, hunchk⟩ := exec_tacc_go h
    refine ⟨k, hexec, by rw [hacc]; rfl, fun hk p hp => ?_, fun hk p hp => ?_, hothers, hunchk⟩
    · have hint : sumKind (j.m.accAt n) (j.m.accAt q) = .int := hk
      rw [hacc, taccSum_el _ _ hp, decide_eq_true hint, taccStep_int]
    · have hflt : sumKind (j.m.accAt n) (j.m.accAt q) ≠ .int := fun hint => nomatch hk.symm.trans hint
      rw [hacc, taccSum_el _ _ hp, decide_eq_false hflt]
      rfl
  case kinds =>
    rintro _ rfl h
    exact exec_tstat_keeps (by decide) rfl h
  case count =>
    rintro _ rfl h
    exact exec_tstat_keeps (by decide) rfl h
  case csw =>
    rintro _ rfl h
    exact exec_tstat_keeps (by decide) rfl h
  case shape =>
    rintro _ rfl h _ rfl
    rw [exec_tstat_go h, decide_eq_false (by simp), Bool.and_false, tstatItem]
    cases j.m.rsvw <;> simp
  case free =>
    rintro _ f rfl hf h
    obtain ⟨y, hy, hzero, hpos⟩ := tchkResult_free (j := j) j.m.depthMax s.fresh hf (tchkArg j (.tchk tm d a f))
    exact ⟨tchkOcc f, y, exec_tchk_go rfl hy h, hzero, hpos⟩
  case peek =>
    rintro _ rfl h _ rfl hx
    exact exec_tchk_go rfl (tchkResult_peek _ _ hx) h
  case beyond =>
    rintro _ (rfl | rfl) ht hp hr hx
    · rw [exec_tchk, execTchk, issue_valueFault ht hp hr (valueFault_tchk (.inl rfl) hx)]
    · rw [exec_tchk, execTchk, issue_valueFault ht hp hr (valueFault_tchk (.inr rfl) hx)]
  case prod =>
    rintro _ ty (⟨rfl, rfl⟩ | ⟨rfl, rfl⟩) h _ rfl
    · exact exec_tchk_go rfl (tchkResult_prod _ _ (.inl ⟨rfl, rfl⟩) _) h
    · exact exec_tchk_go rfl (tchkResult_prod _ _ (.inr ⟨rfl, rfl⟩) _) h
  case seed =>
    rintro _ rfl h _ rfl hx
    exact exec_tchk_go rfl (tchkResult_seed _ _ hx) h
  case deepest =>
    rintro _ rfl h
    exact exec_tchk_go rfl rfl h
end

section
/-! SUPPORT. The continuity core (R285 to R290): when a compared command meets its comparison, what a cycle of a third run
does, and what a third run that has come to its end leaves. -/

namespace Sys2Proof.Machine

section
variable {s : State} {c : CoreId} {j : Job}

/-! ## The comparison of a command (R287) -/

/-- Equal copies agree on every command. -/
theorem agrees_of_chk_eq (h : j.c.chk = j.c.arch) (i : Instr) : j.agrees i = true := by
  simp only [Job.agrees, h, decide_true, Bool.and_self]

/-- A comparison that has agreed marks the command, and puts C's turn next. -/
theorem agreed_of_cmp {x : Compared} (h : j.c.cmp = some x) : s.agreed c j =
    { s.setJob c { j with c := { j.c with cmp := some { x with agreed := true }, acted := false } } with
      agenda := .eng c .c :: s.agenda } := by
  simp only [State.agreed, h]

theorem agenda_agreed {x : Compared} (h : j.c.cmp = some x) : (s.agreed c j).agenda = .eng c .c :: s.agenda := by
  rw [agreed_of_cmp h]

/-- Agreement touches the job in its command alone, and in whether C has had its turn. -/
theorem job_agreed : (s.agreed c j).job c = some { j with c := { j.c with
    cmp := j.c.cmp.map fun x => { x with agreed := true }, acted := j.c.cmp.isNone && j.c.acted } } := by
  cases hcmp : j.c.cmp with
  | none =>
    simp only [State.agreed, hcmp, job_setJob, Option.map_none, Option.isNone_none, Bool.true_and]
    rw [← hcmp]
  | some x =>
    rw [agreed_of_cmp hcmp]
    exact job_setJob s c _

theorem card_agreed (k : CluId) (n : SlotId) : (s.agreed c j).card k n = s.card k n := by
  unfold State.agreed
  split <;> rfl

/-- Before its 8 cycles are over, or while the checker has steps to make, a compared command waits. -/
theorem exec_comparedCommandIssue_early {x : Compared} (hjob : s.job c = some j) (hcmp : j.c.cmp = some x)
    (h : j.cyc < x.reach + 8 ∨ j.c.trail ≠ []) : exec (.comparedCommandIssue c) s = .next s := by
  rw [exec_comparedCommandIssue, execComparedCommandIssue]
  simp only [hjob, hcmp]
  refine if_pos ?_
  obtain hcyc | htrail := h
  · exact .inr (.inr (.inr (.inl hcyc)))
  · exact .inr (.inr (.inl (by simpa using htrail)))

/-- The comparison of a command whose checker has come to it and whose values are there. -/
theorem exec_comparedCommandIssue_due {x : Compared} {i : Instr} (hjob : s.job c = some j) (hlive : s.live j.ctx = true)
    (hcmp : j.c.cmp = some x) (hagreed : x.agreed = false) (hthird : j.c.third = none) (htrail : j.c.trail = [])
    (hcyc : x.reach + 8 ≤ j.cyc) (hinstr : s.instrAt c j j.c.arch.pc = some i) (hready : unready s c j i = none) :
    exec (.comparedCommandIssue c) s = .next (if j.agrees i then s.agreed c j else s.setJob c j.diverge) := by
  rw [exec_comparedCommandIssue, execComparedCommandIssue]
  simp only [hjob, hcmp]
  rw [if_neg (by simp [hagreed, hthird, htrail, hlive, hcyc])]
  simp only [hinstr, hready, Option.isSome_none, Bool.false_eq_true, if_false]
  split <;> rfl

end

/-! ## A cycle of a third run (R288) -/

section
variable {t : ThirdRun} {fetch : VAddr → Option Instr} {fields : Instr → List Field}

theorem tick_of_third {x : CEng} (h : x.third = some t) (cyc : Nat) :
    (x.tick fetch fields cyc).third = some (t.tick fetch fields) := by
  simp only [CEng.tick, h]

/-- The restore takes a cycle, in which no instruction of the span is made. -/
theorem thirdRun_tick_restore (hwait : t.wait ≠ 0) (h : ∀ st l, t.todo = st :: l → st.tail = false) :
    t.tick fetch fields = { t with wait := t.wait - 1 } := by
  obtain ⟨n, hn⟩ := Nat.exists_eq_succ_of_ne_zero hwait
  cases htodo : t.todo with
  | nil => simp only [ThirdRun.tick, hn, htodo, Nat.succ_eq_add_one, Nat.add_sub_cancel]
  | cons st l => simp [ThirdRun.tick, hn, htodo, h st l htodo]

/-- The next step of the span is made once the restore is over, and during it where it ends a command that issued before. -/
theorem thirdRun_tick_step {st : CStep} {l : List CStep} (htodo : t.todo = st :: l) (h : t.wait = 0 ∨ st.tail = true) :
    t.tick fetch fields = { t with
      wait := t.wait - 1, todo := l, arch := (CArch.follow fetch fields st (t.arch, t.ins)).1,
      ins := (CArch.follow fetch fields st (t.arch, t.ins)).2 } := by
  cases hwait : t.wait with
  | zero => simp only [ThirdRun.tick, hwait, htodo, Nat.zero_sub]
  | succ n =>
    have htail : st.tail = true := h.resolve_left (by rw [hwait]; exact n.succ_ne_zero)
    simp only [ThirdRun.tick, hwait, htodo, htail, if_true, Nat.add_sub_cancel]

end

/-! ## Three copies that agree again (R288) -/

section
variable {s : State} {c : CoreId} {j : Job}

/-- Values that go back to their streams change nothing but the streams. -/
theorem unpop_eq (l : List CIn) : j.unpop l = { j with streams := (j.unpop l).streams } := by
  induction l with
  | nil => rfl
  | cons x xs ih =>
    rw [Job.unpop]
    cases x.from_ with
    | none => exact ih
    | some q => dsimp only; rw [ih]; rfl

/-! What a resynchronisation leaves: the other engines, and the command that waits. -/

@[simp] theorem resync_a (x : CArch) (l : List CIn) : (j.resync x l).a = j.a := by rw [Job.resync, unpop_eq]; rfl
@[simp] theorem resync_v (x : CArch) (l : List CIn) : (j.resync x l).v = j.v := by rw [Job.resync, unpop_eq]; rfl
@[simp] theorem resync_m (x : CArch) (l : List CIn) : (j.resync x l).m = j.m := by rw [Job.resync, unpop_eq]; rfl
@[simp] theorem resync_cmp (x : CArch) (l : List CIn) : (j.resync x l).c.cmp = j.c.cmp := by rw [Job.resync, unpop_eq]; rfl

/-! ## The count of masked faults (R288) -/

@[simp] theorem countMasked_cores : (s.countMasked j).cores = s.cores := by
  unfold State.countMasked
  split <;> rfl

@[simp] theorem countMasked_agenda : (s.countMasked j).agenda = s.agenda := by
  unfold State.countMasked
  split <;> rfl

theorem card_countMasked {x : Card} (h : s.card j.cluster j.slot = some x) :
    (s.countMasked j).card j.cluster j.slot = some { x with faults := x.faults + 1 } := by
  simp only [State.countMasked, h, card_setCard]

/-! ## The end of a third run (R288, R290) -/

section
variable {t : ThirdRun} (hjob : s.job c = some j) (hthird : j.c.third = some t)
include hjob hthird

theorem exec_thirdRunEnd_running (h : t.over = false) : exec (.thirdRunEnd c) s = .next s := by
  rw [exec_thirdRunEnd, execThirdRunEnd]
  simp only [hjob, hthird]
  exact if_pos (.inl (by rw [h]; rfl))

variable (hlive : s.live j.ctx = true) (hover : t.over = true)
include hlive hover

/-- A third run that agrees with a copy is masked and counted; one of a command lets it issue. -/
theorem exec_thirdRunEnd_resolved (h : j.c.resolved t = true) : exec (.thirdRunEnd c) s = .next
    (if t.command then (s.countMasked j).agreed c (j.masked s c t) else (s.countMasked j).setJob c (j.masked s c t)) := by
  rw [exec_thirdRunEnd, execThirdRunEnd]
  simp only [hjob, hthird]
  rw [if_neg (by simp [hover, hlive]), if_pos h]

/-- Three different states quarantine the core and raise the trap, which the cycle's end resolves. -/
theorem exec_thirdRunEnd_unresolved (h : j.c.resolved t = false) : exec (.thirdRunEnd c) s = .next (State.resolveTraps
    ((s.quarantine c).setJob c (({ j with c := { j.c with third := none } }).raise .c .divergenceUnresolved
      (j.c.arch.pc.setWidth 32))) c) := by
  rw [exec_thirdRunEnd, execThirdRunEnd]
  simp only [hjob, hthird]
  rw [if_neg (by simp [hover, hlive]), if_neg (by simp [h])]

/-- A third run of a command gives its state to the copies, and what it has not taken back to the streams. -/
theorem exec_thirdRunEnd_command (hcommand : t.command = true) (h : t.arch = j.c.arch ∨ t.arch = j.c.chk) :
    exec (.thirdRunEnd c) s = .next ((s.countMasked j).agreed c (j.resync t.arch t.ins)) := by
  have hres : j.c.resolved t = true := by simpa [CEng.resolved, CEng.primary, hcommand] using h
  rw [exec_thirdRunEnd_resolved hjob hthird hlive hover hres, if_pos hcommand, Job.masked, if_pos hcommand]

/-- A third run of a digest leaves a primary that it agrees with as it stands; the checker takes up the values since (log 56). -/
theorem exec_thirdRunEnd_digest_primary (hcommand : t.command = false) (h : t.arch = j.c.primary t) :
    exec (.thirdRunEnd c) s = .next ((s.countMasked j).setJob c { j with c := { j.c with
      chk := t.arch, chkIn := j.c.later, digest := none, third := none } }) := by
  have hres : j.c.resolved t = true := by simp [CEng.resolved, h]
  have hnot := Bool.eq_false_iff.mp hcommand
  rw [exec_thirdRunEnd_resolved hjob hthird hlive hover hres, if_neg hnot, Job.masked, if_neg hnot, if_pos h]

/-- A third run of a digest that agrees with the checker alone makes the primary's steps since the digest again (log 56). -/
theorem exec_thirdRunEnd_digest_checker (hcommand : t.command = false) (hne : t.arch ≠ j.c.primary t) (h : t.arch = j.c.chk) :
    let y := j.c.trail.foldl (fun x st => CArch.follow (s.instrAt c j) (fieldsOf j) st x) (t.arch, j.c.later)
    exec (.thirdRunEnd c) s = .next ((s.countMasked j).setJob c (j.resync y.1 (t.ins ++ y.2))) := by
  have hres : j.c.resolved t = true := by simp [CEng.resolved, h]
  have hnot := Bool.eq_false_iff.mp hcommand
  rw [exec_thirdRunEnd_resolved hjob hthird hlive hover hres, if_neg hnot, Job.masked, if_neg hnot, if_neg hne]

end

end

end Sys2Proof.Machine
end

section

open Sys2Proof Sys2Proof.Machine

/-- Settles O39: the comparison by its two conditions, a third run by its cycle, and its end by the copy that it agrees with. -/
theorem comparison : Obligations.Comparison := by
  intro s c j hjob hlive
  refine ⟨?due, fun x hcmp h => exec_comparedCommandIssue_early hjob hcmp h, fun i h => agrees_of_chk_eq h i,
    fun tr hthird => ⟨exec_thirdRunEnd_running hjob hthird, ?tick, ?command, ?primary, ?checker, ?unresolved⟩⟩
  case due =>
    intro x i hcmp hagreed hthird htrail hcyc hinstr hready
    have hexec := exec_comparedCommandIssue_due hjob hlive hcmp hagreed hthird htrail hcyc hinstr hready
    refine ⟨fun h => ?_, fun h => ⟨j.diverge, _, ?_, rfl, rfl, rfl, rfl, rfl, rfl, rfl, rfl, rfl, rfl⟩⟩
    · rw [hexec, if_pos h, agreed_of_cmp hcmp]
    · rw [hexec, if_neg (by simp [h])]
  case tick =>
    intro fetch fields cyc
    refine ⟨fun hwait h => ?_, fun st l htodo h => ⟨_, tick_of_third hthird cyc, ?_⟩⟩
    · rw [tick_of_third hthird, thirdRun_tick_restore hwait h]
    · rw [thirdRun_tick_step htodo h]
      exact ⟨rfl, rfl, rfl⟩
  case command =>
    intro hover hcommand h
    have hexec := exec_thirdRunEnd_command hjob hthird hlive hover hcommand h
    refine ⟨_, _, hexec, job_agreed, rfl, rfl, rfl, rfl, rfl, resync_a tr.arch tr.ins,
      resync_v tr.arch tr.ins, resync_m tr.arch tr.ins, fun x hx => ⟨?_, ?_⟩, fun x hx => ?_⟩
    · rw [resync_cmp, hx]; rfl
    · rw [agenda_agreed ((resync_cmp _ _).trans hx), countMasked_agenda]
    · rw [card_agreed, card_countMasked hx]
  case primary =>
    intro hover hcommand h
    exact ⟨s.countMasked j, exec_thirdRunEnd_digest_primary hjob hthird hlive hover hcommand h, countMasked_cores,
      fun x hx => card_countMasked hx⟩
  case checker =>
    intro hover hcommand hne h y
    exact ⟨_, _, exec_thirdRunEnd_digest_checker hjob hthird hlive hover hcommand hne h, job_setJob _ _ _, rfl, rfl, rfl,
      resync_a _ _, resync_v _ _, resync_m _ _⟩
  case unresolved =>
    intro hover h
    refine ⟨_, _, exec_thirdRunEnd_unresolved hjob hthird hlive hover h, ?_, job_setJob _ _ _, rfl, rfl, rfl, rfl, rfl⟩
    rw [core_setJob, State.quarantine, core_setCore]
end

section
/-! SUPPORT. Rules of an interrupt (R386), of a drawn block (R354), and of the host's accesses and snoops (R367, R418). -/

namespace Sys2Proof.Machine

/-! ## What an interrupt leaves -/

section
variable (s : State) (fn : Option (Fin 384)) (v : Nat)

@[simp] theorem irq_mem : (s.irq fn v).mem = s.mem := by simp only [State.irq]; split <;> rfl
@[simp] theorem irq_lines : (s.irq fn v).lines = s.lines := by simp only [State.irq]; split <;> rfl
@[simp] theorem irq_pf0err : (s.irq fn v).pf0err = s.pf0err := by simp only [State.irq]; split <;> rfl

/-- What an interrupt sends rests on its vector's entry and its function's enable alone. -/
theorem irq_outbox_congr {s t : State} (hm : t.msix = s.msix) (hc : t.msixCtl = s.msixCtl) (ho : t.outbox = s.outbox) :
    (t.irq fn v).outbox = (s.irq fn v).outbox := by
  have he : t.msixOf fn v = s.msixOf fn v := by rw [State.msixOf, hm, State.msixOf]
  have hon : t.msixOn fn = s.msixOn fn := by rw [State.msixOn, hc, State.msixOn]
  simp only [State.irq, he, hon]
  split
  · exact ho
  · simp only [State.send, ho]

end

/-! ## Host accesses -/

section
variable {s : State} {q : HostReq} {a : Nat} {x : BitVec 512} {c : CtxId} {l : Line}

theorem hostBlock_aligned (ha : a % 64 = 0) : hostBlock a = a := Nat.div_mul_cancel (Nat.dvd_of_mod_eq_zero ha)

/-- An access that is admitted is that of the context that owns the frame, in RUN, over its keyed stream (R418). -/
theorem hostAdmit_owner (h : s.hostAdmit q a = some c) : (s.metaOf (a / 4096)).ctx.toNat = q.vf.val ∧ q.keyed = true ∧
    (s.ctx c).tdi = .run ∧ (s.ctx c).key.ide.isSome = true := by
  unfold State.hostAdmit at h
  dsimp only at h
  split at h
  next hadmit =>
    obtain ⟨-, howner, hrun, hkeyed, hide⟩ := hadmit
    cases h
    exact ⟨howner, hkeyed, hrun, hide⟩
  next => cases h

theorem exec_hostMemRead_refused (hr : s.stage = .ready) (ha : a % 64 = 0) (h : s.hostAdmit q a = none) :
    exec (.hostMemRead q a) s = .next (s.pf0Error.send (.hostData a (allOnes 64) true)) := by
  simp only [exec_hostMemRead, execHostMemRead, hostBlock_aligned ha, hr, ne_eq, not_true, if_false, h]

theorem exec_hostMemRead_hit (hr : s.stage = .ready) (ha : a % 64 = 0) (h : s.hostAdmit q a = some c)
    (hl : SMap.find s.lines (a / 128) = some l) :
    exec (.hostMemRead q a) s = .next (State.send
      { s.touch a with snoop := if a / 128 ∈ s.snoop then s.snoop else s.snoop ++ [a / 128] }
      (.hostData a (lineBytes l.data (a % 128) 64) l.poison.isSome)) := by
  simp only [exec_hostMemRead, execHostMemRead, hostBlock_aligned ha, hr, ne_eq, not_true, if_false, h, hl]

theorem exec_hostMemWrite_refused (hr : s.stage = .ready) (ha : a % 64 = 0) (h : s.hostAdmit q a = none) :
    exec (.hostMemWrite q a x) s = .next s.pf0Error := by
  simp only [exec_hostMemWrite, execHostMemWrite, hostBlock_aligned ha, hr, ne_eq, not_true, if_false, h]

/-- A write whose line stands ready, or is still with the host, performs. -/
theorem exec_hostMemWrite_performs (hr : s.stage = .ready) (ha : a % 64 = 0) (h : s.hostAdmit q a = some c)
    (hg : s.writeGate c a = .ready ∨ ∃ n, s.writeGate c a = .snoop n) :
    exec (.hostMemWrite q a x) s = .next (s.commit c none a (bytesOfNat 64 x.toNat)) := by
  simp only [exec_hostMemWrite, execHostMemWrite, hostBlock_aligned ha, hr, ne_eq, not_true, if_false, h]
  obtain hg | ⟨n, hg⟩ := hg <;> rw [hg]

theorem exec_hostMemWrite_fails {cause : Cause} (hr : s.stage = .ready) (ha : a % 64 = 0) (h : s.hostAdmit q a = some c)
    (hg : s.writeGate c a = .fail cause) : exec (.hostMemWrite q a x) s = .next s.pf0Error := by
  simp only [exec_hostMemWrite, execHostMemWrite, hostBlock_aligned ha, hr, ne_eq, not_true, if_false, h, hg]

end

/-! ## Snoops of host memory -/

/-- A line that a snoop finds modified goes back to the host, on the host allowance; a clean one stays as it is (R354, R367). -/
def State.snoopBack (s : State) (n : Nat) (l : Line) : State :=
  if l.dirty then
    State.send (State.meterBlock { s with mem := s.mem.writeBytes (n * 128) (bytesOfRow l.data) } none) (.writeBack n)
  else s

section
variable {s : State} {n : Nat} {l : Line}

theorem snoopBack_dirty (h : l.dirty = true) : s.snoopBack n l =
    { s with mem := s.mem.writeBytes (n * 128) (bytesOfRow l.data), hostAllow := s.hostAllow - 8,
             outbox := s.outbox ++ [.writeBack n] } := by
  rw [State.snoopBack, if_pos h]; rfl

theorem snoopBack_clean (h : l.dirty = false) : s.snoopBack n l = s := by rw [State.snoopBack, if_neg (by simp [h])]

@[simp] theorem snoopBack_lines : (s.snoopBack n l).lines = s.lines := by unfold State.snoopBack; split <;> rfl

/-- A modified line waits until the host allowance covers it. -/
theorem exec_hostSnoop_waits {k : Snoop} (hn : hostBase ≤ n * 128) (hl : SMap.find s.lines n = some l)
    (hd : l.dirty = true) (ha : s.hostAllow < 8) : exec (.hostSnoop n k) s = .next s := by
  have hcover : s.hostCovers = false := decide_eq_false (by omega)
  simp [execHostSnoop, Nat.not_lt.mpr hn, hl, hd, hcover]

section
variable (hn : hostBase ≤ n * 128) (hl : SMap.find s.lines n = some l) (ha : l.dirty = true → 8 ≤ s.hostAllow)
include hn hl ha

theorem exec_hostSnoop_share : exec (.hostSnoop n .share) s =
    .next { s.snoopBack n l with lines := (s.snoopBack n l).lines.insert n { l with dirty := false, mesi := .s } } := by
  have hcover : ¬ ((l.dirty && !s.hostCovers) = true) := by
    cases hd : l.dirty with
    | false => simp
    | true => simp [State.hostCovers, ha hd]
  simp only [exec_hostSnoop, execHostSnoop, if_neg (Nat.not_lt.mpr hn), hl, Option.any_some, if_neg hcover]
  rfl

theorem exec_hostSnoop_invalidate : exec (.hostSnoop n (.invalidate none)) s =
    .next { s.snoopBack n l with lines := (s.snoopBack n l).lines.erase n } := by
  have hcover : ¬ ((l.dirty && !s.hostCovers) = true) := by
    cases hd : l.dirty with
    | false => simp
    | true => simp [State.hostCovers, ha hd]
  simp only [exec_hostSnoop, execHostSnoop, if_neg (Nat.not_lt.mpr hn), hl, Option.any_some, if_neg hcover]
  rfl

end

theorem exec_backInvalidateResponse_due (h : n ∈ s.backInv) : exec (.backInvalidateResponse n) s = .next (State.ownOn
    { s with backInv := s.backInv.filter (fun x => decide (x ≠ n)), snoop := s.snoop.filter fun x => decide (x ≠ n) }) := by
  rw [exec_backInvalidateResponse, execBackInvalidateResponse, if_pos h]

end

end Sys2Proof.Machine
end

section
open Sys2Proof Sys2Proof.Machine

/-- Settles O44: a read and a write by the context that `hostAdmit` finds, a snoop by the line that goes back first. -/
theorem hostAccesses : Obligations.HostAccesses := by
  intro s q a x hr ha
  refine ⟨fun h => ⟨⟨_, exec_hostMemRead_refused hr ha h, ?_, ?_, irq_mem .., irq_lines ..⟩,
      exec_hostMemWrite_refused hr ha h⟩,
    fun c l h hl => ⟨_, exec_hostMemRead_hit hr ha h hl, ?_, touch_mem s a, ?_⟩,
    fun c h hg => exec_hostMemWrite_performs hr ha h hg, fun c cause h hg => exec_hostMemWrite_fails hr ha h hg,
    fun c h => hostAdmit_owner h, fun n l k hn hl hd hwait => exec_hostSnoop_waits hn hl hd hwait,
    fun n l hn hl hcover => ⟨_, exec_hostSnoop_share hn hl hcover, SMap.find_insert_self .., fun hd => ?_, fun hd => ?_⟩,
    fun n l hn hl hd hcover => ⟨_, exec_hostSnoop_invalidate hn hl (fun _ => hcover), congrArg (·.erase n) snoopBack_lines, ?_⟩,
    fun n h => ⟨_, exec_backInvalidateResponse_due h, ?_, ?_, rfl, rfl, rfl⟩, fun n h => ?_⟩
  · exact congrArg (· ++ [_]) (irq_outbox_congr _ _ rfl rfl rfl)
  · exact irq_pf0err ..
  · obtain ⟨_, _, _, e⟩ := touch_drawOnly s a
    rw [e]; rfl
  · obtain ⟨_, _, _, e⟩ := touch_drawOnly s a
    rw [e]; rfl
  · rw [snoopBack_dirty hd]; exact ⟨rfl, rfl⟩
  · rw [snoopBack_clean hd]; exact ⟨rfl, rfl⟩
  · rw [snoopBack_dirty hd]; exact ⟨rfl, rfl⟩
  · simp
  · simp
  · rw [exec_backInvalidateResponse, execBackInvalidateResponse, if_neg h]
end

section
/-! SUPPORT. Rules of contexts, partitions and ports, the states of a TDI (R384, R385), and the answers of the SPDM responder
(R458). -/

namespace Sys2Proof.Machine

/-! ## Contexts, partitions and ports -/

section
variable (s : State)

@[simp] theorem ctx_setCtx (c : CtxId) (x : Ctx) : (s.setCtx c x).ctx c = x := Vector.getElem_set_self ..

theorem ctx_setCtx_ne {c d : CtxId} (h : d ≠ c) (x : Ctx) : (s.setCtx c x).ctx d = s.ctx d :=
  Vector.getElem_set_ne c.isLt d.isLt fun e => h (Fin.ext e.symm)

@[simp] theorem part_setPart (p : PartId) (x : Part) : (s.setPart p x).part p = x := Vector.getElem_set_self ..

theorem part_setPart_ne {p q : PartId} (h : q ≠ p) (x : Part) : (s.setPart p x).part q = s.part q :=
  Vector.getElem_set_ne p.isLt q.isLt fun e => h (Fin.ext e.symm)

@[simp] theorem port_setPort (p : Fin 4) (x : Port) : (s.setPort p x).port p = x := Vector.getElem_set_self ..

end

/-! ## A TDI that leaves RUN -/

section
variable (s : State) (v : Fin 384) (t : Tdi)

theorem leaveRun_live (h : (s.ctx (vfCtx v)).killed = false) :
    s.leaveRun v t = (s.setCtx (vfCtx v) { s.ctx (vfCtx v) with tdi := t }).kill (vfCtx v) := by
  simp only [State.leaveRun, h, Bool.not_false, if_true]

theorem leaveRun_killed (h : (s.ctx (vfCtx v)).killed = true) :
    s.leaveRun v t = if (s.ctx (vfCtx v)).tdi = .run then (s.setCtx (vfCtx v) { s.ctx (vfCtx v) with tdi := t }).vfIrq (vfCtx v) 3
      else s.setCtx (vfCtx v) { s.ctx (vfCtx v) with tdi := t } := by
  simp only [State.leaveRun, h, Bool.not_true, Bool.false_eq_true, if_false]

/-- A stop is a leaving of RUN where the TDI stands in RUN, and elsewhere only unlocks it. -/
theorem exec_tdisp_stop : exec (.tdispMessage v .stop) s = .next (if (s.ctx (vfCtx v)).tdi = .run then s.leaveRun v .unlocked
    else s.setCtx (vfCtx v) { s.ctx (vfCtx v) with tdi := .unlocked }) := by
  simp only [exec_tdispMessage, execTdispMessage]
  cases (s.ctx (vfCtx v)).tdi <;> rfl

theorem exec_tdisp_lock : exec (.tdispMessage v .lock) s = .next (if (s.ctx (vfCtx v)).tdi = .unlocked then
    s.setCtx (vfCtx v) { s.ctx (vfCtx v) with tdi := .locked } else s) := by
  simp only [exec_tdispMessage, execTdispMessage]
  cases (s.ctx (vfCtx v)).tdi <;> rfl

theorem exec_tdisp_start : exec (.tdispMessage v .start) s = .next (if (s.ctx (vfCtx v)).tdi = .locked then
    s.setCtx (vfCtx v) { s.ctx (vfCtx v) with tdi := .run } else s) := by
  simp only [exec_tdispMessage, execTdispMessage]
  cases (s.ctx (vfCtx v)).tdi <;> rfl

theorem exec_tdiLeaveRun_run (h : (s.ctx (vfCtx v)).tdi = .run) : exec (.tdiLeaveRun v) s = .next (s.leaveRun v .error) := by
  rw [exec_tdiLeaveRun, execTdiLeaveRun, if_pos h]

theorem exec_flr : exec (.functionLevelReset v) s =
    .next (s.leaveRun v (if (s.ctx (vfCtx v)).tdi = .unlocked then .unlocked else .error)) := rfl

end

/-! ## The SPDM responder -/

section
variable (s : State) {ok : Bool}

section
variable {i : Instr} {f : State → State} (he : exec i s = s.spdmIf ok f)
include he

/-- A message whose condition holds is answered, one whose condition fails is answered with ERROR alone. -/
theorem spdm_answers (h : ok = true) : exec i s = .next (f s) := by rw [he, State.spdmIf, if_pos h]

theorem spdm_refuses (h : ok = false) : exec i s = .next { s with outbox := s.outbox ++ [.spdm false []] } := by
  rw [he, State.spdmIf, if_neg (Bool.eq_false_iff.1 h)]
  rfl

end

/-- A message that asks for something changes nothing of the responder: it is answered where its condition holds. -/
theorem spdm_unchanged {i : Instr} {f : State → State} (he : exec i s = s.spdmIf ok f)
    (hf : ∃ bs, (f s).spdm = s.spdm ∧ (f s).outbox = s.outbox ++ [.spdm true bs] ∧ (f s).cores = s.cores ∧ (f s).mem = s.mem ∧
      (f s).ctxs = s.ctxs) :
    (ok = true → ∃ t bs, exec i s = .next t ∧ t.spdm = s.spdm ∧ t.outbox = s.outbox ++ [.spdm true bs] ∧ t.cores = s.cores ∧
      t.mem = s.mem ∧ t.ctxs = s.ctxs) ∧
    (ok = false → exec i s = .next { s with outbox := s.outbox ++ [.spdm false []] }) := by
  obtain ⟨bs, hbs⟩ := hf
  exact ⟨fun h => ⟨_, bs, spdm_answers s he h, hbs⟩, spdm_refuses s he⟩

/-- A FINISH that verifies makes the session secure. -/
theorem exec_finish_verified {n : BitVec 32} (h : s.spdm.has n false = true) : exec (.finish n true) s =
    .next (State.respond { s with spdm := { s.spdm with sessions := s.spdm.without n ++ [(n, true)] } } 8) := by
  rw [exec_finish, execFinish, if_neg (by simp [h]), if_pos rfl]

theorem exec_finish_unverified {n : BitVec 32} (h : s.spdm.has n false = true) : exec (.finish n false) s =
    .next (State.spdmError { s with spdm := { s.spdm with sessions := s.spdm.without n } }) := by
  rw [exec_finish, execFinish, if_neg (by simp [h]), if_neg (by decide)]

theorem exec_finish_none {n : BitVec 32} (h : s.spdm.has n false = false) (b : Bool) : exec (.finish n b) s = .next s.spdmError := by
  rw [exec_finish, execFinish, if_pos (by simp [h])]

variable {n : BitVec 32} {c : CtxId} (key : BitVec 256)

theorem exec_keyset_refused (kind : KeyKind) (h : s.spdm.has n true = false ∨ (s.ctx c).key.sweep = true) :
    exec (.keyset n c kind key) s = .next s.spdmError := by
  rw [exec_keyset, execKeyset.eq_def, if_pos (by simpa using h)]

variable (hup : s.spdm.has n true = true) (hsweep : (s.ctx c).key.sweep = false)
include hup hsweep

theorem exec_keyset_ide : exec (.keyset n c .ide key) s =
    .next (State.respond (s.setCtx c { s.ctx c with key := { (s.ctx c).key with ide := some key } }) 10) := by
  rw [exec_keyset, execKeyset, if_neg (by simp [hup, hsweep])]

theorem exec_keyset_sealing {t : State} (h : s.keyInstall c key = some t) :
    exec (.keyset n c .sealing key) s = .next (t.respond 10) := by
  rw [exec_keyset, execKeyset, if_neg (by simp [hup, hsweep])]
  simp only [h]

end

section
variable (s : State) {c : CtxId} (key : BitVec 256) (hsweep : (s.ctx c).key.sweep = false)
include hsweep

theorem keyInstall_first (h : (s.ctx c).key.cur = none) :
    s.keyInstall c key = some (s.setCtx c { s.ctx c with key := { (s.ctx c).key with cur := some key } }) := by
  simp only [State.keyInstall, hsweep, h, Bool.false_eq_true, if_false]

theorem keyInstall_rotates {old : BitVec 256} (h : (s.ctx c).key.cur = some old) :
    s.keyInstall c key = some (State.sweepOn (s.setCtx c { s.ctx c with key := { (s.ctx c).key with
      cur := some key, curGen := ((s.ctx c).key.curGen + 1) % 256, prev := some old, prevGen := (s.ctx c).key.curGen, sweep := true,
      swept := 0, sweepAt := 0 } }) c) := by
  simp only [State.keyInstall, hsweep, h, Bool.false_eq_true, if_false]

end

end Sys2Proof.Machine
end

section
open Sys2Proof Sys2Proof.Machine

/-- Settles O47: a TDI by what leaving RUN does to its context, a message by the condition that it answers under. -/
theorem functionsAndSessions : Obligations.FunctionsAndSessions := by
  refine ⟨fun s v => ⟨?lock, ?start, ?lockOther, ?startOther, ?leave, ?leaveKilled, ?reset, ?resetUnlocked, ?resetKilled, ?stay,
    ?stopOther⟩, fun s n c key o l => ⟨?version, ?caps, ?noCaps, ?algs, ?noAlgs, ?noOffer, ?asks, ?opens, ?noOpen, ?finish,
    ?noFinish, ?unverified, ?close, ?noClose, ?noKey, ?keyset⟩⟩
  case lock => exact fun h => (exec_tdisp_lock s v).trans (by rw [if_pos h])
  case start => exact fun h => (exec_tdisp_start s v).trans (by rw [if_pos h])
  case lockOther => exact fun h => (exec_tdisp_lock s v).trans (by rw [if_neg h])
  case startOther => exact fun h => (exec_tdisp_start s v).trans (by rw [if_neg h])
  case leave =>
    intro hrun hlive
    refine ⟨?_, ?_, ?_⟩
    · rw [exec_tdisp_stop, if_pos hrun, leaveRun_live s v _ hlive]
    · rw [exec_tdiLeaveRun_run s v hrun, leaveRun_live s v _ hlive]
    · rw [exec_flr, if_neg (by simp [hrun]), leaveRun_live s v _ hlive]
  case leaveKilled =>
    intro hrun hkilled
    refine ⟨?_, ?_⟩
    · rw [exec_tdisp_stop, if_pos hrun, leaveRun_killed s v _ hkilled, if_pos hrun]
    · rw [exec_tdiLeaveRun_run s v hrun, leaveRun_killed s v _ hkilled, if_pos hrun]
  case reset => exact fun h hlive => by rw [exec_flr, if_neg h, leaveRun_live s v _ hlive]
  case resetUnlocked => exact fun h hlive => by rw [exec_flr, if_pos h, leaveRun_live s v _ hlive]
  case resetKilled => exact fun h hkilled => by rw [exec_flr, leaveRun_killed s v _ hkilled, if_neg h]
  case stay => exact fun h => by rw [exec_tdiLeaveRun, execTdiLeaveRun, if_neg h]
  case stopOther => exact fun h => by rw [exec_tdisp_stop, if_neg h]
  case version => exact ⟨_, _, rfl, rfl, rfl, rfl, rfl, rfl⟩
  case caps => exact fun h => ⟨_, _, spdm_answers s (exec_getCapabilities s) h, rfl, rfl, rfl, rfl, rfl⟩
  case noCaps => exact fun h => spdm_refuses s (exec_getCapabilities s) h
  case algs => exact fun hv hc => ⟨_, _, spdm_answers s (exec_negotiateAlgorithms true s) (by simp [hv, hc]), rfl, rfl, rfl, rfl, rfl⟩
  case noAlgs => exact fun h => spdm_refuses s (exec_negotiateAlgorithms true s) (by obtain h | h := h <;> simp [h])
  case noOffer => exact spdm_refuses s (exec_negotiateAlgorithms false s) (Bool.and_false _)
  case asks =>
    rintro _ (rfl | rfl | rfl | rfl)
    · exact spdm_unchanged s (exec_getDigests s) ⟨_, rfl, rfl, rfl, rfl, rfl⟩
    · exact spdm_unchanged s (exec_getCertificate o l s) ⟨_, rfl, rfl, rfl, rfl, rfl⟩
    · exact spdm_unchanged s (exec_challenge key s) ⟨_, rfl, rfl, rfl, rfl, rfl⟩
    · exact spdm_unchanged s (exec_getMeasurements key s) ⟨_, rfl, rfl, rfl, rfl, rfl⟩
  case opens => exact fun ha ht hf => ⟨_, _, spdm_answers s (exec_keyExchange n s) (by simp [ha, ht, hf]), rfl, rfl, rfl, rfl, rfl⟩
  case noOpen => exact fun h => spdm_refuses s (exec_keyExchange n s) (by obtain h | h | h := h <;> simp [h])
  case finish => exact fun h => ⟨_, _, exec_finish_verified s h, rfl, rfl, rfl, rfl, rfl⟩
  case noFinish => exact fun b h => exec_finish_none s h b
  case unverified => exact exec_finish_unverified s
  case close => exact fun h => ⟨_, _, spdm_answers s (exec_endSession n s) h, rfl, rfl, rfl, rfl, rfl⟩
  case noClose => exact fun h => spdm_refuses s (exec_endSession n s) h
  case noKey => exact fun k h => exec_keyset_refused s key k h
  case keyset =>
    intro hup hsweep
    refine ⟨⟨_, exec_keyset_ide s key hup hsweep, congrArg Ctx.key (ctx_setCtx ..), rfl⟩, fun hcur => ?_, fun old hcur => ?_⟩
    · exact ⟨_, exec_keyset_sealing s key hup hsweep (keyInstall_first s key hsweep hcur), congrArg Ctx.key (ctx_setCtx ..), rfl⟩
    · exact ⟨_, exec_keyset_sealing s key hup hsweep (keyInstall_rotates s key hsweep hcur), rfl⟩
end

section
/-! SUPPORT. Rules of queues (R388-R390): what a written queue reads back, a doorbell, and a reset. -/

namespace Sys2Proof.Machine

/-- A bit of a word as the quotient that holds it lowest. -/
theorem getLsbD_eq_div (v : W64) (i : Nat) : v.getLsbD i = decide (v.toNat / 2 ^ i % 2 = 1) := Nat.testBit_eq_decide_div_mod_eq

/-! ## Queues read back -/

section
variable {s : State} (h : s.Tidy)
include h

theorem queue_setQueue (c : CtxId) (q : Nat) (x : Queue) : (s.setQueue c q x).queue c q = x.settled := by
  rw [State.queue, State.setQueue, ctx_setCtx]
  exact SMap.get_set_self (h.queues c) ..

theorem queue_setQueue_ne {c d : CtxId} {q r : Nat} (hne : d ≠ c ∨ r ≠ q) (x : Queue) :
    (s.setQueue c q x).queue d r = s.queue d r := by
  by_cases hd : d = c
  · subst hd
    rw [State.queue, State.setQueue, ctx_setCtx]
    exact SMap.get_set_ne (h.queues d) (hne.resolve_left fun e => e rfl) _
  · rw [State.queue, State.setQueue, ctx_setCtx_ne s hd, State.queue]

end

section
variable (u : Queue)

/-- A queue that no QSUSP is to stop is written as it is. -/
theorem settled_of_running {u : Queue} (h : u.stopping = false) : u.settled = u := by
  rw [Queue.settled, h, Bool.false_and, if_neg Bool.false_ne_true]

theorem suspend_head : u.suspend.head = u.head := by unfold Queue.suspend; split <;> rfl
theorem suspend_tail : u.suspend.tail = u.tail := by unfold Queue.suspend; split <;> rfl

theorem settled_head : u.settled.head = u.head := by
  unfold Queue.settled
  split
  exacts [suspend_head u, rfl]

theorem settled_tail : u.settled.tail = u.tail := by
  unfold Queue.settled
  split
  exacts [suspend_tail u, rfl]

/-! ## A doorbell -/

/-- A queue whose TAIL a doorbell has set: a fetcher that waits for packets goes on (R389, R390). -/
def Queue.rung (tail : Nat) : Queue :=
  let w : Queue := { u with tail }
  if w.state = .idle then w.goOn else if w.fetches && w.levels.isEmpty then w.goOn else w

theorem rung_head (n : Nat) : (u.rung n).head = u.head := by
  simp only [Queue.rung]
  split_ifs <;> rfl
theorem rung_tail (n : Nat) : (u.rung n).tail = n := by
  simp only [Queue.rung]
  split_ifs <;> rfl
theorem rung_stopping (n : Nat) : (u.rung n).stopping = u.stopping := by
  simp only [Queue.rung]
  split_ifs <;> rfl

/-- An idle ring fetches, unless its HEAD stands at the new TAIL. -/
theorem rung_state {u : Queue} (n : Nat) (hi : u.state = .idle) (hl : u.levels = []) :
    (u.rung n).state = if (u.rung n).empty then .idle else .fetching := by
  simp only [Queue.rung, hi, if_true]
  simp only [Queue.goOn, hl, List.isEmpty_nil, Bool.true_and]
  rfl

end

section
variable {s : State} {c : CtxId} {v : W64}

theorem exec_doorbell_early (h : s.stage ≠ .ready) : exec (.doorbell c v) s = .next s.dropEarly := by
  rw [exec_doorbell, execDoorbell, if_pos h]

theorem exec_doorbell_unowned (hs : s.stage = .ready) (hp : s.ctxPart c = none) : exec (.doorbell c v) s = .next s.pf0Error := by
  rw [exec_doorbell, execDoorbell, if_neg (not_not.2 hs), if_pos (by rw [hp]; rfl)]

variable (hs : s.stage = .ready) (hp : (s.ctxPart c).isSome = true)
include hs hp

theorem exec_doorbell_reserved
    (h : 2 ^ 22 ≤ v.toNat ∨ v.toNat / 2 ^ 14 % 4 ≠ 0 ∨ queueCount c ≤ v.toNat / 2 ^ 16 % 2 ^ 6) :
    exec (.doorbell c v) s = .next (s.reserved (.queues c)) := by
  rw [exec_doorbell, execDoorbell, if_neg (not_not.2 hs), if_neg (by simpa [Option.ne_none_iff_isSome] using hp), if_pos]
  rw [bitsAt_eq, bitsAt_eq]
  omega

theorem exec_doorbell_rings (hv : v.toNat < 2 ^ 22) (hz : v.toNat / 2 ^ 14 % 4 = 0) (hq : v.toNat / 2 ^ 16 < queueCount c) :
    exec (.doorbell c v) s =
      .next (s.setQueue c (v.toNat / 2 ^ 16) ((s.queue c (v.toNat / 2 ^ 16)).rung (v.toNat % 2 ^ 14))) := by
  have hbits : bitsAt v.toNat 16 6 = v.toNat / 2 ^ 16 := by rw [bitsAt_eq]; omega
  have hzero : bitsAt v.toNat 14 2 = 0 := by rw [bitsAt_eq]; omega
  rw [exec_doorbell, execDoorbell, if_neg (not_not.2 hs), if_neg (by simpa [Option.ne_none_iff_isSome] using hp), if_neg]
  · simp only [hbits]
    rfl
  · rw [hbits, hzero]
    omega

end

/-! ## A reset of a queue -/

/-- A queue after a reset: a parked one that goes on at its HEAD goes on at its packet (R390, R393). -/
def Queue.restarted (u : Queue) (head : Nat) : Queue :=
  { u with
    state := .idle, head, levels := if u.state = .parked ∧ u.head = head then u.levels else [], stale := 0, held := none
    opsLeft := 0, prev := .idle, frozen := false, stopping := false, fails := [] }

/-- The page requests of a queue are abandoned. -/
def State.abandonReqs (s : State) (c : CtxId) (q : Nat) : State := { s with
  parts := s.parts.map fun p => ({ p with reqs := p.reqs.filter fun r => decide (r.owner ≠ ReqOwner.queue c q) } : Part) }

section
variable {s : State} {c : CtxId} {q : QueueId} {v : W64}

theorem exec_qctlReset_early (h : s.stage ≠ .ready) : exec (.qctlReset c q v) s = .next s.dropEarly := by
  rw [exec_qctlReset, execQctlReset, if_pos h]

theorem exec_qctlReset_restarts (hs : s.stage = .ready) (hq : q.val < queueCount c) (hv : v.toNat / 2 ^ 63 = 1) :
    exec (.qctlReset c q v) s =
      .next ((s.abandonReqs c q.val).setQueue c q.val ((s.queue c q.val).restarted (v.toNat % 2 ^ 32))) := by
  have hbit : v.getLsbD 63 = true := by rw [getLsbD_eq_div, hv]; rfl
  have hhead : bitsAt v.toNat 0 32 = v.toNat % 2 ^ 32 := by rw [bitsAt_eq, Nat.pow_zero, Nat.div_one]
  rw [exec_qctlReset, execQctlReset, if_neg (not_not.2 hs), if_neg (by simp [hbit, hq])]
  simp only [hhead, Bool.and_eq_true, decide_eq_true_eq]
  rfl

end

end Sys2Proof.Machine
end

section
open Sys2Proof Sys2Proof.Machine

/-- Settles O45: a doorbell by the queue that it has rung, a reset by the queue that it restarts. -/
theorem doorbells : Obligations.Doorbells := by
  refine fun s c v q => ⟨exec_doorbell_early, fun ht hs hp hv hz hq => ?rings, exec_doorbell_reserved, exec_doorbell_unowned,
    exec_qctlReset_early, fun ht hs hq hv => ?restarts⟩
  case rings =>
    refine ⟨_, exec_doorbell_rings hs hp hv hz hq, ?_, ?_, fun hi hl hstop => ?_, rfl, rfl⟩
    · rw [queue_setQueue ht, settled_tail, rung_tail]
    · rw [queue_setQueue ht, settled_head, rung_head]
    · rw [queue_setQueue ht, settled_of_running ((rung_stopping ..).trans hstop), rung_state _ hi hl]
  case restarts =>
    have hback := queue_setQueue (s := s.abandonReqs c q.val) ht.same c q.val ((s.queue c q.val).restarted (v.toNat % 2 ^ 32))
    rw [settled_of_running rfl] at hback
    refine ⟨_, exec_qctlReset_restarts hs hq hv, ?_⟩
    rw [hback]
    exact ⟨rfl, rfl, rfl, rfl, rfl, fun hpark => if_neg fun h => hpark h.1, rfl, rfl⟩
end

section
/-! SUPPORT. The retirement of a card (R309, R310, R423). -/

namespace Sys2Proof.Machine

section
variable {s : State} {k : CluId} {n : SlotId} {x : Card} {c : CoreId} {j : Job}

/-! ## When a card retires -/

/-- A card that still runs and finished earlier keeps the others back (R310). -/
theorem retiresNext_of_earlier {e : CluId × Nat × Card} {m r : Nat} (he : e ∈ s.allCards) (hrun : e.2.2.phase = .running)
    (hlive : s.live e.2.2.ctx = true) (hm : e.2.2.ended = some m) (hr : x.ended = some r) (hlt : m < r) :
    s.retiresNext x = false := by
  simp only [State.retiresNext, hr]
  refine List.all_eq_false.2 ⟨e, he, ?_⟩
  simp only [hm, hrun, hlive]
  simpa using hlt

theorem exec_cardRetire_kept (hcard : s.card k n = some x) (h : s.retiresNext x = false) :
    exec (.cardRetire k n) s = .next s := by
  rw [exec_cardRetire, execCardRetire]
  simp only [hcard]
  exact if_pos (.inr (.inr (.inr (by rw [h]; rfl))))

theorem exec_cardRetire_due (hcard : s.card k n = some x) (hrun : x.phase = .running) (hcores : x.cores = [c])
    (hjob : s.job c = some j) (hended : j.ended = true) (hlive : s.live x.ctx = true) (hnext : s.retiresNext x = true) :
    exec (.cardRetire k n) s = .next (s.retire k n x c j) := by
  rw [exec_cardRetire, execCardRetire]
  simp only [hcard, hcores, hjob]
  exact if_neg (by simp [hrun, hjob, hended, hlive, hnext])

/-! ## What a retirement does -/

theorem retire_recorded (h : x.recorded = true) : s.retire k n x c j = s.drainRecs.retireEnd k n x := by
  rw [State.retire, if_pos h]

variable (hrec : x.recorded = false)
include hrec

theorem retire_fails {w : Staged} {cause : Cause} (h : s.firstUnready x.ctx x.staged = some (w, .fail cause)) :
    s.retire k n x c j = s.nodeFails c cause w.va := by
  rw [State.retire, if_neg (by simp [hrec]), h]

/-- A gate that does not fail is waited for. -/
theorem retire_waits {w : Staged} {g : WGate} (h : s.firstUnready x.ctx x.staged = some (w, g)) (hg : ∀ cause, g ≠ .fail cause) :
    s.retire k n x c j = s.forGate x.ctx c g := by
  rw [State.retire, if_neg (by simp [hrec]), h]
  cases g
  case fail cause => exact absurd rfl (hg cause)
  all_goals rfl

theorem retire_performs (h : s.firstUnready x.ctx x.staged = none) :
    s.retire k n x c j =
      (let r := (s.commitAll x.ctx (some c) x.staged).performSigs x.ctx x.sigs
       let y := { x.note (s.island x.isl).level with staged := [], sigs := [], sigdrop := x.sigdrop || r.2, sel := j.var }
       let s2 := (r.1.setCard k n y).settle k n x.isl
       let y2 := { (s2.card k n).getD y with recorded := true }
       ((s2.setCard k n y2).writeRecord (s2.reported y2) j.endStatus.toNat).retireEnd k n y2) := by
  rw [State.retire, if_neg (by simp [hrec]), h]

end

theorem nodeFails_of_job {s : State} {c : CoreId} {j : Job} (h : s.job c = some j) (cause : Cause) (va : Nat) :
    s.nodeFails c cause va =
      (let r : Raised := { eng := .c, cause, val := BitVec.ofNat 32 va, pc := j.pc .c, classC := false, addr := va }
       (s.setJob c { j with raised := j.raised ++ [r] }).nodeTrap j.cluster j.slot (c, r)) := by
  simp only [State.nodeFails, h]

theorem finishCard_own {t : State} {y : Card} (h : t.original y = none) (k : CluId) (n : SlotId) :
    t.finishCard k n y = (t.signalCard y).removeCard k n := by
  simp only [State.finishCard, State.reported, h]

theorem signalCard_both {y : Card} {d m : Nat} (hd : y.decCtr = some d) (hm : y.ssem = some m) (t : State) :
    t.signalCard y = (t.ctrDec d).semOr m y.sigMask := by
  simp only [State.signalCard, hd, hm]

end Sys2Proof.Machine
end

section
open Sys2Proof Sys2Proof.Machine

/-- Settles O36: a card that is next retires; what its retirement does follows from its record and its staged writes. -/
theorem cardRetirement : Obligations.CardRetirement := by
  intro s k n x c j hcard hrun hcores hjob hended hlive next
  have hdue := fun hnext : next => exec_cardRetire_due hcard hrun hcores hjob hended hlive hnext
  refine ⟨fun e m r he hr hl hm hx hlt => exec_cardRetire_kept hcard (retiresNext_of_earlier he hr hl hm hx hlt),
    fun hn hrec hready => (hdue hn).trans (congrArg _ (retire_performs hrec hready)),
    fun hn hrec => (hdue hn).trans (congrArg _ (retire_recorded hrec)), fun t y => rfl,
    fun w g hn hrec hg hfail => (hdue hn).trans (congrArg _ (retire_waits hrec hg hfail)),
    fun w cause hn hrec hg => (hdue hn).trans (congrArg _ (retire_fails hrec hg)), nodeFails_of_job hjob,
    fun t y h => finishCard_own h k n, fun t y d m hd hm => signalCard_both hd hm t⟩
end

section
/-! SUPPORT. The fetcher and its packets (R389-R393, R399), SIGNAL and WAIT in hand (R307, R392), castling and the quota
(R394, R397). -/

namespace Sys2Proof.Machine

/-! ## A packet that has been read -/

/-- The state in which the fetcher acts on a packet: the read has been made, and counts no failures any more (R354, R378). -/
def State.fetched (s : State) (c : CtxId) (q : QueueId) : State :=
  (s.devDrawn c (s.queue c q.val).packetVa 1).setQueue c q.val { s.queue c q.val with fails := [] }

section
variable (s : State) (c : CtxId) (q : QueueId)

theorem fetched_cores : (s.fetched c q).cores = s.cores := by
  obtain ⟨l, u, a, h⟩ := devDrawn_drawOnly s c (s.queue c q.val).packetVa 1
  rw [State.fetched, h]
  rfl

theorem fetched_mem : (s.fetched c q).mem = s.mem := by
  obtain ⟨l, u, a, h⟩ := devDrawn_drawOnly s c (s.queue c q.val).packetVa 1
  rw [State.fetched, h]
  rfl

theorem fetched_queue {s : State} (ht : s.Tidy) (hstop : (s.queue c q.val).stopping = false) :
    (s.fetched c q).queue c q.val = { s.queue c q.val with fails := [] } := by
  rw [State.fetched, queue_setQueue ht.devDrawn]
  exact settled_of_running hstop

end

/-- A packet stands in its place, and its bytes have been read. -/
structure State.Reads (s : State) (c : CtxId) (q : QueueId) (bs : List Byte) : Prop where
  fetches : (s.queue c q.val).fetches = true
  live : s.live c = true
  more : (s.queue c q.val).levels = [] → (s.queue c q.val).empty = false
  data : s.devRead c (s.queue c q.val).packetVa 1 = .data bs

section
variable {s : State} {c : CtxId} {q : QueueId} {bs : List Byte}

theorem State.Reads.fetching (h : s.Reads c q bs) :
    (s.queue c q.val).state = .fetching ∧ (s.queue c q.val).held = none ∧ (s.queue c q.val).opsLeft = 0 := by
  simpa [Queue.fetches, and_assoc] using h.fetches

theorem withPacket_read (h : s.Reads c q bs) (stale : State → List Byte → State)
    (k : State → List Byte → Except Nat Packet → State) : s.withPacket c q stale k =
      if packFld bs 0 4 = (s.queue c q.val).expected then k (s.fetched c q) bs (packetOf bs) else stale (s.fetched c q) bs := by
  have hmore : ¬ ((s.queue c q.val).levels.isEmpty && (s.queue c q.val).empty) = true := fun hb => by
    obtain ⟨hl, he⟩ := Bool.and_eq_true_iff.1 hb
    rw [h.more (List.isEmpty_iff.1 hl)] at he
    exact Bool.false_ne_true he
  rw [State.withPacket, if_neg (by simp [h.fetches, h.live]), if_neg hmore]
  simp only [State.queueRead, h.data]
  rfl

section
variable (h : s.Reads c q bs) (hseq : packFld bs 0 4 = (s.queue c q.val).expected)
include h hseq

theorem withPacket_taken (stale : State → List Byte → State) (k : State → List Byte → Except Nat Packet → State) :
    s.withPacket c q stale k = k (s.fetched c q) bs (packetOf bs) := by
  rw [withPacket_read h, if_pos hseq]

theorem exec_nopPacket_taken (hp : packetOf bs = .ok .nop) : exec (.nopPacket c q) s =
    .next ((s.fetched c q).setQueue c q.val ((s.fetched c q).queue c q.val).advance) := by
  rw [exec_nopPacket, execNopPacket, withPacket_taken h hseq, hp]

theorem exec_badpacket_taken {o : Nat} (hp : packetOf bs = .error o) : exec (.badpacket c q) s =
    .next ((s.fetched c q).queueHalt c q.val 2 ((s.fetched c q).queue c q.val).packetVa o bs) := by
  rw [exec_badpacket, execBadpacket, withPacket_taken h hseq, hp]

theorem exec_indirect_taken {n a : Nat} (hp : packetOf bs = .ok (.indirect n a)) : exec (.indirect c q) s =
    .next (if ((s.fetched c q).queue c q.val).levels.length = 4 then
        (s.fetched c q).queueHalt c q.val 3 ((s.fetched c q).queue c q.val).packetVa 0 bs
      else if ((s.fetched c q).queue c q.val).loops a (64 * n) then
        (s.fetched c q).queueHalt c q.val 4 ((s.fetched c q).queue c q.val).packetVa 0 bs
      else (s.fetched c q).setQueue c q.val { (s.fetched c q).queue c q.val with
        levels := { addr := a, count := n, next := 0 } :: ((s.fetched c q).queue c q.val).levels, stale := 0 }) := by
  rw [exec_indirect, execIndirect, withPacket_taken h hseq, hp]

theorem exec_signal_taken (hp : packetOf bs = .ok .signal) :
    exec (.signal c q) s = .next ((s.fetched c q).takePacket c q.val bs false) := by
  rw [exec_signal, execSignal, withPacket_taken h hseq, hp]

theorem exec_wait_taken (hp : packetOf bs = .ok .wait) :
    exec (.wait c q) s = .next ((s.fetched c q).takePacket c q.val bs true) := by
  rw [exec_wait, execWait, withPacket_taken h hseq, hp]

theorem exec_operators_taken {n a : Nat} (hp : packetOf bs = .ok (.operators n a)) (hpend : (s.queue c q.val).pending = none) :
    exec (.operators c q) s = .next (((s.fetched c q).setQueue c q.val { (s.fetched c q).queue c q.val with
      opsLeft := n, opsAddr := a, stale := 0 }).expand c q.val) := by
  obtain ⟨-, -, hops⟩ := h.fetching
  rw [exec_operators, execOperators, if_neg (by simp [hpend]), if_neg (by simp [hops]), withPacket_taken h hseq, hp]

end

/-- A packet with a wrong sequence word is read again, and the eighth such read parks its queue. -/
theorem exec_staleReread_stale (h : s.Reads c q bs) (hseq : packFld bs 0 4 ≠ (s.queue c q.val).expected) :
    exec (.staleReread c q) s = .next (
      let t := s.fetched c q
      let v := t.queue c q.val
      if v.stale < 7 then t.setQueue c q.val { v with stale := v.stale + 1 }
      else
        let t2 := t.queueError c q.val 1 v.levels.length v.expected v.packetVa 0 bs
        t2.setQueue c q.val
          { t2.queue c q.val with state := .parked, stale := 0, stalecnt := satTo 255 ((t2.queue c q.val).stalecnt + 1) }) := by
  rw [exec_staleReread, execStaleReread, withPacket_read h, if_neg hseq]

/-! ## SIGNAL and WAIT are taken in hand -/

theorem takePacket_named {sem ctr : Option Nat} (h : s.packetNames c bs = .ok (sem, ctr)) (n : Nat) (wait : Bool) :
    s.takePacket c n bs wait = s.setQueue c n { s.queue c n with
      held := some { wait, bits := BitVec.ofNat 64 (packFld bs 16 8), sem, ctr, value := packFld bs 32 2 }
      stale := 0, state := if wait then .waiting else (s.queue c n).state } := by
  simp only [State.takePacket, h]

theorem takePacket_unnamed {o : Nat} (h : s.packetNames c bs = .error o) (n : Nat) (wait : Bool) :
    s.takePacket c n bs wait = s.queueHalt c n 7 (s.queue c n).packetVa o bs := by
  simp only [State.takePacket, h]

end

/-! ## SIGNAL and WAIT end -/

section
variable {s : State} {c : CtxId} {q : QueueId} {h : QHeld} (hheld : (s.queue c q.val).held = some h)
include hheld

theorem exec_signalPerform_busy (hbusy : s.queueBusy c q.val = true) : exec (.signalPacketPerform c q) s = .next s := by
  rw [exec_signalPacketPerform, execSignalPacketPerform]
  simp only [hheld]
  exact if_pos (.inr (.inr (.inr (.inl hbusy))))

theorem exec_signalPerform_due {sem ctr : Nat} (hwait : h.wait = false) (hstate : (s.queue c q.val).state = .fetching)
    (hpend : (s.queue c q.val).pending = none) (hbusy : s.queueBusy c q.val = false) (hlive : s.live c = true)
    (hsem : h.sem = some sem) (hctr : h.ctr = some ctr) : exec (.signalPacketPerform c q) s =
      .next (((s.semPacket sem h.bits).ctrPacket ctr h.value).setQueue c q.val (s.queue c q.val).advance) := by
  rw [exec_signalPacketPerform, execSignalPacketPerform]
  simp only [hheld]
  rw [if_neg (by simp [hwait, hstate, hpend, hbusy, hlive])]
  simp only [hsem, hctr]

theorem exec_waitRelease_fails (hfail : s.waitPasses h.ctr h.sem h.bits = false) :
    exec (.waitPacketRelease c q) s = .next s := by
  rw [exec_waitPacketRelease, execWaitPacketRelease]
  simp only [hheld]
  exact if_pos (.inr (.inr (by rw [hfail]; rfl)))

theorem exec_waitRelease_passes (hwait : h.wait = true) (hstate : (s.queue c q.val).state = .waiting)
    (hpass : s.waitPasses h.ctr h.sem h.bits = true) :
    exec (.waitPacketRelease c q) s = .next (s.setQueue c q.val (s.queue c q.val).advance) := by
  rw [exec_waitPacketRelease, execWaitPacketRelease]
  simp only [hheld]
  exact if_neg (by simp [hwait, hstate, hpass])

end

/-! ## The effects of a SIGNAL where nothing else has happened at the instant -/

theorem setCluster_self (s : State) (k : CluId) : s.setCluster k (s.cluster k) = s := by
  simp only [State.setCluster, State.cluster, Vector.set_getElem_self]

section
variable {s : State} (h : s.now = [])
include h

theorem semPacket_alone (n : Nat) (x : W64) : s.semPacket n x = s.semSet n (s.semGet n ||| x) := by
  have hbits (w : W64) : (w &&& ~~~(0 : W64)) ||| 0 = w := BitVec.or_zero.trans BitVec.and_allOnes
  simp only [State.semPacket, State.nowCleared, State.nowOred, h, List.foldl_nil, hbits]

theorem ctrPacket_alone (n k : Nat) : s.ctrPacket n k = s.ctrSet n k := by
  simp only [State.ctrPacket, State.nowDecs, h, List.filterMap_nil, List.foldl_nil, List.filter_nil, List.length_nil, Nat.sub_zero]
  rw [show ({ s.cluster (ctrClu n) with errlog := (s.cluster (ctrClu n)).errlog } : Cluster) = s.cluster (ctrClu n) from rfl,
    setCluster_self]

end

/-! ## Castling -/

section
variable {s : State} {c : CtxId} {q : QueueId} {p : QPend} (hp : (s.queue c q.val).pending = some p)
include hp

theorem exec_castling_busy (hbusy : s.queueBusy c q.val = true) : exec (.castling c q) s = .next s := by
  rw [exec_castling, execCastling]
  simp only [hp]
  exact if_pos (.inr (.inl hbusy))

theorem exec_castling_due (hnew : p.castled = false) (hmay : (s.queue c q.val).mayCastle = true)
    (hstate : (s.queue c q.val).state ≠ .suspended) (hbusy : s.queueBusy c q.val = false) (hlive : s.live c = true) :
    exec (.castling c q) s =
      .next ((s.setQueue c q.val { s.queue c q.val with active := (s.queue c q.val).shadow }).queueCards c q.val p) := by
  rw [exec_castling, execCastling]
  simp only [hp]
  rw [if_neg (by simp [hnew, hbusy, hlive]), if_neg (by simp [State.justSuspended, hstate]), if_neg (by simp [hmay])]

/-- A suspension of the same instant comes after the castling (R394). -/
theorem exec_castling_suspended (hnew : p.castled = false) (hjust : s.justSuspended c q.val = true)
    (hbusy : s.queueBusy c q.val = false) (hlive : s.live c = true) :
    exec (.castling c q) s = .next (
      let s1 := (s.setQueue c q.val { s.queue c q.val with state := .waiting, active := (s.queue c q.val).shadow }).queueCards c q.val p
      s1.setQueue c q.val (s1.queue c q.val).stop) := by
  rw [exec_castling, execCastling]
  simp only [hp]
  rw [if_neg (by simp [hnew, hbusy, hlive]), if_pos hjust]

theorem exec_quotaRelease_due (hcastled : p.castled = true) (hmay : (s.queue c q.val).mayCastle = true) (hlive : s.live c = true) :
    exec (.quotaWaitRelease c q) s = .next (s.queueCards c q.val p) := by
  rw [exec_quotaWaitRelease, execQuotaWaitRelease]
  simp only [hp]
  exact if_neg (by simp [hcastled, hmay, hlive])

end

/-- An operator may castle while its queue waits for it, or once a reset has left it behind. -/
theorem mayCastle_iff {u : Queue} : u.mayCastle = true ↔ u.state = .waiting ∨ (u.opsLeft = 0 ∧ u.state ≠ .suspended) := by
  simp [Queue.mayCastle]

theorem not_suspended_of_mayCastle {u : Queue} (h : u.mayCastle = true) : u.state ≠ .suspended := by
  obtain h | ⟨-, h⟩ := mayCastle_iff.1 h
  · rw [h]; decide
  · exact h

theorem queueCards_overQuota {s : State} {c : CtxId} {p : QPend} (h : s.overQuota c ((s.ctx c).ncards + p.cards.length) = true) (q : Nat) :
    s.queueCards c q p = s.setQueue c q { s.queue c q with pending := some { p with castled := true } } := by
  rw [State.queueCards, if_pos (by rw [h]; rfl)]

end Sys2Proof.Machine
end

section
open Sys2Proof Sys2Proof.Machine

/-- Settles O46: a packet by the read that brings it, its operators and signals by the conditions under which they go on. -/
theorem packetsAndCastling : Obligations.PacketsAndCastling := by
  refine ⟨fun s c q bs => ⟨fetched_queue c q, fetched_cores s c q, fetched_mem s c q, fun hf hl hm hd => ?packets⟩,
    fun s c q => ⟨fun h sem ctr hh hw hs hp hb hl => exec_signalPerform_due hh hw hs hp hb hl, fun n x k h =>
      ⟨semPacket_alone h n x, ctrPacket_alone h n k⟩, fun h => exec_signalPerform_busy, fun h => exec_waitRelease_passes,
      fun h => exec_waitRelease_fails, fun p hp hn hm => ?castles, fun p hp hn => exec_castling_suspended hp hn,
      fun p => exec_castling_busy, fun p hp hc hm => exec_quotaRelease_due hp hc (mayCastle_iff.2 hm),
      fun p h => queueCards_overQuota h q.val⟩⟩
  case castles =>
    have hmay := mayCastle_iff.2 hm
    exact exec_castling_due hp hn hmay (not_suspended_of_mayCastle hmay)
  case packets =>
    have h : s.Reads c q bs := ⟨hf, hl, hm, hd⟩
    refine ⟨fun hseq => ⟨exec_nopPacket_taken h hseq, fun o => exec_badpacket_taken h hseq, fun n a hp hlen hloop => ?_,
      fun n a hp hlen => ?_, fun n a hp hlen hloop => ?_, fun sem ctr hn => ⟨fun hp => ?_, fun hp => ?_⟩,
      fun o hn => ⟨fun hp => ?_, fun hp => ?_⟩, fun n a => exec_operators_taken h hseq⟩, fun hseq => ⟨fun hs => ?_, fun hs => ?_⟩⟩
    · exact (exec_indirect_taken h hseq hp).trans (congrArg _ ((if_neg hlen).trans (if_neg (Bool.eq_false_iff.1 hloop))))
    · exact (exec_indirect_taken h hseq hp).trans (congrArg _ (if_pos hlen))
    · exact (exec_indirect_taken h hseq hp).trans (congrArg _ ((if_neg hlen).trans (if_pos hloop)))
    · exact (exec_wait_taken h hseq hp).trans (congrArg _ (takePacket_named hn q.val true))
    · exact (exec_signal_taken h hseq hp).trans (congrArg _ (takePacket_named hn q.val false))
    · exact (exec_wait_taken h hseq hp).trans (congrArg _ (takePacket_unnamed hn q.val true))
    · exact (exec_signal_taken h hseq hp).trans (congrArg _ (takePacket_unnamed hn q.val false))
    · exact (exec_staleReread_stale h hseq).trans (congrArg _ (if_pos hs))
    · exact ⟨_, (exec_staleReread_stale h hseq).trans (congrArg _ (if_neg (Nat.not_lt.2 hs))), rfl⟩
end

section
/-! SUPPORT. Rules of a device reset (R455), of the signed objects that VERIFY checks (R457), and of bring-up's stages (R456). -/

namespace Sys2Proof.Machine

/-! ## A map restricted to some of its keys -/

/-- A map without the entries of some keys reads the default there, and elsewhere what it read before. -/
theorem SMap.get_filter_key {α : Type} [DecidableEq α] {d : α} (p : Nat → Bool) (k : Nat) :
    ∀ {m : SMap α}, m.wf d → SMap.get d (m.filter fun e => p e.1) k = if p k then SMap.get d m k else d
  | [], _ => by simp [SMap.get]
  | (j, x) :: m, h => by
    obtain ⟨-, habove, hwf⟩ := SMap.wf_cons.1 h
    have ih := SMap.get_filter_key p k hwf
    obtain rfl | hkj := eq_or_ne k j
    · cases hp : p k with
      | true => simp [SMap.get, hp]
      | false => simpa [hp] using ih
    · by_cases hlt : k < j
      · rw [SMap.get_above d (SMap.above_mono hlt habove), ite_self] at ih
        cases hp : p j with
        | true => simp [SMap.get, hp, hkj, hlt]
        | false => simpa [SMap.get, hp, hkj, hlt] using ih
      · cases hp : p j <;> simpa [SMap.get, hp, hkj, hlt] using ih

/-! ## A core after a reset -/

/-- Only the row map differs. -/
def Core.MapOnly (x y : Core) : Prop := ∃ m, y = { x with rowmap := m }

theorem Core.MapOnly.trans {x y z : Core} (h : x.MapOnly y) (g : y.MapOnly z) : x.MapOnly z := by
  obtain ⟨_, rfl⟩ := h
  obtain ⟨_, rfl⟩ := g
  exact ⟨_, rfl⟩

theorem Core.MapOnly.foldl {α : Type} {f : Core → α → Core} (hf : ∀ y k, Core.MapOnly y (f y k)) (l : List α) (x : Core) :
    x.MapOnly (l.foldl f x) := by
  induction l generalizing x with
  | nil => exact ⟨_, rfl⟩
  | cons k l ih => exact (hf x k).trans (ih _)

theorem freshMap_mapOnly (x : Core) (b l : Nat) : x.MapOnly (x.freshMap b l) :=
  .trans ⟨_, rfl⟩ (.foldl (fun _ _ => ⟨_, rfl⟩) _ _)

/-- A reset leaves a core its demotion log and a row map made from it. -/
theorem afterReset_eq (x : Core) : ∃ m, x.afterReset = { Core.init with grades := x.log, rowmap := m } :=
  Core.MapOnly.foldl (fun y b => freshMap_mapOnly y b 6) _ { Core.init with grades := x.log }

theorem log_of_none_pending {x : Core} (h : x.pendDem = []) : x.log = x.grades := by rw [Core.log, h]; rfl

theorem core_deviceReset (s : State) (c : CoreId) : s.deviceReset.core c = (s.core c).afterReset := Vector.getElem_map ..

theorem mem_deviceReset {s : State} (h : s.Tidy) (a : Nat) :
    s.deviceReset.mem.read a = if hostBase ≤ a then s.mem.read a else 0 :=
  (SMap.get_filter_key (fun n => decide (hostBase ≤ n)) a h.mem).trans (by simp [Memory.read])

/-- The write of 1 to STATUS.DEVRST resets the device. -/
theorem write_devrst (s : State) : exec (.registerWrite 0x000FF0010000 8 0x8000000000000000) s = .next s.deviceReset :=
  (write_status ..).trans (congrArg _ (if_pos (by decide)))

/-! ## An interrupt -/

section
variable (s : State) (fn : Option (Fin 384)) (v : Nat)

theorem irq_only : ∃ m o, s.irq fn v = { s with msix := m, outbox := o } := by
  simp only [State.irq]
  split
  exacts [⟨_, _, rfl⟩, ⟨_, _, rfl⟩]

theorem irq_sends (hm : (s.msixOf fn v).mask = false) (hon : s.msixOn fn = true) :
    s.irq fn v = s.send (.msix fn v (s.msixOf fn v).addr (s.msixOf fn v).data) := by
  simp only [State.irq, hm, hon, Bool.not_true, Bool.or_self, Bool.false_eq_true, if_false]

theorem irq_masked (h : (s.msixOf fn v).mask = true ∨ s.msixOn fn = false) : (s.irq fn v).outbox = s.outbox := by
  have hb : ((s.msixOf fn v).mask || !s.msixOn fn) = true := by obtain h | h := h <;> simp [h]
  simp only [State.irq, hb, if_true]

end

/-! ## Signed objects -/

section
variable {x : List Byte} {k : Nat}

theorem objErr_unsigned (h : ¬ (objHeader x k = true ∧ objSigned x = true)) : objErr x k = 1 := by
  rw [objErr, if_pos (by rw [← Bool.not_and, Bool.not_eq_true', ← Bool.not_eq_true, Bool.and_eq_true]; exact h)]

theorem objErr_signed (hh : objHeader x k = true) (hs : objSigned x = true) :
    objErr x k = if objFld x 8 8 < Config.securityVersion.toNat then 2 else 0 := by
  rw [objErr, if_neg (by simp [hh, hs])]

theorem objErr_eq_one_iff : objErr x k = 1 ↔ ¬ (objHeader x k = true ∧ objSigned x = true) := by
  refine ⟨fun h hboth => ?_, objErr_unsigned⟩
  rw [objErr_signed hboth.1 hboth.2] at h
  split at h <;> exact absurd h (by decide)

theorem objErr_eq_two_iff : objErr x k = 2 ↔
    objHeader x k = true ∧ objSigned x = true ∧ objFld x 8 8 < Config.securityVersion.toNat := by
  by_cases hboth : objHeader x k = true ∧ objSigned x = true
  · obtain ⟨hh, hs⟩ := hboth
    rw [objErr_signed hh hs, and_iff_right hh, and_iff_right hs]
    split <;> simp_all
  · rw [objErr_unsigned hboth]
    exact ⟨fun h => absurd h (by decide), fun h => absurd ⟨h.1, h.2.1⟩ hboth⟩

theorem objErr_eq_zero_iff : objErr x k = 0 ↔
    objHeader x k = true ∧ objSigned x = true ∧ Config.securityVersion.toNat ≤ objFld x 8 8 := by
  by_cases hboth : objHeader x k = true ∧ objSigned x = true
  · obtain ⟨hh, hs⟩ := hboth
    rw [objErr_signed hh hs, and_iff_right hh, and_iff_right hs, ← not_lt]
    split <;> simp_all
  · rw [objErr_unsigned hboth]
    exact ⟨fun h => absurd h (by decide), fun h => absurd ⟨h.1, h.2.1⟩ hboth⟩

end

/-! ## Bring-up -/

section
variable {s : State} {o : BootObjects} {u : Setup} {err : Fin 6}

theorem verified_eq : s.verified o = if (bootErr o).1 = 0 then
    { s with stage := .train, cfgSigned := (bootErr o).2.1, stageErr := (bootErr o).2.2 } else s.stageFails (bootErr o).1 := by
  unfold State.verified
  split
  next h => rw [h, if_pos rfl]
  next hne h => rw [h, if_neg fun e => hne e]

/-- VERIFY fails with the error of the firmware image, else of the certificate; else the configuration settles what is signed. -/
theorem verified_of_objects : s.verified o =
    if objErr o.firmware 1 ≠ 0 then State.irq { s with stage := .failed, stageErr := objErr o.firmware 1 } none 69
    else if objErr o.cert 3 ≠ 0 then State.irq { s with stage := .failed, stageErr := objErr o.cert 3 } none 69
    else { s with
      stage := .train, cfgSigned := decide (objErr o.config 2 = 0)
      stageErr := if objHeader o.config 2 then objErr o.config 2 else 0 } := by
  rw [verified_eq]
  simp only [bootErr]
  by_cases hf : objErr o.firmware 1 = 0
  · by_cases hc : objErr o.cert 3 = 0
    · simp only [hf, hc, ne_eq, not_true, if_false, if_true]
    · simp only [hf, hc, ne_eq, not_true, not_false_eq_true, if_false, if_true]
      rfl
  · simp only [hf, ne_eq, not_false_eq_true, if_false, if_true]
    rfl

/-- What the end of a stage does, by the stage at which it comes. -/
def State.stageEnded (s : State) : Stage → StageEnd → State
  | .rom, .ok _ _ => { s with stage := .verify }
  | .verify, .ok o _ => s.verified o
  | .train, .ok _ _ => { s with stage := .firmware }
  | .firmware, .ok _ u => (State.setUp { s with stage := .ready } u).irq none 69
  | .ready, .ok _ u => s.setUp u
  | .failed, .ok _ _ => s
  | .ready, .failed _ | .failed, .failed _ => s
  | _, .failed err => if err = 0 then s else s.stageFails err

theorem exec_bringup_at {g : Stage} (h : s.stage = g) (e : StageEnd) :
    exec (.bringupStageAdvance e) s = .next (s.stageEnded g e) := by
  subst h
  rw [exec_bringupStageAdvance, execBringupStageAdvance.eq_def]
  cases hs : s.stage <;> cases e <;> rfl

theorem exec_bringup_failed (hr : s.stage ≠ .ready) (hf : s.stage ≠ .failed) (he : err ≠ 0) :
    exec (.bringupStageAdvance (.failed err)) s = .next (s.stageFails err) := by
  rw [exec_bringup_at rfl]
  cases hs : s.stage with
  | ready => exact absurd hs hr
  | failed => exact absurd hs hf
  | rom | verify | train | firmware => exact congrArg _ (if_neg he)

/-- READY and FAILED are not left by an error. -/
theorem exec_bringup_over (h : s.stage = .ready ∨ s.stage = .failed) :
    exec (.bringupStageAdvance (.failed err)) s = .next s := by
  obtain h | h := h <;> exact exec_bringup_at h _

end

end Sys2Proof.Machine
end

section
open Sys2Proof Sys2Proof.Machine

/-- Settles O49: a reset by the state that it makes, bring-up by the stage at which its event comes. -/
theorem resetsAndBringUp : Obligations.ResetsAndBringUp := by
  refine ⟨fun s => ⟨s.deviceReset, rfl, rfl, rfl, write_devrst s, rfl, fun c => ?core, fun c hpend => ?grades, fun p => ?part,
      fun k => ?cluster, rfl, rfl, rfl, rfl, rfl, rfl, rfl, rfl, fun ht => ⟨fun a ha => ?host, fun a ha => ?device⟩⟩,
    fun s o u err => ⟨fun h => ?rom, fun h => ?verify, fun x k => ⟨objErr_eq_zero_iff, objErr_eq_two_iff, objErr_eq_one_iff, ?signed⟩,
      fun h => ?train, fun h => ?firmware, fun hr hf he => ?fails, fun fn n => ⟨irq_sends s fn n, irq_masked s fn n⟩,
      fun h => ?ready, fun h => ?failed, exec_bringup_over⟩⟩
  case core =>
    obtain ⟨m, hm⟩ := afterReset_eq (s.core c)
    rw [State.job, core_deviceReset, hm]
    exact ⟨rfl, rfl, rfl, rfl, rfl⟩
  case grades =>
    obtain ⟨m, hm⟩ := afterReset_eq (s.core c)
    rw [core_deviceReset, hm]
    exact log_of_none_pending hpend
  case part => exact congrArg Part.desc (reset_part p)
  case cluster => exact congrArg Cluster.cards (Vector.getElem_replicate ..)
  case host => rw [mem_deviceReset ht, if_pos ha]
  case device => rw [mem_deviceReset ht, if_neg (Nat.not_le.2 ha)]
  case signed => simp only [objSigned, Bool.and_eq_true, decide_eq_true_eq, and_assoc]
  case rom => exact exec_bringup_at h _
  case verify => exact (exec_bringup_at h _).trans (congrArg _ verified_of_objects)
  case train => exact exec_bringup_at h _
  case firmware => exact exec_bringup_at h _
  case ready => exact exec_bringup_at h _
  case failed => exact exec_bringup_at h _
  case fails =>
    have hout := irq_outbox_congr (s := s) (t := { s with stage := .failed, stageErr := err }) none 69 rfl rfl rfl
    obtain ⟨m, out, hirq⟩ := irq_only { s with stage := .failed, stageErr := err } none 69
    exact ⟨_, exec_bringup_failed hr hf he, by rw [State.stageFails, hirq], by rw [State.stageFails, hirq], hout,
      by rw [State.stageFails, hirq], by rw [State.stageFails, hirq]⟩
end

section
/-! SUPPORT. What the device's own writes of records, its fills and its reseal orders leave as they were (R386, R401, R417): the cores,
the clusters, the metadata of the blocks, and the bytes of device memory below the host's. One lemma per function, in the order of
the model's files; a lemma `State.DeviceKept.f` speaks of `State.f`. -/

namespace Sys2Proof.Machine

/-- `t` has the cores, the clusters, the metadata and the bytes of device memory of `r`. -/
structure State.DeviceKept (r t : State) : Prop where
  cores : t.cores = r.cores
  clusters : t.clusters = r.clusters
  sealMeta : t.sealMeta = r.sealMeta
  wf : r.mem.wf = true → t.mem.wf = true
  mem : r.mem.wf = true → ∀ a < hostBase, t.mem.read a = r.mem.read a

theorem State.DeviceKept.refl (s : State) : s.DeviceKept s := ⟨rfl, rfl, rfl, id, fun _ _ _ => rfl⟩

theorem State.deviceKept_ite {r : State} {p : Prop} [Decidable p] {s t : State} (hs : r.DeviceKept s) (ht : r.DeviceKept t) :
    r.DeviceKept (if p then s else t) := by
  split
  exacts [hs, ht]

section
variable {r s : State} (h : r.DeviceKept s)
include h

theorem State.DeviceKept.job (c : CoreId) : s.job c = r.job c := by rw [State.job, State.core, h.cores]; rfl
theorem State.DeviceKept.cluster (k : CluId) : s.cluster k = r.cluster k := by rw [State.cluster, h.clusters]; rfl
theorem State.DeviceKept.metaOf (n : Nat) : s.metaOf n = r.metaOf n := by rw [State.metaOf, h.sealMeta]; rfl

/-- An update that reaches none of these. -/
theorem State.DeviceKept.same {t : State} (cores : t.cores = s.cores) (clusters : t.clusters = s.clusters)
    (metas : t.sealMeta = s.sealMeta) (mem : t.mem = s.mem) : r.DeviceKept t :=
  ⟨cores.trans h.cores, clusters.trans h.clusters, metas.trans h.sealMeta, fun hw => by rw [mem]; exact h.wf hw,
    fun hw a ha => by rw [mem]; exact h.mem hw a ha⟩

/-- A write of the host's memory. -/
theorem State.DeviceKept.hostWrite {t : State} {pa : Nat} {bs : List Byte} (hpa : hostBase ≤ pa) (cores : t.cores = s.cores)
    (clusters : t.clusters = s.clusters) (metas : t.sealMeta = s.sealMeta) (mem : t.mem = s.mem.writeBytes pa bs) : r.DeviceKept t :=
  ⟨cores.trans h.cores, clusters.trans h.clusters, metas.trans h.sealMeta, fun hw => by rw [mem]; exact Memory.wf_writeBytes (h.wf hw),
    fun hw a ha => by rw [mem, Memory.read_writeBytes_out (h.wf hw) (.inl (by omega))]; exact h.mem hw a ha⟩

theorem State.DeviceKept.setPart {p x} : r.DeviceKept (s.setPart p x) := h.same rfl rfl rfl rfl
theorem State.DeviceKept.setCtx {c x} : r.DeviceKept (s.setCtx c x) := h.same rfl rfl rfl rfl
theorem State.DeviceKept.withRecs {l} : r.DeviceKept { s with recs := l } := h.same rfl rfl rfl rfl
theorem State.DeviceKept.withPf0err {n} : r.DeviceKept { s with pf0err := n } := h.same rfl rfl rfl rfl

theorem State.DeviceKept.foldl {α : Type} {f : State → α → State} {l : List α} (hf : ∀ t x, r.DeviceKept t → r.DeviceKept (f t x)) :
    r.DeviceKept (l.foldl f s) := by
  induction l generalizing s with
  | nil => exact h
  | cons x l ih => exact ih (hf s x h)

/-! ## Fills, rooms and lines -/

theorem State.DeviceKept.needFill {f} : r.DeviceKept (s.needFill f) := State.deviceKept_ite h (h.same rfl rfl rfl rfl)

theorem State.DeviceKept.ownFill {ctx frame} : r.DeviceKept (s.ownFill ctx frame) := State.deviceKept_ite h.needFill h

theorem State.DeviceKept.needReseal {frame victim sweep} : r.DeviceKept (s.needReseal frame victim sweep) :=
  State.deviceKept_ite h (h.same rfl rfl rfl rfl)

theorem State.DeviceKept.makeRoom {ctx line} : r.DeviceKept (s.makeRoom ctx line) := by
  unfold State.makeRoom
  split
  · exact h
  · split
    · exact h
    · split
      · exact h.same rfl rfl rfl rfl
      · split
        next hhost => exact State.deviceKept_ite (h.hostWrite hhost rfl rfl rfl rfl) h
        next => exact h.needReseal

theorem State.DeviceKept.lineWrite {core pa bs} : r.DeviceKept (s.lineWrite core pa bs) := by
  unfold State.lineWrite
  split
  exacts [h, h.same rfl rfl rfl rfl]

theorem State.DeviceKept.hostCache {ctx pa mesi} : r.DeviceKept (s.hostCache ctx pa mesi) := by
  unfold State.hostCache
  split
  · exact State.deviceKept_ite h (h.same rfl rfl rfl rfl)
  · exact State.deviceKept_ite h.makeRoom (h.makeRoom.same rfl rfl rfl rfl)

theorem State.DeviceKept.commit {ctx core pa bs} : r.DeviceKept (s.commit ctx core pa bs) := by
  unfold State.commit
  split
  next hpa => exact State.deviceKept_ite h.hostCache.lineWrite (h.hostCache.hostWrite hpa rfl rfl rfl rfl)
  next => exact h.lineWrite

/-- A draw on the host allowance. -/
theorem State.DeviceKept.hostDraw {ctx kind pa} : r.DeviceKept (s.hostDraw ctx kind pa) :=
  State.deviceKept_ite (h.same rfl rfl rfl rfl) h

/-! ## Messages, snoops and records -/

theorem State.DeviceKept.irq {fn vector} : r.DeviceKept (s.irq fn vector) :=
  State.deviceKept_ite (h.same rfl rfl rfl rfl) (h.same rfl rfl rfl rfl)

theorem State.DeviceKept.pf0Error : r.DeviceKept s.pf0Error := h.withPf0err.irq

theorem State.DeviceKept.needSnoop {line} : r.DeviceKept (s.needSnoop line) := State.deviceKept_ite h (h.same rfl rfl rfl rfl)

theorem State.DeviceKept.forGate {ctx core g} : r.DeviceKept (s.forGate ctx core g) := by
  unfold State.forGate
  split
  · split
    exacts [h.needFill, h.ownFill]
  · exact h.needSnoop
  · exact h.makeRoom
  · exact h

theorem State.DeviceKept.sevLose : r.DeviceKept s.sevLose := h.same rfl rfl rfl rfl

theorem State.DeviceKept.recDone {x} : r.DeviceKept (s.recDone x) := by
  have hring : r.DeviceKept (match x.dst with
      | .sev => { s with sevWr := s.sevWr + 1 }
      | .prq p => (s.setPart p { s.part p with prqWr := ((s.part p).prqWr + 1) % 2 ^ 64 }).irq none p.val
      | _ => s) := by
    split
    · exact h.same rfl rfl rfl rfl
    · exact h.setPart.irq
    · exact h
  unfold State.recDone
  dsimp only
  split
  exacts [hring.irq, hring]

/-- The state that a try of a record leaves. -/
def RecRes.state : RecRes → State
  | .done s | .wait s => s

theorem State.DeviceKept.recTry {x} : r.DeviceKept (s.recTry x).state := by
  unfold State.recTry
  split
  · exact h.recDone
  · split
    · exact State.deviceKept_ite h.sevLose h.pf0Error
    · exact h.ownFill
    · split
      · exact h.hostDraw.commit.recDone
      · exact h.pf0Error
      · show r.DeviceKept (s.forGate _ none _)
        exact h.forGate

theorem State.DeviceKept.recLoop {n} : r.DeviceKept (s.recLoop n) := by
  induction n generalizing s with
  | zero => exact h
  | succ n ih =>
    unfold State.recLoop
    split
    · exact h
    next x _ _ =>
      have hx := h.recTry (x := x)
      cases ht : s.recTry x with
      | done t =>
        rw [ht] at hx
        exact ih (State.DeviceKept.withRecs hx)
      | wait t =>
        rw [ht] at hx
        exact hx

theorem State.DeviceKept.drainRecs : r.DeviceKept s.drainRecs := h.recLoop

theorem State.DeviceKept.record {dst bytes msg} : r.DeviceKept (s.record dst bytes msg) :=
  h.withRecs.drainRecs

/-! ## Page requests and seal events -/

theorem State.DeviceKept.prqPut {p x} : r.DeviceKept (s.prqPut p x) := h.setPart.record

theorem State.DeviceKept.askPage {own ctx kind reason level engine va coreid owner} :
    r.DeviceKept (s.askPage own ctx kind reason level engine va coreid owner) :=
  h.setPart.foldl fun _ _ ht => State.deviceKept_ite ht ht.prqPut

theorem State.DeviceKept.sealEvent {kind ctx frame} : r.DeviceKept (s.sealEvent kind ctx frame) :=
  State.deviceKept_ite h.sevLose
    (State.deviceKept_ite (State.deviceKept_ite (h.same rfl rfl rfl rfl) h.sevLose) h.record)

theorem State.DeviceKept.sweepOn {c} : r.DeviceKept (s.sweepOn c) := by
  unfold State.sweepOn
  dsimp only
  split
  · exact h
  · split
    · exact h.setCtx.needReseal
    · exact h.setCtx.sealEvent

theorem State.DeviceKept.sweepPast {x} : r.DeviceKept (s.sweepPast x) := by
  unfold State.sweepPast
  split
  · exact h
  · exact State.deviceKept_ite h h.setCtx.sweepOn

end

end Sys2Proof.Machine
end

section
/-! SUPPORT. Rules of the walks that end (R373, R376-R378), of shoot-downs (R376) and of the answers to page requests (R401). -/

namespace Sys2Proof.Machine

/-! ## Lines that a read has used -/

/-- The lines of `t` are those of `s`, some of them used since. -/
structure State.Aged (s t : State) : Prop where
  mem : t.mem = s.mem
  kept : ∀ n l, SMap.find s.lines n = some l → ∃ a, SMap.find t.lines n = some { l with age := a }
  absent : ∀ n, SMap.find s.lines n = none → SMap.find t.lines n = none

theorem State.Aged.refl (s : State) : s.Aged s := ⟨rfl, fun _ l h => ⟨l.age, h⟩, fun _ h => h⟩

theorem State.Aged.trans {s t u : State} (h : s.Aged t) (g : t.Aged u) : s.Aged u := by
  refine ⟨g.mem.trans h.mem, fun n l hl => ?_, fun n hn => g.absent n (h.absent n hn)⟩
  obtain ⟨a, ha⟩ := h.kept n l hl
  exact g.kept n { l with age := a } ha

theorem touch_aged (s : State) (pa : Nat) : s.Aged (s.touch pa) := by
  unfold State.touch
  split
  · exact .refl s
  next l hl =>
    refine ⟨rfl, fun n x hx => ?_, fun n hn => ?_⟩
    · by_cases hpa : n = pa / 128
      · subst hpa
        rw [hl] at hx
        cases hx
        exact ⟨_, SMap.find_insert_self ..⟩
      · exact ⟨x.age, (SMap.find_insert_ne _ _ hpa).trans hx⟩
    · have hpa : n ≠ pa / 128 := fun e => by rw [e, hl] at hn; cases hn
      exact (SMap.find_insert_ne _ _ hpa).trans hn

theorem foldl_touch_aged (l : List Nat) (s : State) : s.Aged (l.foldl State.touch s) := by
  induction l generalizing s with
  | nil => exact .refl s
  | cons pa l ih => exact (touch_aged s pa).trans (ih _)

theorem walkUsed_aged (s : State) (c : CtxId) (va : Nat) : s.Aged (s.walkUsed c va) := by
  unfold State.walkUsed
  split
  · exact .refl s
  · split
    exacts [.refl s, foldl_touch_aged _ s]

theorem State.Aged.peekMem {s t : State} (h : s.Aged t) (pa n : Nat) : t.peekMem pa n = s.peekMem pa n := by
  unfold State.peekMem
  cases hl : SMap.find s.lines (pa / 128) with
  | none => rw [h.absent _ hl, h.mem]
  | some l =>
    obtain ⟨a, ha⟩ := h.kept _ l hl
    rw [ha]

/-- What a read has used changes nothing of a context's descriptor, nor of the tag that its next request takes. -/
theorem State.Aged.pageTag {s t : State} (h : s.Aged t) (hparts : t.parts = s.parts) (p : PartId) (c : CtxId) :
    t.pageTag p c = s.pageTag p c := by
  have hpart : t.part = s.part := funext fun q => by rw [State.part, State.part, hparts]
  have hctx : t.ctxPart c = s.ctxPart c := by simp only [State.ctxPart, hpart]
  have hdesc : t.ctxDesc c = s.ctxDesc c := by simp only [State.ctxDesc, State.peekNat, h.peekMem, hctx, hpart]
  have hprq : t.prqOf c p = s.prqOf c p := by
    unfold State.prqOf
    simp only [hdesc, hpart]
  rw [State.pageTag, hprq, hpart, State.pageTag]

/-! ## A walk that ends -/

/-- The place of a walk is free. -/
def State.freed (s : State) (k : CluId) (w : Fin 16) : State :=
  s.setCluster k { s.cluster k with walks := (s.cluster k).walks.set w.val none }

/-- What a walk that was not killed does where it ends (R373, R376, R377). -/
def State.walkEnds (s : State) (k : CluId) (w : Fin 16) (f : WalkFlight) : Walked → State
  | .leaf e => ((s.freed k w).walkUsed f.ctx f.va).walkGood k f e
  | .stop x => if f.use.isProbe then (s.freed k w).probeEnds f else ((s.freed k w).walkUsed f.ctx f.va).walkBad f x
  | .bad cause => if f.use.isProbe then (s.freed k w).probeEnds f else (s.freed k w).walkCause f cause
  | .fill n => s.needFill { frame := n, ctx := f.ctx, core := some f.use.user.1, quiet := f.use.isProbe }

section
variable (s : State) (k : CluId) (w : Fin 16)

theorem freed_walk : ((s.freed k w).cluster k).walks[w.val] = none := by
  rw [State.freed, cluster_setCluster]
  exact Vector.getElem_set_self ..

end

section
variable {s : State} {k : CluId} {w : Fin 16} {f : WalkFlight} (hw : (s.cluster k).walks[w.val] = some f)
include hw

theorem exec_pageWalkEnd_killed {q : PartId} (hkilled : f.killed = true) (hq : s.ctxPart f.ctx = some q) :
    exec (.pageWalkEnd k w) s = .next (s.setCluster k { s.cluster k with
      walks := (s.cluster k).walks.set w.val (some { f with killed := false, seq := (s.part q).seq }) }) := by
  simp only [exec_pageWalkEnd, execPageWalkEnd, hw, hkilled, if_true, hq]

theorem exec_pageWalkEnd_live (hlive : f.killed = false) :
    exec (.pageWalkEnd k w) s = .next (s.walkEnds k w f (s.walkTables f.ctx f.va)) := by
  simp only [exec_pageWalkEnd, execPageWalkEnd, hw, hlive, Bool.false_eq_true, if_false]
  cases s.walkTables f.ctx f.va <;> rfl

end

/-! ## What a walk's end does for its access -/

section
variable (s : State) (k : CluId) (f : WalkFlight) (e : TlbEnt)

/-- A walk that finds its leaf fills both levels of TLB, and changes nothing else than its job's page waits. -/
theorem walkGood_kept : (s.walkGood k f e).mem = s.mem ∧ (s.walkGood k f e).lines = s.lines ∧
    (s.walkGood k f e).cluster k = { s.cluster k with tlb2 := tlbInsert 4096 s.fresh (s.cluster k).tlb2 e } ∧
    ((s.walkGood k f e).core f.use.user.1).tlb = tlbInsert1 (s.fresh + 1) (s.core f.use.user.1).tlb e := by
  unfold State.walkGood
  dsimp only
  split <;> refine ⟨rfl, rfl, cluster_setCluster .., ?_⟩
  · rw [core_setJob]
    exact congrArg Core.tlb (core_setCore ..)
  · exact congrArg Core.tlb (core_setCore ..)

variable {s f} {j : Job} (hj : s.job f.use.user.1 = some j) (hctx : j.ctx = f.ctx)
include hj hctx

theorem probeEnds_job : (s.probeEnds f).job f.use.user.1 = some { j with a := { j.a with probed := some (f.va / 4096) } } := by
  simp only [State.probeEnds, hj, hctx, if_true]
  exact job_setJob ..

theorem walkCause_job (cause : Cause) :
    (s.walkCause f cause).job f.use.user.1 = some (j.pageFails f.use.user.2 f.use.kind f.va cause 0) := by
  simp only [State.walkCause, hj, hctx, ne_eq, not_true, if_false]
  exact job_setJob ..

/-- The first failure of a walk leaves a page wait with the tag of the request that it posts. -/
theorem walkBad_first (x : WalkStop) (hpages : j.pages = []) : ∃ j2, (s.walkBad f x).job f.use.user.1 = some j2 ∧
    j2.pages = [{ user := f.use.user.2, va := f.va, tag := some (s.pageTag j.part j.ctx), fails := 1, denied := none }] := by
  refine ⟨j.setPage { user := f.use.user.2, va := f.va, tag := some (s.pageTag j.part j.ctx), fails := 1, denied := none }, ?_,
    by rw [Job.setPage, hpages]; rfl⟩
  simp only [State.walkBad, hj, hctx, hpages, ne_eq, not_true, if_false, List.find?_nil]
  rw [if_neg (by decide), State.DeviceKept.job (.askPage (.refl _)), job_setJob]

/-- The fifth failure in a row denies the page. -/
theorem walkBad_fifth (x : WalkStop) {y : PageWait} (hpages : j.pages = [y]) (hat : y.at_ f.use.user.2 f.va = true)
    (hfails : y.fails = 4) :
    (s.walkBad f x).job f.use.user.1 = some (j.pageFails f.use.user.2 f.use.kind f.va .pageDenied 5) := by
  have hfind : [y].find? (fun x => x.at_ f.use.user.2 f.va) = some y := List.find?_cons_of_pos hat
  simp only [State.walkBad, hj, hctx, hpages, ne_eq, not_true, if_false, hfind, hfails]
  rw [if_pos (by decide)]
  exact job_setJob ..

end

section
variable (s : State) (f : WalkFlight)

theorem probeEnds_kept : (s.probeEnds f).parts = s.parts ∧ (s.probeEnds f).mem = s.mem ∧ (s.probeEnds f).clusters = s.clusters := by
  unfold State.probeEnds
  dsimp only
  split
  · split <;> exact ⟨rfl, rfl, rfl⟩
  · exact ⟨rfl, rfl, rfl⟩

theorem walkCause_kept (cause : Cause) : (s.walkCause f cause).mem = s.mem ∧ (s.walkCause f cause).clusters = s.clusters := by
  unfold State.walkCause
  dsimp only
  split
  · exact ⟨rfl, rfl⟩
  · split <;> exact ⟨rfl, rfl⟩

theorem walkBad_clusters (x : WalkStop) : (s.walkBad f x).clusters = s.clusters := by
  unfold State.walkBad
  dsimp only
  split
  · rfl
  · split
    · rfl
    · refine (apply_ite State.clusters ..).trans ?_
      rw [(State.DeviceKept.askPage (.refl _)).clusters]
      exact ite_self _

end

/-! ## A page that fails -/

section
variable {j : Job} {y : PageWait} {va : Nat} (hpages : j.pages = [y])
include hpages

/-- The page wait of a user takes the place of the one that it had. -/
theorem setPage_alone {x : PageWait} (huser : y.user = x.user) : (j.setPage x).pages = [x] := by
  rw [Job.setPage, hpages, List.filter_cons_of_neg (by simp [huser])]
  rfl

theorem pageFails_waits {u : PageUser} {kind fails : Nat} (huser : y.user = u) (hkind : kind ≠ 3) :
    (j.pageFails u kind va .pageDenied fails).pages = [{ user := u, va, tag := none, fails, denied := some .pageDenied }] := by
  cases u with
  | copy n => exact setPage_alone hpages huser
  | eng e =>
    simp only [Job.pageFails, if_pos hkind]
    exact setPage_alone hpages huser

/-- A fetch takes the deny in C at once. -/
theorem pageFails_fetch {e : Eng} {fails : Nat} (huser : y.user = .eng e) :
    (j.pageFails (.eng e) 3 va .pageDenied fails).pages = [] ∧
      (j.pageFails (.eng e) 3 va .pageDenied fails).raised = (j.raiseFetch .pageDenied (BitVec.ofNat 48 va)).raised := by
  refine ⟨?_, rfl⟩
  simp only [Job.pageFails, hpages, ne_eq, not_true, if_false]
  rw [List.filter_cons_of_neg (by simp [huser])]
  rfl

end

/-! ## Shoot-downs and answers -/

/-- A walk of a partition's clusters that is older than an invalidation holds it back. -/
theorem mem_shoots_shootdownComplete (s : State) (p : PartId) : ∃ t, exec (.shootdownComplete p) s = .next t ∧
    ∀ x, x ∈ (t.part p).shoots ↔ x ∈ (s.part p).shoots ∧
      ∃ c ∈ s.partClus p, ∃ g, some g ∈ (s.cluster c).walks.toList ∧ g.seq < x.s := by
  refine ⟨_, rfl, fun x => ?_⟩
  rw [part_setPart, List.mem_filter]
  refine and_congr_right fun _ => ?_
  rw [List.any_eq_true]
  refine exists_congr fun c => and_congr_right fun _ => ?_
  rw [List.any_eq_true]
  constructor
  · rintro ⟨g, hg, h⟩
    cases g with
    | none => exact absurd h (by simp)
    | some g => exact ⟨g, hg, of_decide_eq_true h⟩
  · rintro ⟨g, hg, h⟩
    exact ⟨some g, hg, decide_eq_true h⟩

section
variable {s : State} {p : PartId} {v : W64}

theorem exec_pageRequestAnswer_early (hs : s.stage ≠ .ready) : exec (.pageRequestAnswer p v) s = .next s.dropEarly := by
  rw [exec_pageRequestAnswer, execPageRequestAnswer, if_pos hs]

theorem bits_15_1 (n : Nat) : bitsAt n 1 15 = n % 2 ^ 16 / 2 := by
  rw [bitsAt_eq]
  omega

theorem exec_pageRequestAnswer_reserved (hs : s.stage = .ready) (hv : v.toNat % 2 ^ 16 / 2 ≠ 0) :
    exec (.pageRequestAnswer p v) s = .next (s.reserved .firmware) := by
  rw [exec_pageRequestAnswer, execPageRequestAnswer, if_neg (not_not.2 hs), if_pos (by rwa [bits_15_1])]

section
variable (hs : s.stage = .ready) (hv : v.toNat % 2 ^ 16 / 2 = 0)
include hs hv

theorem exec_pageRequestAnswer_unknown
    (hr : ((s.part p).reqs.find? fun r => decide (r.tag = v.toNat / 2 ^ 32) && r.posted) = none) :
    exec (.pageRequestAnswer p v) s = .next (s.setPart p { s.part p with late := (s.part p).late + 1 }) := by
  rw [exec_pageRequestAnswer, execPageRequestAnswer, if_neg (not_not.2 hs), if_neg (by rw [bits_15_1]; exact not_not.2 hv)]
  simp only [hr]

theorem exec_pageRequestAnswer_known {r : PageReq}
    (hr : ((s.part p).reqs.find? fun r => decide (r.tag = v.toNat / 2 ^ 32) && r.posted) = some r) :
    exec (.pageRequestAnswer p v) s = .next (if v.toNat / 2 ^ 16 % 2 ^ 16 ≠ s.ctxGen r.ctx then
      s.setPart p { s.part p with late := (s.part p).late + 1 }
    else State.answer (s.setPart p { s.part p with reqs := (s.part p).reqs.filter fun x => decide (x.tag ≠ r.tag) }) r
      (decide (v.toNat % 2 = 1))) := by
  rw [exec_pageRequestAnswer, execPageRequestAnswer, if_neg (not_not.2 hs), if_neg (by rw [bits_15_1]; exact not_not.2 hv)]
  simp only [hr, bitsAt_eq]
  split <;> rfl

end

end

end Sys2Proof.Machine
end

section
open Sys2Proof Sys2Proof.Machine

/-- Settles O42: a walk by what its tables answer, a failure by the page wait that stands, an answer by the request it names. -/
theorem walksAndAnswers : Obligations.WalksAndAnswers := by
  intro s k w f p v hw
  refine ⟨fun hkilled q hq => ⟨_, exec_pageWalkEnd_killed hw hkilled hq, ?killed, rfl⟩,
    fun hlive e hleaf => ?leaf, fun n hlive hfill => ?fill, fun hlive hprobe hends => ?probe, fun cause hprobe hlive hbad => ?bad,
    fun x hprobe hlive hstop => ?stop, fun c u y j huser hj hctx hpages hat hfails x => ?fifth, ?shoot,
    exec_pageRequestAnswer_early, exec_pageRequestAnswer_reserved, exec_pageRequestAnswer_unknown, fun r hs hv hr => ?known⟩
  case killed =>
    rw [cluster_setCluster]
    exact Vector.getElem_set_self ..
  case fill => rw [exec_pageWalkEnd_live hw hlive, hfill]; rfl
  case leaf =>
    have hexec := exec_pageWalkEnd_live hw hlive
    rw [hleaf] at hexec
    obtain ⟨l, u, a, hused⟩ := walkUsed_drawOnly (s.freed k w) f.ctx f.va
    have haged := walkUsed_aged (s.freed k w) f.ctx f.va
    obtain ⟨hmem, hlines, hclu, htlb⟩ := walkGood_kept ((s.freed k w).walkUsed f.ctx f.va) k f e
    refine ⟨_, hexec, ?_, ?_, ?_, hmem.trans haged.mem, fun n x hx => ?_, fun n hn => ?_⟩
    · have hwalks : (((s.freed k w).walkUsed f.ctx f.va).cluster k).walks = ((s.freed k w).cluster k).walks := by
        rw [hused]
        rfl
      exact (congrArg (fun x => x[w.val]) ((congrArg Cluster.walks hclu).trans hwalks)).trans (freed_walk s k w)
    · simp only [State.walkEnds, htlb]
      exact List.mem_cons_self ..
    · simp only [State.walkEnds, hclu]
      exact List.mem_cons_self ..
    · simpa only [State.walkEnds, hlines] using haged.kept n x hx
    · simpa only [State.walkEnds, hlines] using haged.absent n hn
  case probe =>
    have hexec : exec (.pageWalkEnd k w) s = .next ((s.freed k w).probeEnds f) := by
      rw [exec_pageWalkEnd_live hw hlive]
      obtain ⟨x, hx⟩ | ⟨x, hx⟩ := hends <;> rw [hx] <;> exact congrArg _ (if_pos hprobe)
    obtain ⟨hparts, hmem, hclu⟩ := probeEnds_kept (s.freed k w) f
    exact ⟨_, hexec, by simp only [State.cluster, hclu]; exact freed_walk s k w, hparts, hmem,
      fun j hj hctx => probeEnds_job (s := s.freed k w) hj hctx⟩
  case bad =>
    have hexec : exec (.pageWalkEnd k w) s = .next ((s.freed k w).walkCause f cause) := by
      rw [exec_pageWalkEnd_live hw hlive, hbad]
      exact congrArg _ (if_neg (by simp [hprobe]))
    obtain ⟨hmem, hclu⟩ := walkCause_kept (s.freed k w) f cause
    exact ⟨_, hexec, by simp only [State.cluster, hclu]; exact freed_walk s k w, hmem,
      fun j hj hctx => walkCause_job (s := s.freed k w) hj hctx cause⟩
  case stop =>
    have hexec : exec (.pageWalkEnd k w) s = .next (((s.freed k w).walkUsed f.ctx f.va).walkBad f x) := by
      rw [exec_pageWalkEnd_live hw hlive, hstop]
      exact congrArg _ (if_neg (by simp [hprobe]))
    obtain ⟨l, u, a, hused⟩ := walkUsed_drawOnly (s.freed k w) f.ctx f.va
    refine ⟨_, hexec, ?_, fun j hj hctx hpages => ?_⟩
    · simp only [State.cluster, walkBad_clusters]
      rw [hused]
      exact freed_walk s k w
    · have hused_job : ((s.freed k w).walkUsed f.ctx f.va).job f.use.user.1 = some j := by rw [hused]; exact hj
      have htag : ((s.freed k w).walkUsed f.ctx f.va).pageTag j.part j.ctx = s.pageTag j.part j.ctx :=
        (walkUsed_aged (s.freed k w) f.ctx f.va).pageTag (by rw [hused]) j.part j.ctx
      rw [← htag]
      exact walkBad_first hused_job hctx x hpages
  case fifth =>
    obtain ⟨rfl, rfl⟩ : c = f.use.user.1 ∧ u = f.use.user.2 := by rw [← huser]; exact ⟨rfl, rfl⟩
    have hyuser : y.user = f.use.user.2 := of_decide_eq_true (Bool.and_eq_true_iff.1 hat).1
    refine ⟨_, walkBad_fifth hj hctx x hpages hat hfails, fun hkind => ?_, fun hkind e he => ?_⟩
    · exact ⟨_, pageFails_waits hpages hyuser hkind, rfl, rfl, rfl⟩
    · rw [he, hkind]
      exact pageFails_fetch hpages (hyuser.trans he)
  case shoot => exact mem_shoots_shootdownComplete s p
  case known =>
    have hexec := exec_pageRequestAnswer_known hs hv hr
    exact ⟨fun hgen => hexec.trans (congrArg _ (if_pos hgen)), fun hgen => hexec.trans (congrArg _ (if_neg (not_not.2 hgen)))⟩
end

section
/-! SUPPORT. Rules of sealed memory: how a fill ends (R408, R415, R416, R434), what a reseal writes (R410, R411), and the frames that
firmware assigns (R406). -/

namespace Sys2Proof.Machine

/-! ## What accounts and monitors leave of the blocks -/

theorem ctx_congr {s t : State} (h : t.ctxs = s.ctxs) (c : CtxId) : t.ctx c = s.ctx c := by
  rw [State.ctx, State.ctx]
  simp only [h]

/-- `t` has the lines, the memory, the metadata, the key slots, and the fills, reseals and records under way of `r`. -/
structure State.BlocksKept (r t : State) : Prop where
  lines : t.lines = r.lines
  mem : t.mem = r.mem
  sealMeta : t.sealMeta = r.sealMeta
  ctxs : t.ctxs = r.ctxs
  fills : t.fills = r.fills
  reseals : t.reseals = r.reseals
  recs : t.recs = r.recs

theorem State.BlocksKept.refl (s : State) : s.BlocksKept s := ⟨rfl, rfl, rfl, rfl, rfl, rfl, rfl⟩

theorem State.BlocksKept.trans {r s t : State} (h : r.BlocksKept s) (g : s.BlocksKept t) : r.BlocksKept t :=
  ⟨g.lines.trans h.lines, g.mem.trans h.mem, g.sealMeta.trans h.sealMeta, g.ctxs.trans h.ctxs, g.fills.trans h.fills,
    g.reseals.trans h.reseals, g.recs.trans h.recs⟩

theorem State.BlocksKept.metaOf {r t : State} (h : r.BlocksKept t) (n : Nat) : t.metaOf n = r.metaOf n := by
  rw [State.metaOf, h.sealMeta, State.metaOf]

theorem State.BlocksKept.ctx {r t : State} (h : r.BlocksKept t) (c : CtxId) : t.ctx c = r.ctx c := ctx_congr h.ctxs c

section
variable (s : State)

theorem install_kept (c : CtxId) (n : Nat) (x : Option Cause) : (s.install c n x).fills = s.fills ∧
    (s.install c n x).sealMeta = s.sealMeta ∧ (s.install c n x).mem = s.mem := by
  unfold State.install
  exact ⟨rfl, rfl, rfl⟩

theorem meterBlock_blocksKept (c : Option CoreId) : s.BlocksKept (s.meterBlock c) := by
  unfold State.meterBlock
  dsimp only
  split
  · exact ⟨rfl, rfl, rfl, rfl, rfl, rfl, rfl⟩
  · split
    · exact ⟨rfl, rfl, rfl, rfl, rfl, rfl, rfl⟩
    · split
      · exact ⟨rfl, rfl, rfl, rfl, rfl, rfl, rfl⟩
      · split <;> exact ⟨rfl, rfl, rfl, rfl, rfl, rfl, rfl⟩

theorem sample_blocksKept (k : Fin 5) (i : Option IslId) (x : Int) : s.BlocksKept (s.sample k i x) := by
  unfold State.sample
  dsimp only
  generalize (_ || _ : Bool) = mine
  split <;> exact ⟨rfl, rfl, rfl, rfl, rfl, rfl, rfl⟩

theorem readCorrected_blocksKept (n : Nat) (found : FillResult) : s.BlocksKept (s.readCorrected n found) := by
  unfold State.readCorrected State.frameCorrected State.fastFrame
  split
  · split
    · exact ⟨rfl, rfl, rfl, rfl, rfl, rfl, rfl⟩
    · split <;> exact ⟨rfl, rfl, rfl, rfl, rfl, rfl, rfl⟩
  · exact .refl s

theorem sideFill_blocksKept (c : CoreId) (j : Job) (pa : Nat) (x : Row) : s.BlocksKept (s.sideFill c j pa x) := by
  unfold State.sideFill
  split
  exacts [.refl s, ⟨rfl, rfl, rfl, rfl, rfl, rfl, rfl⟩]

theorem sideGo_blocksKept (f : Fill) : s.BlocksKept (s.sideGo f) := by
  unfold State.sideGo
  generalize f.side = l
  induction l generalizing s with
  | nil => exact .refl s
  | cons x l ih =>
    refine .trans ?_ (ih _)
    dsimp only
    split
    · exact .refl s
    · split
      · exact .refl s
      · split
        exacts [sideFill_blocksKept .., .refl s]

end

/-! ## A fill that is over -/

/-- A fill is over: its correction counts, its task or the host allowance pays, and its time is sampled (R356, R404, R419, R461). -/
def State.fillOver (s : State) (f : Fill) (found : FillResult) (st : State) : State :=
  let st1 := { st.readCorrected f.frame found with fills := st.fills.filter fun x => decide (x.frame ≠ f.frame) }
  State.sample (if f.prepaid then st1 else st1.meterBlock (s.taskCore f.payer)) 4 (f.core.map coreIsl) (s.time - f.since : Nat)

theorem fillOver_kept (s : State) (f : Fill) (found : FillResult) (st : State) :
    State.BlocksKept { st with fills := st.fills.filter fun x => decide (x.frame ≠ f.frame) } (s.fillOver f found st) := by
  have hread := readCorrected_blocksKept st f.frame found
  have hpaid : State.BlocksKept { st with fills := st.fills.filter fun x => decide (x.frame ≠ f.frame) }
      { st.readCorrected f.frame found with fills := st.fills.filter fun x => decide (x.frame ≠ f.frame) } :=
    ⟨hread.lines, hread.mem, hread.sealMeta, hread.ctxs, rfl, hread.reseals, hread.recs⟩
  refine .trans ?_ (sample_blocksKept ..)
  split
  exacts [hpaid, hpaid.trans (meterBlock_blocksKept ..)]

section
variable {s : State} {f : Fill} {found : FillResult} (hf : s.fills = [f])
include hf

theorem find_fill : s.fills.find? (fun x => decide (x.frame = f.frame)) = some f := by
  rw [hf]
  exact List.find?_cons_of_pos (decide_eq_true rfl)

theorem fillOver_fills {st : State} (h : st.fills = s.fills) : (s.fillOver f found st).fills = [] := by
  rw [(fillOver_kept s f found st).fills]
  simp only [h, hf]
  exact List.filter_cons_of_neg (by simp)

/-- A fill that nobody pays for waits for the host allowance. -/
theorem exec_sealFillComplete_waits (hpre : f.prepaid = false) (hpay : s.taskCore f.payer = none) (ha : s.hostAllow < 8) :
    exec (.sealFillComplete f.frame found) s = .next s := by
  have hcover : s.hostCovers = false := decide_eq_false (by omega)
  simp only [exec_sealFillComplete, execSealFillComplete, find_fill hf, hpre, hpay, hcover, Option.isNone_none, Bool.not_false,
    Bool.and_self, Bool.or_true, if_true]

omit hf in
theorem fill_goes_on (hr : s.reseals = []) (hpaid : f.prepaid = true ∨ (s.taskCore f.payer).isSome = true ∨ 8 ≤ s.hostAllow) :
    ((s.reseals.any fun x => decide (x.frame = f.frame)) ||
      (!f.prepaid && (s.taskCore f.payer).isNone && !s.hostCovers)) = false := by
  rw [hr, List.any_nil, Bool.false_or]
  obtain h | h | h := hpaid
  · rw [h]; rfl
  · rw [← Option.not_isSome, h]; simp
  · rw [show s.hostCovers = true from decide_eq_true h]; simp

variable (hr : s.reseals = []) (hpaid : f.prepaid = true ∨ (s.taskCore f.payer).isSome = true ∨ 8 ≤ s.hostAllow)
include hr hpaid

theorem exec_sealFillComplete_nothing (hend : fillEnd s f found = .nothing) :
    exec (.sealFillComplete f.frame found) s = .next (s.fillOver f found s).ownOn := by
  simp only [exec_sealFillComplete, execSealFillComplete, find_fill hf, fill_goes_on hr hpaid, Bool.false_eq_true, if_false, hend]
  rfl

theorem exec_sealFillComplete_install (hend : fillEnd s f found = .install) (hroom : s.hasRoom f.ctx f.frame = true)
    (hrooms : s.makeRooms f.ctx f.frame = s) : exec (.sealFillComplete f.frame found) s =
      .next (s.fillOver f found ((s.install f.ctx f.frame none).sideGo f)).ownOn := by
  simp only [exec_sealFillComplete, execSealFillComplete, find_fill hf, fill_goes_on hr hpaid, Bool.false_eq_true, if_false, hend,
    hrooms, hroom, Bool.not_true]
  rfl

end

/-! ## How a fill ends -/

section
variable {s : State} {f : Fill} {r : FillResult}

theorem fillEnd_barred (h : s.fillBarred f.ctx f.frame = true) : fillEnd s f r = .nothing := by rw [fillEnd, if_pos h]

theorem fillBarred_of_foreign {c : CtxId} {n : Nat}
    (h : (s.metaOf n).ctx.toNat ≠ ctxNum c ∨ ((s.metaOf n).state ≠ 0 ∧ (s.ctx c).key.cur = none)) : s.fillBarred c n = true := by
  obtain h | ⟨hstate, hkey⟩ := h
  · simp [State.fillBarred, State.foreign, h]
  · simp only [State.fillBarred, hkey, Option.isNone_none, decide_eq_true hstate, Bool.and_self, Bool.or_true]

theorem fillBarred_of_owned {c : CtxId} {n : Nat} (hctx : (s.metaOf n).ctx.toNat = ctxNum c) (hn : n < frameCount)
    (hkey : (s.metaOf n).state = 0 ∨ (s.ctx c).key.cur.isSome = true) : s.fillBarred c n = false := by
  have hforeign : s.foreign c n = false := by simp [State.foreign, hctx, hn]
  rw [State.fillBarred, hforeign, Bool.false_or]
  obtain h | h := hkey
  · simp [h]
  · rw [← Option.not_isSome, h]; simp

theorem fillEnd_open (h : s.fillBarred f.ctx f.frame = false) :
    fillEnd s f r = blockEnd (s.metaOf f.frame) (s.ctx f.ctx).key (s.readMeets f.frame r) := by
  rw [fillEnd, if_neg (by simp [h])]

theorem readMeets_bad {n : Nat} (h : n ∈ s.badFrames) : s.readMeets n r = .dataUncorrectable := if_pos h
theorem readMeets_good {n : Nat} (h : n ∉ s.badFrames) : s.readMeets n r = r := if_neg h

end

section
variable {m : Meta} {k : KeySlot} {r : FillResult}

theorem blockEnd_lost_data : blockEnd m k .dataUncorrectable = .poison .eccUe := if_pos rfl
theorem blockEnd_lost_meta : blockEnd m k .metaUncorrectable = .tagFail := rfl

theorem blockEnd_mismatch (hm : m.state ≠ 0) : blockEnd m k .tagMismatch = .tagFail := by
  simp only [blockEnd, reduceCtorEq, if_false, if_neg hm, or_true, if_true]

/-- A block that has never been sealed is taken as it is. -/
theorem blockEnd_empty (hm : m.state = 0) (hr : r = .verified ∨ r = .corrected) : blockEnd m k r = .install := by
  obtain rfl | rfl := hr <;> simp [blockEnd, hm]

theorem blockEnd_reserved (hm : 3 < m.state.toNat) (hr : r ≠ .dataUncorrectable) : blockEnd m k r = .tagFail := by
  have hne : m.state ≠ 0 := fun h => by rw [h] at hm; exact absurd hm (by decide)
  simp only [blockEnd, if_neg hr, if_neg hne, if_pos (Or.inl hm), ite_self]

/-- A sealed block is good where its tag verifies under a generation that the slot holds. -/
theorem blockEnd_sealed (hlo : 1 ≤ m.state.toNat) (hhi : m.state.toNat ≤ 3) (hr : r = .verified ∨ r = .corrected) :
    blockEnd m k r =
      if m.kgen.toNat = k.curGen ∨ (k.prev.isSome = true ∧ m.kgen.toNat = k.prevGen) then .install else .tagFail := by
  have hne : m.state ≠ 0 := fun h => by rw [h] at hlo; exact absurd hlo (by decide)
  have hnot : ¬ 3 < m.state.toNat := by omega
  obtain rfl | rfl := hr <;> simp only [blockEnd, reduceCtorEq, if_false, if_neg hne, hnot, or_self]

end

/-! ## The device's own accesses -/

/-- Without a record and a compensator that waits, nothing goes on. -/
theorem ownOn_idle {s : State} (hrecs : s.recs = []) (hcomp : ∀ e ∈ s.allCards, e.2.2.compDue = none) : s.ownOn = s := by
  have hdrain : s.drainRecs = s := by rw [State.drainRecs, hrecs]; rfl
  rw [State.ownOn, hdrain, State.compensateAll,
    List.filter_eq_nil_iff.2 fun e he => by rw [hcomp e he]; exact Bool.false_ne_true]
  rfl

/-! ## Frames that firmware assigns -/

/-- A frame in the hands of another context, EMPTY. -/
def State.assigned (s : State) (n : Nat) (ctx : BitVec 16) : State := { s with
  sealMeta := SMap.set Meta.init s.sealMeta n { s.metaOf n with ctx, state := 0 }
  mem := s.mem.filter fun e => decide (e.1 / 4096 ≠ n)
  lines := s.lines.filter fun e => decide (e.1 / 32 ≠ n)
  reseals := s.reseals.filter fun r => decide (r.frame ≠ n) }

section
variable {s : State} {n : Nat} {ctx : BitVec 16}

theorem metaOf_assigned (h : s.Tidy) : (s.assigned n ctx).metaOf n = { s.metaOf n with ctx, state := 0 } :=
  SMap.get_set_self h.metas ..

theorem mem_assigned (h : s.Tidy) (a : Nat) : (s.assigned n ctx).mem.read a = if a / 4096 ≠ n then s.mem.read a else 0 :=
  (SMap.get_filter_key (fun k => decide (k / 4096 ≠ n)) a h.mem).trans (by simp [Memory.read])

theorem exec_frameAssign_refused (h : n ∈ s.badFrames ∨ frameCount ≤ n) : exec (.frameAssign n ctx) s = .next s := by
  rw [exec_frameAssign, execFrameAssign, if_pos h]

theorem exec_frameAssign_due (hbad : n ∉ s.badFrames) (hn : n < frameCount) :
    ∃ t, exec (.frameAssign n ctx) s = .next t.ownOn ∧ (s.assigned n ctx).DeviceKept t := by
  rw [exec_frameAssign, execFrameAssign, if_neg (by simp [hbad, hn])]
  refine ⟨_, rfl, ?_⟩
  cases ctxOfNum (s.metaOf n).ctx.toNat with
  | none => exact .refl _
  | some c => exact State.DeviceKept.sweepOn (.refl (s.assigned n ctx))

end

/-- Device memory is below the host's. -/
theorem lt_hostBase_of_frame {a : Nat} (h : a / 4096 < frameCount) : a < hostBase := by
  unfold frameCount at h
  unfold hostBase
  omega

/-! ## Reseals -/

theorem getElem_readBytes (m : Memory) : ∀ (n a i : Nat) (h : i < (m.readBytes a n).length), (m.readBytes a n)[i] = m.read (a + i)
  | n + 1, a, 0, _ => rfl
  | n + 1, a, i + 1, h => (getElem_readBytes m n (a + 1) i (Nat.lt_of_succ_lt_succ h)).trans (by rw [Nat.add_right_comm, Nat.add_assoc])

/-- Bytes written are read back together. -/
theorem readBytes_writeBytes {m : Memory} {a n : Nat} {bs : List Byte} (h : m.wf = true) (hn : bs.length = n) :
    (m.writeBytes a bs).readBytes a n = bs := by
  refine List.ext_getElem (by rw [readBytes_length, hn]) fun i h1 h2 => ?_
  rw [getElem_readBytes, Memory.read_writeBytes_in h h2]

/-- What a seal writes into a block's metadata. -/
theorem sealMetaOf_eq (s : State) (n : Nat) (key : BitVec 256) (gen : Nat) :
    (s.sealMetaOf n key gen false).ctx = (s.metaOf n).ctx ∧ (s.sealMetaOf n key gen false).kgen = BitVec.ofNat 8 gen ∧
    (s.sealMetaOf n key gen false).ver = BitVec.ofNat 28 (if (s.metaOf n).state = 0 then 1 else (s.metaOf n).ver.toNat + 1) ∧
    (s.sealMetaOf n key gen false).state =
      if (if (s.metaOf n).state = 0 then 1 else (s.metaOf n).ver.toNat + 1) = 2 ^ 28 - 1 then 2 else 1 := by
  simp only [State.sealMetaOf, Bool.false_eq_true, or_false, and_self]

section
variable (s : State) (n : Nat)

theorem writeBlock_sealMeta : (s.writeBlock n none).sealMeta = s.sealMeta := by
  unfold State.writeBlock
  refine foldl_kept (g := State.sealMeta) (fun st e => ?_) ..
  split <;> rfl

theorem writeBlock_ctxs : (s.writeBlock n none).ctxs = s.ctxs := by
  unfold State.writeBlock
  refine foldl_kept (g := State.ctxs) (fun st e => ?_) ..
  split <;> rfl

theorem writeBlock_reseals : (s.writeBlock n none).reseals = s.reseals := by
  unfold State.writeBlock
  refine foldl_kept (g := State.reseals) (fun st e => ?_) ..
  split <;> rfl

/-- A block of one dirty line writes that line to memory. -/
theorem writeBlock_alone {e : Nat × Line} (h : s.blockLines n = [e]) (hd : e.2.dirty = true) :
    (s.writeBlock n none).mem = s.mem.writeBytes (e.1 * 128) (bytesOfRow e.2.data) := by
  rw [State.writeBlock, h]
  simp only [List.foldl_cons, List.foldl_nil, hd, if_true]

variable (key : BitVec 256) (gen : Nat) (sweep : Bool)

theorem metaOf_sealBlock (h : SMap.wf Meta.init s.sealMeta = true) :
    (s.sealBlock n key gen sweep).metaOf n = s.sealMetaOf n key gen sweep := by
  unfold State.sealBlock
  generalize s.sealMetaOf n key gen sweep = m
  dsimp only
  split
  · rw [State.DeviceKept.metaOf (.sealEvent (.refl _))]
    exact SMap.get_set_self h ..
  · exact SMap.get_set_self h ..

/-- Where VER does not reach HIGHWATER, a seal orders no further one and changes no context. -/
theorem sealBlock_quiet (h : (s.sealMetaOf n key gen sweep).ver.toNat ≠ 2 ^ 28 - 2 ^ 16) :
    (s.sealBlock n key gen sweep).reseals = s.reseals ∧ (s.sealBlock n key gen sweep).ctxs = s.ctxs := by
  unfold State.sealBlock
  generalize s.sealMetaOf n key gen sweep = m at h ⊢
  dsimp only
  rw [if_neg h]
  exact ⟨rfl, rfl⟩

/-- Without a sweep of the block's context, no sweep goes on. -/
theorem sweepPast_idle {s : State} {r : Reseal} {c : CtxId} (hc : ctxOfNum (s.metaOf r.frame).ctx.toNat = some c)
    (hsweep : (s.ctx c).key.sweep = false) : s.sweepPast r = s := by
  simp only [State.sweepPast, hc, hsweep, Bool.not_false, Bool.true_or, if_true]

end

/-- The memory and the lines of a block that a reseal has written. -/
def State.written (s : State) (r : Reseal) : State :=
  State.writeBlock { s with reseals := s.reseals.filter fun x => decide (x.frame ≠ r.frame) } r.frame none

/-- A whole block that a reseal has written and sealed, which its task or the host allowance pays for (R411, R419). -/
def State.resealed (s : State) (r : Reseal) (key : BitVec 256) (c : CtxId) : State :=
  (((s.written r).sealBlock r.frame key (s.ctx c).key.curGen false).meterBlock (s.blockWriter r.frame)).sweepPast r

section
variable {s : State} {r : Reseal} {c : CtxId} {key : BitVec 256} {found : FillResult} (hr : s.reseals = [r])
include hr

theorem find_reseal : s.reseals.find? (fun x => decide (x.frame = r.frame)) = some r := by
  rw [hr]
  exact List.find?_cons_of_pos (decide_eq_true rfl)

/-- A reseal that nobody pays for waits for the host allowance. -/
theorem exec_resealComplete_waits (hwriter : s.blockWriter r.frame = none)
    (ha : s.hostAllow < (if (s.blockLines r.frame).length = 32 then 8 else 16))
    (hkey : ctxOfNum (s.metaOf r.frame).ctx.toNat = some c) (hcur : (s.ctx c).key.cur = some key) :
    exec (.resealComplete r.frame found) s = .next s := by
  have hpay : (if r.sweep = true then none else s.blockWriter r.frame) = none := by rw [hwriter, ite_self]
  simp only [exec_resealComplete, execResealComplete, find_reseal hr, hkey, Option.bind_some, hcur, Option.map_some, hpay,
    Option.isNone_none, Bool.true_and, decide_eq_true_eq]
  exact if_pos ha

theorem exec_resealComplete_whole (hsweep : r.sweep = false) (hvictim : r.victim = none) (hwhole : (s.blockLines r.frame).length = 32)
    (hkey : ctxOfNum (s.metaOf r.frame).ctx.toNat = some c) (hcur : (s.ctx c).key.cur = some key)
    (hpay : (s.blockWriter r.frame).isSome = true ∨ 8 ≤ s.hostAllow) :
    exec (.resealComplete r.frame found) s = .next (s.resealed r key c).ownOn := by
  have hgo : ((s.blockWriter r.frame).isNone && decide (s.hostAllow < 8)) = false := by
    obtain h | h := hpay
    · rw [← Option.not_isSome, h]; rfl
    · rw [decide_eq_false (Nat.not_lt.2 h), Bool.and_false]
  simp only [exec_resealComplete, execResealComplete, find_reseal hr, hkey, Option.bind_some, hcur, Option.map_some, hsweep, hvictim,
    hwhole, decide_true, if_true, Bool.not_true, Bool.false_and, Bool.false_eq_true, if_false, hgo]
  rfl

end

section
variable {s : State} {r : Reseal} {c : CtxId} {key : BitVec 256}

theorem metaOf_written (n : Nat) : (s.written r).metaOf n = s.metaOf n := by
  rw [State.metaOf, State.written, writeBlock_sealMeta, State.metaOf]

theorem ctx_written (d : CtxId) : (s.written r).ctx d = s.ctx d := ctx_congr (writeBlock_ctxs ..) d

theorem reseals_written (hr : s.reseals = [r]) : (s.written r).reseals = [] := by
  rw [State.written, writeBlock_reseals]
  simp only [hr]
  exact List.filter_cons_of_neg (by simp)

/-- The block of a reseal carries the metadata of its seal. -/
theorem metaOf_resealed (h : s.Tidy) :
    (s.resealed r key c).metaOf r.frame = (s.written r).sealMetaOf r.frame key (s.ctx c).key.curGen false := by
  have hwf : SMap.wf Meta.init (s.written r).sealMeta = true := by
    rw [State.written, writeBlock_sealMeta]
    exact h.metas
  rw [State.resealed, State.DeviceKept.metaOf (.sweepPast (.refl _)), (meterBlock_blocksKept ..).metaOf, metaOf_sealBlock _ _ _ _ _ hwf]

/-- Without a sweep and without HIGHWATER, no reseal is under way afterwards. -/
theorem reseals_resealed (h : s.Tidy) (hr : s.reseals = [r]) (hc : ctxOfNum (s.metaOf r.frame).ctx.toNat = some c)
    (hsweep : (s.ctx c).key.sweep = false) (hver : ((s.resealed r key c).metaOf r.frame).ver.toNat ≠ 2 ^ 28 - 2 ^ 16) :
    (s.resealed r key c).reseals = [] := by
  rw [metaOf_resealed h] at hver
  have hmeter := meterBlock_blocksKept ((s.written r).sealBlock r.frame key (s.ctx c).key.curGen false) (s.blockWriter r.frame)
  have hwf : SMap.wf Meta.init (s.written r).sealMeta = true := by
    rw [State.written, writeBlock_sealMeta]
    exact h.metas
  have hown : (((s.written r).sealBlock r.frame key (s.ctx c).key.curGen false).metaOf r.frame).ctx = (s.metaOf r.frame).ctx := by
    rw [metaOf_sealBlock _ _ _ _ _ hwf, (sealMetaOf_eq ..).1, metaOf_written]
  obtain ⟨hreseals, hctxs⟩ := sealBlock_quiet (s.written r) r.frame key (s.ctx c).key.curGen false hver
  have hctx : ((s.written r).sealBlock r.frame key (s.ctx c).key.curGen false).ctx c = s.ctx c :=
    (ctx_congr hctxs c).trans (ctx_written c)
  rw [State.resealed, sweepPast_idle (c := c) (by rw [hmeter.metaOf, hown, hc]) (by rw [hmeter.ctx, hctx, hsweep]),
    hmeter.reseals, hreseals, reseals_written hr]

end

end Sys2Proof.Machine
end

section
open Sys2Proof Sys2Proof.Machine

/-- Settles O43: a fill by the checks that end it, a frame by its assignment, a reseal by the block that it seals. -/
theorem sealedMemory : Obligations.SealedMemory := by
  refine ⟨fun s n f r => ⟨fun hf hn hr hpaid => ?fill, fun hf hn hpre hpay ha => ?waits, ownOn_idle,
      fun hctx hlt hn hkey hbad => ?bad, fun hctx hlt hn hkey hgood => ?good, fun hm => ?suspect, fun c hm hc => ?twice,
      fun ctx hbad hlt ht => ?assign, fun ctx h => exec_frameAssign_refused h, fun c => ?erase⟩,
    fun s n r => ⟨fun c key found ht hr hn hsweep hvictim hwhole hc hcur hpay => ?reseal, fun found hr hn hwriter ha hc => ?resealWaits,
      fun ht e he hd => ?written, fun h => ?flush, fun h => ?flushNone⟩⟩
  case fill =>
    subst hn
    refine ⟨fun hno => ?_, fun hctx hlt hgood hm hver hroom hrooms => ?_⟩
    · have hkept := fillOver_kept s f r s
      exact ⟨_, exec_sealFillComplete_nothing hf hr hpaid (fillEnd_barred (fillBarred_of_foreign hno)), fillOver_fills hf rfl,
        hkept.lines, hkept.mem, hkept.sealMeta, hkept.recs⟩
    · have hend : fillEnd s f r = .install := by
        rw [fillEnd_open (fillBarred_of_owned hctx hlt (.inl hm)), readMeets_good hgood, blockEnd_empty hm hver]
      obtain ⟨hfills, hmeta, hmem⟩ := install_kept s f.ctx f.frame none
      have hside := sideGo_blocksKept (s.install f.ctx f.frame none) f
      have hkept := fillOver_kept s f r ((s.install f.ctx f.frame none).sideGo f)
      exact ⟨_, exec_sealFillComplete_install hf hr hpaid hend hroom hrooms, fillOver_fills hf (hside.fills.trans hfills),
        hkept.lines.trans hside.lines, hkept.sealMeta.trans (hside.sealMeta.trans hmeta), hkept.mem.trans (hside.mem.trans hmem)⟩
  case waits =>
    subst hn
    exact exec_sealFillComplete_waits hf hpre hpay ha
  case bad =>
    subst hn
    rw [fillEnd_open (fillBarred_of_owned hctx hlt (.inr hkey)), readMeets_bad hbad, blockEnd_lost_data]
  case good =>
    subst hn
    rw [fillEnd_open (fillBarred_of_owned hctx hlt (.inr hkey)), readMeets_good hgood]
    refine ⟨fun h => ?_, fun h => ?_, fun hm h => ?_, blockEnd_empty, blockEnd_reserved, fun hm => blockEnd_sealed hm.1 hm.2⟩
    · rw [h, blockEnd_lost_data]
    · rw [h, blockEnd_lost_meta]
    · rw [h, blockEnd_mismatch hm]
  case suspect =>
    rw [State.tagFailed]
    simp only [if_neg hm]
    rw [(State.DeviceKept.sealEvent (.refl _)).sealMeta]
  case twice => simp only [State.tagFailed, hm, if_true, hc]
  case assign =>
    obtain ⟨t, hexec, hkept⟩ := exec_frameAssign_due (ctx := ctx) hbad hlt
    have hwf : (s.assigned n ctx).mem.wf = true := SMap.wf_filter _ ht.mem
    refine ⟨t, hexec, ?_, ?_, fun a ha => ?_, fun a ha hlow => ?_, hkept.cores⟩
    · rw [hkept.metaOf, metaOf_assigned ht]
    · rw [hkept.metaOf, metaOf_assigned ht]
    · rw [hkept.mem hwf a (lt_hostBase_of_frame (by omega)), mem_assigned ht, if_neg (not_not.2 ha)]
    · rw [hkept.mem hwf a hlow, mem_assigned ht, if_pos ha]
  case erase =>
    exact ⟨_, rfl, congrArg Ctx.key (ctx_setCtx ..), rfl, rfl, fun d hd => ctx_setCtx_ne s hd _⟩
  case reseal =>
    subst hn
    obtain ⟨hctx, hkgen, hver, hstate⟩ := sealMetaOf_eq (s.written r) r.frame key (s.ctx c).key.curGen
    rw [metaOf_written] at hctx hver hstate
    have hmeta := metaOf_resealed (r := r) (c := c) (key := key) ht
    refine ⟨_, exec_resealComplete_whole hr hsweep hvictim hwhole hc hcur hpay, reseals_resealed ht hr hc, ?_, ?_, ?_, ?_, ?_⟩
    all_goals rw [hmeta]
    · exact hkgen
    · exact hver
    · exact hctx
    · rw [hstate]
      generalize (if (s.metaOf r.frame).state = 0 then 1 else (s.metaOf r.frame).ver.toNat + 1) = ver
      split
      exacts [.inr rfl, .inl rfl]
    · rw [hstate]
      generalize (if (s.metaOf r.frame).state = 0 then 1 else (s.metaOf r.frame).ver.toNat + 1) = ver
      split
      next h => exact ⟨fun _ => h, fun _ => rfl⟩
      next h => exact ⟨fun e => absurd e (by decide), fun e => absurd e h⟩
  case resealWaits =>
    subst hn
    obtain ⟨c, hc, hcur⟩ := hc
    obtain ⟨key, hkey⟩ := Option.isSome_iff_exists.1 hcur
    exact exec_resealComplete_waits hr hwriter ha hc hkey
  case written =>
    rw [writeBlock_alone s n he hd]
    exact readBytes_writeBytes ht.mem (bytesOfRow_length _)
  case flush => rw [exec_flushOrder, execFlushOrder, if_pos h]
  case flushNone => rw [exec_flushOrder, execFlushOrder, if_neg (by simp [h])]
end

section
/-! SUPPORT. Rules of frame intake (R459, R460) and of the flits of a port (R463-R466). -/

namespace Sys2Proof.Machine

/-! ## Intake streams -/

section
variable (s : State) (k : Fin 48) (x : Intake)

theorem putIntake_self : s.putIntake k s.intake[k.val] = s := by
  rw [State.putIntake, Vector.set_getElem_self]

theorem intake_putIntake : (s.putIntake k x).intake[k.val] = x := Vector.getElem_set_self ..

/-- A stream's semaphore leaves the streams, the memory, the lines and the cores. -/
theorem intakeSignal_kept (c : CtxId) (d f : Nat) : (s.intakeSignal c d f).intake = s.intake ∧ (s.intakeSignal c d f).mem = s.mem ∧
    (s.intakeSignal c d f).lines = s.lines ∧ (s.intakeSignal c d f).cores = s.cores := by
  unfold State.intakeSignal
  split <;> exact ⟨rfl, rfl, rfl, rfl⟩

end

/-! ## Fields of an intake descriptor -/

theorem inFld_vf (d : Nat) : inFld d 0 2 = d % 2 ^ 16 := by rw [inFld, bitsAt_eq, Nat.mul_zero, Nat.pow_zero, Nat.div_one]
theorem inFld_slots (d : Nat) : inFld d 28 2 = d / 2 ^ 224 % 2 ^ 16 := bitsAt_eq ..
theorem inFld_consumed (d : Nat) : inFld d 32 8 = d / 2 ^ 256 % 2 ^ 64 := bitsAt_eq ..

/-! ## A frame that is offered -/

section
variable {s : State} {k : Fin 48} {x : Intake} {data : Pixels} {status : BitVec 32} {pts : W64} {d : Nat} {c : CtxId}

section
variable (hx : s.intake[k.val] = x) (hd : x.desc = some d) (hc : ctxOfNum (d % 2 ^ 16) = some c) (hlive : s.live c = true)
include hx hd hc hlive

/-- A frame of which blocks are written goes on. -/
theorem exec_frameDecoded_goes_on (hw : x.written ≠ 0) :
    exec (.frameDecoded k data status pts) s = .next (s.intakeFrame k x c d data status pts) := by
  simp only [exec_frameDecoded, execFrameDecoded, hx, hd, inFld_vf, hc, hlive, Bool.not_true, Bool.false_eq_true, if_false, if_pos hw]

/-- A frame is dropped where software has not released its slot. -/
theorem exec_frameDecoded_read (hw : x.written = 0) {bs : List Byte} (hread : s.consumed c d = .data bs) :
    exec (.frameDecoded k data status pts) s = .next (
      if natOfBytes ((bs.drop (d / 2 ^ 256 % 2 ^ 64 % 64)).take 4) + d / 2 ^ 224 % 2 ^ 16 < x.frame + 1 then
        s.putIntake k { x with dropped := x.dropped + 1 }
      else (s.devDrawn c (d / 2 ^ 256 % 2 ^ 64 / 64 * 64) 1).intakeFrame k x c d data status pts) := by
  simp only [exec_frameDecoded, execFrameDecoded, hx, hd, inFld_vf, hc, hlive, Bool.not_true, Bool.false_eq_true, if_false,
    hw, ne_eq, not_true, hread, inFld_slots, inFld_consumed]
  split <;> rfl

end

/-- A block waits until the host allowance covers it. -/
theorem intakeWrite_waits (ha : s.hostAllow < 8) (va : Nat) (bs : List Byte) : s.intakeWrite c va bs = .error (.wait .host) := by
  have hcover : s.hostCovers = false := decide_eq_false (by omega)
  rw [State.intakeWrite, if_pos (by rw [hcover]; rfl)]

theorem intakeFrame_waits (hx : s.intake[k.val] = x) (ha : s.hostAllow < 8)
    (hleft : (s.frameBlocks d x.frame data status pts).drop x.written ≠ []) : s.intakeFrame k x c d data status pts = s := by
  obtain ⟨⟨va, bs⟩, rest, hb⟩ := List.exists_cons_of_ne_nil hleft
  rw [State.intakeFrame, hb]
  simp only [State.intakeLoop, intakeWrite_waits ha]
  rw [← hx]
  exact putIntake_self s k

theorem intakeFrame_done {t : State}
    (h : s.intakeLoop c x.written ((s.frameBlocks d x.frame data status pts).drop x.written) = .done t) :
    s.intakeFrame k x c d data status pts = (t.putIntake k { x with frame := x.frame + 1, written := 0 }).intakeSignal c d x.frame := by
  rw [State.intakeFrame, h]

theorem intakeFrame_fails {t : State}
    (h : s.intakeLoop c x.written ((s.frameBlocks d x.frame data status pts).drop x.written) = .fail t) :
    s.intakeFrame k x c d data status pts = t.putIntake k { x with dropped := x.dropped + 1, written := 0 } := by
  rw [State.intakeFrame, h]

end

/-! ## Ports -/

section
variable (s : State) (p : Fin 4)

theorem port_irq (fn : Option (Fin 384)) (v : Nat) : (s.irq fn v).port p = s.port p := by
  simp only [State.irq]
  split <;> rfl

theorem port_portState {n : Fin 4} (h : (s.port p).state ≠ n) : (s.portState p n).port p = { s.port p with state := n } := by
  rw [State.portState, if_neg h, port_irq, port_setPort]

theorem peerEnd_ports (r : PeerOut) (bad : Bool) (bs : List Byte) : (s.peerEnd r bad bs).ports = s.ports := by
  unfold State.peerEnd
  dsimp only
  split
  · rfl
  · split
    · split
      · rfl
      · split <;> rfl
    · rfl

/-- A port that goes down keeps its other fields, and no request outstanding on it reaches a port. -/
theorem port_portDown (h : (s.port p).state ≠ 0) : ((s.portDown p).port p).state = 0 := by
  have hports (t : State) (l : List PeerOut) : (l.foldl (fun st r => st.peerEnd r true []) t).ports = t.ports :=
    foldl_kept (g := State.ports) (fun t r => peerEnd_ports t r true []) l t
  unfold State.portDown
  dsimp only
  rw [State.port]
  simp only [hports]
  exact congrArg Port.state (port_portState _ p (by rw [port_setPort]; exact h))

theorem replay_send (l : List (BitVec 2048)) : (l.foldl (fun st f => st.send (.flit p f)) s) =
    { s with outbox := s.outbox ++ l.map (.flit p) } := by
  induction l generalizing s with
  | nil => simp
  | cons f l ih => rw [List.foldl_cons, ih]; simp [State.send]

theorem port_replayAll : (s.replayAll p).port p =
    { s.port p with replays := satTo 0xFFFFFFFF ((s.port p).replays + (s.port p).replay.length) } := by
  simp only [State.replayAll, replay_send]
  exact port_setPort ..

theorem replayAll_outbox : (s.replayAll p).outbox = s.outbox ++ (s.port p).replay.map (.flit p) := by
  simp only [State.replayAll, replay_send]
  rfl

end

/-! ## Flits that leave -/

section
variable {s : State} {p : Fin 4} {f : BitVec 2048} {key : BitVec 256}

theorem sendFlit_up (hkey : (s.port p).key = some key) (hst : (s.port p).state = 2) :
    s.sendFlit p f = State.send ({ s with fresh := s.fresh + 1 }.setPort p { s.port p with
      tx := (s.port p).tx + 1
      replay := ((s.port p).replay ++ [flitSeal key s.fresh (s.port p).tx f]).drop
        (((s.port p).replay ++ [flitSeal key s.fresh (s.port p).tx f]).length - 512) })
      (.flit p (flitSeal key s.fresh (s.port p).tx f)) := by
  simp only [State.sendFlit, hkey, hst, if_true]

/-- A flit waits in the buffer of its virtual channel while its port trains. -/
theorem sendFlit_training (hst : (s.port p).state = 1) : s.sendFlit p f = s.setPort p { s.port p with
    waiting := (s.port p).waiting.set (flitVc f).val ((s.port p).waiting[(flitVc f).val] ++ [f]) } := by
  have hhold : s.holdFlit p f = s.setPort p { s.port p with
      waiting := (s.port p).waiting.set (flitVc f).val ((s.port p).waiting[(flitVc f).val] ++ [f]) } := by
    simp only [State.holdFlit, hst, if_true]
  rw [← hhold, State.sendFlit]
  dsimp only
  split
  · rw [if_neg (by rw [hst]; decide)]
  · rfl

/-- The newest flit stands in a buffer cut to its last 512 flits. -/
theorem mem_lastFlits {α : Type} (l : List α) (x : α) : x ∈ (l ++ [x]).drop ((l ++ [x]).length - 512) := by
  rw [List.drop_append_of_le_length (by simp only [List.length_append, List.length_singleton]; omega)]
  exact List.mem_append_right _ (List.mem_singleton_self x)

theorem deliver_forwards (hf : flitFormed f = true) (hd : flitDest f ≠ ⟨s.fabid.toNat, s.fabid.isLt⟩)
    (hroute : (SMap.get 0 s.routes (flitDest f).val).getLsbD 2 = true) :
    s.deliver key f = State.sendFlit { s with fresh := s.fresh + 1 } (s.peerPort (flitDest f)) (flitOpen key s.fresh f) := by
  have hne : (flitDest f).val ≠ s.fabid.toNat := fun e => hd (Fin.ext e)
  simp only [State.deliver, hf, hroute, decide_eq_false hne, Bool.not_true, Bool.or_self, Bool.false_eq_true, if_false]

/-! ## Flits that arrive -/

theorem exec_flitReceive_closed (h : (s.port p).key = none ∨ (s.port p).state ≠ 2) (b : Bool) :
    exec (.flitReceive p f b) s = .next s := by
  simp only [exec_flitReceive, execFlitReceive]
  obtain h | h := h
  · simp only [h]
  · split
    · rfl
    · rw [if_pos h]

theorem exec_flitReceive_open (hkey : (s.port p).key = some key) (hst : (s.port p).state = 2) (b : Bool) :
    exec (.flitReceive p f b) s = .next (
      if flitCrcOk f = false then s.send (.nak p (s.port p).rx)
      else if b = false then (s.portDown p).sealEvent 3 0xFFFF p.val
      else if flitSeq f = (s.port p).rx then
        ((s.setPort p { s.port p with rx := (s.port p).rx + 1 }).send (.ack p (s.port p).rx)).deliver key f
      else if ((s.port p).rx - flitSeq f).toNat ≤ 512 then s.send (.ack p (flitSeq f)) else s.send (.nak p (s.port p).rx)) := by
  simp only [exec_flitReceive, execFlitReceive, hkey, hst, ne_eq, not_true, if_false, Bool.not_eq_true']
  split_ifs <;> rfl

/-! ## Replays and retraining -/

/-- How often in a row a flit has been replayed, this time included (R464). -/
def Port.replayRun (x : Port) (n : BitVec 12) : Nat :=
  match x.nak with
  | some (q, k) => if q = n then k + 1 else 1
  | none => 1

theorem replayRun_first {x : Port} (h : x.nak = none) (n : BitVec 12) : x.replayRun n = 1 := by rw [Port.replayRun, h]

theorem replayRun_again {x : Port} {n : BitVec 12} {k : Nat} (h : x.nak = some (n, k)) : x.replayRun n = k + 1 := by
  rw [Port.replayRun, h]
  exact if_pos rfl

theorem exec_flitReplay_due {n : BitVec 12} {l : List (BitVec 2048)} (hst : (s.port p).state = 2)
    (hl : l = (s.port p).replay.dropWhile fun g => decide (flitSeq g ≠ n)) (hne : l ≠ []) :
    exec (.flitReplay p n) s = .next (
      let t := (s.setPort p { s.port p with replay := l, nak := some (n, (s.port p).replayRun n) }).replayAll p
      if 8 ≤ (s.port p).replayRun n then t.retrain p else t) := by
  rw [exec_flitReplay, execFlitReplay]
  simp only [hst, ← hl, ne_eq, not_true, false_or]
  exact if_neg hne

theorem retrain_again {x : Port} (hx : s.port p = x) (h : (x.times.filter fun y => decide (s.time < y + 1000000000)).length < 2)
    (hst : x.state ≠ 1) : ((s.retrain p).port p).state = 1 ∧ ((s.retrain p).port p).nak = none := by
  subst hx
  unfold State.retrain
  dsimp only
  rw [if_neg (by rw [List.length_append, List.length_singleton]; omega)]
  rw [port_portState _ _ (by exact (congrArg Port.state (port_setPort ..)).trans_ne hst)]
  exact ⟨rfl, congrArg Port.nak (port_setPort ..)⟩

theorem retrain_third (hst : (s.port p).state ≠ 0)
    (h : ((s.port p).times.filter fun y => decide (s.time < y + 1000000000)).length = 2) : ((s.retrain p).port p).state = 0 := by
  unfold State.retrain
  dsimp only
  rw [if_pos (by rw [List.length_append, List.length_singleton, h])]
  exact port_portDown _ _ ((congrArg Port.state (port_setPort ..)).trans_ne hst)

theorem exec_portRetrainComplete_dead (h : (s.port p).dead = true) : exec (.portRetrainComplete p) s = .next s := by
  rw [exec_portRetrainComplete, execPortRetrainComplete]
  exact if_pos (.inl h)

/-- The port as it comes up, before its flits go on. -/
def State.portUp (s : State) (p : Fin 4) : State :=
  State.portState ({ s with fresh := s.fresh + 1 }.setPort p { s.port p with
    waiting := Vector.replicate 3 [], key := some ((s.port p).key.getD (Config.linkKey p.val s.fresh)) }) p 2

theorem exec_portRetrainComplete_up (hst : (s.port p).state = 1) (hlive : (s.port p).dead = false) :
    exec (.portRetrainComplete p) s = .next (((s.port p).waiting[2] ++ (s.port p).waiting[1] ++ (s.port p).waiting[0]).foldl
      (fun st f => st.sendFlit p f) ((s.portUp p).replayAll p)) := by
  rw [exec_portRetrainComplete, execPortRetrainComplete]
  exact if_neg (by simp [hlive, hst])

theorem exec_portRetrainComplete_idle (hst : (s.port p).state = 1) (hlive : (s.port p).dead = false)
    (hwait : (s.port p).waiting = Vector.replicate 3 []) :
    exec (.portRetrainComplete p) s = .next ((s.portUp p).replayAll p) := by
  rw [exec_portRetrainComplete_up hst hlive]
  simp only [hwait, Vector.getElem_replicate, List.append_nil, List.foldl_nil]

theorem port_portUp (hst : (s.port p).state = 1) : (s.portUp p).port p = { s.port p with
    state := 2, waiting := Vector.replicate 3 [], key := some ((s.port p).key.getD (Config.linkKey p.val s.fresh)) } := by
  rw [State.portUp, port_portState _ _ (by rw [port_setPort]; simp [hst]), port_setPort]

theorem portUp_outbox (hst : (s.port p).state = 1) : (s.portUp p).outbox = (s.irq none (65 + p.val)).outbox := by
  rw [State.portUp, State.portState, if_neg (by rw [port_setPort]; simp [hst])]
  exact irq_outbox_congr _ _ rfl rfl rfl

end

end Sys2Proof.Machine
end

section
open Sys2Proof Sys2Proof.Machine

/-- Settles O51: a frame by the blocks that are left of it, a flit by its checks, a port by what retraining makes of it. -/
theorem intakeAndPorts : Obligations.IntakeAndPorts := by
  refine ⟨fun s k data status pts d c hd hc hlive => ⟨fun bs hw hread => ?offered, exec_frameDecoded_goes_on rfl hd hc hlive,
      fun hleft ha => intakeFrame_waits rfl ha hleft, fun t ht => ?done, fun t ht => ?fails⟩,
    fun s p f n key => ⟨exec_flitReceive_closed, fun hkey => ⟨fun hst hcrc hseq => ?inOrder, fun hst hcrc b => ?corrupted,
      fun hst hcrc => ?mac, fun hst hcrc hlo hhi => ?copy, fun hst hcrc hhi => ?ahead⟩, fun g hf hdest hroute hg => ?forward,
      fun hkey hst => ?leaves, fun hst => ?waits, fun l hst hl hne hnak => ?replay, fun k hst hne hnak hk htimes => ?eighth,
      fun hst hlive hwait => ?up, exec_portRetrainComplete_dead, retrain_third⟩⟩
  case offered =>
    have hexec := exec_frameDecoded_read (data := data) (status := status) (pts := pts) rfl hd hc hlive hw hread
    refine ⟨fun h => ⟨_, hexec.trans (congrArg _ (if_pos (Nat.lt_succ_of_le h))), intake_putIntake .., rfl, rfl, rfl⟩, fun h => ?_⟩
    exact hexec.trans (congrArg _ (if_neg (by omega)))
  case done =>
    obtain ⟨hin, hmem, hlines, hcores⟩ := intakeSignal_kept
      (t.putIntake k { s.intake[k.val] with frame := s.intake[k.val].frame + 1, written := 0 }) c d s.intake[k.val].frame
    refine ⟨_, intakeFrame_done ht, ?_, hmem, hlines, hcores⟩
    simp only [hin]
    exact intake_putIntake ..
  case fails => exact ⟨_, intakeFrame_fails ht, intake_putIntake .., rfl, rfl⟩
  case inOrder =>
    rw [exec_flitReceive_open hkey hst, if_neg (by simp [hcrc]), if_neg (by decide), if_pos hseq]
  case corrupted => rw [exec_flitReceive_open hkey hst, if_pos hcrc]
  case mac => rw [exec_flitReceive_open hkey hst, if_neg (by simp [hcrc]), if_pos rfl]
  case copy =>
    have hne : flitSeq f ≠ (s.port p).rx := fun e => by rw [e, BitVec.sub_self] at hlo; exact absurd hlo (by decide)
    rw [exec_flitReceive_open hkey hst, if_neg (by simp [hcrc]), if_neg (by decide), if_neg hne, if_pos hhi]
  case ahead =>
    have hne : flitSeq f ≠ (s.port p).rx := fun e => by rw [e, BitVec.sub_self] at hhi; exact absurd hhi (by decide)
    rw [exec_flitReceive_open hkey hst, if_neg (by simp [hcrc]), if_neg (by decide), if_neg hne, if_neg (Nat.not_le.2 hhi)]
  case forward => rw [hg]; exact deliver_forwards hf hdest hroute
  case leaves =>
    refine ⟨_, rfl, ?_⟩
    rw [sendFlit_up hkey hst, show ∀ (t : State) o, (t.send o).port p = t.port p from fun _ _ => rfl, port_setPort]
    refine ⟨rfl, rfl, ?_, ?_⟩
    · dsimp only
      exact mem_lastFlits ..
    · dsimp only
      rw [List.length_drop]
      omega
  case waits =>
    refine ⟨_, rfl, ?_⟩
    rw [sendFlit_training hst, port_setPort]
    exact ⟨rfl, Vector.getElem_set_self ..⟩
  case replay =>
    have hexec := exec_flitReplay_due hst hl hne
    rw [replayRun_first hnak] at hexec
    refine ⟨_, hexec, ?_⟩
    dsimp only
    rw [if_neg (by decide), replayAll_outbox, port_replayAll, port_setPort]
    exact ⟨rfl, rfl, rfl, hst⟩
  case eighth =>
    have hexec := exec_flitReplay_due hst rfl hne
    rw [replayRun_again hnak] at hexec
    refine ⟨_, hexec, ?_⟩
    dsimp only
    rw [if_pos (by omega)]
    refine retrain_again rfl ?_ ?_
    · rw [port_replayAll, port_setPort]
      simp [htimes]
    · rw [port_replayAll, port_setPort]
      simp [hst]
  case up =>
    refine ⟨_, exec_portRetrainComplete_idle hst hlive hwait, ?_⟩
    rw [port_replayAll, replayAll_outbox, port_portUp hst, portUp_outbox hst]
    exact ⟨rfl, rfl, rfl, rfl⟩
end

section
/-! SUPPORT. Rules of wraps (R447, R449, R450): the post of one, its targets and their queues, its cut-offs and its end. -/

namespace Sys2Proof.Machine

/-! ## What an announcement and a suspension leave -/

/-- `t` has the cores, the clusters, the islands and the partitions of `r`. -/
structure State.RunsKept (r t : State) : Prop where
  cores : t.cores = r.cores
  clusters : t.clusters = r.clusters
  islands : t.islands = r.islands
  parts : t.parts = r.parts

theorem State.RunsKept.refl (s : State) : s.RunsKept s := ⟨rfl, rfl, rfl, rfl⟩

theorem State.RunsKept.trans {r s t : State} (h : r.RunsKept s) (g : s.RunsKept t) : r.RunsKept t :=
  ⟨g.cores.trans h.cores, g.clusters.trans h.clusters, g.islands.trans h.islands, g.parts.trans h.parts⟩

theorem State.RunsKept.foldl {α : Type} {f : State → α → State} (hf : ∀ t x, State.RunsKept t (f t x)) (l : List α) (s : State) :
    s.RunsKept (l.foldl f s) := by
  induction l generalizing s with
  | nil => exact .refl s
  | cons x l ih => exact (hf s x).trans (ih _)

section
variable {r t : State} (h : r.RunsKept t)
include h

theorem State.RunsKept.job (c : CoreId) : t.job c = r.job c := by rw [State.job, State.core, h.cores]; rfl
theorem State.RunsKept.part (p : PartId) : t.part p = r.part p := by rw [State.part, State.part]; simp only [h.parts]
theorem State.RunsKept.island (i : IslId) : t.island i = r.island i := by rw [State.island, State.island]; simp only [h.islands]

end

section
variable (s : State)

section
variable (fn : Option (Fin 384)) (v : Nat)

theorem announce_kept : s.RunsKept (s.announce fn v) := by
  unfold State.announce State.irq
  dsimp only
  split
  · split <;> exact ⟨rfl, rfl, rfl, rfl⟩
  · exact ⟨rfl, rfl, rfl, rfl⟩

theorem announce_mem : (s.announce fn v).mem = s.mem := by
  unfold State.announce
  split
  exacts [irq_mem .., rfl]

theorem announce_ctxs : (s.announce fn v).ctxs = s.ctxs := by
  unfold State.announce State.irq
  dsimp only
  split
  · split <;> rfl
  · rfl

end

theorem suspendQueue_kept (c : CtxId) (q : Nat) : s.RunsKept (s.suspendQueue c q) := by
  unfold State.suspendQueue
  dsimp only
  split <;> exact ⟨rfl, rfl, rfl, rfl⟩

theorem suspendAll_kept (c : CtxId) : s.RunsKept (s.suspendAll c) := .foldl (fun t q => suspendQueue_kept t c q) _ s

end

/-! ## Queues that are suspended -/

section
variable {s : State} (h : s.Tidy)
include h

theorem queue_suspendQueue (c : CtxId) (q : Nat) : (s.suspendQueue c q).queue c q = (s.queue c q).stop.settled := by
  have hset := queue_setQueue h c q (s.queue c q).stop
  unfold State.suspendQueue
  dsimp only
  split <;> exact hset

theorem queue_suspendQueue_ne {c d : CtxId} {q m : Nat} (hne : d ≠ c ∨ m ≠ q) : (s.suspendQueue c q).queue d m = s.queue d m := by
  have hset := queue_setQueue_ne h hne (s.queue c q).stop
  unfold State.suspendQueue
  dsimp only
  split <;> exact hset

theorem queue_suspendQueues_other {l : List Nat} {c d : CtxId} {m : Nat} (hne : d ≠ c ∨ m ∉ l) :
    (l.foldl (fun st q => st.suspendQueue c q) s).queue d m = s.queue d m := by
  induction l generalizing s with
  | nil => rfl
  | cons q l ih =>
    rw [List.foldl_cons, ih h.suspendQueue (hne.imp_right fun hm => fun hl => hm (List.mem_cons_of_mem q hl))]
    exact queue_suspendQueue_ne h (hne.imp_right fun hm e => hm (by rw [e]; exact List.mem_cons_self ..))

theorem queue_suspendQueues {l : List Nat} (c : CtxId) {m : Nat} (hl : l.Nodup) (hm : m ∈ l) :
    (l.foldl (fun st q => st.suspendQueue c q) s).queue c m = (s.queue c m).stop.settled := by
  induction l generalizing s with
  | nil => exact absurd hm List.not_mem_nil
  | cons q l ih =>
    obtain ⟨hq, hl⟩ := List.nodup_cons.1 hl
    rw [List.foldl_cons]
    obtain rfl | hm := List.mem_cons.1 hm
    · rw [queue_suspendQueues_other h.suspendQueue (.inr hq), queue_suspendQueue h]
    · have hne : m ≠ q := fun e => hq (e ▸ hm)
      rw [ih h.suspendQueue hl hm, queue_suspendQueue_ne h (.inr hne)]

theorem queue_suspendAll (c : CtxId) {m : Nat} (hm : m < queueCount c) :
    (s.suspendAll c).queue c m = (s.queue c m).stop.settled := queue_suspendQueues h c List.nodup_range (List.mem_range.2 hm)

theorem queue_suspendAll_ne {c d : CtxId} (hne : d ≠ c) (m : Nat) : (s.suspendAll c).queue d m = s.queue d m :=
  queue_suspendQueues_other h (.inl hne)

/-- Contexts that are suspended one after the other have each of their queues suspended once. -/
theorem queue_suspendContexts_other {l : List CtxId} {c : CtxId} (m : Nat) (hc : c ∉ l) :
    (l.foldl State.suspendAll s).queue c m = s.queue c m := by
  induction l generalizing s with
  | nil => rfl
  | cons d l ih =>
    obtain ⟨hd, hl⟩ := not_or.1 fun e => hc (List.mem_cons.2 e)
    rw [List.foldl_cons, ih h.suspendAll hl, queue_suspendAll_ne h hd]

theorem queue_suspendContexts {l : List CtxId} {c : CtxId} {m : Nat} (hl : l.Nodup) (hc : c ∈ l) (hm : m < queueCount c) :
    (l.foldl State.suspendAll s).queue c m = (s.queue c m).stop.settled := by
  induction l generalizing s with
  | nil => exact absurd hc List.not_mem_nil
  | cons d l ih =>
    obtain ⟨hd, hl⟩ := List.nodup_cons.1 hl
    rw [List.foldl_cons]
    obtain rfl | hc := List.mem_cons.1 hc
    · rw [queue_suspendContexts_other h.suspendAll m hd, queue_suspendAll h c hm]
    · have hne : c ≠ d := fun e => hd (e ▸ hc)
      rw [ih h.suspendAll hl hc, queue_suspendAll_ne h hne]

end

/-! ## What the targets of a wrap rest on -/

/-- Two states with the same partitions and the same target of a wrap. -/
structure State.SameTarget (r t : State) (p : PartId) : Prop where
  desc : ∀ m, (t.part m).desc = (r.part m).desc
  vft : (t.part p).wrapTVft = (r.part p).wrapTVft
  vf : (t.part p).wrapTVf = (r.part p).wrapTVf

section
variable {r t : State} {p : PartId}

theorem part_setPart_eq (s : State) (p m : PartId) (x : Part) : (s.setPart p x).part m = if m = p then x else s.part m := by
  split
  next hm => rw [hm, part_setPart]
  next hm => exact part_setPart_ne s hm x

/-- A partition that is written with its description and its target. -/
theorem setPart_sameTarget {x : Part} (hdesc : x.desc = (r.part p).desc) (hvft : x.wrapTVft = (r.part p).wrapTVft)
    (hvf : x.wrapTVf = (r.part p).wrapTVf) : r.SameTarget (r.setPart p x) p := by
  refine ⟨fun m => ?_, by rw [part_setPart, hvft], by rw [part_setPart, hvf]⟩
  rw [part_setPart_eq]
  split
  next hm => rw [hm, hdesc]
  next => rfl

/-- One partition written in two ways, with one description and one target. -/
theorem setPart_setPart_sameTarget {s : State} {x y : Part} (hdesc : y.desc = x.desc) (hvft : y.wrapTVft = x.wrapTVft)
    (hvf : y.wrapTVf = x.wrapTVf) : (s.setPart p x).SameTarget (s.setPart p y) p := by
  refine ⟨fun m => ?_, by rw [part_setPart, part_setPart, hvft], by rw [part_setPart, part_setPart, hvf]⟩
  rw [part_setPart_eq, part_setPart_eq]
  split
  exacts [hdesc, rfl]

theorem State.RunsKept.sameTarget (h : r.RunsKept t) : r.SameTarget t p :=
  ⟨fun m => by rw [h.part], by rw [h.part], by rw [h.part]⟩

theorem State.SameTarget.trans {u : State} (h : r.SameTarget t p) (g : t.SameTarget u p) : r.SameTarget u p :=
  ⟨fun m => (g.desc m).trans (h.desc m), g.vft.trans h.vft, g.vf.trans h.vf⟩

variable (h : r.SameTarget t p)
include h

theorem State.SameTarget.wrapTarget (c : CtxId) : t.wrapTarget p c = r.wrapTarget p c := by
  have hpart : t.ctxPart c = r.ctxPart c := by simp only [State.ctxPart, h.desc]
  simp only [State.wrapTarget, hpart, h.vft, h.vf]

theorem State.SameTarget.wrapNodes (hclu : t.clusters = r.clusters) : t.wrapNodes p = r.wrapNodes p := by
  have hcards : t.allCards = r.allCards := by simp only [State.allCards, State.cluster, hclu]
  simp only [State.wrapNodes, hcards, h.wrapTarget]

theorem State.SameTarget.nodeTck (hcores : t.cores = r.cores) (hislands : t.islands = r.islands) (x : Card) :
    t.nodeTck p x = r.nodeTck p x := by
  have hjobs (k : CluId) : t.wrapJobs p k = r.wrapJobs p k := by
    simp only [State.wrapJobs, State.job, State.core, hcores, h.wrapTarget]
  simp only [State.nodeTck, State.tck, State.drainTime, State.island, hislands, hjobs]

end

/-! ## The notice of a wrap -/

/-- A job with the notice of a wrap (R130, R449). -/
def Job.warned (j : Job) : Job := { j with c := { j.c with pwrap := true } }

@[simp] theorem warned_warned (j : Job) : j.warned.warned = j.warned := rfl

/-- The job of a core gets the notice of a wrap. -/
def State.warn (s : State) (c : CoreId) : State :=
  match s.job c with
  | some j => s.setJob c j.warned
  | none => s

/-- `t` has the clusters, the islands, the partitions and the contexts of `r`. -/
structure State.CoresOnly (r t : State) : Prop where
  clusters : t.clusters = r.clusters
  islands : t.islands = r.islands
  parts : t.parts = r.parts
  ctxs : t.ctxs = r.ctxs

theorem warn_coresOnly (s : State) (c : CoreId) : s.CoresOnly (s.warn c) := by
  unfold State.warn
  split <;> exact ⟨rfl, rfl, rfl, rfl⟩

theorem warns_coresOnly (l : List CoreId) (s : State) : s.CoresOnly (l.foldl State.warn s) where
  clusters := foldl_kept (fun t c => (warn_coresOnly t c).clusters) l s
  islands := foldl_kept (fun t c => (warn_coresOnly t c).islands) l s
  parts := foldl_kept (fun t c => (warn_coresOnly t c).parts) l s
  ctxs := foldl_kept (fun t c => (warn_coresOnly t c).ctxs) l s

theorem warn_job (s : State) (c d : CoreId) : (s.warn c).job d = (s.job d).map fun j => if d = c then j.warned else j := by
  unfold State.warn
  by_cases hd : d = c
  · subst hd
    cases hj : s.job d with
    | none => exact hj
    | some j => simp only [job_setJob, Option.map_some, if_true]
  · simp only [if_neg hd, Option.map_id']
    split
    · rw [State.job, core_setJob_ne _ _ _ _ hd, State.job]
    · rfl

theorem warns_job (l : List CoreId) (s : State) (d : CoreId) :
    (l.foldl State.warn s).job d = (s.job d).map fun j => if d ∈ l then j.warned else j := by
  induction l generalizing s with
  | nil => simp
  | cons c l ih =>
    rw [List.foldl_cons, ih, warn_job, Option.map_map]
    refine Option.map_congr fun j _ => ?_
    by_cases hc : d = c <;> by_cases hl : d ∈ l <;> simp [hc, hl]

/-- A notice changes nothing of a node's progress. -/
theorem warns_nodePid (l : List CoreId) (s : State) (x : Card) : (l.foldl State.warn s).nodePid x = s.nodePid x := by
  unfold State.nodePid
  congr 2
  funext n c
  rw [warns_job]
  cases s.job c with
  | none => rfl
  | some j =>
    by_cases hl : c ∈ l
    · simp only [Option.map_some, hl, if_true]
      rfl
    · simp only [Option.map_some, hl, if_false]

/-! ## The post -/

/-- The partition of a wrap that has been posted. -/
def Part.wrapping (q : Part) (vft : Bool) (vf : Nat) : Part :=
  { q with wrapStatus := 1, wrapVft := vft, wrapVf := vf, wrapPhase := .vacating, wrapTVft := vft, wrapTVf := vf, wrapRun := [] }

/-- The state in which a partition's wrap has its new target, and is not yet posted. -/
def State.aimed (s : State) (p : PartId) (vft : Bool) (vf : Nat) : State :=
  s.setPart p { s.part p with wrapTVft := vft, wrapTVf := vf }

/-- The queues of a posted wrap's target are suspended. -/
def State.wrapBegun (s : State) (p : PartId) (vft : Bool) (vf : Nat) : State :=
  let s2 := (s.setPart p ((s.part p).wrapping vft vf)).announce none (32 + p.val)
  ((List.finRange 408).filter fun c => s2.wrapTarget p c).foldl State.suspendAll s2

section
variable (s : State) (p : PartId) (vft : Bool) (vf : Nat)

theorem wrapBegun_kept : (s.setPart p ((s.part p).wrapping vft vf)).RunsKept (s.wrapBegun p vft vf) :=
  .trans (announce_kept ..) (.foldl suspendAll_kept _ _)

theorem wrapping_sameTarget : (s.aimed p vft vf).SameTarget
    (s.setPart p ((s.part p).wrapping vft vf)) p := setPart_setPart_sameTarget rfl rfl rfl

/-- The target is that of the post. -/
theorem wrapBegun_sameTarget :
    (s.aimed p vft vf).SameTarget (s.wrapBegun p vft vf) p :=
  (wrapping_sameTarget s p vft vf).trans (wrapBegun_kept s p vft vf).sameTarget

theorem queue_wrapBegun (h : s.Tidy) {c : CtxId} {m : Nat}
    (hc : (s.aimed p vft vf).wrapTarget p c = true) (hm : m < queueCount c) :
    (s.wrapBegun p vft vf).queue c m = (s.queue c m).stop.settled := by
  have hkept := announce_kept (s.setPart p ((s.part p).wrapping vft vf)) none (32 + p.val)
  have htarget : (s.aimed p vft vf).SameTarget
      ((s.setPart p ((s.part p).wrapping vft vf)).announce none (32 + p.val)) p :=
    (wrapping_sameTarget s p vft vf).trans hkept.sameTarget
  have hqueue : ((s.setPart p ((s.part p).wrapping vft vf)).announce none (32 + p.val)).queue c m = s.queue c m := by
    simp only [State.queue, State.ctx, announce_ctxs]
    rfl
  rw [← hqueue, State.wrapBegun]
  exact queue_suspendContexts (State.Tidy.setPart h).announce ((List.nodup_finRange _).filter _)
    (List.mem_filter.2 ⟨List.mem_finRange c, (htarget.wrapTarget c).trans hc⟩) hm

theorem wrapPost_idle (h : (s.aimed p vft vf).wrapNodes p = []) :
    s.wrapPost p vft vf = (s.wrapBegun p vft vf).wrapCheck p := by
  have hnodes := (wrapBegun_sameTarget s p vft vf).wrapNodes (wrapBegun_kept ..).clusters
  rw [h] at hnodes
  rw [State.wrapPost]
  change (List.foldl _ (List.foldl _ (s.wrapBegun p vft vf) (((s.wrapBegun p vft vf).wrapNodes p).map _))
    (((s.wrapBegun p vft vf).wrapNodes p).map _)).wrapCheck p = _
  rw [hnodes]
  rfl

theorem wrapPost_node {k : CluId} {n : SlotId} {x : Card}
    (h : (s.aimed p vft vf).wrapNodes p = [(k, n, x)]) :
    s.wrapPost p vft vf = ((x.cores.foldl State.warn (s.wrapBegun p vft vf)).wrapChoose p k n
      ((s.aimed p vft vf).nodeTck p x) ((s.part p).wrapDl.toNat - s.time)).wrapCheck p := by
  have hkept := wrapBegun_kept s p vft vf
  have htarget := wrapBegun_sameTarget s p vft vf
  have hnodes := htarget.wrapNodes hkept.clusters
  rw [h] at hnodes
  rw [State.wrapPost, ← htarget.nodeTck hkept.cores hkept.islands]
  change (List.foldl _ (List.foldl _ (s.wrapBegun p vft vf) (((s.wrapBegun p vft vf).wrapNodes p).map _))
    (((s.wrapBegun p vft vf).wrapNodes p).map _)).wrapCheck p = _
  rw [hnodes]
  rfl

end

section
variable (s : State) (p : PartId) (vft : Bool) (vf : Nat) (l : List CoreId)

theorem warned_part : (l.foldl State.warn (s.wrapBegun p vft vf)).part p = (s.part p).wrapping vft vf := by
  have hparts := (warns_coresOnly l (s.wrapBegun p vft vf)).parts
  rw [State.part]
  simp only [hparts]
  exact ((wrapBegun_kept s p vft vf).part p).trans (part_setPart ..)

theorem warned_card (k : CluId) (n : SlotId) : (l.foldl State.warn (s.wrapBegun p vft vf)).card k n = s.card k n := by
  have hclu := (warns_coresOnly l (s.wrapBegun p vft vf)).clusters.trans (wrapBegun_kept s p vft vf).clusters
  rw [State.card, State.cluster]
  simp only [hclu]
  rfl

theorem warned_job (c : CoreId) : (l.foldl State.warn (s.wrapBegun p vft vf)).job c =
    (s.job c).map fun j => if c ∈ l then j.warned else j := by
  rw [warns_job, (wrapBegun_kept s p vft vf).job]
  rfl

theorem canRun_warned (x : Card) (tck left : Nat) : (l.foldl State.warn (s.wrapBegun p vft vf)).canRun x tck left =
    decide (x.cycEst * (1024 - s.nodePid x) * 10 + tck * 1024 * clock10 (s.island x.isl).level ≤
      left * 1024 * clock10 (s.island x.isl).level) := by
  have hisl := (warns_coresOnly l (s.wrapBegun p vft vf)).islands.trans (wrapBegun_kept s p vft vf).islands
  have hpid : (s.wrapBegun p vft vf).nodePid x = s.nodePid x := by
    simp only [State.nodePid, (wrapBegun_kept s p vft vf).job]
    rfl
  rw [State.canRun, warns_nodePid, hpid, State.island]
  simp only [hisl]
  rfl

/-- What a post leaves where it has suspended the target's queues and given some cores' jobs the notice. -/
theorem wrapBegun_posted :
    let u := l.foldl State.warn (s.wrapBegun p vft vf)
    (u.part p).wrapStatus = 1 ∧ (u.part p).wrapPhase = .vacating ∧ (u.part p).wrapRun = [] ∧ (u.part p).wrapTVft = vft ∧
    (u.part p).wrapTVf = vf ∧
    (∀ c j, s.job c = some j → u.job c = some (if c ∈ l then { j with c := { j.c with pwrap := true } } else j)) ∧
    (s.Tidy → ∀ c m, (s.aimed p vft vf).wrapTarget p c = true → m < queueCount c →
      u.queue c m = (s.queue c m).stop.settled) := by
  dsimp only
  rw [warned_part]
  refine ⟨rfl, rfl, rfl, rfl, rfl, fun c j hj => ?_, fun ht c m hc hm => ?_⟩
  · rw [warned_job, hj]
    rfl
  · rw [← queue_wrapBegun s p vft vf ht hc hm]
    have hctxs := (warns_coresOnly l (s.wrapBegun p vft vf)).ctxs
    simp only [State.queue, State.ctx, hctxs]

end

/-! ## The choice for a node -/

section
variable {s : State} {p : PartId} {k : CluId} {n : SlotId} {x : Card} {tck left : Nat} (hcard : s.card k n = some x)
include hcard

theorem wrapEnd_of_card : s.wrapEnd k n = if x.escaped then s.kill x.ctx else s.wrapDiscard k n := by
  rw [State.wrapEnd, hcard]

variable (hrun : x.phase = .running)
include hrun

theorem wrapChoose_runs (h : s.canRun x tck left = true) : s.wrapChoose p k n tck left = s.setPart p { s.part p with
    wrapRun := (s.part p).wrapRun ++ [(k, n, (s.part p).wrapDl.toNat - tck)] } := by
  simp only [State.wrapChoose, hcard, hrun, ne_eq, not_true, if_false, h, if_true]

theorem wrapChoose_saves (h : s.canRun x tck left = false) (hsave : x.save ≠ 0) (htck : tck ≤ left) :
    s.wrapChoose p k n tck left = s.askStop k n 3 := by
  simp only [State.wrapChoose, hcard, hrun, ne_eq, not_true, if_false, h, Bool.false_eq_true]
  exact if_pos ⟨hsave, htck⟩

theorem wrapChoose_ends (h : s.canRun x tck left = false) (hsave : x.save = 0 ∨ left < tck) :
    s.wrapChoose p k n tck left = s.wrapEnd k n := by
  simp only [State.wrapChoose, hcard, hrun, ne_eq, not_true, if_false, h, Bool.false_eq_true]
  exact if_neg (by omega)

end

/-! ## Writes of WRAPCTL -/

/-- The partition does not have a VF, or is not formed (R447). -/
def Part.lacksVf (q : Part) (vf : Nat) : Bool :=
  match q.desc with
  | some d => decide (vf < d.vfbase ∨ d.vfbase + d.vfn ≤ vf)
  | none => true

theorem lacksVf_of_desc {q : Part} {d : PartDesc} (h : q.desc = some d) (vf : Nat) :
    q.lacksVf vf = decide (vf < d.vfbase ∨ d.vfbase + d.vfn ≤ vf) := by rw [Part.lacksVf, h]

/-- A post that is refused with a code (R447). -/
def State.wrapRefused (s : State) (p : PartId) (code : Nat) : State :=
  let s1 := s.setPart p { s.part p with wrapStatus := code }
  if (s.part p).wrapStatus = code then s1 else s1.announce none (32 + p.val)

theorem wrapRefused_kept (s : State) (p : PartId) (code : Nat) :
    (s.setPart p { s.part p with wrapStatus := code }).RunsKept (s.wrapRefused p code) ∧ (s.wrapRefused p code).mem = s.mem := by
  unfold State.wrapRefused
  dsimp only
  split
  · exact ⟨.refl _, rfl⟩
  · exact ⟨announce_kept .., announce_mem ..⟩

section
variable {s : State} {p : PartId} {v : W64}

theorem exec_wrapPost_early (hs : s.stage ≠ .ready) : exec (.wrapPost p v) s = .next s.dropEarly := by
  rw [exec_wrapPost, execWrapPost, if_pos hs]

variable (hs : s.stage = .ready)
include hs

theorem exec_wrapPost_held (hv : v.toNat / 2 ^ 63 = 0) : exec (.wrapPost p v) s = .next (s.setPart p { s.part p with
    wrapVft := decide (v.toNat / 2 ^ 25 % 2 = 1), wrapVf := v.toNat / 2 ^ 16 % 2 ^ 9 }) := by
  have hgo : v.getLsbD 63 = false := by rw [getLsbD_eq_div, hv]; rfl
  rw [exec_wrapPost, execWrapPost, if_neg (not_not.2 hs), if_pos (by rw [hgo]; rfl), getLsbD_eq_div, bitsAt_eq]

/-- What a write of WRAPCTL with GO does (R447): the refusals in their order, else the post. -/
theorem exec_wrapPost_go (hv : v.toNat / 2 ^ 63 = 1) : exec (.wrapPost p v) s = .next (
    if (s.part p).wrapDl.toNat < s.time + s.vmin p then s.wrapRefused p 3
    else if (s.part p).wrapPhase = .vacating then s.wrapRefused p 4
    else if decide (v.toNat / 2 ^ 25 % 2 = 1) && (s.part p).lacksVf (v.toNat / 2 ^ 16 % 2 ^ 9) then s.wrapRefused p 5
    else s.wrapPost p (decide (v.toNat / 2 ^ 25 % 2 = 1)) (v.toNat / 2 ^ 16 % 2 ^ 9)) := by
  have hgo : v.getLsbD 63 = true := by rw [getLsbD_eq_div, hv]; rfl
  rw [exec_wrapPost, execWrapPost, if_neg (not_not.2 hs), if_neg (by rw [hgo]; decide), getLsbD_eq_div, bitsAt_eq]
  split
  · rfl
  · split
    · rfl
    · exact (apply_ite Host.Outcome.next ..).symm

omit hs in
/-- A refused post sets STATUS and changes nothing else of a wrap. -/
theorem exec_wrapPost_refused {code : Nat} (h : exec (.wrapPost p v) s = .next (s.wrapRefused p code)) :
    ∃ t, exec (.wrapPost p v) s = .next t ∧ (t.part p).wrapStatus = code ∧ (t.part p).wrapPhase = (s.part p).wrapPhase ∧
      t.cores = s.cores ∧ t.mem = s.mem := by
  obtain ⟨hkept, hmem⟩ := wrapRefused_kept s p code
  have hpart := (hkept.part p).trans (part_setPart ..)
  exact ⟨_, h, by rw [hpart], by rw [hpart], hkept.cores, hmem⟩

end

/-! ## Cut-offs and deadlines -/

section
variable {s : State} {p : PartId} (hphase : (s.part p).wrapPhase = .vacating)
include hphase

/-- A node that was chosen to run is asked to stop at its cut-off. -/
theorem exec_wrapCutoff_due {k : CluId} {n : SlotId} {t0 : Nat} {x : Card} {clu : CluId} (hruns : (s.part p).wrapRun = [(k, n, t0)])
    (ht : t0 ≤ s.time) (hcard : s.card k n = some x) (hrun : x.phase = .running) (htarget : s.wrapTarget p x.ctx = true)
    (hclu : clu ∈ x.clusters) :
    exec (.wrapCutoff p clu) s = .next ((s.setPart p { s.part p with wrapRun := [] }).askStop k n 3) := by
  have hcontains : x.clusters.contains clu = true := List.contains_iff_mem.2 hclu
  have hcard1 : (s.setPart p { s.part p with wrapRun := [] }).card k n = some x := hcard
  have hsame : s.SameTarget (s.setPart p { s.part p with wrapRun := [] }) p := setPart_sameTarget rfl rfl rfl
  have htarget1 := (hsame.wrapTarget x.ctx).trans htarget
  dsimp only at hcard1 htarget1
  rw [exec_wrapCutoff, execWrapCutoff, if_neg (not_not.2 hphase)]
  simp only [hruns, List.filter_cons, List.filter_nil, ht, hcard, hcontains, decide_true, Bool.and_self, Bool.not_true, Bool.false_eq_true,
    if_true, if_false, List.foldl_cons, List.foldl_nil, hcard1, htarget1, hrun, and_self]

theorem exec_wrapStopDeadline_due {c : CoreId} {j : Job} (hjob : s.job c = some j) (htarget : s.wrapTarget p j.ctx = true)
    (hstopped : j.stopped = false) (hat : j.atStop = false) (hdl : (s.part p).wrapDl.toNat ≤ s.time + s.drainTime p (coreClu c)) :
    exec (.wrapStopDeadline p c) s = .next (s.wrapEnd j.cluster j.slot) := by
  simp only [exec_wrapStopDeadline, execWrapStopDeadline, hjob, hphase, htarget, hstopped, hat]
  exact if_neg (by simp [Nat.not_lt.2 hdl])

/-! ## A wrap that is vacated -/

/-- The test of a wrap's end: no core holds a job of its target. -/
theorem wrapCheck_held {c : CoreId} {j : Job} (hjob : s.job c = some j) (htarget : s.wrapTarget p j.ctx = true) :
    s.wrapCheck p = s := by
  obtain ⟨⟨hvf, hpart⟩, htv⟩ : (j.ctx.val < 384 ∧ s.ctxPart j.ctx = some p) ∧
      ((s.part p).wrapTVft = false ∨ j.ctx.val = (s.part p).wrapTVf) := by simpa [State.wrapTarget] using htarget
  rw [State.wrapCheck]
  refine if_neg fun h => ?_
  rw [hphase] at h
  have hnone := h.2
  rw [Bool.not_eq_true', List.any_eq_false] at hnone
  refine hnone c (List.mem_finRange c) ?_
  rw [hjob]
  cases hvft : (s.part p).wrapTVft with
  | false => simp [hvf, hpart]
  | true => simpa [hvft] using htv

theorem wrapCheck_vacated (h : ∀ c j, s.job c = some j →
      if (s.part p).wrapTVft = true then j.ctx.val ≠ (s.part p).wrapTVf else s.wrapTarget p j.ctx = false) :
    s.wrapCheck p = (s.setPart p { s.part p with wrapPhase := .vacated, wrapStatus := 2, wrapRun := [] }).announce none (32 + p.val) := by
  rw [State.wrapCheck]
  refine if_pos ⟨hphase, ?_⟩
  rw [Bool.not_eq_true', List.any_eq_false]
  intro c _
  cases hj : s.job c with
  | none => exact Bool.false_ne_true
  | some j =>
    have hno := h c j hj
    cases hvft : (s.part p).wrapTVft with
    | false =>
      rw [hvft] at hno
      simpa [State.wrapTarget, hvft] using hno
    | true =>
      rw [hvft] at hno
      simpa using hno

end

end Sys2Proof.Machine
end

section
open Sys2Proof Sys2Proof.Machine

/-- Settles O48: a write of WRAPCTL by its refusals, a post by the choice for its node, a wrap's end by the jobs that are left. -/
theorem wraps : Obligations.Wraps := by
  refine ⟨fun s p v hs => exec_wrapPost_early hs, fun s p v hs => ⟨exec_wrapPost_held hs, fun hv hdl => ?late, fun hv hdl hbusy => ?busy,
      fun d hv hdl hfree hvft hd hvf => ?noVf, fun hv hdl hfree hvft => ?postAll, fun d hv hdl hfree hvft hd hlo hhi => ?postVf,
      fun k n t0 x hphase hruns ht hcard hrun htarget clu hclu => exec_wrapCutoff_due hphase hruns ht hcard hrun htarget hclu,
      fun c j hjob hphase htarget hstopped hat hdl => exec_wrapStopDeadline_due hphase hjob htarget hstopped hat hdl,
      fun k n x hcard => wrapEnd_of_card hcard⟩,
    fun s p vft vf => ⟨fun hnone => ?idle, fun k n x hone hcard hrun => ?node⟩,
    fun s p hphase => ⟨fun ⟨c, j, hjob, htarget⟩ => wrapCheck_held hphase hjob htarget, fun h => ?vacated⟩⟩
  case late => exact exec_wrapPost_refused ((exec_wrapPost_go hs hv).trans (by rw [if_pos hdl]))
  case busy => exact exec_wrapPost_refused ((exec_wrapPost_go hs hv).trans (by rw [if_neg (Nat.not_lt.2 hdl), if_pos hbusy]))
  case noVf =>
    refine exec_wrapPost_refused ((exec_wrapPost_go hs hv).trans ?_)
    rw [if_neg (Nat.not_lt.2 hdl), if_neg hfree, if_pos]
    rw [hvft, lacksVf_of_desc hd, decide_eq_true hvf]
    rfl
  case postAll =>
    rw [exec_wrapPost_go hs hv, if_neg (Nat.not_lt.2 hdl), if_neg hfree, hvft, decide_eq_false Nat.zero_ne_one, Bool.false_and,
      if_neg Bool.false_ne_true]
  case postVf =>
    rw [exec_wrapPost_go hs hv, if_neg (Nat.not_lt.2 hdl), if_neg hfree, hvft, lacksVf_of_desc hd, decide_eq_true rfl,
      decide_eq_false (by omega), Bool.and_false, if_neg Bool.false_ne_true]
  case vacated =>
    rw [wrapCheck_vacated hphase h]
    have hkept := announce_kept
      (s.setPart p { s.part p with wrapPhase := .vacated, wrapStatus := 2, wrapRun := [] }) none (32 + p.val)
    have hpart := (hkept.part p).trans (part_setPart ..)
    exact ⟨by rw [hpart], by rw [hpart], hkept.cores⟩
  case idle =>
    exact ⟨_, wrapBegun_posted s p vft vf [], wrapPost_idle s p vft vf hnone⟩
  case node =>
    have hposted := wrapBegun_posted s p vft vf x.cores
    have hpost := wrapPost_node s p vft vf hone
    have hcard1 : (x.cores.foldl State.warn (s.wrapBegun p vft vf)).card k n = some x := by
      rw [warned_card]
      exact hcard
    have hcan := canRun_warned s p vft vf x.cores x
      ((s.aimed p vft vf).nodeTck p x) ((s.part p).wrapDl.toNat - s.time)
    refine ⟨_, hposted, fun hruns => ?_, fun hnot hsave htck => ?_, fun hnot hlost => ?_⟩
    · rw [hpost, wrapChoose_runs hcard1 hrun (hcan.trans (decide_eq_true hruns)), warned_part]
      rfl
    · rw [hpost, wrapChoose_saves hcard1 hrun (hcan.trans (decide_eq_false hnot)) hsave htck]
    · rw [hpost, wrapChoose_ends hcard1 hrun (hcan.trans (decide_eq_false hnot)) hlost]
end
